-- ==== Sys2Proof/Word.lean ====
section
/-!
DEFINITION. The word types of the machine: 64-bit registers and pointers (02 R25), bytes of memory, and vector
registers of 32 lanes of 32 bits.
-/

namespace Sys2Proof

/-- A 64-bit register, pointer or queue entry (02 R25). -/
abbrev Word := BitVec 64

/-- One byte of memory. -/
abbrev Byte := BitVec 8

/-- A vector register: 32 lanes of 32 bits, lane 0 in bits [31:0] (02 R25). -/
abbrev Vec := BitVec 1024

end Sys2Proof
end

