-- ==== Sys2Proof/Config.lean ====
section
/-!
DEFINITION. What a module fixes and the spec does not give a value for. Constants without a body are free values:
nothing can be proved of what they are (log 8). Constants with a body are choices of the model, named in the log.
-/

namespace Sys2Proof.Config

/-- The chip mark interval is 2^CMLOG cycles; firmware fixes CMLOG from 11 to 16 at boot (13 R226).
DESIGN CHOICE (log 3): 12. -/
def cmlog : Nat := 12

/-- The boot ROM version (24 R367, 'fixed'): a free value. -/
opaque romVersion : BitVec 16

/-- The fused digest of the firmware signing key (24 R365 step 3): a free value. -/
opaque keyDigest : BitVec 256

/-- The fused minimum security version (24 R365 step 3): a free value. -/
opaque minVersion : BitVec 16

/-- The two halves of the AES-256-XTS key with a number, which the crypto engines generate (22 R359): a free value. -/
opaque xtsKey : Nat → BitVec 512

/-- The AES-256-GCM key with a number, which the crypto engines generate (22 R359): a free value. -/
opaque gcmKey : Nat → BitVec 256

/-- The number of the AES-256-GCM key that the members of a device group agree on, by group and by how often keys were
agreed (22 R359, 24 R380): a free value. -/
opaque groupKey : Nat → Nat → Nat

/-- What the device answers to the SPDM request GET_VERSION (24 R367): a free value. -/
opaque spdmVersion : BitVec 64

/-- The SHA-256 of a partition's configuration (22 R360): octets, pages, token slots and mode limits. The spec gives the
configuration no byte form: uninterpreted. -/
opaque configDigest : List Nat → List (BitVec 64 × BitVec 64) → List Nat → BitVec 8 → BitVec 256

/-- What a report that an interface or SPDM request returns is signed with (22 R360): uninterpreted. -/
opaque attestation : Nat → BitVec 3072

/-- The heater setting that keeps a ring on its wavelength, from its tap's reading (24 R374): uninterpreted. -/
opaque heaterSetting : Nat → Nat → Nat

/-- The heater setpoint of fibre 0's wavelength 0 that production test fused (24 R366): a free value. -/
opaque bootHeater : Nat

/-- Where the A-stream or the X-stream (`x`) of a kernel image begins, as a halfword address: the spec gives the launch
record no field for it (log 7): a free value, a function of the image. -/
opaque startPc : List Byte → Bool → BitVec 32

end Sys2Proof.Config
end

