-- ==== Sys2Proof/Syntax.lean ====
section
/-!
DEFINITION. The instruction words and events of the opcode table (spec/opcode_table.json): one constructor per row.
An instruction word carries the fields of its encoding (04 R73-R88), the stop flag `s` first where the word has one;
register fields stay numbers because their meaning depends on the half that issues the word (R75). An event carries
what comes from outside the device with it; the unit it concerns (a stream, a domain, a partition, a link, a transfer)
is named by `State.cur`, as the issuing stream of a word is.
-/

namespace Sys2Proof

/-- The streams of a core (02 R19): the A-stream, the X-stream and the sweep stream. -/
inductive Half where
  /-- the A-stream -/
  | a
  /-- the X-stream -/
  | x
  /-- the sweep stream, which issues on the X-half -/
  | w
  deriving DecidableEq, Repr

/-- Who may issue a word (04 R81, R84, R91), with the words that R32 and R174 forbid to a sweep routine kept apart. -/
inductive Cls where
  /-- X-stream and sweep stream -/
  | x
  /-- X-stream only -/
  | xOnly
  /-- A-stream -/
  | a
  /-- any stream -/
  | e
  /-- any stream but the sweep stream -/
  | eOnly
  /-- a bound sweep routine -/
  | f
  deriving DecidableEq, Repr

/-- Why an encoding is no instruction (04 R71, R92). -/
inductive EncFault where
  /-- unassigned op5, op6 or function code, or a parking word without its stop flag: illegal-instruction -/
  | illegal
  /-- a nonzero unused field or a reserved code: reserved-field, unless the class or a register use of the word is
  illegal first (R93) -/
  | reserved (cls : Cls) (srcs dsts : List (BitVec 5))
  /-- a `loop` with a nonzero unused field: reserved-field, unless its counter is one that is illegal first (R93) -/
  | reservedLoop (d : BitVec 5)
  /-- a word partly or wholly outside the kernel image: illegal-instruction -/
  | outside
  deriving DecidableEq, Repr

/-- A Stratus flit group without its KIND, which the event names (18 R311): header fields and the eight flits. -/
structure FlitGroup where
  seq : BitVec 32
  part : BitVec 3
  beat : BitVec 32
  src : BitVec 16
  nid : BitVec 8
  ep : BitVec 8
  data : BitVec 2048
  deriving DecidableEq, Repr

/-- Why a receiver rejects a flit group (18 R311, R312). -/
inductive FlitReject where
  | fec | crc | gcm | seqAbove | kind | zeroField
  deriving DecidableEq, Repr

/-- An overflow or host page item: the two words of 14 R254 and the entry it replaces (R258). -/
structure PageItem where
  w0 : BitVec 64
  w1 : BitVec 64
  entry : BitVec 10
  deriving DecidableEq, Repr

/-- A firmware image as it reaches the boot ROM (24 R365, R366): its bytes, its public key and
signature, versions, and what its firmware finds and fixes at boot: failing cores (R369), the wiring of the Stratus links, by link,
device and die, the fabric's routes, by stratum die, destination device and link (18 R310), and the code that it delivers
to the cores of layer 0 (25 R383). -/
structure BootImage where
  bytes : List (BitVec 8)
  /-- the public key: its modulus and its exponent -/
  modulus : BitVec 3072
  exponent : BitVec 32
  signature : BitVec 3072
  svn : BitVec 16
  rlvl : BitVec 16
  /-- whether HBM, Cirrus and Stratus train when the firmware runs (step 5) -/
  trains : Bool
  /-- cores that fail their boot self-test, by layer, physical row and physical column -/
  badCores : List (Nat × Nat × Nat)
  wiring : List (Nat × Nat × Nat)
  routes : List (Nat × Nat × Nat)
  code : List (BitVec 8)
  deriving DecidableEq, Repr

/-- Where a launch record comes from (21 R333): a launch queue of the partition or a core's `launch`. -/
inductive LaunchSrc where
  | queue (qid : Nat)
  | child (core : Nat)
  deriving DecidableEq, Repr

/-- What the host's management interface assigns to a partition (22 R354): octets, its map of F-space pages (the two
words of 14 R254 each), token slots of its Caddy beats, the token slots of its message class, of launch and control and
of reports, its buffer slots at every router for each class (R355), its table of device groups (10
R209), and its limits of MODE (R360). -/
structure PartCfg where
  octets : List Nat
  pages : List (BitVec 64 × BitVec 64)
  tokens : List Nat
  msgToken : Nat
  ctlToken : Nat
  reportToken : Nat
  buffers : Nat
  groups : List (Nat × List Nat)
  /-- the mode bits that its records may set -/
  modes : BitVec 8
  deriving DecidableEq, Repr

/-- A phase of fabric recovery (24 R380) with what it needs. -/
inductive RecoveryPhase where
  | detection (dead : Nat)
  | containment
  | routes (links : List (Nat × Nat × Nat))
  /-- the spare, and the dead device's partitions with their configurations -/
  | spare (spareId : Nat) (parts : List (Nat × PartCfg))
  | keys
  /-- the job's checkpoint: bytes by partition and F-space address -/
  | state (blocks : List (Nat × Nat × List (BitVec 8)))
  | resume
  deriving DecidableEq, Repr

/-- A soft error (24 R370-R372): the place it strikes and whether a code can correct it. -/
inductive SoftError where
  /-- a window register of the X-stream, by stack register number: parity (R371) -/
  | window (core : Nat) (reg : Nat)
  /-- a window register of the sweep stream -/
  | sweepWindow (core : Nat) (reg : Nat)
  /-- an entry of queue `q` (0 to 4), counted from the head -/
  | queue (core : Nat) (q : Nat) (pos : Nat)
  /-- an aligned 64-bit word of an on-chip memory or HBM, by its memory key -/
  | word (key : Nat) (correctable : Bool)
  /-- a byte of an operand slot -/
  | slot (octet : Nat) (slot : Nat) (off : Nat)
  /-- the matrix array: the next block step of a command sees a checksum mismatch -/
  | array (octet : Nat)
  /-- a Cirrus packet fails its CRC on a wavelength of its home channel: every word of the next landing beat of a transfer
  becomes poison (R375) -/
  | packet (xfer : Nat) (channel : Nat) (wave : Nat)
  /-- a place without a check (R372): a bit of a vector register changes unseen -/
  | vector (core : Nat) (reg : Nat) (bit : Nat)
  /-- a place without a check: a bit of a memory byte changes, under a fresh code -/
  | unchecked (key : Nat) (bit : Nat)
  /-- a place without a check: a bit of the next landing beat of a transfer, held in Caddy staging -/
  | staging (xfer : Nat) (bit : Nat)
  /-- a place without a check: a bit of a value inside a stratum reduction, of the partial of a beat from a contributor -/
  | reduction (part : Nat) (nid : Nat) (src : Nat) (beat : Nat) (bit : Nat)
  /-- a place without a check: a bit of a word that crosses from a stratum die to the Cirrus layer, on its way to a key -/
  | crossing (key : Nat) (bit : Nat)
  deriving DecidableEq, Repr

/-- The instruction words and events of the opcode table. -/
inductive Instr where
  /-- `nop` (R110): Takes one issue cycle and has no effect apart from its stop flag. -/
  | nop (s : Bool)
  /-- `nop` (R82): Hint form of nop with a field 1-7: issues in one cycle, has no effect and marks a position for oqtrace. -/
  | nopHint (s : Bool) (n : BitVec 5) (m : BitVec 4)
  /-- `mod` (R99): Modifier word that finishes the next word's numeric result with ABS, NEG, scale, SAT and CLAMP. -/
  | mod (s : Bool) (b : BitVec 1) (n : BitVec 1) (k : BitVec 1) (t : BitVec 1) (c : BitVec 4)
  /-- `mov` (R96): H form of mov: copies a window register into the destination. -/
  | movH (s : Bool) (a : BitVec 5) (b : BitVec 4)
  /-- `add` (R96): H form of add: a = a + b, wrapped to 64 bits. -/
  | addH (s : Bool) (a : BitVec 5) (b : BitVec 4)
  /-- `sub` (R96): H form of sub: a = a - b, wrapped to 64 bits. -/
  | subH (s : Bool) (a : BitVec 5) (b : BitVec 4)
  /-- `and` (R96): H form of and: bitwise AND into a. -/
  | andH (s : Bool) (a : BitVec 5) (b : BitVec 4)
  /-- `or` (R96): H form of or: bitwise OR into a. -/
  | orH (s : Bool) (a : BitVec 5) (b : BitVec 4)
  /-- `xor` (R96): H form of xor: bitwise XOR into a. -/
  | xorH (s : Bool) (a : BitVec 5) (b : BitVec 4)
  /-- `addi` (R96): H form of addi: adds a signed 4-bit immediate to a. -/
  | addiH (s : Bool) (a : BitVec 5) (i : BitVec 4)
  /-- `shli` (R96): H form of shli: shifts a left by a count of 0-15. -/
  | shliH (s : Bool) (a : BitVec 5) (n : BitVec 4)
  /-- `shri` (R96): H form of shri: shifts a right logically by a count of 0-15. -/
  | shriH (s : Bool) (a : BitVec 5) (n : BitVec 4)
  /-- `srai` (R96): H form of srai: shifts a right arithmetically by a count of 0-15. -/
  | sraiH (s : Bool) (a : BitVec 5) (n : BitVec 4)
  /-- `li` (R96): H form of li: loads a sign-extended 4-bit immediate. -/
  | liH (s : Bool) (d : BitVec 5) (i : BitVec 4)
  /-- `skipz` (R108): If the condition register is zero, the next n words are skipped, each taking one cycle without effect. -/
  | skipz (s : Bool) (a : BitVec 5) (n : BitVec 4)
  /-- `skipnz` (R108): If the condition register is nonzero, the next n words are skipped, each taking one cycle without effect. -/
  | skipnz (s : Bool) (a : BitVec 5) (n : BitVec 4)
  /-- `setix` (R111): H form of setix: sets ix from a register after a bounds check against WLIMIT. -/
  | setixH (s : Bool) (a : BitVec 5)
  /-- `addix` (R111): H form of addix: adds a signed 4-bit k to ix after a bounds check. -/
  | addixH (s : Bool) (i : BitVec 4)
  /-- `ret` (R105): Returns through lk, sliding the register window back and filling lines if needed. -/
  | ret (s : Bool)
  /-- `amov` (R114): H form of amov: copies an A-half register. -/
  | amovH (s : Bool) (a : BitVec 5) (b : BitVec 4)
  /-- `aaddi` (R114): H form of aaddi: adds a signed 4-bit immediate to an address register. -/
  | aaddiH (s : Bool) (a : BitVec 5) (i : BitVec 4)
  /-- `rpt` (R180): Records a restart point in RSTPC and RSTCY. -/
  | rpt (s : Bool)
  /-- `resync` (R181): Parks the stream and reissues it at the restart point at the matching period offset after the next mark. -/
  | resync (s : Bool)
  /-- `rejoin` (R177): Parks the stream until a mark whose sample of a watched 64-bit word finds it nonzero. -/
  | rejoin (a : BitVec 5)
  /-- `rtt` (R190): Returns from a trap, restoring mode and stop count and issuing the word at TPC. -/
  | rtt (s : Bool)
  /-- `brk` (R192): With TCTL.DBG set, stops the domain at its next mark and reports n to the host. -/
  | brk (s : Bool) (n : BitVec 4)
  /-- `wsave` (R193): Writes the resident window lines back to the stack image, releasing spilled lines in a spill handler. -/
  | wsave (s : Bool)
  /-- `wrest` (R193): Privileged: fills window lines from the stack image or rereads every resident line. -/
  | wrest (s : Bool)
  /-- `launch` (R194): Starts a child launch from a 256-byte launch record, zeroing its status word and handing the record to the interface. -/
  | launch (s : Bool) (n : BitVec 3)
  /-- `add` (R96): x + y wrapped to 64 bits. -/
  | addW (s : Bool) (d : BitVec 5) (a : BitVec 5) (b : BitVec 5)
  /-- `sub` (R96): x - y wrapped to 64 bits. -/
  | subW (s : Bool) (d : BitVec 5) (a : BitVec 5) (b : BitVec 5)
  /-- `mul` (R96): Low 64 bits of the product. -/
  | mul (s : Bool) (d : BitVec 5) (a : BitVec 5) (b : BitVec 5)
  /-- `mulh` (R96): High 64 bits of the signed 128-bit product. -/
  | mulh (s : Bool) (d : BitVec 5) (a : BitVec 5) (b : BitVec 5)
  /-- `mulhn` (R96): High 64 bits of the unsigned 128-bit product. -/
  | mulhn (s : Bool) (d : BitVec 5) (a : BitVec 5) (b : BitVec 5)
  /-- `div` (R96): Signed division truncated toward zero, with defined results for zero divisor and overflow. -/
  | div (s : Bool) (d : BitVec 5) (a : BitVec 5) (b : BitVec 5)
  /-- `divn` (R96): Unsigned division; division by zero gives 0. -/
  | divn (s : Bool) (d : BitVec 5) (a : BitVec 5) (b : BitVec 5)
  /-- `rem` (R96): Signed remainder with the dividend's sign. -/
  | rem (s : Bool) (d : BitVec 5) (a : BitVec 5) (b : BitVec 5)
  /-- `remn` (R96): Unsigned remainder. -/
  | remn (s : Bool) (d : BitVec 5) (a : BitVec 5) (b : BitVec 5)
  /-- `and` (R96): Bitwise AND. -/
  | andW (s : Bool) (d : BitVec 5) (a : BitVec 5) (b : BitVec 5)
  /-- `or` (R96): Bitwise OR. -/
  | orW (s : Bool) (d : BitVec 5) (a : BitVec 5) (b : BitVec 5)
  /-- `xor` (R96): Bitwise XOR. -/
  | xorW (s : Bool) (d : BitVec 5) (a : BitVec 5) (b : BitVec 5)
  /-- `andn` (R96): x AND NOT y. -/
  | andn (s : Bool) (d : BitVec 5) (a : BitVec 5) (b : BitVec 5)
  /-- `shl` (R96): Shift left by y[5:0]. -/
  | shl (s : Bool) (d : BitVec 5) (a : BitVec 5) (b : BitVec 5)
  /-- `shr` (R96): Logical shift right by y[5:0]. -/
  | shr (s : Bool) (d : BitVec 5) (a : BitVec 5) (b : BitVec 5)
  /-- `sra` (R96): Arithmetic shift right by y[5:0]. -/
  | sra (s : Bool) (d : BitVec 5) (a : BitVec 5) (b : BitVec 5)
  /-- `cmpeq` (R96): 1 if x equals y, else 0. -/
  | cmpeq (s : Bool) (d : BitVec 5) (a : BitVec 5) (b : BitVec 5)
  /-- `cmplt` (R96): 1 if x < y signed, else 0. -/
  | cmplt (s : Bool) (d : BitVec 5) (a : BitVec 5) (b : BitVec 5)
  /-- `cmpltn` (R96): 1 if x < y unsigned, else 0. -/
  | cmpltn (s : Bool) (d : BitVec 5) (a : BitVec 5) (b : BitVec 5)
  /-- `min` (R96): Signed minimum. -/
  | min (s : Bool) (d : BitVec 5) (a : BitVec 5) (b : BitVec 5)
  /-- `max` (R96): Signed maximum. -/
  | max (s : Bool) (d : BitVec 5) (a : BitVec 5) (b : BitVec 5)
  /-- `minn` (R96): Unsigned minimum. -/
  | minn (s : Bool) (d : BitVec 5) (a : BitVec 5) (b : BitVec 5)
  /-- `maxn` (R96): Unsigned maximum. -/
  | maxn (s : Bool) (d : BitVec 5) (a : BitVec 5) (b : BitVec 5)
  /-- `abs` (R96): Absolute value, wrapped. -/
  | abs (s : Bool) (d : BitVec 5) (a : BitVec 5)
  /-- `neg` (R96): Negation, wrapped. -/
  | neg (s : Bool) (d : BitVec 5) (a : BitVec 5)
  /-- `clz` (R96): Count of leading zero bits. -/
  | clz (s : Bool) (d : BitVec 5) (a : BitVec 5)
  /-- `ctz` (R96): Count of trailing zero bits. -/
  | ctz (s : Bool) (d : BitVec 5) (a : BitVec 5)
  /-- `popc` (R96): Count of set bits. -/
  | popc (s : Bool) (d : BitVec 5) (a : BitVec 5)
  /-- `sext` (R96): Sign-extends the low 8, 16 or 32 bits. -/
  | sext (s : Bool) (d : BitVec 5) (a : BitVec 5) (w : BitVec 5)
  /-- `zext` (R96): Zero-extends the low 8, 16 or 32 bits. -/
  | zext (s : Bool) (d : BitVec 5) (a : BitVec 5) (w : BitVec 5)
  /-- `mov` (R96): W form of mov: copies any readable register. -/
  | movW (s : Bool) (d : BitVec 5) (a : BitVec 5)
  /-- `sel` (R109): d = a if c is nonzero, else b; all three sources are read and popped. -/
  | sel (s : Bool) (d : BitVec 5) (a : BitVec 5) (b : BitVec 5) (c : BitVec 5)
  /-- `addi` (R96): W form of addi with a signed 14-bit immediate. -/
  | addiW (s : Bool) (d : BitVec 5) (a : BitVec 5) (i : BitVec 14)
  /-- `cmpeqi` (R96): 1 if x equals the signed immediate. -/
  | cmpeqi (s : Bool) (d : BitVec 5) (a : BitVec 5) (i : BitVec 14)
  /-- `cmplti` (R96): 1 if x is less than the signed immediate. -/
  | cmplti (s : Bool) (d : BitVec 5) (a : BitVec 5) (i : BitVec 14)
  /-- `shli` (R96): W form of shli with a count of 0-63. -/
  | shliW (s : Bool) (d : BitVec 5) (a : BitVec 5) (n : BitVec 6)
  /-- `shri` (R96): W form of shri with a count of 0-63. -/
  | shriW (s : Bool) (d : BitVec 5) (a : BitVec 5) (n : BitVec 6)
  /-- `srai` (R96): W form of srai with a count of 0-63. -/
  | sraiW (s : Bool) (d : BitVec 5) (a : BitVec 5) (n : BitVec 6)
  /-- `li` (R96): W form of li with a signed 14-bit immediate. -/
  | liW (s : Bool) (d : BitVec 5) (i : BitVec 14)
  /-- `lui` (R96): d = (a << 14) OR the zero-extended 14-bit immediate. -/
  | lui (s : Bool) (d : BitVec 5) (a : BitVec 5) (i : BitVec 14)
  /-- `bfx` (R96): Extracts a zero-extended bit field. -/
  | bfx (s : Bool) (d : BitVec 5) (a : BitVec 5) (l : BitVec 6) (p : BitVec 6)
  /-- `bfi` (R97): Inserts the low bits of a into a field of d. -/
  | bfi (s : Bool) (d : BitVec 5) (a : BitVec 5) (l : BitVec 6) (p : BitVec 6)
  /-- `oxset` (R98): Writes a 64-bit register value into an OX register of the issuing half's bank. -/
  | oxset (s : Bool) (n : BitVec 3) (a : BitVec 5)
  /-- `oxli` (R98): Writes a sign-extended 14-bit immediate into an OX register. -/
  | oxli (s : Bool) (n : BitVec 3) (i : BitVec 14)
  /-- `movx` (R111): Reads window register w[ix + k] into d after a bounds check. -/
  | movx (s : Bool) (d : BitVec 5) (k : BitVec 7)
  /-- `movxw` (R111): Writes a into window register w[ix + k] after a bounds check. -/
  | movxw (s : Bool) (a : BitVec 5) (k : BitVec 7)
  /-- `setix` (R111): Sets ix = a + k after a bounds check. -/
  | setixW (s : Bool) (a : BitVec 5) (k : BitVec 7)
  /-- `addix` (R111): Adds a signed 7-bit k to ix after a bounds check. -/
  | addixW (s : Bool) (k : BitVec 7)
  /-- `mfs` (R183): Reads a control register into d at c+1, subject to the access codes. -/
  | mfs (s : Bool) (d : BitVec 5) (n : BitVec 14)
  /-- `mts` (R183): Writes a control register that has no row of its own, effective for words issued at c+1, subject to privilege. -/
  | mts (s : Bool) (a : BitVec 5) (n : BitVec 14)
  /-- `trap` (R191): trap 0 ends the stream; trap n raises a software trap with CODE 0x20. -/
  | trap (s : Bool) (n : BitVec 14)
  /-- `br` (R102): Unconditional branch by a signed 24-bit halfword offset. -/
  | br (s : Bool) (i : BitVec 24)
  /-- `call` (R105): Calls a label, sliding the window by 4 and writing lk. -/
  | call4 (s : Bool) (i : BitVec 24)
  /-- `call` (R105): Calls a label, sliding the window by 8 and writing lk. -/
  | call8 (s : Bool) (i : BitVec 24)
  /-- `call` (R105): Calls a label, sliding the window by 12 and writing lk. -/
  | call12 (s : Bool) (i : BitVec 24)
  /-- `brz` (R102): Branches if the condition register is zero. -/
  | brz (s : Bool) (a : BitVec 5) (i : BitVec 14)
  /-- `brnz` (R102): Branches if the condition register is nonzero. -/
  | brnz (s : Bool) (a : BitVec 5) (i : BitVec 14)
  /-- `loop` (R102): Decrements d and branches while the new value is positive. -/
  | loop (s : Bool) (d : BitVec 5) (i : BitVec 14)
  /-- `jr` (R102): Jumps to the address in a[31:0]. -/
  | jr (s : Bool) (a : BitVec 5)
  /-- `callr` (R105): Calls the address in a register, sliding the window by 4. -/
  | callr4 (s : Bool) (a : BitVec 5)
  /-- `callr` (R105): Calls the address in a register, sliding the window by 8. -/
  | callr8 (s : Bool) (a : BitVec 5)
  /-- `callr` (R105): Calls the address in a register, sliding the window by 12. -/
  | callr12 (s : Bool) (a : BitVec 5)
  /-- `hold` (R175): Idles the stream for a + imm cycles. -/
  | hold (s : Bool) (a : BitVec 5) (i : BitVec 14)
  /-- `aadd` (R114): d = a + b for address registers and counters. -/
  | aadd (s : Bool) (d : BitVec 5) (a : BitVec 5) (b : BitVec 5)
  /-- `aaddi` (R114): W form of aaddi with a signed 14-bit immediate. -/
  | aaddiW (s : Bool) (d : BitVec 5) (a : BitVec 5) (i : BitVec 14)
  /-- `amov` (R114): W form of amov. -/
  | amovW (s : Bool) (d : BitVec 5) (a : BitVec 5)
  /-- `kset` (R114): Sets a loop counter to the low 32 bits of a. -/
  | kset (s : Bool) (d : BitVec 5) (a : BitVec 5)
  /-- `kloop` (R115): Decrements a nonzero loop counter and branches while it stays above zero. -/
  | kloop (s : Bool) (d : BitVec 5) (i : BitVec 14)
  /-- `lds` (R120): Loads a typed scalar from S-space into a load-data queue. -/
  | lds (s : Bool) (q : BitVec 4) (a : BitVec 3) (t : BitVec 3) (d : BitVec 12)
  /-- `ldl` (R120): Loads a typed scalar from L-space into a load-data queue. -/
  | ldl (s : Bool) (q : BitVec 4) (a : BitVec 3) (t : BitVec 3) (d : BitVec 12)
  /-- `sts` (R120): Drains a store-data queue entry to S-space. -/
  | sts (s : Bool) (q : BitVec 4) (a : BitVec 3) (t : BitVec 3) (d : BitVec 12)
  /-- `stl` (R120): Drains a store-data queue entry to L-space. -/
  | stl (s : Bool) (q : BitVec 4) (a : BitVec 3) (t : BitVec 3) (d : BitVec 12)
  /-- `vlds` (R124): Loads 32 masked lanes from S-space into a vector register. -/
  | vlds (s : Bool) (q : BitVec 4) (a : BitVec 3) (m : BitVec 3) (d : BitVec 12)
  /-- `vldl` (R124): Loads 32 masked lanes from L-space into a vector register. -/
  | vldl (s : Bool) (q : BitVec 4) (a : BitVec 3) (m : BitVec 3) (d : BitVec 12)
  /-- `vsts` (R124): Stores the masked lanes of a vector register to S-space. -/
  | vsts (s : Bool) (q : BitVec 4) (a : BitVec 3) (m : BitVec 3) (d : BitVec 12)
  /-- `vstl` (R124): Stores the masked lanes of a vector register to L-space. -/
  | vstl (s : Bool) (q : BitVec 4) (a : BitVec 3) (m : BitVec 3) (d : BitVec 12)
  /-- `vgath` (R124): Gathers lanes from per-lane addresses into a vector register at latency 8. -/
  | vgath (s : Bool) (p : BitVec 2) (q : BitVec 4) (a : BitVec 3) (m : BitVec 3) (x : BitVec 4) (d : BitVec 8)
  /-- `vscat` (R124): Scatters lanes to per-lane addresses, landing at c+4. -/
  | vscat (s : Bool) (p : BitVec 2) (q : BitVec 4) (a : BitVec 3) (m : BitVec 3) (x : BitVec 4) (d : BitVec 8)
  /-- `ldt` (R123): Arrival-tagged load: proceeds as lds if the line's tag matches, otherwise slips with cause 5. -/
  | ldt (s : Bool) (q : BitVec 4) (a : BitVec 3) (y : BitVec 3) (t : BitVec 8)
  /-- `amadd` (R126): Atomic add, pushing the old value. -/
  | amadd (s : Bool) (p : BitVec 2) (q : BitVec 4) (a : BitVec 3) (g : BitVec 3) (z : BitVec 1) (o : BitVec 5)
  /-- `amswp` (R126): Atomic swap, pushing the old value. -/
  | amswp (s : Bool) (p : BitVec 2) (q : BitVec 4) (a : BitVec 3) (g : BitVec 3) (z : BitVec 1) (o : BitVec 5)
  /-- `amcas` (R126): Atomic compare-and-swap, pushing the old value. -/
  | amcas (s : Bool) (p : BitVec 2) (q : BitVec 4) (a : BitVec 3) (g : BitVec 3) (z : BitVec 1) (h : BitVec 3) (o : BitVec 5)
  /-- `amand` (R126): Atomic AND, pushing the old value. -/
  | amand (s : Bool) (p : BitVec 2) (q : BitVec 4) (a : BitVec 3) (g : BitVec 3) (z : BitVec 1) (o : BitVec 5)
  /-- `amor` (R126): Atomic OR, pushing the old value. -/
  | amor (s : Bool) (p : BitVec 2) (q : BitVec 4) (a : BitVec 3) (g : BitVec 3) (z : BitVec 1) (o : BitVec 5)
  /-- `ammin.i` (R126): Atomic signed minimum. -/
  | amminI (s : Bool) (p : BitVec 2) (q : BitVec 4) (a : BitVec 3) (g : BitVec 3) (z : BitVec 1) (o : BitVec 5)
  /-- `ammin.n` (R126): Atomic unsigned minimum. -/
  | amminN (s : Bool) (p : BitVec 2) (q : BitVec 4) (a : BitVec 3) (g : BitVec 3) (z : BitVec 1) (o : BitVec 5)
  /-- `ammax.i` (R126): Atomic signed maximum. -/
  | ammaxI (s : Bool) (p : BitVec 2) (q : BitVec 4) (a : BitVec 3) (g : BitVec 3) (z : BitVec 1) (o : BitVec 5)
  /-- `ammax.n` (R126): Atomic unsigned maximum. -/
  | ammaxN (s : Bool) (p : BitVec 2) (q : BitVec 4) (a : BitVec 3) (g : BitVec 3) (z : BitVec 1) (o : BitVec 5)
  /-- `ldacq` (R127): Acquire load of a 32- or 64-bit word into a queue. -/
  | ldacq (s : Bool) (p : BitVec 2) (q : BitVec 4) (a : BitVec 3) (z : BitVec 1) (o : BitVec 5)
  /-- `strel` (R127): Release store after an order check of its observer mask. -/
  | strel (s : Bool) (p : BitVec 2) (q : BitVec 4) (a : BitVec 3) (z : BitVec 1) (o : BitVec 5)
  /-- `fence` (R127): Makes the order check of its mask and nothing else. -/
  | fence (s : Bool) (o : BitVec 5)
  /-- `stacq` (R131): Takes a stage by setting HELD if clear, pushing the old stage word. -/
  | stacq (s : Bool) (q : BitVec 4) (a : BitVec 3) (o : BitVec 5)
  /-- `strls` (R132): Releases a stage by writing the entry with HELD clear after an order check. -/
  | strls (s : Bool) (q : BitVec 4) (a : BitVec 3) (o : BitVec 5)
  /-- `send` (R134): Copies 1-32 body words into the send buffer as a message to a named endpoint. -/
  | send (s : Bool) (x : BitVec 3) (a : BitVec 3) (n : BitVec 5)
  /-- `rcvp` (R135): Consumes the next message-ring entry, pushing its pointer or 0 if the ring is empty. -/
  | rcvp (s : Bool) (q : BitVec 4) (a : BitVec 3)
  /-- `vadd` (R139): Element-wise addition. -/
  | vadd (s : Bool) (d : BitVec 4) (a : BitVec 4) (b : BitVec 5) (m : BitVec 5) (t : BitVec 3)
  /-- `vsub` (R139): Element-wise subtraction. -/
  | vsub (s : Bool) (d : BitVec 4) (a : BitVec 4) (b : BitVec 5) (m : BitVec 5) (t : BitVec 3)
  /-- `vmul` (R139): Element-wise multiplication. -/
  | vmul (s : Bool) (d : BitVec 4) (a : BitVec 4) (b : BitVec 5) (m : BitVec 5) (t : BitVec 3)
  /-- `vmin` (R139): Element-wise minimum. -/
  | vmin (s : Bool) (d : BitVec 4) (a : BitVec 4) (b : BitVec 5) (m : BitVec 5) (t : BitVec 3)
  /-- `vmax` (R139): Element-wise maximum. -/
  | vmax (s : Bool) (d : BitVec 4) (a : BitVec 4) (b : BitVec 5) (m : BitVec 5) (t : BitVec 3)
  /-- `vabs` (R139): Element-wise absolute value. -/
  | vabs (s : Bool) (d : BitVec 4) (a : BitVec 4) (m : BitVec 5) (t : BitVec 3)
  /-- `vneg` (R139): Element-wise negation. -/
  | vneg (s : Bool) (d : BitVec 4) (a : BitVec 4) (m : BitVec 5) (t : BitVec 3)
  /-- `vsel` (R143): Writes every lane from va where the mask is set and from vb elsewhere. -/
  | vsel (s : Bool) (d : BitVec 4) (a : BitVec 4) (b : BitVec 5) (m : BitVec 5)
  /-- `vand` (R141): Element-wise AND. -/
  | vand (s : Bool) (d : BitVec 4) (a : BitVec 4) (b : BitVec 5) (m : BitVec 5) (t : BitVec 3)
  /-- `vor` (R141): Element-wise OR. -/
  | vor (s : Bool) (d : BitVec 4) (a : BitVec 4) (b : BitVec 5) (m : BitVec 5) (t : BitVec 3)
  /-- `vxor` (R141): Element-wise XOR. -/
  | vxor (s : Bool) (d : BitVec 4) (a : BitVec 4) (b : BitVec 5) (m : BitVec 5) (t : BitVec 3)
  /-- `vandn` (R141): Element-wise va AND NOT vb. -/
  | vandn (s : Bool) (d : BitVec 4) (a : BitVec 4) (b : BitVec 5) (m : BitVec 5) (t : BitVec 3)
  /-- `vshl` (R141): Element-wise shift left. -/
  | vshl (s : Bool) (d : BitVec 4) (a : BitVec 4) (b : BitVec 5) (m : BitVec 5) (t : BitVec 3)
  /-- `vshr` (R141): Element-wise logical shift right. -/
  | vshr (s : Bool) (d : BitVec 4) (a : BitVec 4) (b : BitVec 5) (m : BitVec 5) (t : BitVec 3)
  /-- `vsra` (R141): Element-wise arithmetic shift right. -/
  | vsra (s : Bool) (d : BitVec 4) (a : BitVec 4) (b : BitVec 5) (m : BitVec 5) (t : BitVec 3)
  /-- `vfma` (R140): Fused vd = va x vb + vd. -/
  | vfma (s : Bool) (d : BitVec 4) (a : BitVec 4) (b : BitVec 5) (m : BitVec 5) (t : BitVec 3)
  /-- `vfms` (R140): Fused vd = va x vb - vd. -/
  | vfms (s : Bool) (d : BitVec 4) (a : BitVec 4) (b : BitVec 5) (m : BitVec 5) (t : BitVec 3)
  /-- `vfnma` (R140): Fused vd = -(va x vb) + vd. -/
  | vfnma (s : Bool) (d : BitVec 4) (a : BitVec 4) (b : BitVec 5) (m : BitVec 5) (t : BitVec 3)
  /-- `vred.sum` (R146): Sums the active elements in a fixed pairwise tree into a scalar. -/
  | vredSum (s : Bool) (a : BitVec 4) (b : BitVec 5) (m : BitVec 5) (t : BitVec 3)
  /-- `vred.min` (R146): Minimum of the active elements in a fixed tree into a scalar. -/
  | vredMin (s : Bool) (a : BitVec 4) (b : BitVec 5) (m : BitVec 5) (t : BitVec 3)
  /-- `vred.max` (R146): Maximum of the active elements in a fixed tree into a scalar. -/
  | vredMax (s : Bool) (a : BitVec 4) (b : BitVec 5) (m : BitVec 5) (t : BitVec 3)
  /-- `vrng` (R153): Fills active lanes with generator output keyed by ox7. -/
  | vrng (s : Bool) (d : BitVec 4) (m : BitVec 5)
  /-- `vmsk` (R144): Builds a scalar bit mask of the active nonzero elements. -/
  | vmsk (s : Bool) (a : BitVec 4) (b : BitVec 5) (m : BitVec 5) (t : BitVec 3)
  /-- `vcmp.eq` (R142): Element-wise equality compare to all ones or zero. -/
  | vcmpEq (s : Bool) (d : BitVec 4) (a : BitVec 4) (b : BitVec 5) (m : BitVec 5) (t : BitVec 3)
  /-- `vcmp.ne` (R142): Element-wise inequality compare. -/
  | vcmpNe (s : Bool) (d : BitVec 4) (a : BitVec 4) (b : BitVec 5) (m : BitVec 5) (t : BitVec 3)
  /-- `vcmp.lt` (R142): Element-wise less-than compare. -/
  | vcmpLt (s : Bool) (d : BitVec 4) (a : BitVec 4) (b : BitVec 5) (m : BitVec 5) (t : BitVec 3)
  /-- `vcmp.le` (R142): Element-wise less-or-equal compare. -/
  | vcmpLe (s : Bool) (d : BitVec 4) (a : BitVec 4) (b : BitVec 5) (m : BitVec 5) (t : BitVec 3)
  /-- `vperm` (R145): Permutes elements of va by indices in vb. -/
  | vperm (s : Bool) (d : BitVec 4) (a : BitVec 4) (b : BitVec 5) (m : BitVec 5) (t : BitVec 3)
  /-- `vbcast` (R145): Broadcasts one element of va to every active element. -/
  | vbcast (s : Bool) (d : BitVec 4) (a : BitVec 4) (b : BitVec 5) (m : BitVec 5) (t : BitVec 3)
  /-- `vslide` (R145): Slides elements by a signed scalar count, filling with zero. -/
  | vslide (s : Bool) (d : BitVec 4) (a : BitVec 4) (b : BitVec 5) (m : BitVec 5) (t : BitVec 3)
  /-- `vext` (R145): Extracts one element of va into a scalar register. -/
  | vext (s : Bool) (a : BitVec 4) (b : BitVec 5) (x : BitVec 5) (t : BitVec 3)
  /-- `vins` (R145): Inserts the low bits of a scalar into one element of vd. -/
  | vins (s : Bool) (d : BitVec 4) (b : BitVec 5) (x : BitVec 5) (t : BitVec 3)
  /-- `vsplat` (R145): Writes the low bits of a scalar into every active element. -/
  | vsplat (s : Bool) (d : BitVec 4) (b : BitVec 5) (m : BitVec 5) (t : BitVec 3)
  /-- `vrcp` (R60): Element-wise reciprocal rounded to nearest even. -/
  | vrcp (s : Bool) (d : BitVec 4) (a : BitVec 4) (m : BitVec 5) (t : BitVec 3)
  /-- `vrsq` (R60): Element-wise reciprocal square root. -/
  | vrsq (s : Bool) (d : BitVec 4) (a : BitVec 4) (m : BitVec 5) (t : BitVec 3)
  /-- `vexp2` (R61): Element-wise 2^x by the defined procedure. -/
  | vexp2 (s : Bool) (d : BitVec 4) (a : BitVec 4) (m : BitVec 5) (t : BitVec 3)
  /-- `vlog2` (R62): Element-wise log2 x by the defined procedure. -/
  | vlog2 (s : Bool) (d : BitVec 4) (a : BitVec 4) (m : BitVec 5) (t : BitVec 3)
  /-- `vcvt` (R148): Converts elements between formats, optionally with stochastic rounding. -/
  | vcvt (s : Bool) (d : BitVec 4) (a : BitVec 4) (y : BitVec 4) (r : BitVec 1) (m : BitVec 5) (x : BitVec 4)
  /-- `vscl` (R150): Converts FP32 or BF16 into scaled E4M3 or BPN blocks of 16 with round-up scales. -/
  | vscl (s : Bool) (d : BitVec 4) (a : BitVec 4) (y : BitVec 4) (r : BitVec 1) (m : BitVec 5) (x : BitVec 4)
  /-- `vbpk` (R151): Packs 128 .i8 elements into bit planes. -/
  | vbpk (s : Bool) (d : BitVec 4) (a : BitVec 4) (m : BitVec 5)
  /-- `vbupk` (R151): Unpacks bit planes into 128 .i8 elements. -/
  | vbupk (s : Bool) (d : BitVec 4) (a : BitVec 4) (m : BitVec 5)
  /-- `vdot16` (R152): Adds b16 block sums of 16-term dot products into the lanes of vd. -/
  | vdot16 (s : Bool) (d : BitVec 4) (a : BitVec 4) (b : BitVec 5) (m : BitVec 5) (f : BitVec 4)
  /-- `mcfg` (R171): Sets an accumulator slot's output format, block length and rounding; faults on a live slot. -/
  | mcfg (s : Bool) (c : BitVec 3) (x : BitVec 3)
  /-- `mcfg.drop` (R171): Zeroes an accumulator slot, clears LIVE and POISON and sets its configuration. -/
  | mcfgDrop (s : Bool) (c : BitVec 3) (x : BitVec 3)
  /-- `mclaim` (R159): Claims a free operand slot for the issuing core. -/
  | mclaim (s : Bool) (p : BitVec 6) (x : BitVec 3)
  /-- `mfree` (R159): Frees an operand slot the core claims and empties its tag. -/
  | mfree (s : Bool) (p : BitVec 6) (x : BitVec 3)
  /-- `mfill` (R160): Copies a tile from the scratchpad into a claimed operand slot, setting its tag at c+1. -/
  | mfill (s : Bool) (p : BitVec 6) (x : BitVec 3)
  /-- `mma` (R162): Multiplies an A and B tile and accumulates into an accumulator slot under a summation shape. -/
  | mma (s : Bool) (c : BitVec 3) (p : BitVec 6) (b : BitVec 6) (h : BitVec 2) (x : BitVec 3)
  /-- `mmaz` (R162): Multiplies an A and B tile into an accumulator slot starting from +0. -/
  | mmaz (s : Bool) (c : BitVec 3) (p : BitVec 6) (b : BitVec 6) (h : BitVec 2) (x : BitVec 3)
  /-- `mrd` (R168): Reads 32 accumulator values of one row quarter into a vector register. -/
  | mrd (s : Bool) (c : BitVec 3) (x : BitVec 3)
  /-- `mwb` (R169): Snapshots an accumulator slot and writes it back converted to L-space. -/
  | mwb (s : Bool) (c : BitVec 3) (x : BitVec 3)
  /-- `mzero` (R170): Zeroes an accumulator slot and clears LIVE and POISON. -/
  | mzero (s : Bool) (c : BitVec 3) (x : BitVec 3)
  /-- `mchk` (R170): Raises a precise matrix data-error trap if the slot's POISON is set. -/
  | mchk (s : Bool) (c : BitVec 3) (x : BitVec 3)
  /-- `mtr` (R161): Writes the transpose of one operand slot into another. -/
  | mtr (s : Bool) (p : BitVec 6) (b : BitVec 6) (x : BitVec 3)
  /-- `ccopy` (R200): Starts a Caddy transfer of LEN bytes, optionally decoding the source format. -/
  | ccopy (s : Bool) (o : BitVec 3) (i : BitVec 1) (l : BitVec 11)
  /-- `cdist` (R201): Deals blocks of a span to the scratchpads of several cores. -/
  | cdist (s : Bool) (o : BitVec 3) (i : BitVec 1) (l : BitVec 11)
  /-- `cslot` (R202): Fills one operand slot of the octet's matrix unit by Caddy transfer. -/
  | cslot (s : Bool) (o : BitVec 3) (i : BitVec 1) (l : BitVec 11)
  /-- `cseal` (R203): Seals the stream's unsealed transfers into the next batch. -/
  | cseal (s : Bool) (o : BitVec 3)
  /-- `cchk` (R203): Slips with cause 9 if more than n sealed batches are unfinished. -/
  | cchk (s : Bool) (n : BitVec 5)
  /-- `cwait` (R203): Parks until a mark at which at most n sealed batches are unfinished. -/
  | cwait (n : BitVec 5)
  /-- `cadv` (R204): Releases the stream's next static copy schedule entry. -/
  | cadv (s : Bool)
  /-- `cpub` (R205): Flips a published buffer after an order check with mask K. -/
  | cpub (s : Bool) (o : BitVec 3)
  /-- `cstat` (R207): Reads the stream's Caddy status and clears ERR and EBATCH. -/
  | cstat (s : Bool) (d : BitVec 5)
  /-- `sname` (R209): Registers a Stratus named-buffer entry. -/
  | sname (s : Bool) (o : BitVec 3) (i : BitVec 1) (l : BitVec 11)
  /-- `sred` (R210): Starts an all-reduce or reduce-scatter on an entry and zeroes its completion word. -/
  | sred (s : Bool) (o : BitVec 3) (i : BitVec 1) (l : BitVec 11)
  /-- `sgath` (R210): Starts an all-gather on an entry. -/
  | sgath (s : Bool) (o : BitVec 3) (i : BitVec 1) (l : BitVec 11)
  /-- `sbc` (R210): Starts a broadcast from ROOT on an entry. -/
  | sbc (s : Bool) (o : BitVec 3) (i : BitVec 1) (l : BitVec 11)
  /-- `sstat` (R213): Reads the mirror state of a registry entry. -/
  | sstat (s : Bool) (d : BitVec 5) (o : BitVec 3)
  /-- `sabort` (R320): Marks a running entry FAILED with status 2 and sends an abort request to the coordinator. -/
  | sabort (s : Bool) (o : BitVec 3) (i : BitVec 1) (l : BitVec 11)
  /-- `fdecl` (R214): Declares the core's tile of a Steep field. -/
  | fdecl (s : Bool) (o : BitVec 3)
  /-- `fbind` (R215): Binds or unbinds a conditional routine or the built-in rule, reserving window lines and ql2. -/
  | fbind (s : Bool) (o : BitVec 3)
  /-- `fcol` (R215): Sets the field's colour count. -/
  | fcol (s : Bool) (o : BitVec 3)
  /-- `frate` (R215): Sets the sweep stream's reserved cycles per 16 from the next mark. -/
  | frate (s : Bool) (o : BitVec 3)
  /-- `fget` (R217): Pushes a neighbour's or the site's value and coupling into ql2 at c+3. -/
  | fget (s : Bool) (j : BitVec 4)
  /-- `fset` (R217): Writes the site's new value at c+2 and ends the site update. -/
  | fset (s : Bool) (a : BitVec 5)
  /-- `fnext` (R217): Pushes the next generator draw of the update into ql2 at c+4. -/
  | fnext (s : Bool)
  /-- `fsnap` (R216): Copies the tile into a published buffer now or at the next sweep boundary. -/
  | fsnap (s : Bool) (o : BitVec 3) (i : BitVec 1) (l : BitVec 11)
  /-- `fpub` (R216): Flips the coupling table now or at the next sweep boundary after an order check. -/
  | fpub (s : Bool)
  /-- `fstop` (R302): Moves every running tile of the field to STOPPING. -/
  | fstop (s : Bool)
  /-- `fgo` (R302): Requests that the field start running at the next domain mark. -/
  | fgo (s : Bool)
  /-- event (R245): Sensors or firmware request a new clock count N, replacing any pending request. -/
  | clockStepRequest (n : Nat)
  /-- event (R258): The host supplies a page-window item for a translation fault, or ends the domain. -/
  | hostPageItem (item : Option PageItem)
  /-- event (R234): Above the extended range the HBM forces a refresh that delays commands and lands beats late. -/
  | forcedRefresh (stack : Nat) (slice : Nat) (delay : Nat)
  /-- event (R316): A contribution or partial flit group is received and folded once per key. -/
  | contribution (g : FlitGroup)
  /-- event (R314): A result flit group is written into the destination's invisible half after partition and key checks. -/
  | result (g : FlitGroup)
  /-- event (R317): The coordinator counts a vote and commits at the last one. -/
  | vote (g : FlitGroup)
  /-- event (R317): A device receives commit and enters DONE under R211. -/
  | commit (g : FlitGroup)
  /-- event (R317): A device receives abort and enters FAILED with the status. -/
  | abort (g : FlitGroup)
  /-- event (R317): The coordinator receives expired and aborts with status 3 unless already committed. -/
  | expired (g : FlitGroup)
  /-- event (R319): The coordinator receives owner after a dropped result write and aborts with status 4. -/
  | owner (g : FlitGroup)
  /-- event (R317): The coordinator receives fault and aborts with status 5. -/
  | fault (g : FlitGroup)
  /-- event (R320): The coordinator receives an abort request and aborts with status 2 unless already committed. -/
  | abortRequest (g : FlitGroup)
  /-- event (R312): An acknowledgement frees groups from the sender's replay buffer. -/
  | linkAck (seq : BitVec 32)
  /-- event (R312): A NAK makes the sender resend from the named SEQ, taking the link down after 16 resends. -/
  | linkNak (seq : BitVec 32)
  /-- event (R318): In host-assisted mode the host lets expired go or extends the deadline once. -/
  | hostDeadlineExtend (extend : Bool)
  /-- event (R376): Firmware retrains a down Stratus link, restarting SEQ with empty replay buffers. -/
  | linkRetrain (ok : Bool)
  /-- event (R292): In host-assisted mode the host resumes or ends a group after a merge conflict. -/
  | hostMergeDecision (goOn : Bool)
  /-- event (R348): Firmware ends a held domain: streams end, collectives send fault. -/
  | domainEnd (fc : Nat)
  /-- event (R332): A host notify value sets a mapped queue's tail or the queue's notify word. -/
  | notifyWrite (val : BitVec 64)
  /-- event (R332): Firmware maps a launch queue to a notify window, taking the tail from its notify word. -/
  | notifyWindowMap (qid : Nat)
  /-- event (R333): Firmware reads and checks a launch record, refusing it with a RES code or accepting it. -/
  | launchRecordAccept (src : LaunchSrc)
  /-- event (R354): Firmware creates a partition with assigned octets, pages and token slots. -/
  | partitionCreate (cfg : PartCfg)
  /-- event (R365): From reset Alarad checks fuses, fetches, verifies and starts firmware, which trains and delivers code. -/
  | boot (image : Option BootImage)
  /-- event (R366): A ready device answers a KIND 14 boot service request by sending its image. -/
  | bootService (g : FlitGroup)
  /-- event (R369): Firmware blows a repair entry for a failing core, effective at next boot. -/
  | fuseRepair (layer : Nat) (row : Nat) (pcol : Nat)
  /-- event (R374): Every 100 us firmware reads ring monitor taps and sets heaters. -/
  | heaterTuning (taps : List (Nat × Nat))
  /-- event (R374): In host-assisted tuning the host's heater settings are applied. -/
  | hostHeaterSettings (settings : List (Nat × Nat))
  /-- event (R375): Firmware removes a failing Cirrus wavelength at a chip mark, failing the channel below 24. -/
  | wavelengthRemoval (channel : Nat) (wavelength : Nat)
  /-- event (R378): Every 100 us firmware evaluates thermal and power conditions and requests a step. -/
  | thermalEvaluation (hot : Nat) (hbm : Nat) (power : Nat)
  /-- event (R380): The fabric manager sends heartbeats every 100 ms and declares dead devices. The devices that answer, each
  with its links as it sees them: a device at the other end, and whether a link to it is not marked failed. -/
  | fabricHeartbeat (heard : List (Nat × List (Nat × Bool)))
  /-- event (R380): Recovery contains, reroutes, replaces, rekeys, reloads and resumes after a dead device. -/
  | fabricRecovery (phase : RecoveryPhase)
  /-- event (R92): A word whose encoding matches no assigned row (unassigned op5, op6 or function code, a reserved nonzero field, a parking word without its stop flag, or a word outside the kernel image) issues and raises an illegal-instruction or reserved-field fault. -/
  | unassignedEncoding (why : EncFault)
  /-- event (R312): A receiver takes a flit group that fails FEC, CRC or GCM, carries a SEQ above the next expected one, or has a reserved KIND; it discards the group, counts it and sends a NAK. -/
  | flitGroupRejected (seq : BitVec 32) (why : FlitReject)
  /-- event (R372): A soft error changes a bit held or carried in a memory, queue, datapath or link, to be corrected, poisoned or missed under R370 to R372. -/
  | softError (err : SoftError)
  /-- event (R332): The host creates a launch queue ring, and firmware registers it with its notify word. -/
  | launchQueueCreate (qid : Nat) (base : BitVec 64) (log : Nat)
  /-- event (R358): IDE_KM messages over SPDM set the keys of the partition's selective IDE stream. -/
  | ideKm (key : Nat)
  /-- `mark` (R179): Checked stop point: slips with cause 8 unless at a mark cycle with the core's queues empty. -/
  | mark
  /-- `await` (R176): Parks the stream until the next mark cycle. -/
  | await
  /-- event (R352): mts to EPNT registers, moves or retires the core's endpoint name in the partition directory. -/
  | epntWrite
  /-- event (R33): A register or queue result of an earlier word lands at its latency. -/
  | resultLanding
  /-- event (R119): A store, scatter or release writes memory in its landing cycle, with ECC read-modify-write for partial words. -/
  | storeLanding
  /-- event (R126): An atomic, stacq or strls reads and writes its word in its perform cycle. -/
  | atomicPerform
  /-- event (R175): A hold's idle count runs out and the stream's next word issues. -/
  | holdExpire
  /-- event (R188): A pending asynchronous trap is taken in place of a stop-flagged word or at a park's mark. -/
  | asyncTrapEntry
  /-- event (R181): A stream parked by resync issues its restart point's rpt at the matching cycle. -/
  | resyncResume
  /-- event (R22): A follower issues its leader's word at the leader's issue cycle plus its hop delay. -/
  | contrailFollowerIssue
  /-- event (R241): At each domain mark the sampled parks resume, the domain is held, frozen or stopped as pending, and due words issue. -/
  | domainMark
  /-- event (R226): At each chip mark pending clock steps and wavelength removals take effect and dispatch acts. -/
  | chipMark
  /-- event (R14): The kernel ends in the first cycle in which all A- and X-streams have ended and no tile is running. -/
  | kernelEnd
  /-- event (R167): A block step computes products and checksums; a mismatch schedules one rerun or poisons the result. -/
  | mmaBlockStep
  /-- event (R162): A matrix command writes all accumulator elements at c+T+24+V, poisoned and trapping on a second mismatch. -/
  | mmaResultWrite
  /-- event (R169): Write-back output lands at 256 bytes per cycle until the last byte. -/
  | mwbOutputLanding
  /-- event (R198): A transfer's beat reads its source, translating F-space pages. -/
  | caddyBeatRead
  /-- event (R198): A beat lands at its destination with its arrival tag, finishing the transfer at its last beat. -/
  | caddyBeatLand
  /-- event (R267): An untimed beat on a host page lands at an unfixed cycle. -/
  | hostBeatLand
  /-- event (R258): In hardware mode the loader installs an overflow-list item and the remaining beats run untimed. -/
  | overflowPageInstall
  /-- event (R204): A released schedule entry runs as its transfer at its slot cycle. -/
  | staticCopyEntryRun
  /-- event (R208): The stratum die accepts a Stratus word at c+16. -/
  | stratusWordAccept
  /-- event (R312): After 2 us without acknowledgement the sender resends from its oldest unacknowledged group. -/
  | replayTimeout
  /-- event (R318): A device's deadline passes and it sends expired or consults the host. -/
  | stratusDeadline
  /-- event (R317): A die that voted and has no decision within 2 x DLN x 1024 cycles reports a fabric fault. -/
  | decisionTimeout
  /-- event (R211): An outcome enters the mirror before a chip mark, flipping the destination on DONE and landing the completion word. -/
  | collectiveOutcome
  /-- event (R304): In a colour window's halo cycles each engine copies its sites of that colour into neighbours' halos. -/
  | haloExchange
  /-- event (R303): At a sweep boundary pending coupling and snapshot flips apply and STOPPING tiles become STOPPED. -/
  | sweepBoundary
  /-- event (R306): The built-in binary rule updates four sites of one colour in a reserved cycle. -/
  | builtinSiteUpdate
  /-- event (R291): Once every task of the group has frozen or ended, merge k is applied and the tasks resume. -/
  | mergeApply
  /-- event (R341): Firmware asks for pre-emption of a domain, taken at the next clean mark. -/
  | preemptionRequest
  /-- event (R341): A request with no clean mark within 2^24 chip cycles is withdrawn as not clean. -/
  | preemptionWithdraw
  /-- event (R342): At drain cycle D the context image save schedule begins and completes at D+326. -/
  | drainComplete
  /-- event (R346): Firmware frees an evicted domain's entry and copies its on-chip state to the eviction area. -/
  | eviction
  /-- event (R345): A resume of a frozen domain waits for the complete image and runs the restore schedule. -/
  | resumeRequest
  /-- event (R242): After restore the timetable restarts at the first chip cycle congruent to the freeze mark. -/
  | timetableRestart
  /-- event (R243): The holder resumes a held domain, clearing SLIPCNT. -/
  | hostDomainResume
  /-- event (R192): The host releases a stopped domain, which resumes at a mark. -/
  | brkRelease
  /-- event (R348): The end-status word is written at the first chip mark after the entry's counters read zero. -/
  | endStatusWrite
  /-- event (R332): Firmware unmaps a launch queue from a notify window. -/
  | notifyWindowUnmap
  /-- event (R335): Firmware places an accepted record, loads tables and writes a bind record. -/
  | launchPlacement
  /-- event (R134): A buffered message leaves on the partition's next message token slot. -/
  | messageTokenSend
  /-- event (R353): A message arriving at a location is forwarded, appended with TAIL released, or returned as a report. -/
  | messageArrival
  /-- event (R357): A partition reset stops its domains, discards packets, fails collectives, erases keys and zeroes state. -/
  | partitionReset
  /-- event (R358): TDISP LOCK_INTERFACE fixes the partition configuration and generates its keys. -/
  | lockInterface
  /-- event (R358): TDISP request returning the partition's notify windows and launch queues. -/
  | getDeviceInterfaceReport
  /-- event (R358): TDISP START_INTERFACE puts the partition in RUN. -/
  | startInterface
  /-- event (R358): TDISP STOP_INTERFACE resets the partition. -/
  | stopInterface
  /-- event (R360): The VM attests the device with SPDM, receiving the certificate chain and measurements. -/
  | spdmAttestation
  /-- event (R370): An uncorrected host-link error fails the IDE stream and resets the partition. -/
  | ideStreamFailure
  /-- event (R365): No image over the host link within 10 s switches the fetch to fibre 0. -/
  | bootFetchTimeout
  /-- event (R373): The stratum dies scrub every HBM word once every 24 hours in refresh windows. -/
  | hbmScrub
  /-- event (R160): An mfill's reads of 256 bytes per cycle complete, and the slot's contents and scale store are in place for block steps reading at c+N/256+2. -/
  | mfillContentsInPlace
  /-- event (R161): The transpose path completes, and the destination slot holds the transpose for block steps reading at c+130, or the later source's transpose if the path was overwritten. -/
  | mtrTransposeInPlace
  /-- event (R358): A configuration change made while the TDISP interface is locked puts it in ERROR and resets the partition. -/
  | interfaceConfigurationChange
  deriving DecidableEq, Repr

end Sys2Proof
end

