-- ==== Sys2Proof/Machine/State.lean ====
section
/-!
DEFINITION. Everything the spec gives the machine, as plain data, and the machine right after reset. Numbers that
software reads as bits are bit vectors; counts, cycles, indices and memory keys are natural numbers (log 9).
-/

namespace Sys2Proof.Machine

/-- A sparse table: key and value pairs in rising order of key; a key that is not listed has the table's default. -/
abbrev Tab (α : Type) := List (Nat × α)

/-- Memory: the bytes that are not zero, by key (`Mem.lean` lays out the keys), in rising order (log 2). -/
abbrev Memory := List Host.Cell

/-- What the check of an aligned 64-bit word holds (24 R370, R371). -/
inductive Ecc where
  /-- the word carries the poison check pattern or an uncorrectable error -/
  | poison
  /-- a single-bit error that the code corrects; the memory keeps the corrected word -/
  | flipped
  deriving DecidableEq, Repr

/-- An entry of a queue (02 R28): its value, the cycles (CCYC) in which its word issued and in which it lands, whether
its parity is bad (24 R371), the stream that produced it, and the number under which an atomic finds it (06 R126). -/
structure QEnt where
  val : Word
  iss : Nat
  due : Nat
  bad : Bool
  half : Half
  id : Nat
  deriving DecidableEq, Repr

/-- A pending asynchronous trap (02 R37, 22 R344) and the cycle (CCYC) in which it became pending. -/
structure PTrap where
  code : Nat
  sub : Nat
  tval : Word
  since : Nat
  deriving DecidableEq, Repr

/-- The trap registers of a stream (09 R185, R186). -/
structure TrapRegs where
  async : Bool
  sub : BitVec 8
  code : BitVec 8
  tpc : BitVec 32
  tval : Word
  priv : Bool
  pPriv : Bool
  scnt : BitVec 7
  tvec : BitVec 32
  tscr : Word
  dbg : Bool
  tcyc : Word
  rstValid : Bool
  rstPc : BitVec 32
  rstCy : Word
  deriving DecidableEq, Repr

/-- A sealed batch that is not finished (10 R203): its number, the transfers it waits for, its completion word's
pointer (0 for none) and the cycle of its `cseal`. -/
structure Batch where
  num : Nat
  xfers : List Nat
  cw : Word
  sealedAt : Nat
  deriving DecidableEq, Repr

/-- A stream's Caddy state (10 R203-R207, 22 R344 word 14): NEXT, the transfers started since the last `cseal`, the
unfinished sealed batches (oldest first), ERR and EBATCH, the schedule position, and the released entries that have
not run, each with the MCYC of its `cadv`. -/
structure CaddyStream where
  next : Nat
  unsealed : List Nat
  batches : List Batch
  err : Nat
  ebatch : Nat
  pos : Nat
  released : List (Nat × Nat)
  deriving DecidableEq, Repr

/-- Whether and how a stream runs (02 R20, 09 R175-R181). -/
inductive Run where
  /-- no such stream -/
  | absent
  /-- its next word issues when MCYC reaches `wake` -/
  | due
  /-- inside the idle count of a `hold`, until MCYC reaches `wake` -/
  | hold
  /-- inside the sixteen cycles of a spill, fill, `wsave` or `wrest` (05 R106, 09 R193), until MCYC reaches `wake` -/
  | window
  /-- parked by `await` -/
  | await
  /-- parked by `rejoin` -/
  | rejoin
  /-- parked by `cwait` -/
  | cwait
  /-- parked by `resync`, until MCYC reaches `wake` -/
  | resync
  /-- ended (01 R14) -/
  | ended
  /-- issues nothing more: a domain slip or handler fault (09 R189, 13 R243) -/
  | stopped
  deriving DecidableEq, Repr

/-- A sample of a parked stream's condition made in the cycle before a mark (09 R177, 10 R203). -/
inductive Sample where
  | none | fails | holds | poisoned
  deriving DecidableEq, Repr

/-- A word that a contrail leader issued: MCYC, address, bits and stop flag, and whether it is the `trap 0` that ended
the leader (13 R238, R239). -/
structure Issued where
  mcyc : Nat
  addr : BitVec 32
  bits : Nat
  flag : Bool
  ends : Bool
  deriving DecidableEq, Repr

/-- A pending `mod`: its flags, its scale and its address (04 R88, R89). -/
structure ModWord where
  abs : Bool
  neg : Bool
  clamp : Bool
  sat : Bool
  sc : BitVec 4
  addr : BitVec 32
  deriving DecidableEq, Repr

/-- The state of a stream. -/
structure Stream where
  run : Run
  pc : BitVec 32
  wake : Nat
  scnt : Nat
  skip : Nat
  pending : Option ModWord
  /-- the next word follows an `await`, `rejoin` or `cwait` and must carry a stop flag (09 R178) -/
  afterPark : Bool
  parkPc : BitVec 32
  watch : Word
  cwaitN : Nat
  sample : Sample
  rm : BitVec 2
  ovf : Bool
  wptr : Nat
  rbot : Nat
  rcnt : Nat
  wlimit : Nat
  traps : TrapRegs
  pend : List PTrap
  caddy : CaddyStream
  /-- a contrail follower that takes its leader's words (13 R237); a detached one has `false` -/
  follows : Bool
  /-- the leader's word to issue in this cycle: address and bits -/
  taken : Option (BitVec 32 × Nat)
  /-- the words issued in the last 32 cycles, newest first, which followers take -/
  issued : List Issued
  deriving DecidableEq, Repr

/-- An entry of the posted-store journal (22 R349, R351). -/
structure Posted where
  isOpen : Bool
  refused : Bool
  reason : BitVec 2
  half : Half
  dst : BitVec 40
  deriving DecidableEq, Repr

/-- A message in a core's send buffer (06 R134). -/
structure Message where
  name : BitVec 24
  gen : BitVec 8
  body : List Word
  at_ : Nat
  /-- the location that the directory gave at the `send`, and the sender's own name and generation then -/
  dest : Option Nat
  own : BitVec 32
  deriving DecidableEq, Repr

/-- A child launch held by the network interface (09 R194): its record's 32 words and its status word's pointer. -/
structure HeldLaunch where
  words : List Word
  status : Word
  /-- the parent's task, and the replay bit, trace identifier and trace that the child inherits (21 R338) -/
  parent : Nat
  rpl : Bool
  trid : Nat
  trc : Word
  deriving DecidableEq, Repr

/-- The states of a field's tile (10 R216). -/
inductive TileSt where
  | undeclared | declared | bound | running | stopping | stopped | faulted
  deriving DecidableEq, Repr

/-- What `fbind` bound (10 R215, 17 R306). -/
inductive Routine where
  | none
  | builtin
  | code (addr : BitVec 32)
  deriving DecidableEq, Repr

/-- A pending `fsnap` of a running field (17 R307): the published buffer's base, and whether the copying sweep has
begun. -/
structure SnapReq where
  base : Word
  copying : Bool
  deriving DecidableEq, Repr

/-- A core's Steep tile (10 R214-R218, 17 R300-R308). -/
structure Tile where
  st : TileSt
  tbase : Word
  th : Nat
  tw : Nat
  lh : Nat
  lw : Nat
  fkey : Nat
  ncat : Nat
  wrap : Bool
  nb : Nat
  sf : Nat
  y0 : Nat
  x0 : Nat
  cbase : Word
  sw : Word
  /-- the colour count that `fcol` set; 0 before -/
  colours : Nat
  /-- RNUM in force, and RNUM from the next mark -/
  rate : Nat
  rateNext : Option Nat
  routine : Routine
  sweep : Nat
  snaps : Nat
  flipPend : Bool
  snapPend : Option SnapReq
  /-- a copy of `fsnap` in a stopped field is under way -/
  snapCopy : Bool
  /-- the sites of the present colour below this local index are updated -/
  site : Nat
  /-- an update is in progress, and the count of its `fnext` words -/
  updating : Bool
  draws : Nat
  /-- MCYC plus one of the last reserved cycle whose built-in updates were made -/
  lastUpdate : Nat
  /-- MCYC plus one of the sweep boundary at which it stopped last: its sites of that window are still exchanged -/
  stopAt : Nat
  /-- copies of neighbouring sites of other tiles, by lattice index (17 R304) -/
  halo : Tab (BitVec 16)
  deriving DecidableEq, Repr

/-- The registers of a core (02 R23-R32). -/
structure Regs where
  g : Vector Word 8
  ix : Word
  lk : Word
  a : Vector Word 8
  k : Vector (BitVec 32) 4
  oxA : Vector Word 8
  oxX : Vector Word 8
  v : Vector Vec 16
  /-- the window file; stack register n lies at place n mod 64 -/
  win : Vector Word 64
  winBad : BitVec 64
  /-- the sweep stream's window (02 R32) -/
  sw : Vector Word 16
  swBad : BitVec 16
  /-- the sweep stream's `ix` and `lk`, which are no channel to the X-stream (15 R276) -/
  swIx : Word
  swLk : Word
  deriving DecidableEq, Repr

/-- The control registers that a core's streams share (02 R42-R45, 22 R351, R352). -/
structure Ctl where
  stopmax : Nat
  slipCnt : Nat
  slipMax : Nat
  wsize : Nat
  wbase : BitVec 32
  rwin : BitVec 4
  epSt : BitVec 2
  epMove : Bool
  epName : BitVec 24
  epGen : BitVec 8
  gseed : Word
  gstrm : BitVec 16
  role : BitVec 2
  dir : BitVec 2
  hop : Nat
  deriving DecidableEq, Repr

/-- A core. -/
structure Core where
  regs : Regs
  ql0 : List QEnt
  ql1 : List QEnt
  ql2 : List QEnt
  qs0 : List QEnt
  qs1 : List QEnt
  sa : Stream
  sx : Stream
  sw : Stream
  ctl : Ctl
  psj : Vector Posted 16
  sendBuf : List Message
  launches : List HeldLaunch
  tile : Tile
  /-- entries popped or drained from each queue in cycle `popCyc`: they free room only afterwards (02 R28 rule 1) -/
  popCyc : Nat
  pops : Vector Nat 5
  /-- the banks (column * 16 + bank) that the core's A-half touched in cycle `bankCyc` (16 R285) -/
  bankCyc : Nat
  banks : List Nat
  /-- the bind entry whose domain holds the core, and the last one that did (22 R356) -/
  bound : Option Nat
  last : Option Nat
  deriving DecidableEq, Repr

/-- An accumulator slot's configuration and state bits (08 R164); `owner` is the bind entry it is given to (R165). -/
structure Acc where
  fmt : Nat
  bl : Nat
  sr : Bool
  live : Bool
  poison : Bool
  owner : Option Nat
  deriving DecidableEq, Repr

/-- An operand element as a block step reads it (03 R65, R69): its special value or its integer significand and
exponent, the block scale included. -/
inductive Elem where
  | nan
  | inf (neg : Bool)
  | fin (sig : Int) (exp : Int)
  deriving DecidableEq, Repr

/-- The operands a block step captured (08 R166): 128 rows of 16 elements of each operand. -/
structure Captured where
  a : List (List Elem)
  b : List (List Elem)
  deriving DecidableEq, Repr

/-- A matrix command in the sequencer (08 R162-R167). -/
structure MCmd where
  id : Nat
  core : Nat
  bind : Nat
  issue : Nat
  zero : Bool
  acc : Nat
  opa : Nat
  opb : Nat
  shape : Nat
  kb : Nat
  slack : Nat
  /-- array time T and the length L of a block step (R163, R167) -/
  time : Nat
  stepLen : Nat
  slotIdx : Nat
  tagA : BitVec 16
  tagB : BitVec 16
  /-- the operands of block steps run so far, by step -/
  got : Tab Captured
  reruns : Nat
  /-- block steps that fall in array cycles already occupied, and whether a rerun does (13 R248) -/
  clash : List Nat
  rerunClash : Bool
  bad : Bool
  /-- the accumulator as read one cycle before the write, and whether it was poisoned -/
  accIn : List (BitVec 32)
  accBad : Bool
  deriving DecidableEq, Repr

/-- A copy of scratchpad bytes under way into an operand slot (08 R160): what it has read. -/
structure Fill where
  id : Nat
  core : Nat
  slot : Nat
  scaleLen : Nat
  bytes : List Byte
  /-- 64-bit words copied with bad parity -/
  badAt : List Nat
  deriving DecidableEq, Repr

/-- A transpose on the unit's path (08 R161). -/
structure Transpose where
  id : Nat
  core : Nat
  issue : Nat
  dst : Nat
  bytes : List Byte
  /-- 64-bit words of the destination that get bad parity -/
  bad : List Nat
  deriving DecidableEq, Repr

/-- The snapshot of an `mwb`, converted (08 R169). -/
structure WriteBack where
  id : Nat
  core : Nat
  half : Half
  bytes : List Byte
  poisonWords : List Nat
  deriving DecidableEq, Repr

/-- An operand slot's format tag and claim (08 R158, R159). -/
structure OpSlot where
  tag : BitVec 16
  claim : Option Nat
  deriving DecidableEq, Repr

/-- An octet's matrix unit: wheel owners by position (8 for none), slots, accumulators and what is under way. -/
structure Octet where
  wheel : Vector Nat 16
  slots : Tab OpSlot
  accs : Vector Acc 8
  cmds : List MCmd
  fills : List Fill
  paths : List Transpose
  backs : List WriteBack
  /-- the next block step sees a checksum mismatch (a soft error of the array) -/
  arrayErr : Bool
  /-- 64-bit words of operand slots with bad parity, by slot and word -/
  badParity : List (Nat × Nat)
  deriving DecidableEq, Repr

/-- A published buffer (14 R268). -/
structure Pub where
  base : Word
  alt : Word
  strs : Bool
  map : Bool
  len : Nat
  deriving DecidableEq, Repr

/-- An entry of a static copy schedule (14 R266): four words. -/
structure SchedEnt where
  w0 : Word
  w1 : Word
  w2 : Word
  w3 : Word
  deriving DecidableEq, Repr

/-- A merged or reduce region (16 R288, R289) with the count of merges the domain has seen. -/
structure MergeReg where
  base : BitVec 32
  reduce : Bool
  qlog : Nat
  et : Nat
  op : Nat
  pages : Nat
  next : Nat
  /-- the first merge of the region's group that the domain takes part in (16 R291, 21 R339) -/
  join : Nat
  deriving DecidableEq, Repr

/-- What translation gives: no entry, a refusal, or a physical byte in HBM under a key or in host memory. -/
inductive FHit where
  | miss
  | refused
  | hbm (pa key : Nat)
  | host (pa : Nat)
  deriving DecidableEq, Repr

/-- What translation gives a later byte of the same line. -/
def FHit.shift (h : FHit) (n : Nat) : FHit :=
  match h with
  | .hbm pa key => .hbm (pa + n) key
  | .host pa => .host (pa + n)
  | h => h

/-- A task's private write into a merged or reduce region (16 R290): interval, F-space address and what that was
translated to, and bytes. -/
structure ViewWrite where
  interval : Nat
  addr : Nat
  hit : FHit
  bytes : List Byte
  /-- offsets of 64-bit words written with the poison pattern -/
  bad : List Nat
  deriving DecidableEq, Repr

/-- A field of the domain (17 R301-R303): its entry, and its run while it sweeps. -/
structure FieldRun where
  fkey : Nat
  win : Nat
  rnum : Nat
  startReq : Bool
  /-- MCYC of the start mark while the field sweeps -/
  start : Option Nat
  n0 : Nat
  /-- a tile faulted: every sweeping tile becomes FAULTED at the end of the window -/
  faulting : Bool
  /-- MCYC plus one of the last halo exchange and of the last sweep boundary -/
  lastHalo : Nat
  lastBoundary : Nat
  deriving DecidableEq, Repr

/-- The states of a bind entry (21 R336). -/
inductive BindSt where
  | free | pending | running | frozen | held | ended
  deriving DecidableEq, Repr

/-- Why a domain is frozen (13 R241, 16 R291). -/
inductive FreezeWhy where
  | preempt | brk | merge
  deriving DecidableEq, Repr

/-- A domain fault (22 R348): the fault code of R334, core, stream, CODE, cause and MCYC. -/
structure DomFault where
  fc : Nat
  core : Nat
  half : Half
  code : Nat
  cause : Nat
  mcyc : Nat
  deriving DecidableEq, Repr

/-- A freeze in progress or complete (13 R242, 22 R342-R346). -/
structure Freeze where
  why : FreezeWhy
  /-- MCYC and CCYC of the mark -/
  mark : Nat
  at_ : Nat
  /-- the matrix commands of the partition that were under way at the mark (08 R166) -/
  waits : List Nat
  /-- the drain cycle D, once reached -/
  drain : Option Nat
  /-- the save schedule has begun -/
  saved : Bool
  evicted : Bool
  resumeReq : Bool
  /-- the cycle D' from which the restore schedule runs, once begun -/
  restore : Option Nat
  /-- the fault for which the domain is held beside the merge conflict that keeps it frozen (16 R292) -/
  heldFor : Option DomFault
  deriving DecidableEq, Repr

/-- A `brk` that waits for a mark (09 R192): its code, its core and stream, and the address of the word after it. -/
structure BrkStop where
  n : Nat
  core : Nat
  half : Half
  pc : BitVec 32
  deriving DecidableEq, Repr

/-- A bind entry and the domain it binds (13, 14, 21, 22). -/
structure Bind where
  st : BindSt
  part : Nat
  level : Nat
  layer : Nat
  unit : Nat
  task : Nat
  handle : Nat
  /-- the 32 words of the launch record (21 R329) -/
  record : List Word
  origin : LaunchSrc
  /-- the slot-table image: header, wheel map and entries (13 R228) -/
  slots : List Word
  sched : List SchedEnt
  pubs : List Pub
  pages : List (Word × Word)
  /-- installs by octet and entry (14 R258) -/
  installs : List (Nat × Nat × Word × Word)
  overflow : List PageItem
  merges : List MergeReg
  fields : List FieldRun
  view : List ViewWrite
  viewPages : Nat
  /-- CCYC of MCYC 0 while the domain is not frozen -/
  base : Nat
  freeze : Option Freeze
  /-- MCYC plus one of the last domain mark that was taken -/
  lastMark : Nat
  preempt : Option Nat
  /-- `brk` words that wait for a mark, oldest first -/
  brk : List BrkStop
  fault : Option DomFault
  /-- the kernel has ended (01 R14) -/
  ended : Bool
  /-- firmware ends the domain: the fault code of its end status (22 R348) -/
  ending : Option Nat
  mjoin : Nat
  /-- CCYC of the bind record (21 R336), and the F-space address of its trace entry (21 R338) -/
  boundAt : Nat
  traceAt : Option Nat
  /-- the holder resumes the held domain at its next mark (13 R243) -/
  release : Bool
  /-- the entry's counters read zero at the start of the present cycle, kept where a freeze may begin (22 R342) -/
  quiet : Bool
  deriving DecidableEq, Repr

/-- TDISP states of a partition's interface (22 R357, R358). -/
inductive Tdisp where
  | configUnlocked | configLocked | run | error
  deriving DecidableEq, Repr

/-- States of a Stratus registry entry (10 R211, R213). -/
inductive RegSt where
  | free | ready | running | done | failed
  deriving DecidableEq, Repr

/-- A registry entry as the mirror shows it (10 R208-R213). -/
structure RegEnt where
  st : RegSt
  last : Nat
  epoch : Nat
  sbase : Word
  dbase : Word
  ord : Nat
  op : Nat
  et : Nat
  len : Nat
  dln : Nat
  grp : Nat
  deriving DecidableEq, Repr

/-- The collective words (10 R210). -/
inductive Verb where
  | sred | sgath | sbc
  deriving DecidableEq, Repr

/-- A Stratus word on its way to the dies (10 R208). -/
structure StratusCmd where
  part : Nat
  nid : Nat
  core : Nat
  half : Half
  bind : Nat
  abort : Bool
  verb : Verb
  kind : Nat
  root : Nat
  cw : Word
  ent : RegEnt
  deriving DecidableEq, Repr

/-- An arrival record of a shadow (18 R316): a contribution or partial (KIND 0) or a result (KIND 1). -/
structure Arrival where
  kind : Nat
  src : Nat
  beat : Nat
  data : BitVec 2048
  deriving DecidableEq, Repr

/-- A collective in the stratum dies of this device (18 R313-R322). -/
structure Coll where
  cmd : StratusCmd
  accept : Nat
  deadline : Nat
  extended : Bool
  expired : Bool
  shadow : List Arrival
  /-- beats that this device has folded and passed on -/
  passed : List Nat
  /-- beats whose result is written -/
  written : List Nat
  /-- a source page was refused or a write dropped, so that this device's part never completes (18 R317, R319) -/
  lost : Bool
  /-- the dies that have voted, and when -/
  voted : List (Nat × Nat)
  /-- votes the coordinator has counted, and the KINDs of what has reached it in this cycle -/
  votes : Nat
  inbox : List Nat
  /-- what has reached the coordinator in earlier cycles while its domain was frozen, cycle by cycle (18 R321) -/
  held : List (List Nat)
  /-- the record's mode bit of deadline expiry (18 R318, 21 R340) -/
  assisted : Bool
  /-- the device has sent fault for it (18 R317) -/
  faultSent : Bool
  /-- the source's bytes (whether of host memory, physical address, count) once its bind entry is freed (18 R316) -/
  lock : Option (List (Bool × Nat × Nat))
  /-- soft errors in the reduction unit: the contributor whose value they strike, the beat and the bit (18 R323) -/
  struck : List (Nat × Nat × Nat)
  /-- the coordinator's or the sent decision: the status of R212 -/
  decided : Option Nat
  /-- the decision has reached this device -/
  entered : Option Nat
  /-- the dies that have reported a fabric fault -/
  reported : List Nat
  /-- bits that an error changes in the completion word as it crosses to the Cirrus layer (24 R372) -/
  crossed : Word
  deriving DecidableEq, Repr

/-- A directory entry (22 R352, R353): generation, the core that holds the name if live, and its last four locations,
newest first. -/
structure DirEnt where
  gen : Nat
  live : Option Nat
  task : Nat
  locs : List Nat
  deriving DecidableEq, Repr

/-- A launch queue (21 R332): the F-space base of its ring, log2 of its records, head, tail and notify word. -/
structure LQueue where
  base : Word
  log : Nat
  head : Nat
  tail : Nat
  notify : Nat
  taken : Nat
  deriving DecidableEq, Repr

/-- An accepted record that waits for placement (21 R333, R335), with its lists already read. -/
structure Accepted where
  bind : Bind
  image : List Byte
  prio : Nat
  queue : Nat
  status : Option Word
  statusCore : Nat
  seq : Nat
  parent : Nat
  /-- turns in which it was passed over (21 R335) -/
  passed : Nat
  /-- a replayed record's trace entry, with its place in the trace (21 R339) -/
  entry : Option (Nat × Word × Word)
  deriving DecidableEq, Repr

/-- A dispatch trace that grows (21 R338): the first signature, its capacity and place, and the count of its entries. -/
structure Trace where
  sig : Word
  cap : Nat
  ptr : Word
  count : Nat
  deriving DecidableEq, Repr

/-- A replay of a trace (21 R339): how many of its entries are bound, and which are accepted. -/
structure Replay where
  pos : Nat
  taken : List Nat
  /-- the replay has ended: a group had applied the merge at which a record was to join it -/
  stopped : Bool
  deriving DecidableEq, Repr

/-- The copies of an evicted domain in the partition's eviction area (22 R346): memory with its checks, octets and cores,
under the index at which the bind entry waits. -/
structure Evicted where
  index : Nat
  image : List Byte
  mem : Memory
  ecc : Tab Ecc
  octets : Tab Octet
  cores : Tab Core
  /-- the turns in which firmware passed it over (21 R335 rule 5) -/
  passed : Nat
  deriving DecidableEq, Repr

/-- A partition (22 R354-R359). -/
structure Part where
  present : Bool
  octets : List Nat
  pages : List (Word × Word)
  tokens : List Nat
  /-- the token slots of its messages, of launch and control, and of its reports, and its buffer slots at every router for
  each class (22 R355) -/
  msgToken : Nat
  ctlToken : Nat
  reportToken : Nat
  buffers : Nat
  lastSend : Nat
  /-- the numbers of the keys in its 16 slots; empty where no key is held -/
  keys : List Nat
  /-- the numbers of its GCM key, 0 for none, and of those of its device groups (22 R359) -/
  gcm : Nat
  groupKeys : Tab Nat
  /-- a reset under way: the cycle of its last step, and whether its domains have stopped (22 R357) -/
  reset : Option (Nat × Bool)
  tdisp : Tdisp
  ide : Option Nat
  registry : Tab RegEnt
  directory : Tab DirEnt
  queues : Tab LQueue
  waiting : List Accepted
  taskCtr : Nat
  childCount : Tab Nat
  traces : Tab Trace
  replays : Tab Replay
  /-- the merges at which the domains of traced binds joined their regions' groups, by the F-space address of the trace
  entry -/
  joins : Tab (List Nat)
  /-- the queue whose turn is next (21 R335) -/
  turn : Nat
  discarded : Nat
  eviction : List Evicted
  /-- the partition's table of device groups (10 R209, 18 R313) -/
  groups : Tab (List Nat)
  /-- ended tasks whose last interval is not merged (16 R291) -/
  leavers : List Bind
  /-- merges applied so far, by region base -/
  mergeCount : Tab Nat
  /-- its limits of MODE (22 R360) -/
  modes : BitVec 8
  deriving DecidableEq, Repr

/-- A beat that has been read: its bytes and poisoned words by place in it, and the translation of its F-space lines. -/
structure Beat where
  data : List (Nat × Byte)
  poison : List Nat
  dst : List (Nat × FHit)
  deriving DecidableEq, Repr

/-- The kinds of Caddy transfer (10 R198-R202, R216). -/
inductive XKind where
  | copy | dist | slot | snap
  deriving DecidableEq, Repr

/-- A Caddy transfer that is not finished (10 R198-R206). -/
structure Xfer where
  id : Nat
  kind : XKind
  core : Nat
  half : Half
  bind : Nat
  part : Nat
  issue : Nat
  /-- MCYC at issue, which gives the merge interval of its writes (16 R290) -/
  issueM : Nat
  lat : Nat
  src : Word
  dst : Word
  /-- the third descriptor word of `cdist`; the slot and tag of `cslot` -/
  aux : Word
  aux2 : Word
  bytes : Nat
  tag : Option Byte
  dec : Bool
  release : Bool
  posted : Option Nat
  /-- beats that have neither landed nor been refused -/
  todo : Nat
  /-- the beat at which a translation fault stopped the timed beats (14 R258), and whether the page has come -/
  stalled : Option Nat
  installed : Bool
  /-- beats on host pages that have not landed -/
  hostTodo : List Nat
  /-- the first beat that has not been read -/
  next : Nat
  /-- beats not yet read that lie on host pages -/
  hostDue : List Nat
  /-- host beats that have reached the host link and have not landed, as they were read (14 R267) -/
  linked : List (Nat × Beat)
  /-- the failure code of R207: 0 none, 2 permission, 3 poison, 4 format -/
  failed : Nat
  failAddr : Word
  /-- why a posted beat was refused (22 R350) -/
  refused : Nat
  /-- the next landing beat is a corrupted Cirrus packet (24 R370): its home channel, and the wavelength that failed -/
  packetErr : Option (Nat × Nat)
  /-- format attribute of the first page that a decoding path read -/
  fmt : Option Word
  deriving DecidableEq, Repr

/-- Registers that a landing writes. -/
inductive Dst where
  /-- a stack register of the X-stream (05 R105) -/
  | stack (n : Nat)
  | sweep (n : Nat)
  | g (n : Nat)
  | ix
  | lk
  | sweepIx
  | sweepLk
  | a (n : Nat)
  | k (n : Nat)
  | oxA (n : Nat)
  | oxX (n : Nat)
  deriving DecidableEq, Repr

/-- What an atomic does in its perform cycle (06 R126, R131, R132). -/
inductive AtOp where
  | add | swp | cas | and | or | minI | minN | maxI | maxN | stacq | strls
  deriving DecidableEq, Repr

/-- What the window file's port does at the end of its sixteen cycles (05 R106, 09 R193). -/
inductive WinOp where
  /-- a call: lines spilled, slide in registers -/
  | spill (e n : Nat)
  /-- a return: lines filled, slide in registers -/
  | fill (f n : Nat)
  /-- `wsave`: lines that leave the file afterwards -/
  | wsave (e : Nat)
  /-- `wrest`: lines that come in, or every resident line read again -/
  | wrest (f : Option Nat)
  deriving DecidableEq, Repr

/-- What is to happen at a cycle already fixed. -/
inductive Ev where
  | reg (core : Nat) (half : Half) (dst : Dst) (val : Word)
  /-- a write of the bits of a vector register that `mask` names; `mat` marks a result of the matrix unit, which the
  stop-flag rule does not count (02 R35) -/
  | vec (core : Nat) (half : Half) (mat : Bool) (vd : Nat) (mask : Vec) (val : Vec)
  /-- a control register shared by the core's streams -/
  | ctl (core : Nat) (num : Nat) (val : Word)
  | win (core : Nat) (op : WinOp)
  /-- a store: pieces within 64-byte lines, by pointer; a published buffer routes them as they land (14 R269) -/
  | store (core : Nat) (half : Half) (segs : List (Nat × List Byte))
  | atomic (core : Nat) (half : Half) (op : AtOp) (wide : Bool) (ptr : Nat) (x y : Word) (q entry : Nat)
  | rcvp (core : Nat) (head : Word)
  | epnt (core : Nat) (val : Word)
  | epntSt (core : Nat) (st : BitVec 2)
  /-- a word that an engine writes: status and completion words, as a release -/
  | release (key : Nat) (val : Word)
  | beatRead (xfer beat : Nat)
  /-- an untimed beat is read; it lands in the next cycle -/
  | lateRead (xfer beat : Nat)
  /-- a beat lands; `dst` holds what its routed F-space lines were translated to in its read cycle (14 R256) -/
  | beatLand (xfer beat : Nat) (data : List (Nat × Byte)) (poison : List Nat) (dst : List (Nat × FHit))
  /-- a snapshot's buffer flips (10 R216, 17 R307) -/
  | snapFlip (core bind pub : Nat)
  | claim (octet slot : Nat) (owner : Option Nat)
  | tag (octet slot : Nat) (tag : BitVec 16)
  | accCfg (octet acc : Nat) (fmt bl : Nat) (sr : Bool) (drop : Bool)
  /-- an accumulator slot becomes zero; `core` is the core whose `mzero` does it -/
  | accZero (octet acc : Nat) (core : Option Nat)
  | fillRead (octet : Nat) (id core src left : Nat)
  | fillDone (octet : Nat) (id : Nat)
  | mtrRead (octet : Nat) (id core src dst : Nat)
  | mtrDone (octet : Nat) (id : Nat)
  | blockStep (octet : Nat) (id step : Nat)
  | mmaRead (octet : Nat) (id : Nat)
  | mmaWrite (octet : Nat) (id : Nat)
  | mwbSnap (octet : Nat) (id core : Nat) (half : Half) (acc key : Nat) (rel : Bool) (seed : Word) (strm : BitVec 16) (bx : Nat)
  | mwbLand (octet : Nat) (id key beat : Nat)
  | flip (bind : Nat) (pub : Nat)
  | mirror (part nid : Nat) (ent : RegEnt)
  | stratus (cmd : StratusCmd)
  | fset (core site : Nat) (val : Word)
  | sitePut (core : Nat) (sites : List (Nat × Nat))
  | tileStatus (core : Nat)
  /-- the window file's port writes a stack line back, or reads one, of a frozen core (22 R345) -/
  | ctxLine (core line : Nat)
  | ctxFill (core line : Nat)
  /-- a beat is read from a state port and lands in the context block, or the other way (22 R345) -/
  | ctxSave (core beat : Nat)
  | ctxLand (core beat : Nat) (bytes : List Byte) (bad : List Nat)
  | ctxLoad (core beat : Nat)
  | ctxSet (core beat : Nat) (bytes : List Byte) (bad : List Nat)
  deriving DecidableEq, Repr

/-- An entry of the agenda: its cycle (CCYC), its place among what happens in that cycle, and its age. -/
structure AEnt where
  due : Nat
  prio : Nat
  tie : Nat
  ev : Ev
  deriving DecidableEq, Repr

/-- A message or report under way (22 R353). -/
structure NetMsg where
  part : Nat
  sender : Nat
  /-- 0 message, 1 retired, 2 stale, 3 lost, 4 full (06 R133) -/
  kind : Nat
  name : Nat
  gen : Nat
  /-- the sender's own name and generation -/
  own : BitVec 32
  body : List Word
  target : Nat
  hops : Nat
  due : Nat
  deriving DecidableEq, Repr

/-- One direction pair of a Stratus link (18 R310-R312, 24 R376). -/
structure Link where
  up : Bool
  failed : Bool
  txSeq : Nat
  rxSeq : Nat
  /-- the last 1,024 groups sent, and the SEQ after the last that is acknowledged -/
  replay : List (Nat × Nat × FlitGroup)
  acked : Nat
  lastAck : Nat
  resends : Tab Nat
  errors : Nat
  retrains : List Nat
  deriving DecidableEq, Repr

/-- The device clock (13 R245, R246). -/
structure Clock where
  n : Nat
  next : Nat
  steps : Nat
  /-- a request made in a chip mark's own cycle, for the next one -/
  late : Option Nat
  deriving DecidableEq, Repr

/-- The boot status register and what boot measured (24 R365-R367). -/
structure BootSt where
  phase : Nat
  fail : Nat
  rlvl : BitVec 16
  svn : BitVec 16
  digest : BitVec 256
  keyDigest : BitVec 256
  /-- the fetch has turned to fibre 0, and the cycle of its request -/
  fibre : Option Nat
  /-- the beats of an image that have come over fibre 0, and the image fetched, until it runs -/
  fetched : List Byte
  image : Option BootImage
  /-- the bytes of the running image, which boot service sends (24 R366) -/
  running : List Byte
  /-- the link on which boot service sends it, and the next beat -/
  serving : Option (Nat × Nat)
  /-- the failure for which the module leaves service once every partition is reset (24 R375, R379) -/
  leaving : Option Nat
  deriving DecidableEq, Repr

/-- A fuse entry (24 R368). -/
structure Fuse where
  skip : Bool
  repair : Bool
  pcol : Nat
  deriving DecidableEq, Repr

/-- Thermal bookkeeping (24 R377-R379): for how many evaluations in a row the step-up figures have held, and for how
many a step-down condition has held with N at 8. -/
structure Thermal where
  upFor : Nat
  downFor : Nat
  deriving DecidableEq, Repr

/-- Fabric manager state (24 R380): heartbeats missed by device, devices declared dead in this recovery, and its phase. -/
structure Fabric where
  members : List Nat
  missed : Tab Nat
  dead : List Nat
  /-- those of the dead whose identifier a spare has taken since -/
  replaced : List Nat
  /-- how each other device last told of its links: the device at the other end, and whether a link to it still works -/
  links : Tab (List (Nat × Bool))
  phase : Nat
  /-- this device is the spare of the recovery under way -/
  spare : Bool
  /-- the cycle of the last heartbeat that this device sent -/
  lastBeat : Nat
  deriving DecidableEq, Repr

/-- Where an error was found (24 R370, R373). -/
inductive LogPlace where
  /-- a memory with SECDED, by memory key -/
  | memory
  /-- a window register or a queue entry, by 64 times the core plus the register's number -/
  | register
  /-- a register of the window file as its port moves it (05 R106), by 64 times the core plus its place in the file -/
  | window
  /-- the matrix array of an octet: a checksum mismatch -/
  | array
  /-- an operand slot: a word of bad parity, by memory key -/
  | slot
  /-- a Cirrus packet of a partition, by the pointer (in an operand slot, the memory key) to which its beat goes -/
  | packet (part : Nat)
  /-- a Stratus link -/
  | link
  /-- the host link of a partition -/
  | host
  deriving DecidableEq, Repr

/-- An entry of the error log (24 R373): the place of the error, whether it was corrected, its address and CCYC. -/
structure LogEnt where
  place : LogPlace
  correctable : Bool
  key : Nat
  cycle : Nat
  deriving DecidableEq, Repr

/-- What the device reports to firmware or the host. -/
inductive Report where
  /-- a domain fault (13 R243, 22 R348): whether the host gets it too, the entry, TASK, the fault, and CCYC -/
  | domain (host : Bool) (bind task : Nat) (f : DomFault) (cycle : Nat)
  | brk (bind core : Nat) (half : Half) (n : Nat) (pc : BitVec 32)
  | notClean (bind : Nat)
  | pageFault (xfer : Nat) (addr : Word)
  | postedRefusal (core : Nat) (entry : Nat) (tval : Word)
  | deadline (part nid : Nat)
  | fabricFault (part nid die : Nat)
  /-- an acknowledgement or a NAK on a link: a KIND 15 group, which carries no SEQ of its own (18 R312) -/
  | linkControl (link : Nat) (nak : Bool) (seq : BitVec 32)
  | mergeConflict (part : Nat) (addr taskA taskB count : Nat)
  | endStatus (part : Nat) (val : Word)
  | interfaceReport (part : Nat) (windows queues : List Nat)
  | attestation (part : Nat) (romv : BitVec 16) (digest config : BitVec 256) (chain : BitVec 3072)
  /-- the boot status register, the answer to GET_VERSION, the error log, and a partition's part of it (24 R367, R373) -/
  | bootStatus (val : Word)
  | version (val : BitVec 64)
  | errorLog (l : List LogEnt)
  | partLog (part : Nat) (l : List LogEnt)
  | taps (readings : List (Nat × Nat))
  /-- the fabric manager sends a device a heartbeat (24 R380) -/
  | heartbeat (device : Nat)
  /-- a flit group leaves on a link -/
  | groupSent (kind link : Nat) (g : FlitGroup)
  deriving DecidableEq, Repr

/-- The unit that the word or event being executed concerns: the issuing stream of a word and the word's bits; the
domain, partition, link, transfer and so on of an event (log 6). -/
structure Focus where
  core : Nat
  half : Half
  bits : Nat
  bind : Nat
  part : Nat
  nid : Nat
  fkey : Nat
  link : Nat
  xfer : Nat
  beat : Nat
  window : Nat
  region : BitVec 32
  deriving DecidableEq, Repr

/-- What comes from outside the device: an event, a write of the host into host or HBM memory, or a setting. -/
inductive Input where
  | event (f : Focus) (i : Instr)
  | hostWrite (key : Nat) (bytes : List Byte)
  /-- what the host allows and firmware sets for the whole device: its identifier (18 R313), boot service (24 R366), heater tuning in host-assisted
  mode (24 R374), and the fabric's members (24 R380) -/
  | settings (device : Nat) (bootService heaterHost : Bool) (members : List Nat)
  /-- the 320 bytes of a flit group reach a link (18 R311) -/
  | wire (link : Nat) (bytes : List Byte)
  /-- a wavelength of a home channel loses lock (24 R375) -/
  | lockLost (channel wave : Nat)
  /-- the host reads the boot status register, asks GET_VERSION, or reads the error log; a partition reads its part (24
  R367, R373) -/
  | readStatus
  | getVersion
  | readLog
  | readPartLog (part : Nat)
  deriving DecidableEq, Repr

/-- A refresh that the HBM forces outside its windows (13 R234): its slice, the cycle after its last, and by how many
cycles the commands that meet it complete late. -/
structure Refresh where
  stack : Nat
  slice : Nat
  ends : Nat
  delay : Nat
  deriving DecidableEq, Repr

/-- Device-wide state. -/
structure Device where
  /-- this device's identifier (18 R313) -/
  id : Nat
  clock : Clock
  boot : BootSt
  fuses : Tab Fuse
  fuseMapOk : Bool
  /-- repairs that take effect at the next boot -/
  fuseNext : Tab Fuse
  /-- the notify windows: partition and queue (21 R332) -/
  windows : Tab (Nat × Nat)
  links : Tab Link
  /-- the device and die at the other end of each link, and the link of each route, by stratum die and destination (18
  R310) -/
  wiring : Tab (Nat × Nat)
  routes : Tab Nat
  /-- live wavelengths of the Cirrus home channels that have lost any (24 R375) -/
  wavelengths : Tab (List Nat)
  /-- CRC failures of packets: channel, wavelength and cycle -/
  crcFails : List (Nat × Nat × Nat)
  /-- cores found failing, by layer, physical row and physical column (24 R369) -/
  failing : List (Nat × Nat × Nat)
  /-- the cycle of the last scrub of HBM (24 R373), and how often group keys were agreed (22 R359) -/
  lastScrub : Nat
  keyGen : Nat
  removals : List (Nat × Nat)
  /-- forced refreshes under way (13 R234) -/
  refreshes : List Refresh
  heaters : Tab Nat
  heaterHost : Bool
  thermal : Thermal
  fabric : Fabric
  log : List LogEnt
  bootService : Bool
  nextKey : Nat
  lastChip : Nat
  /-- CCYC plus one of the last chip mark whose clock step was made -/
  lastClock : Nat
  /-- the partition whose turn is next (21 R335) -/
  nextPart : Nat
  /-- groups of epochs that this device has not started, with their KINDs (18 R317) -/
  early : List (Nat × FlitGroup)
  deriving DecidableEq, Repr

/-- The machine. -/
structure State where
  ccyc : Nat
  cur : Focus
  mem : Memory
  ecc : Tab Ecc
  /-- the key under which a 256-byte HBM unit is encrypted (14 R257) -/
  unitKeys : Tab Nat
  cores : Tab Core
  octets : Tab Octet
  binds : Tab Bind
  parts : Tab Part
  xfers : List Xfer
  colls : List Coll
  net : List NetMsg
  agenda : List AEnt
  seq : Nat
  dev : Device
  inputs : List (Nat × Input)
  reports : List Report
  deriving DecidableEq, Repr

/-- Why the machine stops with a fault. -/
inductive Fault where
  /-- An event names a unit the device does not have, such as core 5,000 (raised by the meanings of events; safe: no
  device has such an event). -/
  | noSuchUnit
  deriving DecidableEq, Repr

/-- Why an instruction has no meaning. -/
inductive Refusal where
  /-- The instruction's meaning is not written (raised by `exec`; safe). -/
  | notModelled (mnemonic : String)
  deriving DecidableEq, Repr

/-- Trap registers at reset (09 R186); TVEC and DBG come from a launch (log 1). -/
def TrapRegs.init : TrapRegs :=
  { async := false, sub := 0, code := 0, tpc := 0, tval := 0, priv := false, pPriv := false, scnt := 0, tvec := 0,
    tscr := 0, dbg := false, tcyc := 0, rstValid := false, rstPc := 0, rstCy := 0 }

/-- A stream's Caddy state at the start (10 R203, R207). -/
def CaddyStream.init : CaddyStream :=
  { next := 0, unsealed := [], batches := [], err := 0, ebatch := 0, pos := 0, released := [] }

/-- A stream that is not there, with the reset values of its registers (02 R43, R44). -/
def Stream.init : Stream :=
  { run := .absent, pc := 0, wake := 0, scnt := 0, skip := 0, pending := none, afterPark := false, parkPc := 0,
    watch := 0, cwaitN := 0, sample := .none, rm := 0, ovf := false, wptr := 0, rbot := 0, rcnt := 4, wlimit := 16,
    traps := .init, pend := [], caddy := .init, follows := false, taken := none, issued := [] }

/-- The registers at reset: zero (02 R25). -/
def Regs.init : Regs :=
  { g := Vector.replicate 8 0, ix := 0, lk := 0, a := Vector.replicate 8 0, k := Vector.replicate 4 0,
    oxA := Vector.replicate 8 0, oxX := Vector.replicate 8 0, v := Vector.replicate 16 0,
    win := Vector.replicate 64 0, winBad := 0, sw := Vector.replicate 16 0, swBad := 0, swIx := 0,
    swLk := 0 }

/-- The shared control registers at reset (02 R42-R44, 22 R351, R352; log 1 for WSIZE and BASE). -/
def Ctl.init : Ctl :=
  { stopmax := 64, slipCnt := 0, slipMax := 16, wsize := 4, wbase := 0, rwin := 15, epSt := 0, epMove := false,
    epName := 0, epGen := 0, gseed := 0, gstrm := 0, role := 0, dir := 0, hop := 0 }

/-- A closed journal entry. -/
def Posted.init : Posted := { isOpen := false, refused := false, reason := 0, half := .a, dst := 0 }

/-- An undeclared tile. -/
def Tile.init : Tile :=
  { st := .undeclared, tbase := 0, th := 0, tw := 0, lh := 0, lw := 0, fkey := 0, ncat := 0, wrap := false, nb := 0,
    sf := 0, y0 := 0, x0 := 0, cbase := 0, sw := 0, colours := 0, rate := 0, rateNext := none, routine := .none,
    sweep := 0, snaps := 0, flipPend := false, snapPend := none, snapCopy := false, site := 0, updating := false,
    draws := 0, lastUpdate := 0, stopAt := 0, halo := [] }

/-- A core at reset. -/
def Core.init : Core :=
  { regs := .init, ql0 := [], ql1 := [], ql2 := [], qs0 := [], qs1 := [], sa := .init, sx := .init, sw := .init,
    ctl := .init, psj := Vector.replicate 16 Posted.init, sendBuf := [], launches := [], tile := .init,
    popCyc := 0, pops := Vector.replicate 5 0, bankCyc := 0, banks := [], bound := none, last := none }

/-- An accumulator slot at reset: FP32, no block, zero (08 R165). -/
def Acc.init : Acc := { fmt := 6, bl := 0, sr := false, live := false, poison := false, owner := none }

/-- A free, empty operand slot. -/
def OpSlot.init : OpSlot := { tag := 0, claim := none }

/-- An octet's matrix unit at reset: no wheel owner, nothing under way. -/
def Octet.init : Octet :=
  { wheel := Vector.replicate 16 8, slots := [], accs := Vector.replicate 8 Acc.init, cmds := [], fills := [],
    paths := [], backs := [], arrayErr := false, badParity := [] }

/-- A free bind entry. -/
def Bind.init : Bind :=
  { st := .free, part := 0, level := 0, layer := 0, unit := 0, task := 0, handle := 0, record := [],
    origin := .queue 0, slots := [], sched := [], pubs := [], pages := [], installs := [], overflow := [],
    merges := [], fields := [], view := [], viewPages := 0, base := 0, freeze := none, lastMark := 0,
    preempt := none, brk := [], fault := none, ended := false, ending := none, mjoin := 1, boundAt := 0, traceAt := none,
    release := false, quiet := false }

/-- A registry entry that nothing has named. -/
def RegEnt.init : RegEnt :=
  { st := .free, last := 0, epoch := 0, sbase := 0, dbase := 0, ord := 0, op := 0, et := 0, len := 0, dln := 0,
    grp := 0 }

/-- A replay of which nothing is bound. -/
def Replay.init : Replay := { pos := 0, taken := [], stopped := false }

/-- A partition that firmware has not created. -/
def Part.init : Part :=
  { present := false, octets := [], pages := [], tokens := [], msgToken := 0, ctlToken := 0, reportToken := 0, buffers := 0,
    lastSend := 0, keys := [], gcm := 0, groupKeys := [], reset := none,
    tdisp := .configUnlocked, ide := none, registry := [], directory := [], queues := [],
    waiting := [], taskCtr := 0, childCount := [], traces := [], replays := [], joins := [], turn := 0, discarded := 0, eviction := [], groups := [],
    leavers := [], mergeCount := [], modes := 0 }

/-- A link before training. -/
def Link.init : Link :=
  { up := false, failed := false, txSeq := 0, rxSeq := 0, replay := [], acked := 0, lastAck := 0, resends := [], errors := 0,
    retrains := [] }

/-- A fuse entry that skips nothing. -/
def Fuse.init : Fuse := { skip := false, repair := false, pcol := 0 }

/-- The focus at reset: core 0, X-half. -/
def Focus.init : Focus :=
  { core := 0, half := .x, bits := 0, bind := 0, part := 0, nid := 0, fkey := 0, link := 0, xfer := 0, beat := 0,
    window := 0, region := 0 }

/-- The device at reset: the boot ROM has not run (24 R365, R367), the clock runs at sixteen sixteenths (13 R246), and
the fuse map skips no column and the identifier is 0 (log 4). -/
def Device.init : Device :=
  { id := 0,
    clock := { n := 16, next := 16, steps := 0, late := none },
    boot := { phase := 0, fail := 0, rlvl := 0, svn := 0, digest := 0, keyDigest := 0, fibre := none, fetched := [],
              image := none, running := [], serving := none, leaving := none },
    fuses := [], fuseMapOk := true, fuseNext := [], windows := [], links := [], wiring := [], routes := [], wavelengths := [],
    crcFails := [], failing := [], lastScrub := 0, keyGen := 0, removals := [], refreshes := [], heaters := [], heaterHost := false, thermal := { upFor := 0, downFor := 0 },
    fabric := { members := [], missed := [], dead := [], replaced := [], links := [], phase := 0, spare := false, lastBeat := 0 }, log := [],
    bootService := false, nextKey := 1, lastChip := 0, lastClock := 0, nextPart := 0, early := [] }

/-- The machine right after reset: CCYC 0, empty memories, no partition, no domain, the boot ROM about to run. -/
def State.reset : State :=
  { ccyc := 0, cur := .init, mem := [], ecc := [], unitKeys := [], cores := [], octets := [], binds := [],
    parts := [], xfers := [], colls := [], net := [], agenda := [], seq := 0, dev := .init, inputs := [],
    reports := [] }

end Sys2Proof.Machine
end

