-- ==== Sys2Proof/Machine/Bits.lean ====
section
/-!
DEFINITION. Bit fields, signs, byte order and sparse tables: the helpers that every other operation uses. Multi-byte
values are little-endian (00 R6).
-/

namespace Sys2Proof.Machine

/-- Bits [hi:lo] of a number. -/
def fld (w hi lo : Nat) : Nat := w / 2 ^ lo % 2 ^ (hi + 1 - lo)

/-- Bits [hi:lo] of a 64-bit word. -/
def wfld (w : Word) (hi lo : Nat) : Nat := fld w.toNat hi lo

/-- Bit `i` of a number. -/
def bitAt (w i : Nat) : Bool := w / 2 ^ i % 2 == 1

/-- The signed value of the low `n` bits. -/
def sval (w n : Nat) : Int :=
  let v := w % 2 ^ n
  if v < 2 ^ (n - 1) then v else (v : Int) - (2 ^ n : Nat)

/-- An integer as a 64-bit word, wrapped (03 R46). -/
def toWord (i : Int) : Word := BitVec.ofInt 64 i

/-- A truth value as the word 1 or 0. -/
def boolWord (b : Bool) : Word := if b then 1 else 0

/-- The low `n` bytes of a number, lowest address first. -/
def leBytes : Nat → Nat → List Byte
  | 0, _ => []
  | n + 1, v => BitVec.ofNat 8 v :: leBytes n (v / 256)

/-- The number that bytes hold, lowest address first. -/
def ofBytes : List Byte → Nat
  | [] => 0
  | b :: bs => b.toNat + 256 * ofBytes bs

/-- A number put into a rising list. -/
def insertNat (x : Nat) : List Nat → List Nat
  | [] => [x]
  | y :: r => if x < y then x :: y :: r else if x = y then y :: r else y :: insertNat x r

/-- Numbers in rising order, without repeats. -/
def sortNat (l : List Nat) : List Nat := l.foldr insertNat []

/-- Look up a key in a table, with the table's default. -/
def tget {α : Type} (d : α) : Tab α → Nat → α
  | [], _ => d
  | (i, x) :: r, k => if i = k then x else tget d r k

/-- Set a key of a table, keeping rising order. -/
def tset {α : Type} : Tab α → Nat → α → Tab α
  | [], k, x => [(k, x)]
  | (i, y) :: r, k, x =>
    if k < i then (k, x) :: (i, y) :: r
    else if i = k then (k, x) :: r
    else (i, y) :: tset r k x

/-- Remove a key of a table. -/
def tdel {α : Type} (t : Tab α) (k : Nat) : Tab α := t.filter (fun p => p.1 ≠ k)

/-- Look up a key that may be absent. -/
def tfind {α : Type} : Tab α → Nat → Option α
  | [], _ => none
  | (i, x) :: r, k => if i = k then some x else tfind r k

/-- Element `i` of a vector, or `d` beyond its end. -/
def vget {α : Type} {n : Nat} (d : α) (v : Vector α n) (i : Nat) : α := v.toList.getD i d

/-- A vector with element `i` replaced; unchanged beyond its end. -/
def vput {α : Type} {n : Nat} (v : Vector α n) (i : Nat) (x : α) : Vector α n := v.setIfInBounds i x

/-- The value that `f` computes of a table's entry, put back. -/
def tmod {α : Type} (d : α) (t : Tab α) (k : Nat) (f : α → α) : Tab α := tset t k (f (tget d t k))

/-- Words of the aligned 64-bit words that `n` bytes from `key` touch: first and last word index. -/
def wordSpan (key n : Nat) : Nat × Nat := (key / 8, (key + n - 1) / 8)

/-- The numbers from `lo` for `n` steps. -/
def rangeFrom (lo n : Nat) : List Nat := (List.range n).map (lo + ·)

/-- A list cut into pieces of `n`, with fuel. -/
def chunks {α : Type} (n : Nat) : Nat → List α → List (List α)
  | 0, _ => []
  | _, [] => []
  | f + 1, l => l.take n :: chunks n f (l.drop n)

/-- Rotate a 32-bit value left (03 R57). -/
def rotl32 (v : BitVec 32) (n : Nat) : BitVec 32 := v.rotateLeft n

end Sys2Proof.Machine
end

