-- ==== Sys2Proof/Machine/Gen.lean ====
section
/-!
DEFINITION. The site-keyed generator G (03 R57), and SHA-256, by which signatures are computed (21 R337).
-/

namespace Sys2Proof.Machine

/-- The round constants GK[i] of 03 R57. -/
def genKeys : List (BitVec 32) := [0x7A3D1C65, 0x4B91E2D7, 0x1E6C8F43, 0x6D05B3A9, 0x3F8457CB, 0x52E9A01F]

/-- The four words of the generator's state. -/
structure GenSt where
  x0 : BitVec 32
  x1 : BitVec 32
  x2 : BitVec 32
  x3 : BitVec 32
  deriving DecidableEq, Repr

/-- One round of G (03 R57). -/
def genRound (g : GenSt) (k : BitVec 32) : GenSt :=
  let x0 := g.x0 + g.x1
  let x3 := rotl32 (g.x3 ^^^ x0) 12
  let x2 := g.x2 + x3 + k
  let x1 := rotl32 (g.x1 ^^^ x2) 8
  { x0 := x0, x1 := x1, x2 := x2, x3 := x3 }

/-- G(seed, strm, idx): one 32-bit output (03 R57). -/
def gen (seed : Word) (strm : Nat) (idx : Nat) : BitVec 32 :=
  let g0 : GenSt :=
    { x0 := BitVec.ofNat 32 (wfld seed 31 0), x1 := BitVec.ofNat 32 (wfld seed 63 32),
      x2 := BitVec.ofNat 32 (strm % 65536 * 65536 + fld idx 47 32), x3 := BitVec.ofNat 32 (fld idx 31 0) }
  let g := genKeys.foldl genRound g0
  g.x1 ^^^ g.x3

/-- SHA-256's round constants, first half (FIPS 180-4, which 21 R337 names). -/
def shaK0 : List (BitVec 32) :=
  [0x428a2f98, 0x71374491, 0xb5c0fbcf, 0xe9b5dba5, 0x3956c25b, 0x59f111f1, 0x923f82a4, 0xab1c5ed5] ++
  [0xd807aa98, 0x12835b01, 0x243185be, 0x550c7dc3, 0x72be5d74, 0x80deb1fe, 0x9bdc06a7, 0xc19bf174] ++
  [0xe49b69c1, 0xefbe4786, 0x0fc19dc6, 0x240ca1cc, 0x2de92c6f, 0x4a7484aa, 0x5cb0a9dc, 0x76f988da] ++
  [0x983e5152, 0xa831c66d, 0xb00327c8, 0xbf597fc7, 0xc6e00bf3, 0xd5a79147, 0x06ca6351, 0x14292967]

/-- SHA-256's round constants, second half. -/
def shaK1 : List (BitVec 32) :=
  [0x27b70a85, 0x2e1b2138, 0x4d2c6dfc, 0x53380d13, 0x650a7354, 0x766a0abb, 0x81c2c92e, 0x92722c85] ++
  [0xa2bfe8a1, 0xa81a664b, 0xc24b8b70, 0xc76c51a3, 0xd192e819, 0xd6990624, 0xf40e3585, 0x106aa070] ++
  [0x19a4c116, 0x1e376c08, 0x2748774c, 0x34b0bcb5, 0x391c0cb3, 0x4ed8aa4a, 0x5b9cca4f, 0x682e6ff3] ++
  [0x748f82ee, 0x78a5636f, 0x84c87814, 0x8cc70208, 0x90befffa, 0xa4506ceb, 0xbef9a3f7, 0xc67178f2]

/-- SHA-256's initial hash value. -/
def shaInit : List (BitVec 32) :=
  [0x6a09e667, 0xbb67ae85, 0x3c6ef372, 0xa54ff53a, 0x510e527f, 0x9b05688c, 0x1f83d9ab, 0x5be0cd19]

/-- Rotate a 32-bit value right. -/
def rotr32 (v : BitVec 32) (n : Nat) : BitVec 32 := v.rotateRight n

/-- The message schedule: 48 more words after the block's sixteen, kept newest first. -/
def shaExtend : Nat → List (BitVec 32) → List (BitVec 32)
  | 0, w => w
  | n + 1, w =>
    let w2 := w.getD 1 0
    let w15 := w.getD 14 0
    let s0 := rotr32 w15 7 ^^^ rotr32 w15 18 ^^^ (w15 >>> 3)
    let s1 := rotr32 w2 17 ^^^ rotr32 w2 19 ^^^ (w2 >>> 10)
    shaExtend n ((w.getD 15 0 + s0 + w.getD 6 0 + s1) :: w)

/-- One round over the eight working variables. -/
def shaRound (v : List (BitVec 32)) (kw : BitVec 32 × BitVec 32) : List (BitVec 32) :=
  match v with
  | [a, b, c, d, e, f, g, h] =>
    let s1 := rotr32 e 6 ^^^ rotr32 e 11 ^^^ rotr32 e 25
    let ch := (e &&& f) ^^^ (~~~e &&& g)
    let t1 := h + s1 + ch + kw.1 + kw.2
    let s0 := rotr32 a 2 ^^^ rotr32 a 13 ^^^ rotr32 a 22
    let mj := (a &&& b) ^^^ (a &&& c) ^^^ (b &&& c)
    [t1 + (s0 + mj), a, b, c, d + t1, e, f, g]
  | v => v

/-- The value of bytes, highest first. -/
def beVal (bs : List Byte) : Nat := bs.foldl (fun a b => a * 256 + b.toNat) 0

/-- One block of 64 bytes. -/
def shaBlock (h : List (BitVec 32)) (blk : List Byte) : List (BitVec 32) :=
  let w := (chunks 4 16 blk).map (fun q => BitVec.ofNat 32 (beVal q))
  let sched := (shaExtend 48 w.reverse).reverse
  let v := ((shaK0 ++ shaK1).zip sched).foldl shaRound h
  (h.zip v).map (fun p => p.1 + p.2)

/-- A number as `n` bytes, highest first. -/
def beBytes (n v : Nat) : List Byte := (leBytes n v).reverse

/-- SHA-256 of a byte string: 32 bytes. -/
def sha256 (bs : List Byte) : List Byte :=
  let n := bs.length
  let pad := bs ++ [0x80] ++ List.replicate ((119 - n % 64) % 64) 0 ++ beBytes 8 (8 * n)
  let h := (chunks 64 (pad.length / 64 + 1) pad).foldl shaBlock shaInit
  (h.map (fun x => beBytes 4 x.toNat)).flatten

end Sys2Proof.Machine
end

