-- ==== Sys2Proof/Machine/Float.lean ====
section
/-!
DEFINITION. Floating-point values as exact numbers, their rounding into FP32, BF16 and E4M3, conversions to integers,
and the four transcendental functions (03 R47-R64). A result whose exact value has no finite expansion carries a last
bit that stands for "and something more" below at least sixty bits of it, so every rounding comes out as of the exact
value.
-/

namespace Sys2Proof.Machine

/-- A value: NaN, an infinity, or (-1)^neg * m * 2^e, with signed zeros. -/
inductive FVal where
  | nan
  | inf (neg : Bool)
  | fin (neg : Bool) (m : Nat) (e : Int)
  deriving DecidableEq, Repr

/-- Rounding modes (02 R44), and stochastic rounding with the 32 random bits of the element (03 R59). -/
inductive Rnd where
  | even | zero | up | down
  | sto (g : Nat)
  deriving DecidableEq, Repr

/-- The mode that RND.RM selects (02 R44). -/
def Rnd.ofRm (rm : BitVec 2) : Rnd :=
  match rm.toNat with
  | 0 => .even
  | 1 => .zero
  | 2 => .up
  | _ => .down

/-- A binary format: significant bits, exponent of the least subnormal's last bit, random bits of R59. -/
structure Fmt where
  p : Nat
  emin : Int
  n : Nat
  deriving DecidableEq, Repr

/-- FP32 (03 R47). -/
def f32 : Fmt := { p := 24, emin := -149, n := 4 }
/-- BF16 (03 R48). -/
def bf16 : Fmt := { p := 8, emin := -133, n := 4 }
/-- E4M3 (03 R50). -/
def e4m3 : Fmt := { p := 4, emin := -9, n := 3 }

/-- Bits needed to write a number. -/
def bitLen (m : Nat) : Nat := if m = 0 then 0 else Nat.log2 m + 1

/-- Whether `rem / 2^sh` of a step above `m0` rounds away from zero. -/
def roundsUp (rnd : Rnd) (n : Nat) (neg : Bool) (m0 rem sh : Nat) : Bool :=
  match rnd with
  | .even => rem * 2 > 2 ^ sh || (rem * 2 == 2 ^ sh && m0 % 2 == 1)
  | .zero => false
  | .up => !neg && rem != 0
  | .down => neg && rem != 0
  | .sto g => g % 2 ^ n < rem * 2 ^ n / 2 ^ sh

/-- Rounding a magnitude m * 2^e into a format with no upper bound: significand and exponent (03 R47, R51, R59). -/
def roundMag (f : Fmt) (rnd : Rnd) (neg : Bool) (m : Nat) (e : Int) : Nat × Int :=
  let q := max (e + bitLen m - f.p) f.emin
  if q ≤ e then (m * 2 ^ (e - q).toNat, q)
  else
    let sh := (q - e).toNat
    let m0 := m / 2 ^ sh
    let r := if roundsUp rnd f.n neg m0 (m % 2 ^ sh) sh then m0 + 1 else m0
    if r = 2 ^ f.p then (2 ^ (f.p - 1), q + 1) else (r, q)

/-- The exponent and fraction bits of a rounded magnitude, as one number that rises with the magnitude. -/
def magBits (f : Fmt) (r : Nat × Int) : Nat := (r.2 - f.emin).toNat * 2 ^ (f.p - 1) + r.1

/-- Rounding into FP32 or BF16: the bits without width (03 R47-R49, R56). `clamp` is CLAMP of 05 R99. -/
def packIeee (f : Fmt) (rnd : Rnd) (clamp : Bool) (v : FVal) : Nat :=
  let inf := 255 * 2 ^ (f.p - 1)
  let sign := 256 * 2 ^ (f.p - 1)
  match v with
  | .nan => inf + 2 ^ (f.p - 2)
  | .inf neg => (if neg then sign else 0) + (if clamp then inf - 1 else inf)
  | .fin neg m e =>
    let s := if neg then sign else 0
    if m = 0 then s
    else
      let b := magBits f (roundMag f rnd neg m e)
      if b < inf then s + b
      else
        let big := match rnd with
          | .zero => true
          | .up => neg
          | .down => !neg
          | _ => false
        s + (if clamp || big then inf - 1 else inf)

/-- Rounding into E4M3 (03 R51); CLAMP gives 480 whatever OVF holds (05 R99). -/
def packE4m3 (rnd : Rnd) (ovf clamp : Bool) (v : FVal) : Nat :=
  let tooBig (neg : Bool) : Nat := if ovf && !clamp then 0x80 else if neg then 0xFF else 0x7F
  match v with
  | .nan => 0x80
  | .inf neg => tooBig neg
  | .fin neg m e =>
    if m = 0 then 0
    else
      let b := magBits e4m3 (roundMag e4m3 rnd neg m e)
      if b = 0 then 0 else if b > 0x7F then tooBig neg else if neg then b + 128 else b

/-- SAT of 05 R99 on FP32 or BF16 bits: limited to [+0, 1.0]. -/
def satIeee (f : Fmt) (b : Nat) : Nat :=
  let one := 127 * 2 ^ (f.p - 1)
  let inf := 255 * 2 ^ (f.p - 1)
  if b ≥ 256 * 2 ^ (f.p - 1) then 0 else if b > inf then 0 else if b > one then one else b

/-- SAT of 05 R99 on E4M3 bits. -/
def satE4m3 (b : Nat) : Nat := if b ≥ 128 then 0 else if b > 0x38 then 0x38 else b

/-- The value of FP32 or BF16 bits (03 R47, R48). -/
def unpackIeee (f : Fmt) (b : Nat) : FVal :=
  let neg := b / (256 * 2 ^ (f.p - 1)) % 2 == 1
  let ex := b / 2 ^ (f.p - 1) % 256
  let fr := b % 2 ^ (f.p - 1)
  if ex = 255 then (if fr = 0 then .inf neg else .nan)
  else if ex = 0 then .fin neg fr f.emin
  else .fin neg (2 ^ (f.p - 1) + fr) (f.emin + ex - 1)

/-- The value of an E4M3 byte (03 R50). -/
def unpackE4m3 (b : Nat) : FVal :=
  if b % 256 = 0x80 then .nan
  else
    let neg := b / 128 % 2 == 1
    let ex := b / 8 % 16
    let fr := b % 8
    if ex = 0 then .fin (neg && fr != 0) fr (-9) else .fin neg (8 + fr) (ex - 10)

/-- An integer's value. -/
def FVal.ofInt (i : Int) : FVal := .fin (i < 0) i.natAbs 0

/-- Whether a value is a zero. -/
def FVal.isZero : FVal → Bool
  | .fin _ m _ => m == 0
  | _ => false

/-- |v| (05 R99). -/
def FVal.abs : FVal → FVal
  | .nan => .nan
  | .inf _ => .inf false
  | .fin _ m e => .fin false m e

/-- -v. -/
def FVal.neg : FVal → FVal
  | .nan => .nan
  | .inf n => .inf (!n)
  | .fin n m e => .fin (!n) m e

/-- v * 2^k. -/
def FVal.scale (v : FVal) (k : Int) : FVal :=
  match v with
  | .fin n m e => .fin n m (e + k)
  | v => v

/-- The exact sum (07 R139): an exact zero sum of opposite signs is +0, or -0 when rounding down. -/
def FVal.add (rnd : Rnd) (x y : FVal) : FVal :=
  match x, y with
  | .nan, _ => .nan
  | _, .nan => .nan
  | .inf a, .inf b => if a = b then .inf a else .nan
  | .inf a, _ => .inf a
  | _, .inf b => .inf b
  | .fin na ma ea, .fin nb mb eb =>
    let e := min ea eb
    let sa : Int := (if na then -1 else 1) * (ma * 2 ^ (ea - e).toNat : Nat)
    let sb : Int := (if nb then -1 else 1) * (mb * 2 ^ (eb - e).toNat : Nat)
    let t := sa + sb
    if t = 0 then
      (if ma = 0 ∧ mb = 0 ∧ na = nb then .fin na 0 0 else .fin (rnd == .down) 0 0)
    else .fin (t < 0) t.natAbs e

/-- The exact product (07 R139). -/
def FVal.mul (x y : FVal) : FVal :=
  match x, y with
  | .nan, _ => .nan
  | _, .nan => .nan
  | .inf a, .inf b => .inf (a != b)
  | .inf a, .fin b m _ => if m = 0 then .nan else .inf (a != b)
  | .fin a m _, .inf b => if m = 0 then .nan else .inf (a != b)
  | .fin a ma ea, .fin b mb eb => .fin (a != b) (ma * mb) (ea + eb)

/-- x * y + z, exact (07 R140). -/
def FVal.fma (rnd : Rnd) (x y z : FVal) : FVal := (x.mul y).add rnd z

/-- Whether x < y as numbers, zeros equal; false with a NaN (07 R142). -/
def FVal.lt (x y : FVal) : Bool :=
  match x, y with
  | .nan, _ => false
  | _, .nan => false
  | .inf a, .inf b => a && !b
  | .inf a, _ => a
  | _, .inf b => !b
  | .fin na ma ea, .fin nb mb eb =>
    let e := min ea eb
    let sa : Int := (if na then -1 else 1) * (ma * 2 ^ (ea - e).toNat : Nat)
    let sb : Int := (if nb then -1 else 1) * (mb * 2 ^ (eb - e).toNat : Nat)
    sa < sb

/-- Whether x = y as numbers; false with a NaN (07 R142). -/
def FVal.eq (x y : FVal) : Bool :=
  match x, y with
  | .nan, _ => false
  | _, .nan => false
  | x, y => !(x.lt y) && !(y.lt x)

/-- The sign bit of a value that is no NaN. -/
def FVal.sign : FVal → Bool
  | .nan => false
  | .inf n => n
  | .fin n _ _ => n

/-- Minimum (07 R139): NaN wins, and -0 is below +0. -/
def FVal.min (x y : FVal) : FVal :=
  match x, y with
  | .nan, _ => .nan
  | _, .nan => .nan
  | x, y => if x.lt y then x else if y.lt x then y else if x.sign then x else y

/-- Maximum (07 R139): NaN wins, and +0 is above -0. -/
def FVal.max (x y : FVal) : FVal :=
  match x, y with
  | .nan, _ => .nan
  | _, .nan => .nan
  | x, y => if x.lt y then y else if y.lt x then x else if x.sign then y else x

/-- A finite value rounded to an integer (03 R56; `n` random bits where stochastic). -/
def roundInt (rnd : Rnd) (n : Nat) (neg : Bool) (m : Nat) (e : Int) : Int :=
  let mag :=
    if 0 ≤ e then m * 2 ^ e.toNat
    else
      let sh := (-e).toNat
      let m0 := m / 2 ^ sh
      if roundsUp rnd n neg m0 (m % 2 ^ sh) sh then m0 + 1 else m0
  if neg then -(mag : Int) else mag

/-- An integer limited to a range. -/
def limit (lo hi v : Int) : Int := if v < lo then lo else if hi < v then hi else v

/-- A value converted to an integer of the range (03 R56): NaN gives 0, the rest is rounded and limited. -/
def FVal.toInt (rnd : Rnd) (lo hi : Int) : FVal → Int
  | .nan => 0
  | .inf n => if n then lo else hi
  | .fin n m e => limit lo hi (roundInt rnd 3 n m e)

/-- The integer square root of `n`, of at most `k` bits. -/
def isqrt (n : Nat) : Nat → Nat
  | k => (List.range k).reverse.foldl (fun r i => if (r + 2 ^ i) * (r + 2 ^ i) ≤ n then r + 2 ^ i else r) 0

/-- 1/x (03 R60, R64). -/
def FVal.rcp : FVal → FVal
  | .nan => .nan
  | .inf n => .fin n 0 0
  | .fin n m e =>
    if m = 0 then .inf n
    else
      let k := bitLen m + 64
      let q := 2 ^ k / m
      let st := if 2 ^ k % m = 0 then 0 else 1
      .fin n (2 * q + st) (-(k : Int) - 1 - e)

/-- 1/sqrt x (03 R60, R64). -/
def FVal.rsq : FVal → FVal
  | .nan => .nan
  | .inf n => if n then .nan else .fin false 0 0
  | .fin n m e =>
    if m = 0 then .inf n
    else if n then .nan
    else
      let m' := if e % 2 = 0 then m else 2 * m
      let e' := if e % 2 = 0 then e else e - 1
      let k := bitLen m' + 64
      let r := isqrt (2 ^ (2 * k) / m') (k + 2)
      let st := if r * r * m' = 2 ^ (2 * k) then 0 else 1
      .fin false (2 * r + st) (-(k : Int) - 1 - e' / 2)

/-- EXT[j], the integer nearest to 2^30 * 2^(j/64) (03 R63). -/
def extTable : List Nat :=
  [1073741824, 1085434106, 1097253708, 1109202018, 1121280436, 1133490379, 1145833280, 1158310587] ++
  [1170923762, 1183674286, 1196563654, 1209593378, 1222764986, 1236080024, 1249540052, 1263146652] ++
  [1276901417, 1290805962, 1304861917, 1319070932, 1333434672, 1347954824, 1362633090, 1377471191] ++
  [1392470869, 1407633882, 1422962010, 1438457051, 1454120821, 1469955159, 1485961921, 1502142985] ++
  [1518500250, 1535035634, 1551751076, 1568648537, 1585730000, 1602997467, 1620452965, 1638098541] ++
  [1655936265, 1673968228, 1692196547, 1710623359, 1729250827, 1748081133, 1767116489, 1786359126] ++
  [1805811301, 1825475297, 1845353420, 1865448001, 1885761398, 1906295993, 1927054196, 1948038440] ++
  [1969251188, 1990694927, 2012372174, 2034285470, 2056437387, 2078830522, 2101467502, 2124350982]

/-- RCT[j], the integer nearest to 2^30 / (64 + j) (03 R63). -/
def rctTable : List Nat :=
  [16777216, 16519105, 16268816, 16025997, 15790321, 15561476, 15339169, 15123124] ++
  [14913081, 14708792, 14510025, 14316558, 14128182, 13944699, 13765921, 13591669] ++
  [13421773, 13256072, 13094412, 12936648, 12782641, 12632257, 12485370, 12341860] ++
  [12201612, 12064515, 11930465, 11799361, 11671107, 11545611, 11422785, 11302546] ++
  [11184811, 11069503, 10956549, 10845877, 10737418, 10631107, 10526881, 10424678] ++
  [10324441, 10226113, 10129640, 10034970, 9942054, 9850842, 9761289, 9673350] ++
  [9586981, 9502140, 9418788, 9336885, 9256395, 9177281, 9099507, 9023041] ++
  [8947849, 8873899, 8801162, 8729608, 8659208, 8589935, 8521761, 8454660]

/-- LGT[j], the integer nearest to 2^32 * log2(2^24 / RCT[j]) (03 R63). -/
def lgtTable : List Nat :=
  [0, 96069020, 190671106, 283851056, 375650020, 466108877, 555266295, 643159096] ++
  [729822278, 815290319, 899595205, 982768642, 1064840516, 1145839473, 1225793115, 1304728223] ++
  [1382670547, 1459644602, 1535674397, 1610782323, 1684990385, 1758320561, 1830793204, 1902427852] ++
  [1973243592, 2043259464, 2112492813, 2180961217, 2248681363, 2315669467, 2381941177, 2447510936] ++
  [2512394625, 2576606228, 2640158804, 2703066107, 2765341417, 2826996890, 2888044633, 2948497255] ++
  [3008365451, 3067660903, 3126394454, 3184576654, 3242217088, 3299326818, 3355914612, 3411990015] ++
  [3467562710, 3522641844, 3577235326, 3631352401, 3685000338, 3738187700, 3790923020, 3843212712] ++
  [3895065126, 3946487813, 3997486772, 4048069207, 4098242132, 4148011623, 4197384953, 4246368419]

/-- floor(v * 2^24) of a finite value. -/
def floor24 (neg : Bool) (m : Nat) (e : Int) : Int :=
  let k := e + 24
  let s : Int := if neg then -(m : Int) else m
  if 0 ≤ k then s * (2 ^ k.toNat : Nat) else s / (2 ^ (-k).toNat : Nat)

/-- 2^x as the procedure of 03 R61 defines it, with the special operands of R64. -/
def FVal.exp2 : FVal → FVal
  | .nan => .nan
  | .inf n => if n then .fin false 0 0 else .inf false
  | .fin neg m e =>
    if m = 0 then .fin false 1 0
    else
      let x := floor24 neg m e
      if x < -150 * 16777216 then .fin false 0 0
      else if 128 * 16777216 ≤ x then .inf false
      else
        let n := x / 16777216
        let f := (x % 16777216).toNat
        let j := f / 2 ^ 18
        let u := f % 2 ^ 18
        let h3 := 238388332 * u / 2 ^ 24
        let h2 := (1031764991 + h3) * u / 2 ^ 24
        let h1 := (2977044472 + h2) * u / 2 ^ 24
        let p := 2 ^ 32 + h1
        .fin false (extTable.getD j 0 * p / 2 ^ 32) (n - 30)

/-- log2 x as the procedure of 03 R62 defines it, with the special operands of R64. -/
def FVal.log2 : FVal → FVal
  | .nan => .nan
  | .inf n => if n then .nan else .inf false
  | .fin neg m e =>
    if m = 0 then .inf true
    else if neg then .nan
    else
      let l := bitLen m
      let s := if l ≤ 24 then m * 2 ^ (24 - l) else m / 2 ^ (l - 24)
      let ex := e + l - 1
      let j := (s - 2 ^ 23) / 2 ^ 17
      let zz : Int := (s * rctTable.getD j 0 : Nat) - (2 ^ 47 : Nat)
      let z := zz / (2 ^ 15 : Nat)
      let p4 := -1549082005 * z / (2 ^ 32 : Nat)
      let p3 := (2065442673 + p4) * z / (2 ^ 32 : Nat)
      let p2 := (-3098164009 + p3) * z / (2 ^ 32 : Nat)
      let p1 := (6196328019 + p2) * z / (2 ^ 32 : Nat)
      let v := ex * (2 ^ 32 : Nat) + (lgtTable.getD j 0 : Int) + p1
      .fin (v < 0) v.natAbs (-32)

end Sys2Proof.Machine
end

