-- ==== Sys2Proof/Machine/Formats.lean ====
section
/-!
DEFINITION. Vector registers as elements (07 R137), the format list (04 R78), block scales and bit planes (03 R52-R55),
and the summation shapes of the matrix unit and `vdot16` (03 R65-R70).
-/

namespace Sys2Proof.Machine

/-- Element `e` of width `w` of a vector register (07 R137). -/
def velem (v : Vec) (w e : Nat) : Nat := v.toNat / 2 ^ (w * e) % 2 ^ w

/-- The vector register whose elements of width `w` are the list's, from element 0 on. -/
def vecOf (w : Nat) (l : List Nat) : Vec :=
  BitVec.ofNat 1024 (l.foldr (fun x a => x % 2 ^ w + 2 ^ w * a) 0)

/-- The bits of the lanes whose mask bit is set (02 R27). -/
def laneMask (m : BitVec 32) : Vec :=
  vecOf 32 ((List.range 32).map (fun i => if bitAt m.toNat i then 2 ^ 32 - 1 else 0))

/-- Whether element `e` of width `w` lies in an active lane. -/
def active (m : BitVec 32) (w e : Nat) : Bool := bitAt m.toNat (w * e / 32)

/-- The width of a format code of 04 R78. -/
def fmtWidth (t : Nat) : Nat :=
  match t with
  | 0 => 32 | 1 => 16 | 2 => 8 | 3 => 32 | 4 => 16 | 5 => 8 | 6 => 32 | 7 => 16 | _ => 8

/-- Whether a format code is a signed integer. -/
def fmtSigned (t : Nat) : Bool := t < 3
/-- Whether a format code is an integer. -/
def fmtInt (t : Nat) : Bool := t < 6

/-- The integer an element holds. -/
def intOf (t x : Nat) : Int := if fmtSigned t then sval x (fmtWidth t) else (x : Int)

/-- The range of an integer format. -/
def intRange (t : Nat) : Int × Int :=
  let w := fmtWidth t
  if fmtSigned t then (-(2 ^ (w - 1) : Nat), (2 ^ (w - 1) : Nat) - 1) else (0, (2 ^ w : Nat) - 1)

/-- The bits of an integer in `w` bits, wrapped (03 R46). -/
def wrapBits (w : Nat) (i : Int) : Nat := (i % (2 ^ w : Nat)).toNat

/-- The value an element holds, by format: FP32, BF16, E4M3, or an integer. -/
def valOf (t x : Nat) : FVal :=
  match t with
  | 6 => unpackIeee f32 x
  | 7 => unpackIeee bf16 x
  | 8 => unpackE4m3 x
  | 9 => .ofInt (sval x 8)
  | t => .ofInt (intOf t x)

/-- FP32 addition rounded to nearest even (03 R66). -/
def add32 (a b : Nat) : Nat :=
  packIeee f32 .even false ((unpackIeee f32 a).add .even (unpackIeee f32 b))

/-! ### Block scales -/

/-- Whether m * 2^e0 <= fmax * 2^e. -/
def fitsScale (fmax m : Nat) (e0 e : Int) : Bool :=
  let b := min e0 e
  m * 2 ^ (e0 - b).toNat ≤ fmax * 2 ^ (e - b).toNat

/-- The least exponent e with m * 2^e0 / 2^e <= fmax, raised to -126 (03 R55). -/
def scaleExp (fmax m : Nat) (e0 : Int) : Int :=
  let lo : Int := e0 + bitLen m - 10
  let e := match (List.range 12).find? (fun i : Nat => fitsScale fmax m e0 (lo + Int.ofNat i)) with
    | some i => lo + Int.ofNat i
    | none => lo
  max e (-126)

/-- The greatest magnitude of a list of finite values, as m * 2^e. -/
def maxMag (l : List FVal) : Nat × Int :=
  l.foldl (fun a v =>
    match v with
    | .fin _ m e => if (FVal.fin false a.1 a.2).lt (.fin false m e) then (m, e) else a
    | _ => a) (0, 0)

/-- Whether a value is a NaN or an infinity. -/
def FVal.special : FVal → Bool
  | .fin _ _ _ => false
  | _ => true

/-- A block's scale code and elements by the round-up rule (03 R55). `bpn` chooses BPN; `rnd i` is the rounding of the
block's element i. -/
def scaleBlock (bpn : Bool) (ovf : Bool) (rnd : Nat → Rnd) (l : List FVal) : Nat × List Nat :=
  if l.any FVal.special then (0xFF, l.map (fun _ => if bpn then 0x00 else 0x80))
  else if l.all FVal.isZero then (0, l.map (fun _ => 0))
  else
    let mm := maxMag l
    let e := scaleExp (if bpn then 127 else 480) mm.1 mm.2
    let one (p : FVal × Nat) : Nat :=
      let v := p.1.scale (-e)
      if bpn then wrapBits 8 (v.toInt (rnd p.2) (-127) 127)
      else packE4m3 (rnd p.2) ovf false v
    ((e + 127).toNat, l.zipIdx.map one)

/-- The value that a read of the first k planes of a BPN element delivers (03 R53). -/
def planeVal (k : Nat) (q : Int) : Int :=
  if k ≥ 8 then q
  else
    let s : Int := (2 ^ (8 - k) : Nat)
    q / s * s + (2 ^ (7 - k) : Nat)

/-- The byte at bit-plane position: element bytes of a block of B elements from its B bytes, plane stride B/8 (03 R52).
-/
def unplane (b : Nat) (bs : List Byte) : List Byte :=
  (List.range b).map fun i =>
    BitVec.ofNat 8 ((List.range 8).foldl (fun a p =>
      let byte := (bs.getD (p * (b / 8) + i / 8) 0).toNat
      a + (if bitAt byte (i % 8) then 2 ^ (7 - p) else 0)) 0)

/-- The B bytes of planes of a block of B elements (03 R52). -/
def toPlanes (b : Nat) (els : List Byte) : List Byte :=
  (List.range b).map fun o =>
    let p := o / (b / 8)
    let j := o % (b / 8)
    BitVec.ofNat 8 ((List.range 8).foldl (fun a i =>
      a + (if bitAt (els.getD (8 * j + i) 0).toNat (7 - p) then 2 ^ i else 0)) 0)

/-! ### Summation shapes -/

/-- An E4M3 element's significand and exponent (03 R65). -/
def elemE4m3 (b : Nat) : Elem :=
  match unpackE4m3 b with
  | .fin n m e => .fin (if n then -(m : Int) else m) e
  | _ => .nan

/-- A BF16 element's significand and exponent (03 R65). -/
def elemBf16 (b : Nat) : Elem :=
  match unpackIeee bf16 b with
  | .nan => .nan
  | .inf n => .inf n
  | .fin n m e => .fin (if n then -(m : Int) else m) e

/-- An element under a block's scale code: `none` where the tile has no scales (03 R54, R65). -/
def Elem.scaled (x : Elem) (code : Option Nat) : Elem :=
  match code with
  | none => x
  | some c =>
    if c = 0 then .fin 0 0
    else if c = 0xFF then .nan
    else match x with
      | .fin s e => .fin s (e + c - 127)
      | x => x

/-- The exact product (03 R65, R69). -/
def Elem.mul (x y : Elem) : Elem :=
  match x, y with
  | .nan, _ => .nan
  | _, .nan => .nan
  | .inf a, .inf b => .inf (a != b)
  | .inf a, .fin s _ => if s = 0 then .nan else .inf (a != (s < 0))
  | .fin s _, .inf b => if s = 0 then .nan else .inf ((s < 0) != b)
  | .fin s e, .fin t f => .fin (s * t) (e + f)

/-- A product as a value; a zero product is +0 (03 R65). -/
def Elem.val : Elem → FVal
  | .nan => .nan
  | .inf n => .inf n
  | .fin s e => .fin (s < 0) s.natAbs e

/-- Whether a product is a nonzero finite one. -/
def Elem.nonzero : Elem → Bool
  | .fin s _ => s != 0
  | _ => false

/-- The exponent of a product. -/
def Elem.exp : Elem → Int
  | .fin _ e => e
  | _ => 0

/-- Adder bits below the greatest product (03 R65): 12 for E4M3, 4 for BF16, 5 for BPN, by element format. -/
def adderW (ef : Nat) : Int :=
  match ef with
  | 8 => 12
  | 7 => 4
  | _ => 5

/-- The sum of a block of sixteen products in the truncating adder, as FP32 bits (03 R67, R69). -/
def blockSum (w : Int) (ps : List Elem) : Nat :=
  if ps.any (fun p => p == .nan) then 0x7FC00000
  else
    let pos := ps.any (fun p => p == .inf false)
    let neg := ps.any (fun p => p == .inf true)
    if pos && neg then 0x7FC00000
    else if pos then 0x7F800000
    else if neg then 0xFF800000
    else
      match ps.filter Elem.nonzero with
      | [] => 0
      | p :: r =>
        let qmax := r.foldl (fun a x => max a x.exp) p.exp
        let term (x : Elem) : Int :=
          match x with
          | .fin s e =>
            let sh := e - qmax + w
            if 0 ≤ sh then s * (2 ^ sh.toNat : Nat) else s / (2 ^ (-sh).toNat : Nat)
          | _ => 0
        let s := (p :: r).foldl (fun a x => a + term x) 0
        packIeee f32 .even false (.fin (s < 0) s.natAbs (qmax - w))

/-- One level of the pairwise tree (03 R68). -/
def treeLevel : List Nat → List Nat
  | a :: b :: r => add32 a b :: treeLevel r
  | l => l

/-- The pairwise tree over block sums, with fuel for its levels (03 R68). -/
def treeFold : Nat → List Nat → Nat
  | 0, l => l.headD 0
  | n + 1, l => if l.length ≤ 1 then l.headD 0 else treeFold n (treeLevel l)

/-- The new accumulator value of one output (08 R162): blocks of sixteen products in increasing k. DESIGN CHOICE (log 77):
a product that FP32 cannot hold is added exactly, without a rounding of its own (03 R66 calls its conversion exact). -/
def foldShape (shape : Nat) (w : Int) (acc : Nat) (blocks : List (List Elem)) : Nat :=
  match shape with
  | 0 => blocks.flatten.foldl (fun a p => packIeee f32 .even false ((unpackIeee f32 a).add .even p.val)) acc
  | 1 => blocks.foldl (fun a b => add32 a (blockSum w b)) acc
  | _ => add32 acc (treeFold 8 (blocks.map (blockSum w)))

end Sys2Proof.Machine
end

