-- ==== Sys2Proof/Machine/Mem.lean ====
section
/-!
DEFINITION. Memory as bytes by key, in one canonical form, with the check of every aligned 64-bit word (06 R121,
R122; 24 R370, R371), and the layout of the keys: every memory the spec gives the machine has its own range.
-/

namespace Sys2Proof.Machine

/-- The first key of a memory region. -/
def region (r : Nat) : Nat := r * 2 ^ 60

/-- Scratchpad byte `off` of a core (14 R251); a core's number is LAYER * 1024 + LCORE. -/
def spKey (core off : Nat) : Nat := region 1 + core * 2 ^ 20 + off
/-- Stage-ring byte (06 R130). -/
def ringKey (core off : Nat) : Nat := region 2 + core * 2 ^ 20 + off
/-- Byte `off` of column `col` = SLAY * 1024 + COL (14 R253). -/
def colKey (col off : Nat) : Nat := region 3 + col * 2 ^ 20 + off
/-- HBM byte by physical address (14 R257). -/
def hbmKey (pa : Nat) : Nat := region 4 + pa
/-- Host memory byte by physical address (14 R254). -/
def hostKey (pa : Nat) : Nat := region 5 + pa
/-- Accumulator byte of an octet (14 R252, kind 3). -/
def accKey (octet off : Nat) : Nat := region 6 + octet * 2 ^ 19 + off
/-- Operand-slot byte; the scale store begins at 16,384 (08 R158). -/
def slotKey (octet slot off : Nat) : Nat := region 7 + (octet * 64 + slot) * 2 ^ 15 + off
/-- The arrival tag of a scratchpad line (06 R123). -/
def tagKey (core line : Nat) : Nat := region 8 + core * 2 ^ 12 + line
/-- Byte of the kernel image of a bind entry (04 R71). -/
def imgKey (bind byte : Nat) : Nat := region 9 + bind * 2 ^ 34 + byte

/-- The region a key lies in. -/
def regionOf (key : Nat) : Nat := key / 2 ^ 60

/-- Whether a key's memory keeps a SECDED code over its aligned 64-bit words (24 R370). -/
def hasEcc (key : Nat) : Bool :=
  let r := regionOf key
  r == 1 || r == 2 || r == 3 || r == 4 || r == 6

/-- One byte of memory: 0 where nothing is listed (log 2). -/
def Memory.read (m : Memory) (k : Nat) : Byte := tget 0 m k

/-- The nonzero bytes of a block, by key. -/
def blockCells : Nat → List Byte → Memory
  | _, [] => []
  | k, b :: bs => if b = 0 then blockCells (k + 1) bs else (k, b) :: blockCells (k + 1) bs

/-- Memory with the bytes from `base` on replaced. -/
def Memory.write (m : Memory) (base : Nat) (bs : List Byte) : Memory :=
  m.filter (fun c => c.1 < base) ++ (blockCells base bs ++ m.filter (fun c => base + bs.length ≤ c.1))

/-- Keys rise strictly from `lo` on and no listed byte is zero. -/
def risingFrom : Nat → Memory → Bool
  | _, [] => true
  | lo, (k, b) :: r => lo ≤ k && b ≠ 0 && risingFrom (k + 1) r

/-- The canonical form of memory: strictly rising keys, no entry equal to what an unlisted byte reads as. -/
def Memory.wf (m : Memory) : Bool := risingFrom 0 m

/-- `n` bytes from `key`. -/
def Memory.readN (m : Memory) (key n : Nat) : List Byte := (List.range n).map (fun i => m.read (key + i))

/-- The number that `n` bytes from `key` hold. -/
def Memory.readLe (m : Memory) (key n : Nat) : Nat := ofBytes (m.readN key n)

/-- `n` bytes from key `k` of a memory whose keys rise from `k` on: a whole block in one pass. -/
def denseFrom : Nat → Nat → Memory → List Byte
  | 0, _, _ => []
  | n + 1, k, [] => 0 :: denseFrom n (k + 1) []
  | n + 1, k, (i, b) :: r =>
    if i = k then b :: denseFrom n (k + 1) r else 0 :: denseFrom n (k + 1) ((i, b) :: r)

/-- `n` bytes from `key`, as `readN` gives them, in one pass over the memory. -/
def Memory.block (m : Memory) (key n : Nat) : List Byte := denseFrom n key (m.dropWhile (fun c => c.1 < key))

/-- The checks of memory words after `n` bytes from `key` are written: a word overwritten whole has a fresh code; a
word written in part keeps poison and loses a correctable error (06 R121). -/
def eccAfterWrite (e : Tab Ecc) (key n : Nat) : Tab Ecc :=
  e.filter fun p =>
    let lo := p.1 * 8
    if key ≤ lo && lo + 8 ≤ key + n then false
    else if lo < key + n && key < lo + 8 then p.2 == .poison
    else true

/-- The marked words that `n` bytes from `key` touch. -/
def marksIn (e : Tab Ecc) (key n : Nat) : List (Nat × Ecc) :=
  e.filter fun p => p.1 * 8 < key + n && key < p.1 * 8 + 8

/-- Whether any byte of the `n` from `key` lies in a poisoned word (06 R122). -/
def poisoned (e : Tab Ecc) (key n : Nat) : Bool := (marksIn e key n).any (fun p => p.2 == .poison)

/-- The first poisoned word of `n` bytes from `key`, as a key. -/
def firstPoison (e : Tab Ecc) (key n : Nat) : Nat :=
  match (marksIn e key n).find? (fun p => p.2 == .poison) with
  | some p => p.1 * 8
  | none => key

/-- A log entry for every marked word of a list (24 R373). -/
def logMarks (cycle : Nat) (l : List (Nat × Ecc)) : List LogEnt :=
  l.map fun p => { place := .memory, correctable := p.2 != .poison, key := p.1 * 8, cycle := cycle }

/-- An error of another place is logged. -/
def State.noteErr (s : State) (place : LogPlace) (correctable : Bool) (key : Nat) : State :=
  { s with dev := { s.dev with
      log := s.dev.log ++ [{ place := place, correctable := correctable, key := key, cycle := s.ccyc }] } }

/-- Uncorrectable errors of other places are logged. -/
def State.noteBad (s : State) (l : List (LogPlace × Nat)) : State := l.foldl (fun s e => s.noteErr e.1 false e.2) s

/-- Reads are logged where they meet an error (24 R373). -/
def State.noteRead (s : State) (ks : List (Nat × Nat)) : State :=
  { s with dev := { s.dev with
      log := s.dev.log ++ (ks.map fun k => logMarks s.ccyc (marksIn s.ecc k.1 k.2)).flatten } }

/-- A scrub (24 R373): marked words of the keys that satisfy `p` are corrected or stay poison, and are logged. -/
def State.scrub (s : State) (p : Nat → Bool) : State :=
  let hit := s.ecc.filter fun e => p (8 * e.1)
  { s with ecc := s.ecc.filter (fun e => !(p (8 * e.1) && e.2 == .flipped)),
           dev := { s.dev with log := s.dev.log ++ logMarks s.ccyc hit } }

/-- Write bytes, keeping codes and the error log (06 R121). -/
def State.write (s : State) (key : Nat) (bs : List Byte) : State :=
  if hasEcc key then
    let part := (marksIn s.ecc key bs.length).filter fun p => ¬ (key ≤ p.1 * 8 ∧ p.1 * 8 + 8 ≤ key + bs.length)
    { s with
      mem := s.mem.write key bs
      ecc := eccAfterWrite s.ecc key bs.length
      dev := { s.dev with log := s.dev.log ++ logMarks s.ccyc part } }
  else { s with mem := s.mem.write key bs }

/-- Mark the aligned word that holds `key` with the poison check pattern (24 R371). -/
def State.markPoison (s : State) (key : Nat) : State := { s with ecc := tset s.ecc (key / 8) .poison }

/-- Write a 64-bit word. -/
def State.write64 (s : State) (key : Nat) (w : Word) : State := s.write key (leBytes 8 w.toNat)

/-- Read a 64-bit word. -/
def State.read64 (s : State) (key : Nat) : Word := BitVec.ofNat 64 (s.mem.readLe key 8)

/-- Write several pieces in order. -/
def State.writeAll (s : State) (segs : List (Nat × List Byte)) : State :=
  segs.foldl (fun s p => s.write p.1 p.2) s

end Sys2Proof.Machine
end

