-- ==== Sys2Proof/Machine/Ops.lean ====
section
/-!
DEFINITION. The named operations over cores, streams, domains and the agenda: access to the parts of the state, queues
(02 R28), landings (02 R33, R34), taking an exception and returning from one (09 R188-R190), slips (09 R181, R182, 13
R243), and the issue of one word with its checks in the order of 04 R93.
-/

namespace Sys2Proof.Machine

/-! ### Parts of the state -/

/-- A core; one that nothing has touched is at its reset values. -/
def State.core (s : State) (c : Nat) : Core := tget Core.init s.cores c
/-- The state with a core replaced. -/
def State.setCore (s : State) (c : Nat) (x : Core) : State := { s with cores := tset s.cores c x }
/-- The state with a core changed. -/
def State.modCore (s : State) (c : Nat) (f : Core → Core) : State := s.setCore c (f (s.core c))
/-- An octet's matrix unit. -/
def State.octet (s : State) (o : Nat) : Octet := tget Octet.init s.octets o
/-- The state with an octet changed. -/
def State.modOctet (s : State) (o : Nat) (f : Octet → Octet) : State :=
  { s with octets := tset s.octets o (f (s.octet o)) }
/-- A bind entry. -/
def State.bindAt (s : State) (b : Nat) : Bind := tget Bind.init s.binds b
/-- The state with a bind entry changed. -/
def State.modBind (s : State) (b : Nat) (f : Bind → Bind) : State :=
  { s with binds := tset s.binds b (f (s.bindAt b)) }
/-- A partition. -/
def State.partAt (s : State) (p : Nat) : Part := tget Part.init s.parts p
/-- The state with a partition changed. -/
def State.modPart (s : State) (p : Nat) (f : Part → Part) : State :=
  { s with parts := tset s.parts p (f (s.partAt p)) }
/-- The state with the device-wide state changed. -/
def State.modDev (s : State) (f : Device → Device) : State := { s with dev := f s.dev }
/-- The state with one more report. -/
def State.report (s : State) (r : Report) : State := { s with reports := s.reports ++ [r] }

/-- A core's layer and logical index (02 R40). -/
def coreLayer (c : Nat) : Nat := c / 1024
/-- A core's logical index, row * 32 + column. -/
def coreIdx (c : Nat) : Nat := c % 1024
/-- A core's row. -/
def coreRow (c : Nat) : Nat := c % 1024 / 32
/-- A core's logical column. -/
def coreCol (c : Nat) : Nat := c % 32
/-- A core's octet (02 R40), numbered layer * 128 + OCTET. -/
def coreOctet (c : Nat) : Nat := coreLayer c * 128 + coreRow c / 2 * 8 + coreCol c / 4
/-- A core's position in its octet (02 R40). -/
def coreOpos (c : Nat) : Nat := coreRow c % 2 * 4 + coreCol c % 4
/-- The core at position `p` of an octet. -/
def octetCore (o p : Nat) : Nat :=
  o / 128 * 1024 + (o % 128 / 8 * 2 + p / 4) * 32 + (o % 8 * 4 + p % 4)

/-- A stream of a core. -/
def Core.stream (c : Core) (h : Half) : Stream :=
  match h with
  | .a => c.sa
  | .x => c.sx
  | .w => c.sw
/-- A core with a stream replaced. -/
def Core.setStream (c : Core) (h : Half) (t : Stream) : Core :=
  match h with
  | .a => { c with sa := t }
  | .x => { c with sx := t }
  | .w => { c with sw := t }
/-- The state with a stream changed. -/
def State.modStream (s : State) (c : Nat) (h : Half) (f : Stream → Stream) : State :=
  s.modCore c (fun k => k.setStream h (f (k.stream h)))
/-- A stream. -/
def State.stream (s : State) (c : Nat) (h : Half) : Stream := (s.core c).stream h

/-! ### Domains and their time -/

/-- The header word of a domain's slot-table image (13 R228). -/
def Bind.header (b : Bind) : Nat := (b.slots.getD 0 0).toNat
/-- log2 of the period. -/
def Bind.plog (b : Bind) : Nat := fld b.header 4 0
/-- log2 of the mark interval. -/
def Bind.mlog (b : Bind) : Nat := fld b.header 12 8
/-- Slot entries. -/
def Bind.nslot (b : Bind) : Nat := fld b.header 51 40
/-- The period P (13 R227). -/
def Bind.period (b : Bind) : Nat := 2 ^ b.plog
/-- The mark interval I. -/
def Bind.interval (b : Bind) : Nat := 2 ^ b.mlog
/-- Slot entry `i` (13 R229). -/
def Bind.slot (b : Bind) (i : Nat) : Word := b.slots.getD (i + 2) 0
/-- The wheel-map word. -/
def Bind.wheelMap (b : Bind) : Word := b.slots.getD 1 0
/-- Word `i` of the launch record (21 R329). -/
def Bind.rec_ (b : Bind) (i : Nat) : Word := b.record.getD i 0
/-- A mode bit of the record (21 R340): true is host-assisted. -/
def Bind.mode (b : Bind) (i : Nat) : Bool := bitAt (b.rec_ 14).toNat i
/-- The length of the kernel image in halfwords. -/
def Bind.klen (b : Bind) : Nat := (b.rec_ 3).toNat

/-- MCYC of a domain (02 R39): it stands still at the mark while the domain is frozen (13 R242). -/
def State.mcycOf (s : State) (b : Nat) : Nat :=
  match (s.bindAt b).freeze with
  | some f => f.mark
  | none => s.ccyc - (s.bindAt b).base

/-- The bind entry that holds a core, or entry 0. -/
def State.bindOf (s : State) (c : Nat) : Nat := (s.core c).bound.getD 0
/-- MCYC as a core reads it. -/
def State.mcyc (s : State) (c : Nat) : Nat := s.mcycOf (s.bindOf c)
/-- The partition a core's domain belongs to. -/
def State.corePart (s : State) (c : Nat) : Nat := (s.bindAt (s.bindOf c)).part

/-- The first mark cycle after `m` (09 R176). -/
def markAfter (interval m : Nat) : Nat := (m / interval + 1) * interval

/-- Whether a domain covers a core: the core belongs to the unit of the domain's level (13 R225). -/
def unitHas (level layer unit c : Nat) : Bool :=
  match level with
  | 0 => c == layer * 1024 + unit
  | 1 => coreOctet c == coreOctet (layer * 1024 + unit)
  | 2 => coreLayer c == layer && coreIdx c / 256 == unit / 256
  | 3 => coreLayer c == layer
  | _ => true

/-- The cores of a unit, in increasing order. -/
def unitCores (level layer unit : Nat) : List Nat :=
  match level with
  | 0 => [layer * 1024 + unit]
  | 1 => [0, 1, 2, 3, 32, 33, 34, 35].map (fun d => layer * 1024 + unit + d)
  | 2 => rangeFrom (layer * 1024 + unit) 256
  | 3 => rangeFrom (layer * 1024) 1024
  | _ => List.range 4096

/-- The cores of a bind entry's domain. -/
def Bind.cores (b : Bind) : List Nat := unitCores b.level b.layer b.unit

/-- The octet partition (22 R354): the partition to which firmware assigned an octet. -/
def State.octetPart (s : State) (o : Nat) : Option Nat :=
  (s.parts.find? (fun p => p.2.present && p.2.octets.contains o)).map (·.1)

/-- The partition a core belongs to, whether or not a domain holds it (14 R253). -/
def State.partOfCore (s : State) (c : Nat) : Option Nat := s.octetPart (coreOctet c)

/-! ### The agenda -/

/-- Whether an entry comes before another: earlier cycle, then place in the cycle, then age. -/
def AEnt.before (x y : AEnt) : Bool :=
  x.due < y.due || (x.due == y.due && (x.prio < y.prio || (x.prio == y.prio && x.tie < y.tie)))

/-- Put an entry in its place. -/
def agendaInsert (e : AEnt) : List AEnt → List AEnt
  | [] => [e]
  | x :: r => if e.before x then e :: x :: r else x :: agendaInsert e r

/-- Put an event on the agenda for a cycle; `tie` orders it among equals of that cycle. -/
def State.postTie (s : State) (due prio tie : Nat) (ev : Ev) : State :=
  { s with agenda := agendaInsert { due := due, prio := prio, tie := tie, ev := ev } s.agenda, seq := s.seq + 1 }

/-- Put an event on the agenda for a cycle, after all of its kind posted before it. -/
def State.post (s : State) (due prio : Nat) (ev : Ev) : State := s.postTie due prio s.seq ev

/-- A register result of a word issued now, landing after `lat` cycles (02 R33). -/
def State.land (s : State) (c : Nat) (h : Half) (lat : Nat) (d : Dst) (v : Word) : State :=
  s.post (s.ccyc + lat) 1 (.reg c h d v)

/-- Vector lanes of a word issued now (02 R27, R33). -/
def State.landVec (s : State) (c : Nat) (h : Half) (mat : Bool) (lat vd : Nat) (mask v : Vec) : State :=
  s.post (s.ccyc + lat) 1 (.vec c h mat vd mask v)

/-- The place of an engine's write among those that land in its cycle: by the cycle of its issue, and then by its core (10
R198). -/
def engineTie (issue core : Nat) : Nat := issue * 4096 + core

/-- A word that an engine or interface writes as a release (16 R281), landing in cycle `due`. -/
def State.release (s : State) (due key : Nat) (v : Word) : State :=
  s.postTie due 4 (engineTie s.ccyc 0) (.release key v)

/-- Whether results of a stream are still on their way after the present cycle (02 R35). -/
def AEnt.pendingOf (e : AEnt) (c : Nat) (h : Half) (now : Nat) : Bool :=
  now < e.due && match e.ev with
    | .reg c' h' _ _ => c == c' && h == h'
    | .vec c' h' mat _ _ _ => c == c' && h == h' && !mat
    | _ => false

/-! ### Queues (02 R28) -/

/-- Queue `q` of a core: 0 to 4 for ql0, ql1, ql2, qs0, qs1 (14 R252). -/
def Core.queue (c : Core) (q : Nat) : List QEnt :=
  match q with
  | 0 => c.ql0
  | 1 => c.ql1
  | 2 => c.ql2
  | 3 => c.qs0
  | _ => c.qs1

/-- A core with a queue replaced. -/
def Core.setQueue (c : Core) (q : Nat) (l : List QEnt) : Core :=
  match q with
  | 0 => { c with ql0 := l }
  | 1 => { c with ql1 := l }
  | 2 => { c with ql2 := l }
  | 3 => { c with qs0 := l }
  | _ => { c with qs1 := l }

/-- Entries popped from queue `q` in cycle `now`. -/
def Core.poppedNow (c : Core) (q now : Nat) : Nat := if c.popCyc = now then vget 0 c.pops q else 0

/-- The occupancy that a word issued in cycle `now` sees: the entries at the start of the cycle, those that are popped in
it included (R28 rule 1). -/
def Core.occupancy (c : Core) (q now : Nat) : Nat :=
  ((c.queue q).filter fun e => e.iss < now).length + c.poppedNow q now

/-- The head entry, if it has landed (R28 rule 3). -/
def Core.headLanded (c : Core) (q now : Nat) : Option QEnt :=
  match c.queue q with
  | e :: _ => if e.due ≤ now then some e else none
  | [] => none

/-- Remove the head of a queue in cycle `now`. -/
def Core.pop (c : Core) (q now : Nat) : Core :=
  let base := if c.popCyc = now then c.pops else Vector.replicate 5 0
  { c.setQueue q (c.queue q).tail with popCyc := now, pops := vput base q (vget 0 base q + 1) }

/-- Add an entry to a queue: its place is fixed at the issue of its word (15 R277). -/
def State.push (s : State) (c : Nat) (h : Half) (q : Nat) (due : Nat) (v : Word) : State :=
  { s.modCore c (fun k => k.setQueue q (k.queue q ++ [{ val := v, iss := s.ccyc, due := due, bad := false, half := h, id := s.seq }]))
    with seq := s.seq + 1 }

/-- Whether a stream's queue entries are still on their way (02 R35). -/
def Core.queuePending (c : Core) (h : Half) (now : Nat) : Bool :=
  (List.range 5).any fun q => (c.queue q).any fun e => e.half == h && now < e.due

/-- Whether the stop-flag rule holds a flagged word of the stream back (02 R35). -/
def State.inFlight (s : State) (c : Nat) (h : Half) : Bool :=
  s.agenda.any (fun e => e.pendingOf c h s.ccyc) || (s.core c).queuePending h s.ccyc

/-! ### Words being issued -/

/-- What a word sees at its issue: its core and half, CCYC, MCYC, its address, its bits, and its bind entry. -/
structure Ctx where
  core : Nat
  half : Half
  now : Nat
  m : Nat
  addr : BitVec 32
  bits : Nat
  bind : Nat
  deriving DecidableEq, Repr

/-- The context of the word of the stream that `cur` names. -/
def State.ctx (s : State) : Ctx :=
  let c := s.cur.core
  { core := c, half := s.cur.half, now := s.ccyc, m := s.mcyc c, addr := (s.stream c s.cur.half).pc,
    bits := s.cur.bits, bind := s.bindOf c }

/-- The stream that issues. -/
def Ctx.stream (x : Ctx) (s : State) : Stream := s.stream x.core x.half

/-- Halfwords of the word being issued (04 R71). -/
def Ctx.len (x : Ctx) : Nat := if x.bits % 2 = 0 then 1 else 2

/-- The address of the next word in address order. -/
def Ctx.nextAddr (x : Ctx) : BitVec 32 := x.addr + BitVec.ofNat 32 x.len

/-- The word's halfwords as TVAL gives them (09 R187). -/
def Ctx.wordVal (x : Ctx) : Word := BitVec.ofNat 64 (if x.len = 1 then x.bits % 2 ^ 16 else x.bits % 2 ^ 32)

/-- Where a word sends its stream. -/
inductive Next where
  /-- the next word in address order -/
  | seq
  /-- a taken transfer -/
  | jump (pc : BitVec 32)
  /-- a `mod` whose flags wait for the next word -/
  | modify (m : ModWord)
  /-- the next `n` words are skipped (05 R108) -/
  | skip (n : Nat)
  /-- `n` idle cycles (09 R175) -/
  | hold (n : Nat)
  /-- the next word issues at c+16, at this address (05 R106, 09 R193) -/
  | window (pc : BitVec 32)
  | await
  | rejoin (ptr : Word)
  | cwait (n : Nat)
  | resync
  /-- `trap 0` (09 R191) -/
  | ended
  /-- `rtt`: address and stop-spacing count restored (09 R190) -/
  | back (pc : BitVec 32) (scnt : Nat)
  /-- `fset`: the routine starts again at the stream's next reserved cycle (10 R217) -/
  | restart (pc : BitVec 32)
  deriving DecidableEq, Repr

/-- What a word's checks and effect come to. -/
inductive Res where
  /-- it takes effect -/
  | ok (s : State) (nx : Next)
  /-- it raises a precise trap: code, SUB, TVAL (09 R187); the state is as before, save what a poisoned pop removes -/
  | trap (s : State) (code sub : Nat) (tval : Word)
  /-- a trap whose saved program counter is the next word's address: `trap n` (09 R191) -/
  | soft (n : Nat)
  /-- it slips with a cause (02 R38 and others) -/
  | slip (cause : Nat)
  deriving DecidableEq, Repr

/-- The checks that come before a word's operands (04 R93 items 1, 2 and 4). -/
structure Pre where
  illegal : Bool := false
  reserved : Bool := false
  privileged : Bool := false
  deriving DecidableEq, Repr

/-! ### Domain faults -/

/-- A domain fault waits for the next domain mark (22 R348); the first one stands. -/
def State.domainFault (s : State) (b : Nat) (f : DomFault) : State :=
  s.modBind b (fun k => { k with fault := some (k.fault.getD f) })

/-- Whether the host gets the report of a domain fault as well as firmware, by the mode bit of its function (21 R340, 22
R348); a handler fault has none. -/
def Bind.hostHears (k : Bind) (fc : Nat) : Bool :=
  match fc with
  | 1 => k.mode 1
  | 3 => k.mode 7
  | 4 => k.mode 3
  | _ => false

/-- Whether firmware ends a domain by itself for a fault, with its own fault code (21 R334, R340; 22 R348): in hardware
mode of the fault's function, and always for a handler fault. A domain held for a dead device waits for its recovery. -/
def Bind.firmwareEnds (k : Bind) (fc : Nat) : Bool :=
  match fc with
  | 1 => !k.mode 2
  | 2 => true
  | 3 => !k.mode 7
  | 4 => !k.mode 3
  | _ => false

/-- A domain fault with its report (22 R348). -/
def State.faultDomain (s : State) (b : Nat) (f : DomFault) : State :=
  let k := s.bindAt b
  (s.domainFault b f).report (.domain (k.hostHears f.fc) b k.task f s.ccyc)

/-- A stream issues nothing more. -/
def State.stopStream (s : State) (c : Nat) (h : Half) : State :=
  s.modStream c h (fun t => { t with run := .stopped, pending := none, skip := 0, taken := none })

/-- A handler fault (09 R189): the stream issues nothing more and the fault goes to the management cores. -/
def State.handlerFault (s : State) (x : Ctx) (code cause : Nat) : State :=
  let f : DomFault := { fc := 2, core := x.core, half := x.half, code := code, cause := cause, mcyc := x.m }
  (s.stopStream x.core x.half).faultDomain x.bind f

/-! ### Taking an exception and returning from one -/

/-- Where the handler of a cause begins (09 R188 step 4). -/
def handlerPc (base : BitVec 32) (code : Nat) : BitVec 32 := base + BitVec.ofNat 32 (0x20 * code)

/-- A stream after trap entry (09 R188 step 3): the trap registers written, the mode privileged, the count of the
handler 0, its first word due at `wake`. DESIGN CHOICE (log 84): a trap that cuts a park short ends the demand for a stop
flag on the word that follows (09 R178). -/
def Stream.enter (t : Stream) (async : Bool) (code sub : Nat) (tval : Word) (tpc : BitVec 32) (tcyc wake : Nat)
    (scnt : Nat) : Stream :=
  { t with
    run := .due
    pc := handlerPc t.traps.tvec code
    wake := wake
    scnt := 0
    skip := 0
    pending := none
    afterPark := false
    sample := .none
    taken := none
    traps := { t.traps with
      async := async, sub := BitVec.ofNat 8 sub, code := BitVec.ofNat 8 code, tpc := tpc, tval := tval,
      pPriv := t.traps.priv, priv := true, scnt := BitVec.ofNat 7 scnt, tcyc := BitVec.ofNat 64 tcyc } }

/-- Taking an exception: a synchronous one of the word in `x` enters in the next cycle (09 R188). -/
def State.takeTrap (s : State) (x : Ctx) (code sub : Nat) (tval : Word) (tpc : BitVec 32) (scnt : Nat) : State :=
  s.modStream x.core x.half (fun t => t.enter false code sub tval tpc (x.m + 1) (x.m + 2) scnt)

/-- A stream after `rtt` (09 R190): the mode and the count restored, the word at TPC next. -/
def Stream.leave (t : Stream) : Stream := { t with traps := { t.traps with priv := t.traps.pPriv } }

/-- An asynchronous trap becomes pending for a stream (02 R37); an ended stream discards it (09 R191). -/
def State.pendTrap (s : State) (c : Nat) (h : Half) (code sub : Nat) (tval : Word) : State :=
  s.modStream c h fun t =>
    if t.run = .ended ∨ t.run = .absent then t
    else { t with pend := t.pend ++ [{ code := code, sub := sub, tval := tval, since := s.ccyc }] }

/-- A field's routine faults (10 R217, 17 R308): the update takes no effect, `ql2` is emptied, sweeping tiles become
FAULTED at the end of the window, and the X-stream takes the asynchronous trap. -/
def State.sweepFault (s : State) (c : Nat) (sub : Nat) (addr : Word) : State :=
  let b := s.bindOf c
  let s := s.modCore c fun k =>
    { k with
      ql2 := []
      tile := { k.tile with updating := false, draws := 0 }
      sw := { k.sw with run := .stopped, pending := none, skip := 0 } }
  let key := (s.core c).tile.fkey
  let s := s.modBind b fun k =>
    { k with fields := k.fields.map fun f => if f.fkey = key then { f with faulting := true } else f }
  s.pendTrap c .x 0x14 sub addr

/-- A contrail follower leaves the contrail with its own program counter (13 R239). -/
def State.detach (s : State) (c : Nat) (h : Half) : State :=
  s.modStream c h (fun t => { t with follows := false, taken := none })

/-- A precise fault of the word in `x` (09 R188, R189; 10 R217). -/
def State.raise (s : State) (x : Ctx) (code sub : Nat) (tval : Word) (tpc : BitVec 32) (scnt : Nat) : State :=
  if x.half = .w then s.sweepFault x.core code (BitVec.ofNat 64 x.addr.toNat)
  else
    let s := s.detach x.core x.half
    if (x.stream s).traps.priv then s.handlerFault x code sub
    else s.takeTrap x code sub tval tpc scnt

/-! ### Slips -/

/-- The cycle at which `resync` issued at `m` restarts (09 R181). -/
def resyncAt (interval period rstcy m : Nat) : Nat :=
  let mk := markAfter interval m
  mk + (rstcy % period + period - mk % period) % period

/-- A domain slip fault (09 R181, 13 R243): the stream issues nothing more, the domain is held at its next mark. -/
def State.domainSlip (s : State) (x : Ctx) (cause : Nat) : State :=
  let f : DomFault := { fc := 1, core := x.core, half := x.half, code := 0, cause := cause, mcyc := x.m }
  (s.stopStream x.core x.half).faultDomain x.bind f

/-- `resync` in the cycle of `x` (09 R181): the stream issues nothing until the restart cycle, its count is cleared
and a pending `mod` discarded; with no restart point it is a domain slip fault. -/
def State.resync (s : State) (x : Ctx) (cause : Nat) : State :=
  let t := x.stream s
  if t.traps.rstValid then
    let b := s.bindAt x.bind
    let m := resyncAt b.interval b.period t.traps.rstCy.toNat x.m
    s.modStream x.core x.half fun t =>
      { t with run := .resync, wake := m, scnt := 0, pending := none, skip := 0, afterPark := false, taken := none }
  else s.domainSlip x cause

/-- A slip goes to the built-in handler (09 R182, 13 R243): it is counted, and it escalates or acts as `resync`. -/
def State.slip (s : State) (x : Ctx) (cause : Nat) : State :=
  let s := s.detach x.core x.half
  if (x.stream s).traps.priv then s.handlerFault x 0 cause
  else
    let s := s.modCore x.core fun k =>
      { k with ctl := { k.ctl with slipCnt := min (k.ctl.slipCnt + 1) 65535 } }
    if (s.core x.core).ctl.slipCnt > (s.core x.core).ctl.slipMax then s.domainSlip x cause
    else s.resync x cause

/-! ### The issue of a word -/

/-- A contrail leader's word is kept for its followers (13 R237, R238). -/
def State.noteIssue (s : State) (x : Ctx) (sf : Bool) : State :=
  if (s.core x.core).ctl.role = 1 ∧ ¬ (x.stream s).traps.priv then
    s.modStream x.core x.half fun t =>
      { t with issued := ({ mcyc := x.m, addr := x.addr, bits := x.bits, flag := sf, ends := false } :: t.issued).take 32 }
  else s

/-- A contrail leader's `trap 0`, in either mode, ends its followers HOP cycles later (13 R238, 09 R191). -/
def State.noteEnd (s : State) (x : Ctx) : State :=
  if (s.core x.core).ctl.role = 1 then
    s.modStream x.core x.half fun t =>
      { t with issued := ({ mcyc := x.m, addr := x.addr, bits := x.bits, flag := true, ends := true } ::
          t.issued.filter (·.mcyc != x.m)).take 32 }
  else s

/-- Whether the class of a word lets the half issue it (04 R91, 02 R21, R32, 09 R174). -/
def classOk (cls : Cls) (h : Half) (bound : Bool) : Bool :=
  match cls, h with
  | .x, .a => false
  | .x, _ => true
  | .xOnly, .x => true
  | .xOnly, _ => false
  | .a, .a => true
  | .a, _ => false
  | .e, _ => true
  | .eOnly, .w => false
  | .eOnly, _ => true
  | .f, .w => bound
  | .f, _ => false

/-- Whether a routine is bound on a core: the tile is past DECLARED (10 R215, R216). -/
def Core.routineBound (c : Core) : Bool := c.tile.routine != .none

/-- A stream after a word took effect (02 R20, R36): its count, its next word, its park. -/
def Stream.advance (t : Stream) (x : Ctx) (sf : Bool) (nx : Next) : Stream :=
  let t := { t with pending := none, afterPark := false, taken := none, scnt := if sf then 0 else t.scnt + 1,
                    pc := x.nextAddr, wake := x.m + 1 }
  match nx with
  | .seq => t
  | .jump pc => if t.follows then t else { t with pc := pc }
  | .modify m => { t with pending := some m }
  | .skip n => { t with skip := n }
  | .hold n => if n = 0 then t else { t with run := .hold, wake := x.m + n + 1 }
  | .window pc => { t with run := .window, wake := x.m + 16, pc := pc }
  | .await => { t with run := .await, afterPark := true, parkPc := x.addr, sample := .none }
  | .rejoin p => { t with run := .rejoin, afterPark := true, parkPc := x.addr, watch := p, sample := .none }
  | .cwait n => { t with run := .cwait, afterPark := true, parkPc := x.addr, cwaitN := n, sample := .none }
  | .resync => t
  | .ended => { t with run := .ended, pend := [] }
  | .back pc n => { t.leave with pc := pc, scnt := n }
  | .restart pc => { t with pc := pc, scnt := if sf then 0 else t.scnt }

/-- A skipped word (05 R108): one cycle, no effect, and it counts. -/
def State.skipWord (s : State) (x : Ctx) : State :=
  s.modStream x.core x.half fun t =>
    { t with skip := t.skip - 1, scnt := t.scnt + 1, pc := x.nextAddr, wake := x.m + 1, taken := none }

/-- The end of a word: its effect and its stream's next step, or its fault, or its slip. -/
def finish (s : State) (x : Ctx) (sf : Bool) : Res → State
  | .ok s' .resync => s'.resync x 0
  | .ok s' nx => s'.modStream x.core x.half (fun t => t.advance x sf nx)
  | .trap s' code sub tval => s'.raise x code sub tval x.addr (x.stream s).scnt
  | .soft n => s.raise x 0x20 0 (BitVec.ofNat 64 n) x.nextAddr (x.stream s).scnt
  | .slip cause => s.slip x cause

/-- The issue of one word of the stream that `cur` names, with its checks in the order of 04 R93: the class and `pre`
(illegal-instruction, reserved-field), a pending `mod` (R89), privilege (09 R184), stop spacing (02 R36), the stop
flag (02 R35, 09 R178), and then `body`: the operand faults, the slips and the effect. `modable` says that the word
yields a numeric result (R89). -/
def issueNext (sf : Bool) (cls : Cls) (modable : Bool) (pre : State → Ctx → Pre) (body : State → Ctx → Res)
    (s0 : State) : State :=
  let x := s0.ctx
  let s := s0.noteIssue x sf
  let t := x.stream s
  if t.skip > 0 then s.skipWord x
  else
    let p := pre s x
    if !classOk cls x.half (s.core x.core).routineBound || p.illegal then s.raise x 0x01 0 x.wordVal x.addr t.scnt
    else if p.reserved then s.raise x 0x02 0 x.wordVal x.addr t.scnt
    else if t.pending.isSome && (!modable || sf) then
      s.raise x 0x03 0 x.wordVal ((t.pending.map (·.addr)).getD x.addr) t.scnt
    else if p.privileged && !t.traps.priv then s.raise x 0x04 0 x.wordVal x.addr t.scnt
    else if !sf && (s.core x.core).ctl.stopmax ≤ t.scnt + 1 then
      s.raise x 0x05 0 (BitVec.ofNat 64 t.scnt) x.addr t.scnt
    else if sf && s.inFlight x.core x.half then s.raise x 0x06 0 0 x.addr t.scnt
    else if !sf && t.afterPark then s.raise x 0x06 0 0 x.addr t.scnt
    else finish s x sf (body s x)

/-- The issue of one word as an outcome: every word has a next state, a trap and a slip among them. -/
def issueWord (sf : Bool) (cls : Cls) (modable : Bool) (pre : State → Ctx → Pre) (body : State → Ctx → Res)
    (s : State) : Host.Outcome State Fault Refusal :=
  .next (issueNext sf cls modable pre body s)

end Sys2Proof.Machine
end

