-- ==== Sys2Proof/Machine/Operands.lean ====
section
/-!
DEFINITION. Every operand form: the register maps of the two halves with pops and pushes (02 R21, R23, R24, R28; 24
R371), the delivery of results (02 R33, 05 R112), operand-extension registers (04 R90), pointers and published buffers
(14 R249-R253, R268, R269), and the reach and bank checks of an A-half access (06 R116-R118, R386).
-/

namespace Sys2Proof.Machine

/-! ### Register use -/

/-- Registers that are load-data queues in the X map. -/
def isQl (r : Nat) : Bool := 25 ≤ r && r ≤ 27

/-- A source that the half's map does not allow (02 R21, R23, R24); `bound` says that a routine is bound. -/
def srcBad (h : Half) (bound : Bool) (r : Nat) : Bool :=
  match h with
  | .x => r == 28 || r == 29 || (r == 27 && bound)
  | .w => r == 25 || r == 26 || r == 28 || r == 29
  | .a => !(r < 12 || (16 ≤ r && r < 24) || r == 30)

/-- A destination that the half's map does not allow. -/
def dstBad (h : Half) (r : Nat) : Bool :=
  match h with
  | .x => (25 ≤ r && r ≤ 27) || r == 30
  | .w => (16 ≤ r && r < 24) || (25 ≤ r && r ≤ 30)
  | .a => !(r < 12)

/-- The register-use check of a word: illegal in the X map, reserved in the A map (02 R23, R24); naming `ix` as the
destination of a word of latency above 1 is reserved (05 R112). -/
def usePre (lat : Nat) (srcs dsts : List Nat) (s : State) (x : Ctx) : Pre :=
  let bound := (s.core x.core).routineBound
  let bad := srcs.any (srcBad x.half bound) || dsts.any (dstBad x.half)
  let late := 1 < lat && x.half != .a && dsts.contains 24
  { illegal := bad && x.half != .a, reserved := (bad && x.half == .a) || late }

/-- A word with nothing to check before its operands. -/
def noPre (_ : State) (_ : Ctx) : Pre := {}

/-! ### Sources -/

/-- The `k`-th entry from the head of queue `q`, if it has landed. -/
def Core.entry (c : Core) (q k now : Nat) : Option QEnt :=
  match (c.queue q)[k]? with
  | some e => if e.due ≤ now then some e else none
  | none => none

/-- Each source with the count of equal sources before it: one word's pops of a queue go in operand order (02 R28
rule 4). -/
def withSeen (regs : List Nat) : List (Nat × Nat) :=
  regs.zipIdx.map fun p => (p.1, (regs.take p.2).count p.1)

/-- Whether source `p` pops an entry that is not there or has not landed (02 R28 rule 3). -/
def Core.srcEmpty (c : Core) (now : Nat) (p : Nat × Nat) : Bool :=
  isQl p.1 && (c.entry (p.1 - 25) p.2 now).isNone

/-- Whether source `p` fails parity (24 R371). -/
def Core.srcParity (c : Core) (h : Half) (now : Nat) (p : Nat × Nat) : Bool :=
  if isQl p.1 then ((c.entry (p.1 - 25) p.2 now).map (·.bad)).getD false
  else if p.1 < 16 then
    match h with
    | .w => c.regs.swBad.getLsbD p.1
    | .x => c.regs.winBad.getLsbD ((c.sx.wptr + p.1) % 64)
    | .a => false
  else false

/-- The value of a source in the half's map (02 R23, R24); `m` is MCYC. -/
def Core.srcVal (c : Core) (h : Half) (m now : Nat) (p : Nat × Nat) : Word :=
  let r := p.1
  match h with
  | .a =>
    if r < 8 then vget 0 c.regs.a r
    else if r < 12 then (vget 0 c.regs.k (r - 8)).setWidth 64
    else if r = 16 then 0
    else if 16 < r ∧ r < 24 then vget 0 c.regs.g (r - 16)
    else if r = 30 then BitVec.ofNat 64 (m % 2 ^ 32)
    else 0
  | h =>
    if r < 16 then (if h = .w then vget 0 c.regs.sw r else vget 0 c.regs.win ((c.sx.wptr + r) % 64))
    else if r = 16 then 0
    else if r < 24 then vget 0 c.regs.g (r - 16)
    else if r = 24 then (if h = .w then c.regs.swIx else c.regs.ix)
    else if isQl r then ((c.entry (r - 25) p.2 now).map (·.val)).getD 0
    else if r = 30 then BitVec.ofNat 64 (m % 2 ^ 32)
    else if r = 31 then (if h = .w then c.regs.swLk else c.regs.lk)
    else 0

/-- A core after a word's sources are popped. -/
def Core.popSrcs (c : Core) (now : Nat) (regs : List Nat) : Core :=
  regs.foldl (fun c r => if isQl r then c.pop (r - 25) now else c) c

/-- Pop `n` entries of queue `q`. -/
def Core.popN (c : Core) (q now : Nat) : Nat → Core
  | 0 => c
  | n + 1 => Core.popN (c.pop q now) q now n

/-- What reading a word's sources gives: their values and the state without the popped entries, or a fault. -/
inductive Got where
  | vals (s : State) (l : List Word)
  | fault (s : State) (code sub : Nat) (tval : Word)
  deriving DecidableEq, Repr

/-- Whether the destination is a store-data queue that is full (02 R28 rule 2). -/
def State.pushFull (s : State) (x : Ctx) (d : Nat) : Bool :=
  x.half != .a && (d == 28 || d == 29) && 8 ≤ (s.core x.core).occupancy (d - 25) x.now

/-- Read a word's sources in operand order, with its queue and poison faults: queue-empty, queue-full, then parity
(02 R28, 24 R371). -/
def State.sources (s : State) (x : Ctx) (d : Nat) (regs : List Nat) : Got :=
  let c := s.core x.core
  let ps := withSeen regs
  match (if x.half = .a then none else ps.find? (c.srcEmpty x.now)) with
  | some p => .fault s 0x0B p.1 0
  | none =>
    if s.pushFull x d then .fault s 0x0A d 0
    else match (if x.half = .a then none else ps.find? (c.srcParity x.half x.now)) with
      | some p =>
        let s := if isQl p.1 then s.setCore x.core (c.popN (p.1 - 25) x.now (p.2 + 1)) else s
        .fault (s.noteErr .register false (64 * x.core + p.1)) 0x0C 0 (BitVec.ofNat 64 (2 ^ 63 + p.1))
      | none =>
        let s := if regs.any isQl && x.half != .a then s.setCore x.core (c.popSrcs x.now regs) else s
        .vals s (ps.map (c.srcVal x.half x.m x.now))

/-! ### Results -/

/-- A result of latency `lat` in the half's destination map (02 R23, R24). -/
def State.put (s : State) (x : Ctx) (lat d : Nat) (v : Word) : State :=
  match x.half with
  | .a =>
    if d < 8 then s.land x.core .a lat (.a d) v
    else if d < 12 then s.land x.core .a lat (.k (d - 8)) v
    else s
  | h =>
    if d < 16 then
      s.land x.core h lat (if h = .w then .sweep d else .stack ((s.core x.core).sx.wptr + d)) v
    else if d = 16 then s
    else if d < 24 then s.land x.core h lat (.g (d - 16)) v
    else if d = 24 then s.land x.core h lat (if h = .w then .sweepIx else .ix) v
    else if d = 28 ∨ d = 29 then s.push x.core h (d - 25) (x.now + lat) v
    else if d = 31 then s.land x.core h lat (if h = .w then .sweepLk else .lk) v
    else s

/-- Whether a value is outside the index bounds (05 R111, R112). -/
def ixOut (s : State) (x : Ctx) (v : Word) : Bool :=
  let i := v.toInt
  i < 0 || ((x.stream s).wlimit : Int) - 1 < i

/-- Deliver a result: a value for `ix` is checked first (05 R112). `s` is the state with nothing popped. -/
def deliver (s s' : State) (x : Ctx) (lat d : Nat) (v : Word) : Res :=
  if x.half != .a && d == 24 && ixOut s x v then .trap s 0x07 0 v
  else .ok (s'.put x lat d v) .seq

/-- A word that reads registers and delivers one result (05 R94). -/
def regOp (lat d : Nat) (srcs : List Nat) (f : List Word → Word) (s : State) (x : Ctx) : Res :=
  match s.sources x d srcs with
  | .fault s' code sub tv => .trap s' code sub tv
  | .vals s' l => deliver s s' x lat d (f l)

/-- Word `i` of a list of values. -/
def arg (l : List Word) (i : Nat) : Word := l.getD i 0

/-! ### Operand-extension registers -/

/-- OX register `n` of the half that issues (02 R26): the sweep stream reads the X-half's bank. -/
def State.ox (s : State) (x : Ctx) (n : Nat) : Word :=
  let r := (s.core x.core).regs
  vget 0 (if x.half = .a then r.oxA else r.oxX) (n % 8)

/-- Descriptor register `i` from OXD on (04 R90). -/
def State.desc (s : State) (x : Ctx) (o i : Nat) : Word := s.ox x (o + i)

/-! ### Pointers -/

/-- A pointer's space tag (14 R249). -/
def ptrTag (p : Nat) : Nat := p / 2 ^ 60
/-- The address part of an S-space pointer: LAYER, CORE, KIND, OFF (14 R250). -/
def sCore (p : Nat) : Nat := fld p 39 28
/-- Window kind. -/
def sKind (p : Nat) : Nat := fld p 27 24
/-- Offset in the window. -/
def sOff (p : Nat) : Nat := fld p 23 0
/-- Column SLAY * 1024 + COL of an L-space pointer (14 R253). -/
def lCol (p : Nat) : Nat := fld p 31 20
/-- Offset in the column. -/
def lOff (p : Nat) : Nat := fld p 19 0

/-- An S-space pointer. -/
def sPtr (core kind off : Nat) : Nat := 2 ^ 60 + core * 2 ^ 28 + kind * 2 ^ 24 + off
/-- An L-space pointer. -/
def lPtr (col off : Nat) : Nat := 2 * 2 ^ 60 + col * 2 ^ 20 + off

/-- The bits that must be zero under the tag (14 R249). -/
def ptrZero (p : Nat) : Bool :=
  match ptrTag p with
  | 1 => fld p 59 40 == 0
  | 2 => fld p 59 32 == 0
  | 3 => fld p 59 48 == 0
  | _ => false

/-- A register number of a load-data or store-data queue as SUB gives it (09 R187). -/
def qSub (q : Nat) : Nat := 25 + q

/-- The memory key that an S-space or L-space pointer names: windows 0, 3, 4 and 6, and the columns. -/
def ptrKey (p : Nat) : Nat :=
  if ptrTag p = 2 then colKey (lCol p) (lOff p)
  else match sKind p with
    | 3 => accKey (coreOctet (sCore p)) (sOff p)
    | 4 => ringKey (sCore p) (sOff p)
    | 6 => spKey (sCore p) (0x30000 + sOff p)
    | _ => spKey (sCore p) (sOff p)

/-- A span cut at 64-byte lines, with fuel. -/
def linePieces : Nat → Nat → Nat → List (Nat × Nat)
  | 0, _, _ => []
  | f + 1, p, n =>
    if n = 0 then []
    else
      let k := min n (64 - p % 64)
      (p, k) :: linePieces f (p + k) (n - k)

/-- A span cut at 64-byte lines. -/
def lines (p n : Nat) : List (Nat × Nat) := linePieces (n / 64 + 2) p n

/-- Whether `p` lies in `n` bytes from `b`. -/
def within (b n p : Nat) : Bool := b ≤ p && p < b + n

/-- Where an access to pointer `p` goes: the visible half of a published buffer, or (`inv`) the invisible one; nothing
for a pointer into the second half itself (14 R268, R269). -/
def pubRoute (pubs : List Pub) (inv : Bool) (p : Nat) : Option Nat :=
  match pubs.find? (fun b => within b.base.toNat b.len p) with
  | some b => if b.map != inv then some (b.alt.toNat + (p - b.base.toNat)) else some p
  | none => if pubs.any (fun b => within b.alt.toNat b.len p) then none else some p

/-- Whether any of `n` bytes from pointer `p` lies in a published buffer's second half. -/
def altHit (pubs : List Pub) (p n : Nat) : Bool :=
  pubs.any fun b => b.alt.toNat < p + n && p < b.alt.toNat + b.len

/-- The published buffers of a domain. -/
def State.pubs (s : State) (b : Nat) : List Pub := (s.bindAt b).pubs

/-- A span's pieces with the keys they are read at (visible halves). -/
def State.visKeys (s : State) (b p n : Nat) : List (Nat × Nat) :=
  (lines p n).map fun q => (ptrKey ((pubRoute (s.pubs b) false q.1).getD q.1), q.2)

/-- Bytes of a span as a core of domain `b` reads them. -/
def State.visBytes (s : State) (b p n : Nat) : List Byte :=
  ((s.visKeys b p n).map fun k => s.mem.readN k.1 k.2).flatten

/-- The pointer of the first poisoned 64-bit word that a span needs (06 R122). -/
def State.visPoison (s : State) (b p n : Nat) : Option Nat :=
  ((lines p n).zip (s.visKeys b p n)).findSome? fun q =>
    if poisoned s.ecc q.2.1 q.2.2 then some (q.1.1 + firstPoison s.ecc q.2.1 q.2.2 - q.2.1) else none

/-! ### The reach of an A-half access -/

/-- The A-half words by what they may reach (06 R117). -/
inductive AccKind where
  | load | store | vload | vstore | gath | scat | atomic | ldacq | strel | stage | ldt | send | rcvp
  deriving DecidableEq, Repr

/-- The kinds of place by their latencies (02 R33). -/
inductive Place where
  | scratch | near | far
  deriving DecidableEq, Repr

/-- Whether the word may touch `n` bytes at `off` of a window of S-space (06 R117). -/
def windowOk (k : AccKind) (kind off n : Nat) : Bool :=
  match kind with
  | 0 => off + n ≤ 0x40000 && k != .stage && k != .rcvp
  | 4 =>
    match k with
    | .stage => 0x10000 ≤ off && off + n ≤ 0x10080
    | .ldt | .send | .rcvp => false
    | _ => off + n ≤ 0x10080
  | 6 =>
    match k with
    | .load | .ldacq | .vload | .gath => off + n ≤ 0x10000
    | .rcvp => off == 0
    | _ => false
  | _ => false

/-- The column's partition (14 R253). -/
def State.colPart (s : State) (col : Nat) : Option Nat := s.partOfCore col

/-- The place that `n` bytes at pointer `p` lie in, if the A-half of `core` may reach them with a word of space `sp` (06
R117, 14 R253); the bytes must not lie in a published buffer's second half (14 R268). -/
def State.reach (s : State) (core b : Nat) (k : AccKind) (sp p n : Nat) : Option Place :=
  let part := s.partOfCore core
  if ptrTag p ≠ sp ∨ ptrZero p = false ∨ part.isNone then none
  else if altHit (s.pubs b) p n then none
  else if sp = 1 then
    if sCore p = core ∧ windowOk k (sKind p) (sOff p) n then some .scratch else none
  else
    let col := lCol p
    if lOff p + n > 0x100000 ∨ s.colPart col ≠ part then none
    else if col = core then some .near
    else if col + 1024 = core then some .far
    else none

/-- The banks of columns (column * 16 + bank) that a span touches as it is routed now (14 R253, 16 R285). -/
def State.banksOf (s : State) (b p n : Nat) : List Nat :=
  if ptrTag p ≠ 2 then []
  else ((lines p n).map fun q =>
    let r := (pubRoute (s.pubs b) false q.1).getD q.1
    lCol r * 16 + lOff r / 0x10000).dedup

/-- The bank of a pointer in L-space. -/
def ptrBank (p : Nat) : Option Nat := if ptrTag p = 2 then some (lCol p * 16 + lOff p / 0x10000) else none

/-- The banks that an agenda entry's A-half access of `core` occupies in its cycle (16 R285). -/
def Ev.banks (s : State) (core : Nat) : Ev → List Nat
  | .store c _ segs =>
    if c = core then
      segs.filterMap fun g => ptrBank ((pubRoute (s.pubs (s.bindOf c)) false g.1).getD g.1)
    else []
  | .atomic c _ _ _ p _ _ _ _ =>
    if c = core then (ptrBank ((pubRoute (s.pubs (s.bindOf c)) false p).getD p)).toList else []
  | _ => []

/-- Whether the other core of a bank's column occupies the bank in cycle `t` (06 R386). -/
def State.bankBusy (s : State) (core t bank : Nat) : Bool :=
  let col := bank / 16
  let other := if col = core then core + 1024 else col
  let k := s.core other
  (k.bankCyc == t && k.banks.contains bank) ||
    s.agenda.any fun e => e.due == t && (e.ev.banks s other).contains bank

/-- Whether an access at cycle `t` fails because of the other core of its column. -/
def State.bankFails (s : State) (x : Ctx) (t p n : Nat) : Bool :=
  (s.banksOf x.bind p n).any (s.bankBusy x.core t)

/-- The state with the banks noted that an A-half access of a core occupies in this cycle. -/
def State.noteBanks (s : State) (core : Nat) (bs : List Nat) : State :=
  if bs.isEmpty then s
  else s.modCore core fun k =>
    { k with banks := (if k.bankCyc = s.ccyc then k.banks else []) ++ bs, bankCyc := s.ccyc }

/-- The effective address of a word with a displacement of `w` bits (06 R116). -/
def State.ea (s : State) (x : Ctx) (a : Nat) (disp : Int) : Word :=
  (s.core x.core).srcVal .a x.m x.now (a, 0) + toWord disp

/-! ### Latencies by place (02 R33) -/

/-- Scalar load. -/
def Place.load : Place → Nat
  | .scratch => 2 | .near => 3 | .far => 5
/-- Vector load. -/
def Place.vload : Place → Nat
  | .scratch => 3 | .near => 4 | .far => 6
/-- Atomic or `ldacq` result. -/
def Place.result : Place → Nat
  | .scratch => 4 | .near => 6 | .far => 8
/-- Store, and the perform cycle of an atomic (06 R126). -/
def Place.store : Place → Nat
  | .scratch => 1 | .near => 2 | .far => 3

/-! ### Caddy pointers (10 R199) -/

/-- Whether a span of an S-space or L-space pointer lies in what the Caddy may reach for partition `part` (10 R199, 14
R251-R253); `src` says that the span is read. DESIGN CHOICE (log 106): that holds for `flood`'s fetch too (25 R383). -/
def State.caddySpan (s : State) (b part : Nat) (src : Bool) (p n : Nat) : Bool :=
  if ptrZero p = false ∨ altHit (s.pubs b) p n then false
  else match ptrTag p with
    | 1 =>
      let c := sCore p
      let off := sOff p
      s.partOfCore c == some part && match sKind p with
        | 0 => off + n ≤ 0x40000
        | 1 => off + n ≤ 32 * (s.core c).ctl.wsize
        | 2 => src && off + n ≤ 0x148
        | 3 => off + n ≤ 0x80000 &&
            (List.range 8).all fun a =>
              !(a * 0x10000 < off + n && off < a * 0x10000 + 0x10000) ||
              match (vget Acc.init (s.octet (coreOctet c)).accs a).owner with
              | some o => (s.bindAt o).part == part
              | none => false
        | 4 => off + n ≤ 0x10080
        | _ => false
    | 2 => lOff p + n ≤ 0x100000 && s.colPart (lCol p) == some part
    | 3 => fld p 47 0 + n ≤ 2 ^ 48
    | _ => false

end Sys2Proof.Machine
end

