-- ==== Sys2Proof/Machine/Flags.lean ====
section
/-!
DEFINITION. Everything a word is checked against or finished by that is not an operand: the finishing of a result under
a `mod` (05 R99, R100), the order check (06 R128, R129), and the slot and wheel checks (02 R38, 13 R229, R231).
-/

namespace Sys2Proof.Machine

/-! ### The modifier -/

/-- An exact integer under ABS, NEG and the scale (05 R99). -/
def ModWord.scaleInt (m : ModWord) (v : Int) : Int :=
  let v := if m.abs then (v.natAbs : Int) else v
  let v := if m.neg then -v else v
  let k := m.sc.toInt
  if 0 ≤ k then v * (2 ^ k.toNat : Nat) else v / (2 ^ (-k).toNat : Nat)

/-- A `mod` with no flags and scale 0, which leaves a result unchanged (05 R99). -/
def ModWord.idle (m : ModWord) : Bool := !m.abs && !m.neg && !m.sat && !m.clamp && m.sc == 0

/-- A floating-point value under ABS, NEG and the scale; NaN passes through (05 R99). -/
def ModWord.scaleF (m : ModWord) (v : FVal) : FVal :=
  let v := if m.abs then v.abs else v
  let v := if m.neg then v.neg else v
  v.scale m.sc.toInt

/-- The bits of an exact integer result of width `w` (05 R99, R100; 03 R46). -/
def finishInt (md : Option ModWord) (signed : Bool) (w : Nat) (v : Int) : Nat :=
  match md with
  | none => wrapBits w v
  | some m =>
    let v := m.scaleInt v
    if m.sat || m.clamp then
      let lo : Int := if signed then -(2 ^ (w - 1) : Nat) else 0
      let hi : Int := if signed then (2 ^ (w - 1) : Nat) - 1 else (2 ^ w : Nat) - 1
      wrapBits w (limit lo hi v)
    else wrapBits w v

/-- The bits of a floating-point result in FP32, BF16 or E4M3 by format code 6, 7, 8 (05 R99, 03 R51). -/
def finishF (md : Option ModWord) (fmt : Nat) (rnd : Rnd) (ovf : Bool) (v : FVal) : Nat :=
  let v := match md with
    | none => v
    | some m => m.scaleF v
  let clamp := (md.map (·.clamp)).getD false
  let sat := (md.map (·.sat)).getD false
  match fmt with
  | 8 => let b := packE4m3 rnd ovf clamp v; if sat then satE4m3 b else b
  | 7 => let b := packIeee bf16 rnd clamp v; if sat then satIeee bf16 b else b
  | _ => let b := packIeee f32 rnd clamp v; if sat then satIeee f32 b else b

/-- A scalar word that yields a numeric result: `f` gives the exact value (05 R96, R99). -/
def numOp (lat d : Nat) (srcs : List Nat) (signed : Bool) (f : List Word → Int) (s : State) (x : Ctx) : Res :=
  let md := (x.stream s).pending
  regOp lat d srcs (fun l => BitVec.ofNat 64 (finishInt md signed 64 (f l))) s x

/-! ### The order check -/

/-- Class C: stores, scatters and atomic writes of the core not landed, and open journal entries (06 R128). -/
def State.countC (s : State) (c : Nat) : Nat :=
  (s.agenda.filter fun e => s.ccyc < e.due && match e.ev with
    | .store c' _ _ => c == c'
    | .atomic c' _ _ _ _ _ _ _ _ => c == c'
    | _ => false).length + ((s.core c).psj.toList.filter (·.isOpen)).length

/-- Class K: Caddy transfers of the core's streams not finished. -/
def State.countK (s : State) (c : Nat) : Nat := (s.xfers.filter fun t => t.core == c).length

/-- Class M: matrix commands of the core whose write, or whose write-back, has not landed. -/
def State.countM (s : State) (c : Nat) : Nat :=
  let o := s.octet (coreOctet c)
  (o.cmds.filter fun m => m.core == c).length + (o.backs.filter fun m => m.core == c).length +
    (s.agenda.filter fun e => match e.ev with
      | .mwbSnap _ _ c' _ _ _ _ _ _ _ => c == c'
      | .accZero _ _ c' => c' == some c
      | _ => false).length

/-- Class P: Stratus words of the core that the die has not accepted. -/
def State.countP (s : State) (c : Nat) : Nat :=
  (s.agenda.filter fun e => match e.ev with
    | .stratus k => k.core == c
    | _ => false).length

/-- Class H: transfers of the core with unfinished host beats (14 R267). -/
def State.countH (s : State) (c : Nat) : Nat :=
  (s.xfers.filter fun t => t.core == c && (!t.hostTodo.isEmpty || !t.hostDue.isEmpty)).length

/-- The order check of a mask: bit 4 is C, then K, M, P, H (06 R86, R128). -/
def State.orderOk (s : State) (c mask : Nat) : Bool :=
  (!bitAt mask 4 || s.countC c == 0) && (!bitAt mask 3 || s.countK c == 0) && (!bitAt mask 2 || s.countM c == 0) &&
  (!bitAt mask 1 || s.countP c == 0) && (!bitAt mask 0 || s.countH c == 0)

/-! ### The slot check -/

/-- Resource kinds that words name (13 R230). -/
def kindWheel : Nat := 0
/-- The kind of Caddy words and `fsnap`. -/
def kindCaddy : Nat := 1
/-- The kind of Stratus words. -/
def kindStratus : Nat := 5

/-- Cycle S of a slot entry. -/
def slotCyc (w : Word) : Nat := wfld w 59 38
/-- Resource kind of a slot entry. -/
def slotKind (w : Word) : Nat := wfld w 62 60

/-- Whether the hardware takes an entry as valid (13 R229). -/
def slotValid (p : Nat) (w : Word) : Bool :=
  w.getLsbD 63 && slotKind w < 6 && slotCyc w < p && (slotKind w != 0 || wfld w 3 0 == slotCyc w % 16)

/-- The hop delay D of R38: that of a core that follows in a contrail, detached or not (13 R237, R239). -/
def State.hopOf (s : State) (c : Nat) : Nat := if (s.core c).ctl.role = 2 then (s.core c).ctl.hop else 0

/-- The slot check (02 R38): the cause with which the word slips. -/
def State.slotCause (s : State) (x : Ctx) (kind idx : Nat) : Option Nat :=
  let b := s.bindAt x.bind
  let e := b.slot idx
  let p := b.period
  if b.nslot ≤ idx ∨ slotValid p e = false then some 4
  else if slotKind e ≠ kind then some 3
  else
    let d : Int := ((x.m : Int) - (slotCyc e + s.hopOf x.core)) % p
    if d = 0 then none else if d < p / 2 then some 2 else some 1

/-- The slot and wheel check of a matrix word (13 R231, 08 R156). -/
def State.wheelCause (s : State) (x : Ctx) (idx : Nat) : Option Nat :=
  match s.slotCause x kindWheel idx with
  | some c => some c
  | none =>
    let pos := (slotCyc ((s.bindAt x.bind).slot idx) + s.hopOf x.core) % 16
    if vget 8 (s.octet (coreOctet x.core)).wheel pos = coreOpos x.core then none else some 7

/-- The slot index of a timed engine word: the word's own field, or the low bits of an OX register (04 R80). -/
def State.slotIdx (s : State) (x : Ctx) (i : BitVec 1) (l : BitVec 11) : Nat :=
  if i = 1 then l.toNat else wfld (s.ox x (l.toNat % 8)) 15 0

/-- Whether the slot fields of a timed engine word with a descriptor of `n` registers from `o` on are reserved (04 R80,
R90). -/
def slotFieldBad (o : BitVec 3) (n : Nat) (i : BitVec 1) (l : BitVec 11) : Bool :=
  i == 0 && (8 ≤ l.toNat || (List.range n).any fun k => (o.toNat + k) % 8 == l.toNat % 8)

end Sys2Proof.Machine
end

