-- ==== Sys2Proof/Machine/Scalar.lean ====
section
/-!
DEFINITION. The scalar words of the X-half (05 R94-R100, R108-R111) and the address and counter words of the A-half (06
R113-R115).
-/

namespace Sys2Proof.Machine

/-- A three-register word of the X map. -/
def alu3 (sf modable : Bool) (lat : Nat) (d a b : BitVec 5) (body : State → Ctx → Res) (s : State) :
    Host.Outcome State Fault Refusal :=
  issueWord sf .x modable (usePre lat [a.toNat, b.toNat] [d.toNat]) body s

/-- A two-register word of the X map. -/
def alu2 (sf modable : Bool) (lat : Nat) (d a : BitVec 5) (body : State → Ctx → Res) (s : State) :
    Host.Outcome State Fault Refusal :=
  issueWord sf .x modable (usePre lat [a.toNat] [d.toNat]) body s

/-- x.i / y.i truncated toward zero; 0 for y = 0 (05 R96). -/
def sdiv (x y : Word) : Int := if y = 0 then 0 else x.toInt.tdiv y.toInt
/-- x.n / y.n; 0 for y = 0. -/
def udiv (x y : Word) : Int := if y = 0 then 0 else ((x.toNat / y.toNat : Nat) : Int)
/-- x.i - y.i * div(x, y); x for y = 0. -/
def srem (x y : Word) : Int := if y = 0 then x.toInt else x.toInt.tmod y.toInt
/-- x.n - y.n * divn(x, y); x for y = 0. -/
def urem (x y : Word) : Int := if y = 0 then (x.toNat : Int) else ((x.toNat % y.toNat : Nat) : Int)

/-- The count of set bits of the low `n` bits. -/
def popCount (v : Nat) : Nat → Nat
  | 0 => 0
  | n + 1 => v / 2 ^ n % 2 + popCount v n
/-- The count of trailing zero bits; 64 for 0. -/
def countTz (x : Word) : Nat := ((List.range 64).find? (fun i => x.getLsbD i)).getD 64
/-- The count of leading zero bits; 64 for 0. -/
def countLz (x : Word) : Nat := ((List.range 64).find? (fun i => x.getLsbD (63 - i))).getD 64

/-- The low `n` bits, sign-extended. -/
def sextLow (x : Word) (n : Nat) : Word := toWord (sval x.toNat n)
/-- The low `n` bits, zero-extended. -/
def zextLow (x : Word) (n : Nat) : Word := BitVec.ofNat 64 (x.toNat % 2 ^ n)
/-- The width that a `sext` or `zext` width code gives (04 R85). -/
def widthOf (w : BitVec 5) : Nat := 8 * 2 ^ w.toNat
/-- x[pos+len-1:pos], zero-extended (05 R96). -/
def bitsOut (x : Word) (pos len : Nat) : Word := BitVec.ofNat 64 (x.toNat / 2 ^ pos % 2 ^ len)
/-- `d` with bits [pos+len-1:pos] replaced by x[len-1:0] (05 R96). -/
def bitsIn (d x : Word) (pos len : Nat) : Word :=
  let m := BitVec.ofNat 64 ((2 ^ len - 1) * 2 ^ pos)
  (d &&& ~~~m) ||| ((x <<< pos) &&& m)

/-- `add`: x + y (05 R96). -/
def execAddW (sf : Bool) (d a b : BitVec 5) (s : State) : Host.Outcome State Fault Refusal :=
  alu3 sf true 1 d a b (numOp 1 d.toNat [a.toNat, b.toNat] true fun l => (arg l 0).toInt + (arg l 1).toInt) s

/-- `sub`: x - y (05 R96). -/
def execSubW (sf : Bool) (d a b : BitVec 5) (s : State) : Host.Outcome State Fault Refusal :=
  alu3 sf true 1 d a b (numOp 1 d.toNat [a.toNat, b.toNat] true fun l => (arg l 0).toInt - (arg l 1).toInt) s

/-- `mul`: low 64 bits of x * y (05 R96). -/
def execMul (sf : Bool) (d a b : BitVec 5) (s : State) : Host.Outcome State Fault Refusal :=
  alu3 sf true 3 d a b (numOp 3 d.toNat [a.toNat, b.toNat] true fun l => (arg l 0).toInt * (arg l 1).toInt) s

/-- `mulh`: floor(x.i * y.i / 2^64) (05 R96). -/
def execMulh (sf : Bool) (d a b : BitVec 5) (s : State) : Host.Outcome State Fault Refusal :=
  alu3 sf true 3 d a b (numOp 3 d.toNat [a.toNat, b.toNat] true fun l => (arg l 0).toInt * (arg l 1).toInt / 2 ^ 64) s

/-- `mulhn`: floor(x.n * y.n / 2^64) (05 R96). -/
def execMulhn (sf : Bool) (d a b : BitVec 5) (s : State) : Host.Outcome State Fault Refusal :=
  alu3 sf true 3 d a b (numOp 3 d.toNat [a.toNat, b.toNat] false fun l => (((arg l 0).toNat * (arg l 1).toNat / 2 ^ 64 : Nat) : Int)) s

/-- `div`: x.i / y.i toward zero (05 R96). -/
def execDiv (sf : Bool) (d a b : BitVec 5) (s : State) : Host.Outcome State Fault Refusal :=
  alu3 sf true 12 d a b (numOp 12 d.toNat [a.toNat, b.toNat] true fun l => sdiv (arg l 0) (arg l 1)) s

/-- `divn`: x.n / y.n (05 R96). -/
def execDivn (sf : Bool) (d a b : BitVec 5) (s : State) : Host.Outcome State Fault Refusal :=
  alu3 sf true 12 d a b (numOp 12 d.toNat [a.toNat, b.toNat] false fun l => udiv (arg l 0) (arg l 1)) s

/-- `rem`: the signed remainder (05 R96). -/
def execRem (sf : Bool) (d a b : BitVec 5) (s : State) : Host.Outcome State Fault Refusal :=
  alu3 sf true 12 d a b (numOp 12 d.toNat [a.toNat, b.toNat] true fun l => srem (arg l 0) (arg l 1)) s

/-- `remn`: the unsigned remainder (05 R96). -/
def execRemn (sf : Bool) (d a b : BitVec 5) (s : State) : Host.Outcome State Fault Refusal :=
  alu3 sf true 12 d a b (numOp 12 d.toNat [a.toNat, b.toNat] false fun l => urem (arg l 0) (arg l 1)) s

/-- `min`: the signed minimum (05 R96). -/
def execMin (sf : Bool) (d a b : BitVec 5) (s : State) : Host.Outcome State Fault Refusal :=
  alu3 sf true 1 d a b (numOp 1 d.toNat [a.toNat, b.toNat] true fun l => Min.min (arg l 0).toInt (arg l 1).toInt) s

/-- `max`: the signed maximum (05 R96). -/
def execMax (sf : Bool) (d a b : BitVec 5) (s : State) : Host.Outcome State Fault Refusal :=
  alu3 sf true 1 d a b (numOp 1 d.toNat [a.toNat, b.toNat] true fun l => Max.max (arg l 0).toInt (arg l 1).toInt) s

/-- `minn`: the unsigned minimum (05 R96). -/
def execMinn (sf : Bool) (d a b : BitVec 5) (s : State) : Host.Outcome State Fault Refusal :=
  alu3 sf true 1 d a b (numOp 1 d.toNat [a.toNat, b.toNat] false fun l => ((Min.min (arg l 0).toNat (arg l 1).toNat : Nat) : Int)) s

/-- `maxn`: the unsigned maximum (05 R96). -/
def execMaxn (sf : Bool) (d a b : BitVec 5) (s : State) : Host.Outcome State Fault Refusal :=
  alu3 sf true 1 d a b (numOp 1 d.toNat [a.toNat, b.toNat] false fun l => ((Max.max (arg l 0).toNat (arg l 1).toNat : Nat) : Int)) s

/-- `abs`: |x.i|, wrapped (05 R96). -/
def execAbs (sf : Bool) (d a : BitVec 5) (s : State) : Host.Outcome State Fault Refusal :=
  alu2 sf true 1 d a (numOp 1 d.toNat [a.toNat] true fun l => ((arg l 0).toInt.natAbs : Int)) s

/-- `neg`: -x, wrapped (05 R96). -/
def execNeg (sf : Bool) (d a : BitVec 5) (s : State) : Host.Outcome State Fault Refusal :=
  alu2 sf true 1 d a (numOp 1 d.toNat [a.toNat] true fun l => -(arg l 0).toInt) s

/-- `and`: bitwise AND (05 R96). -/
def execAndW (sf : Bool) (d a b : BitVec 5) (s : State) : Host.Outcome State Fault Refusal :=
  alu3 sf false 1 d a b (regOp 1 d.toNat [a.toNat, b.toNat] fun l => (arg l 0) &&& (arg l 1)) s

/-- `or`: bitwise OR (05 R96). -/
def execOrW (sf : Bool) (d a b : BitVec 5) (s : State) : Host.Outcome State Fault Refusal :=
  alu3 sf false 1 d a b (regOp 1 d.toNat [a.toNat, b.toNat] fun l => (arg l 0) ||| (arg l 1)) s

/-- `xor`: bitwise XOR (05 R96). -/
def execXorW (sf : Bool) (d a b : BitVec 5) (s : State) : Host.Outcome State Fault Refusal :=
  alu3 sf false 1 d a b (regOp 1 d.toNat [a.toNat, b.toNat] fun l => (arg l 0) ^^^ (arg l 1)) s

/-- `andn`: x AND NOT y (05 R96). -/
def execAndn (sf : Bool) (d a b : BitVec 5) (s : State) : Host.Outcome State Fault Refusal :=
  alu3 sf false 1 d a b (regOp 1 d.toNat [a.toNat, b.toNat] fun l => (arg l 0) &&& ~~~(arg l 1)) s

/-- `shl`: x shifted left by y[5:0] (05 R96). -/
def execShl (sf : Bool) (d a b : BitVec 5) (s : State) : Host.Outcome State Fault Refusal :=
  alu3 sf false 1 d a b (regOp 1 d.toNat [a.toNat, b.toNat] fun l => (arg l 0) <<< ((arg l 1).toNat % 64)) s

/-- `shr`: x.n shifted right by y[5:0] (05 R96). -/
def execShr (sf : Bool) (d a b : BitVec 5) (s : State) : Host.Outcome State Fault Refusal :=
  alu3 sf false 1 d a b (regOp 1 d.toNat [a.toNat, b.toNat] fun l => (arg l 0) >>> ((arg l 1).toNat % 64)) s

/-- `sra`: x.i shifted right by y[5:0] (05 R96). -/
def execSra (sf : Bool) (d a b : BitVec 5) (s : State) : Host.Outcome State Fault Refusal :=
  alu3 sf false 1 d a b (regOp 1 d.toNat [a.toNat, b.toNat] fun l => (arg l 0).sshiftRight ((arg l 1).toNat % 64)) s

/-- `cmpeq`: 1 if x = y (05 R96). -/
def execCmpeq (sf : Bool) (d a b : BitVec 5) (s : State) : Host.Outcome State Fault Refusal :=
  alu3 sf false 1 d a b (regOp 1 d.toNat [a.toNat, b.toNat] fun l => boolWord ((arg l 0) == (arg l 1))) s

/-- `cmplt`: 1 if x.i < y.i (05 R96). -/
def execCmplt (sf : Bool) (d a b : BitVec 5) (s : State) : Host.Outcome State Fault Refusal :=
  alu3 sf false 1 d a b (regOp 1 d.toNat [a.toNat, b.toNat] fun l => boolWord ((arg l 0).slt (arg l 1))) s

/-- `cmpltn`: 1 if x.n < y.n (05 R96). -/
def execCmpltn (sf : Bool) (d a b : BitVec 5) (s : State) : Host.Outcome State Fault Refusal :=
  alu3 sf false 1 d a b (regOp 1 d.toNat [a.toNat, b.toNat] fun l => boolWord ((arg l 0).ult (arg l 1))) s

/-- `clz`: count of leading zero bits (05 R96). -/
def execClz (sf : Bool) (d a : BitVec 5) (s : State) : Host.Outcome State Fault Refusal :=
  alu2 sf false 1 d a (regOp 1 d.toNat [a.toNat] fun l => BitVec.ofNat 64 (countLz (arg l 0))) s

/-- `ctz`: count of trailing zero bits (05 R96). -/
def execCtz (sf : Bool) (d a : BitVec 5) (s : State) : Host.Outcome State Fault Refusal :=
  alu2 sf false 1 d a (regOp 1 d.toNat [a.toNat] fun l => BitVec.ofNat 64 (countTz (arg l 0))) s

/-- `popc`: count of set bits (05 R96). -/
def execPopc (sf : Bool) (d a : BitVec 5) (s : State) : Host.Outcome State Fault Refusal :=
  alu2 sf false 1 d a (regOp 1 d.toNat [a.toNat] fun l => BitVec.ofNat 64 (popCount (arg l 0).toNat 64)) s

/-- `sext`: the low 8, 16 or 32 bits extended; width codes from 3 on are reserved (04 R85, 05 R96). -/
def execSext (sf : Bool) (d a w : BitVec 5) (s : State) : Host.Outcome State Fault Refusal :=
  issueWord sf .x false
    (fun s x => let p := usePre 1 [a.toNat] [d.toNat] s x; { p with reserved := p.reserved || 3 ≤ w.toNat })
    (regOp 1 d.toNat [a.toNat] fun l => sextLow (arg l 0) (widthOf w)) s

/-- `zext`: the low 8, 16 or 32 bits extended; width codes from 3 on are reserved (04 R85, 05 R96). -/
def execZext (sf : Bool) (d a w : BitVec 5) (s : State) : Host.Outcome State Fault Refusal :=
  issueWord sf .x false
    (fun s x => let p := usePre 1 [a.toNat] [d.toNat] s x; { p with reserved := p.reserved || 3 ≤ w.toNat })
    (regOp 1 d.toNat [a.toNat] fun l => zextLow (arg l 0) (widthOf w)) s

/-- `mov d, a`, W form (05 R96). -/
def execMovW (sf : Bool) (d a : BitVec 5) (s : State) : Host.Outcome State Fault Refusal :=
  alu2 sf false 1 d a (regOp 1 d.toNat [a.toNat] fun l => (arg l 0)) s

/-- `sel d, a, b, c`: a if c is nonzero, else b; all three sources are read and popped (05 R109). -/
def execSel (sf : Bool) (d a b c : BitVec 5) (s : State) : Host.Outcome State Fault Refusal :=
  issueWord sf .x false (usePre 1 [a.toNat, b.toNat, c.toNat] [d.toNat])
    (regOp 1 d.toNat [a.toNat, b.toNat, c.toNat] fun l => if arg l 2 ≠ 0 then (arg l 0) else (arg l 1)) s

/-- `addi d, a, imm`, W form (05 R96). -/
def execAddiW (sf : Bool) (d a : BitVec 5) (i : BitVec 14) (s : State) : Host.Outcome State Fault Refusal :=
  alu2 sf true 1 d a (numOp 1 d.toNat [a.toNat] true fun l => (arg l 0).toInt + i.toInt) s

/-- `cmpeqi` (05 R96). -/
def execCmpeqi (sf : Bool) (d a : BitVec 5) (i : BitVec 14) (s : State) : Host.Outcome State Fault Refusal :=
  alu2 sf false 1 d a (regOp 1 d.toNat [a.toNat] fun l => boolWord ((arg l 0) == i.signExtend 64)) s

/-- `cmplti` (05 R96). -/
def execCmplti (sf : Bool) (d a : BitVec 5) (i : BitVec 14) (s : State) : Host.Outcome State Fault Refusal :=
  alu2 sf false 1 d a (regOp 1 d.toNat [a.toNat] fun l => boolWord ((arg l 0).slt (i.signExtend 64))) s

/-- `shli`, W form (05 R96). -/
def execShliW (sf : Bool) (d a : BitVec 5) (n : BitVec 6) (s : State) : Host.Outcome State Fault Refusal :=
  alu2 sf false 1 d a (regOp 1 d.toNat [a.toNat] fun l => (arg l 0) <<< n.toNat) s

/-- `shri`, W form (05 R96). -/
def execShriW (sf : Bool) (d a : BitVec 5) (n : BitVec 6) (s : State) : Host.Outcome State Fault Refusal :=
  alu2 sf false 1 d a (regOp 1 d.toNat [a.toNat] fun l => (arg l 0) >>> n.toNat) s

/-- `srai`, W form (05 R96). -/
def execSraiW (sf : Bool) (d a : BitVec 5) (n : BitVec 6) (s : State) : Host.Outcome State Fault Refusal :=
  alu2 sf false 1 d a (regOp 1 d.toNat [a.toNat] fun l => (arg l 0).sshiftRight n.toNat) s

/-- `li d, imm`, W form (05 R96). -/
def execLiW (sf : Bool) (d : BitVec 5) (i : BitVec 14) (s : State) : Host.Outcome State Fault Refusal :=
  issueWord sf .x false (usePre 1 [] [d.toNat]) (regOp 1 d.toNat [] fun _ => i.signExtend 64) s

/-- `lui d, a, imm`: x shifted left by 14, OR the zero-extended immediate (05 R96). -/
def execLui (sf : Bool) (d a : BitVec 5) (i : BitVec 14) (s : State) : Host.Outcome State Fault Refusal :=
  alu2 sf false 1 d a (regOp 1 d.toNat [a.toNat] fun l => ((arg l 0) <<< 14) ||| i.setWidth 64) s

/-- `bfx d, a, pos, len`; `l` holds len - 1, and pos + len > 64 is reserved (04 R84, 05 R96). -/
def execBfx (sf : Bool) (d a : BitVec 5) (l p : BitVec 6) (s : State) : Host.Outcome State Fault Refusal :=
  issueWord sf .x false
    (fun s x =>
      let q := usePre 1 [a.toNat] [d.toNat] s x
      { q with reserved := q.reserved || 64 < p.toNat + l.toNat + 1 })
    (regOp 1 d.toNat [a.toNat] fun v => bitsOut (arg v 0) p.toNat (l.toNat + 1)) s

/-- `bfi d, a, pos, len` reads its destination as a source: a queue or `cy` there is illegal (05 R96, R97). -/
def execBfi (sf : Bool) (d a : BitVec 5) (l p : BitVec 6) (s : State) : Host.Outcome State Fault Refusal :=
  issueWord sf .x false
    (fun s x =>
      let q := usePre 1 [a.toNat, d.toNat] [d.toNat] s x
      { q with reserved := q.reserved || 64 < p.toNat + l.toNat + 1 })
    (regOp 1 d.toNat [a.toNat, d.toNat] fun v => bitsIn (arg v 1) (arg v 0) p.toNat (l.toNat + 1)) s

/-- A write of an OX register of the issuing half's bank, readable at c+1 (05 R98). -/
def oxPut (n : Nat) (srcs : List Nat) (f : List Word → Word) (s : State) (x : Ctx) : Res :=
  match s.sources x 0 srcs with
  | .fault s' code sub tv => .trap s' code sub tv
  | .vals s' l => .ok (s'.land x.core x.half 1 (if x.half = .a then .oxA n else .oxX n) (f l)) .seq

/-- `oxset oxN, a` (05 R98). -/
def execOxset (sf : Bool) (n : BitVec 3) (a : BitVec 5) (s : State) : Host.Outcome State Fault Refusal :=
  issueWord sf .eOnly false (usePre 1 [a.toNat] []) (oxPut n.toNat [a.toNat] fun l => (arg l 0)) s

/-- `oxli oxN, imm` (05 R98). -/
def execOxli (sf : Bool) (n : BitVec 3) (i : BitVec 14) (s : State) : Host.Outcome State Fault Refusal :=
  issueWord sf .eOnly false noPre (oxPut n.toNat [] fun _ => i.signExtend 64) s

/-! ### H forms -/

/-- `add a, a, b`, H form: addition (05 R95, R96). -/
def execAddH (sf : Bool) (a : BitVec 5) (b : BitVec 4) (s : State) : Host.Outcome State Fault Refusal :=
  issueWord sf .x true (usePre 1 [a.toNat, b.toNat] [a.toNat]) (numOp 1 a.toNat [a.toNat, b.toNat] true fun l => (arg l 0).toInt + (arg l 1).toInt) s

/-- `sub a, a, b`, H form: subtraction (05 R95, R96). -/
def execSubH (sf : Bool) (a : BitVec 5) (b : BitVec 4) (s : State) : Host.Outcome State Fault Refusal :=
  issueWord sf .x true (usePre 1 [a.toNat, b.toNat] [a.toNat]) (numOp 1 a.toNat [a.toNat, b.toNat] true fun l => (arg l 0).toInt - (arg l 1).toInt) s

/-- `and a, a, b`, H form: bitwise AND (05 R95, R96). -/
def execAndH (sf : Bool) (a : BitVec 5) (b : BitVec 4) (s : State) : Host.Outcome State Fault Refusal :=
  issueWord sf .x false (usePre 1 [a.toNat, b.toNat] [a.toNat]) (regOp 1 a.toNat [a.toNat, b.toNat] fun l => (arg l 0) &&& (arg l 1)) s

/-- `or a, a, b`, H form: bitwise OR (05 R95, R96). -/
def execOrH (sf : Bool) (a : BitVec 5) (b : BitVec 4) (s : State) : Host.Outcome State Fault Refusal :=
  issueWord sf .x false (usePre 1 [a.toNat, b.toNat] [a.toNat]) (regOp 1 a.toNat [a.toNat, b.toNat] fun l => (arg l 0) ||| (arg l 1)) s

/-- `xor a, a, b`, H form: bitwise XOR (05 R95, R96). -/
def execXorH (sf : Bool) (a : BitVec 5) (b : BitVec 4) (s : State) : Host.Outcome State Fault Refusal :=
  issueWord sf .x false (usePre 1 [a.toNat, b.toNat] [a.toNat]) (regOp 1 a.toNat [a.toNat, b.toNat] fun l => (arg l 0) ^^^ (arg l 1)) s

/-- `mov a, b`, H form (05 R95, R96). -/
def execMovH (sf : Bool) (a : BitVec 5) (b : BitVec 4) (s : State) : Host.Outcome State Fault Refusal :=
  issueWord sf .x false (usePre 1 [b.toNat] [a.toNat]) (regOp 1 a.toNat [b.toNat] fun l => (arg l 0)) s

/-- `addi a, a, imm`, H form (05 R95, R96). -/
def execAddiH (sf : Bool) (a : BitVec 5) (i : BitVec 4) (s : State) : Host.Outcome State Fault Refusal :=
  alu2 sf true 1 a a (numOp 1 a.toNat [a.toNat] true fun l => (arg l 0).toInt + i.toInt) s

/-- `shli a, a, n`, H form (05 R95, R96). -/
def execShliH (sf : Bool) (a : BitVec 5) (n : BitVec 4) (s : State) : Host.Outcome State Fault Refusal :=
  alu2 sf false 1 a a (regOp 1 a.toNat [a.toNat] fun l => (arg l 0) <<< n.toNat) s

/-- `shri a, a, n`, H form (05 R95, R96). -/
def execShriH (sf : Bool) (a : BitVec 5) (n : BitVec 4) (s : State) : Host.Outcome State Fault Refusal :=
  alu2 sf false 1 a a (regOp 1 a.toNat [a.toNat] fun l => (arg l 0) >>> n.toNat) s

/-- `srai a, a, n`, H form (05 R95, R96). -/
def execSraiH (sf : Bool) (a : BitVec 5) (n : BitVec 4) (s : State) : Host.Outcome State Fault Refusal :=
  alu2 sf false 1 a a (regOp 1 a.toNat [a.toNat] fun l => (arg l 0).sshiftRight n.toNat) s

/-- `li a, imm`, H form (05 R95, R96). -/
def execLiH (sf : Bool) (d : BitVec 5) (i : BitVec 4) (s : State) : Host.Outcome State Fault Refusal :=
  issueWord sf .x false (usePre 1 [] [d.toNat]) (regOp 1 d.toNat [] fun _ => i.signExtend 64) s

/-! ### Words without operands, the modifier and skips -/

/-- An effect-free word (05 R110). -/
def nothing (s : State) (_ : Ctx) : Res := .ok s .seq

/-- `nop` (05 R110). -/
def execNop (sf : Bool) (s : State) : Host.Outcome State Fault Refusal := issueWord sf .e false noPre nothing s

/-- `nop n, m`: a hint has no effect; codes 8 to 31 are illegal (04 R82). -/
def execNopHint (sf : Bool) (n : BitVec 5) (_m : BitVec 4) (s : State) : Host.Outcome State Fault Refusal :=
  issueWord sf .e false (fun _ _ => { illegal := 8 ≤ n.toNat, reserved := n.toNat == 0 }) nothing s

/-- `mod`: its flags wait for the next word of the stream (04 R88, R89; 05 R99). -/
def execMod (sf : Bool) (b n k t : BitVec 1) (c : BitVec 4) (s : State) : Host.Outcome State Fault Refusal :=
  issueWord sf .e false noPre
    (fun s x => .ok s (.modify
      { abs := b == 1, neg := n == 1, clamp := k == 1, sat := t == 1, sc := c, addr := x.addr })) s

/-- A skip word: the next `n` words are skipped when the condition holds; n of 0 and 8 to 15 is reserved (05 R108). -/
def skipOp (sf : Bool) (a : BitVec 5) (n : BitVec 4) (cond : Word → Bool) (s : State) :
    Host.Outcome State Fault Refusal :=
  issueWord sf .e false
    (fun s x =>
      let p := usePre 1 [a.toNat] [] s x
      { p with reserved := p.reserved || n.toNat == 0 || 8 ≤ n.toNat })
    (fun s x =>
      match s.sources x 0 [a.toNat] with
      | .fault s' code sub tv => .trap s' code sub tv
      | .vals s' l => .ok s' (if cond (arg l 0) then .skip n.toNat else .seq)) s

/-- `skipz a, n` (05 R108). -/
def execSkipz (sf : Bool) (a : BitVec 5) (n : BitVec 4) (s : State) : Host.Outcome State Fault Refusal :=
  skipOp sf a n (fun v => v == 0) s

/-- `skipnz a, n` (05 R108). -/
def execSkipnz (sf : Bool) (a : BitVec 5) (n : BitVec 4) (s : State) : Host.Outcome State Fault Refusal :=
  skipOp sf a n (fun v => v != 0) s

/-! ### Relative registers (05 R111) -/

/-- Window register ix + k is in bounds. -/
def relOk (s : State) (x : Ctx) (i : Int) : Bool := 0 ≤ i && i ≤ ((x.stream s).wlimit : Int) - 1

/-- `movx d, k` (05 R111). -/
def execMovx (sf : Bool) (d : BitVec 5) (k : BitVec 7) (s : State) : Host.Outcome State Fault Refusal :=
  issueWord sf .xOnly false (usePre 1 [] [d.toNat])
    (fun s x =>
      let i := (s.core x.core).regs.ix.toInt + k.toInt
      if relOk s x i then regOp 1 d.toNat [i.toNat] (fun l => (arg l 0)) s x
      else .trap s 0x07 0 (toWord i)) s

/-- `movxw k, a` (05 R111). -/
def execMovxw (sf : Bool) (a : BitVec 5) (k : BitVec 7) (s : State) : Host.Outcome State Fault Refusal :=
  issueWord sf .xOnly false (usePre 1 [a.toNat] [])
    (fun s x =>
      let i := (s.core x.core).regs.ix.toInt + k.toInt
      if relOk s x i then regOp 1 i.toNat [a.toNat] (fun l => (arg l 0)) s x
      else .trap s 0x07 0 (toWord i)) s

/-- A write of `ix`, checked against the bounds (05 R111). -/
def ixOp (sf : Bool) (srcs : List Nat) (f : List Word → Word) (s : State) : Host.Outcome State Fault Refusal :=
  issueWord sf .xOnly false (usePre 1 srcs []) (regOp 1 24 srcs f) s

/-- `setix a`, H form (05 R111). -/
def execSetixH (sf : Bool) (a : BitVec 5) (s : State) : Host.Outcome State Fault Refusal :=
  ixOp sf [a.toNat] (fun l => (arg l 0)) s

/-- `addix k`, H form (05 R111). -/
def execAddixH (sf : Bool) (i : BitVec 4) (s : State) : Host.Outcome State Fault Refusal :=
  ixOp sf [24] (fun l => (arg l 0) + i.signExtend 64) s

/-- `setix a, k`, W form (05 R111). -/
def execSetixW (sf : Bool) (a : BitVec 5) (k : BitVec 7) (s : State) : Host.Outcome State Fault Refusal :=
  ixOp sf [a.toNat] (fun l => (arg l 0) + k.signExtend 64) s

/-- `addix k`, W form (05 R111). -/
def execAddixW (sf : Bool) (k : BitVec 7) (s : State) : Host.Outcome State Fault Refusal :=
  ixOp sf [24] (fun l => (arg l 0) + k.signExtend 64) s

/-! ### Address arithmetic and counters of the A-half (06 R113-R115) -/

/-- `aadd d, a, b` (06 R114). -/
def execAadd (sf : Bool) (d a b : BitVec 5) (s : State) : Host.Outcome State Fault Refusal :=
  issueWord sf .a false (usePre 1 [a.toNat, b.toNat] [d.toNat])
    (regOp 1 d.toNat [a.toNat, b.toNat] fun l => (arg l 0) + (arg l 1)) s

/-- `aaddi d, a, imm`, W form (06 R114). -/
def execAaddiW (sf : Bool) (d a : BitVec 5) (i : BitVec 14) (s : State) : Host.Outcome State Fault Refusal :=
  issueWord sf .a false (usePre 1 [a.toNat] [d.toNat]) (regOp 1 d.toNat [a.toNat] fun l => (arg l 0) + i.signExtend 64) s

/-- `aaddi a, a, imm`, H form (06 R114). -/
def execAaddiH (sf : Bool) (a : BitVec 5) (i : BitVec 4) (s : State) : Host.Outcome State Fault Refusal :=
  issueWord sf .a false (usePre 1 [a.toNat] [a.toNat]) (regOp 1 a.toNat [a.toNat] fun l => (arg l 0) + i.signExtend 64) s

/-- `amov d, a`, W form (06 R114). -/
def execAmovW (sf : Bool) (d a : BitVec 5) (s : State) : Host.Outcome State Fault Refusal :=
  issueWord sf .a false (usePre 1 [a.toNat] [d.toNat]) (regOp 1 d.toNat [a.toNat] fun l => (arg l 0)) s

/-- `amov a, b`, H form: source codes 12 to 15 are reserved (04 R81, 06 R114). -/
def execAmovH (sf : Bool) (a : BitVec 5) (b : BitVec 4) (s : State) : Host.Outcome State Fault Refusal :=
  issueWord sf .a false (usePre 1 [b.toNat] [a.toNat]) (regOp 1 a.toNat [b.toNat] fun l => (arg l 0)) s

/-- Whether a destination is no loop counter (06 R114). -/
def notCounter (d : BitVec 5) : Bool := d.toNat < 8 || 11 < d.toNat

/-- `kset d, a`: d is k0 to k3 (06 R114). -/
def execKset (sf : Bool) (d a : BitVec 5) (s : State) : Host.Outcome State Fault Refusal :=
  issueWord sf .a false
    (fun s x => let p := usePre 1 [a.toNat] [d.toNat] s x; { p with reserved := p.reserved || notCounter d })
    (regOp 1 d.toNat [a.toNat] fun l => (arg l 0)) s

/-- The target of a branch by `i` halfwords (04 R76). -/
def Ctx.target (x : Ctx) (i : Int) : BitVec 32 := x.addr + BitVec.ofInt 32 i

/-- `kloop d, label`: decrement a nonzero counter and branch while it stays above zero (06 R115). -/
def execKloop (sf : Bool) (d : BitVec 5) (i : BitVec 14) (s : State) : Host.Outcome State Fault Refusal :=
  issueWord sf .a false (fun _ _ => { reserved := notCounter d })
    (fun s x =>
      let v := vget 0 (s.core x.core).regs.k (d.toNat - 8)
      if v = 0 then .ok s .seq
      else
        let s := s.put x 1 d.toNat ((v - 1).setWidth 64)
        .ok s (if v = 1 then .seq else .jump (x.target i.toInt))) s

end Sys2Proof.Machine
end

