-- ==== Sys2Proof/Machine/Window.lean ====
section
/-!
DEFINITION. The window file and its stack image (02 R29-R31, 05 R103-R107, 09 R193): slides, spills and fills, and the
register-image window that engines reach.
-/

namespace Sys2Proof.Machine

/-- The memory key of stack register `n`'s image: byte 8n from `WBASE.BASE` in the near column (02 R29). -/
def Core.imageKey (c : Core) (n : Nat) : Nat :=
  colKey (lCol c.ctl.wbase.toNat) (lOff c.ctl.wbase.toNat + 8 * n)

/-- Whether a stack line is resident in the window file (02 R30). -/
def Core.resident (c : Core) (line : Nat) : Bool := c.sx.rbot ≤ line && line < c.sx.rbot + c.sx.rcnt

/-- A stack register with a value of good parity. -/
def Core.setWin (c : Core) (n : Nat) (v : Word) : Core :=
  { c with regs := { c.regs with
      win := vput c.regs.win (n % 64) v
      winBad := c.regs.winBad &&& ~~~(BitVec.ofNat 64 (2 ^ (n % 64))) } }

/-- A stack register whose parity is bad. -/
def Core.spoilWin (c : Core) (n : Nat) : Core :=
  { c with regs := { c.regs with winBad := c.regs.winBad ||| BitVec.ofNat 64 (2 ^ (n % 64)) } }

/-- The registers of `k` lines from line `l`. -/
def lineRegs (l k : Nat) : List Nat := rangeFrom (4 * l) (4 * k)

/-- Write a resident stack register to the image; one of bad parity is written as poison (24 R370, R371),
and logged (R373). -/
def State.spillReg (s : State) (c n : Nat) : State :=
  let k := s.core c
  let s := s.write64 (k.imageKey n) (vget 0 k.regs.win (n % 64))
  if k.regs.winBad.getLsbD (n % 64) then (s.noteErr .window false (64 * c + n % 64)).markPoison (k.imageKey n) else s

/-- Write `k` lines from line `l` to the image (05 R106). -/
def State.spillLines (s : State) (c l k : Nat) : State := (lineRegs l k).foldl (fun s n => s.spillReg c n) s

/-- Read a stack register from the image; a poisoned word comes in with bad parity. -/
def State.fillReg (s : State) (c n : Nat) : State :=
  let key := (s.core c).imageKey n
  let v := s.read64 key
  let bad := poisoned s.ecc key 8
  (s.noteRead [(key, 8)]).modCore c fun k => if bad then (k.setWin n v).spoilWin n else k.setWin n v

/-- Read `k` lines from line `l` from the image (05 R106). -/
def State.fillLines (s : State) (c l k : Nat) : State := (lineRegs l k).foldl (fun s n => s.fillReg c n) s

/-- The lines the window file can hold: 16, or 12 while a routine is bound (02 R30). -/
def Core.capacity (c : Core) : Nat := if c.routineBound then 12 else 16

/-- The window state after a call that slides by `n` and spills `e` lines: the top registers of the new window read zero
(05 R105). -/
def Core.callSlide (c : Core) (e n : Nat) : Core :=
  let t := c.sx
  let c := { c with sx := { t with wptr := t.wptr + n, rbot := t.rbot + e, rcnt := t.rcnt + n / 4 - e } }
  (rangeFrom (t.wptr + 16) n).foldl (fun c r => c.setWin r 0) c

/-- The window state after a return that slides by `n` and fills `f` lines (05 R105). -/
def Core.retSlide (c : Core) (f n : Nat) : Core :=
  let t := c.sx
  { c with sx := { t with wptr := t.wptr - n, rbot := t.rbot - f, rcnt := t.rcnt - n / 4 + f } }

/-- The agenda without the register writes to lines from `l` for `q` lines: a return discards them (05 R105). DESIGN CHOICE
(log 96): a write that is discarded is no longer in flight for the stop-flag rule (02 R35). -/
def State.dropLines (s : State) (c l q : Nat) : State :=
  { s with agenda := s.agenda.filter fun e =>
      match e.ev with
      | .reg c' .x (.stack n) _ => !(c == c' && l ≤ n / 4 && n / 4 < l + q)
      | _ => true }

/-- What the window file's port does at the end of its sixteen cycles (05 R106, 09 R193). -/
def State.winDone (s : State) (c : Nat) (op : WinOp) : State :=
  let t := (s.core c).sx
  match op with
  | .spill e n => (s.spillLines c t.rbot e).modCore c (·.callSlide e n)
  | .fill f n =>
    let s := s.modCore c (·.retSlide f n)
    s.fillLines c (s.core c).sx.rbot f
  | .wsave e =>
    (s.spillLines c t.rbot t.rcnt).modCore c fun k =>
      { k with sx := { k.sx with rbot := k.sx.rbot + e, rcnt := k.sx.rcnt - e } }
  | .wrest none => s.fillLines c t.rbot t.rcnt
  | .wrest (some f) =>
    (s.fillLines c (t.rbot - f) (min f t.rbot)).modCore c fun k =>
      { k with sx := { k.sx with rbot := k.sx.rbot - f, rcnt := k.sx.rcnt + f } }

/-- The lines of bytes of the register image (window kind 1): a resident line is the window file's, the others are the
near column's (02 R31). The word at offset `off`, a multiple of 8, and whether it is poisoned. -/
def State.imageWord (s : State) (c off : Nat) : Word × Bool :=
  let k := s.core c
  let n := off / 8
  if k.resident (n / 4) then (vget 0 k.regs.win (n % 64), k.regs.winBad.getLsbD (n % 64))
  else (s.read64 (k.imageKey n), poisoned s.ecc (k.imageKey n) 8)

/-- An engine's write of a word of the register image (02 R31). -/
def State.setImageWord (s : State) (c off : Nat) (v : Word) (bad : Bool) : State :=
  let k := s.core c
  let n := off / 8
  if k.resident (n / 4) then s.modCore c fun k => if bad then (k.setWin n v).spoilWin n else k.setWin n v
  else
    let s := s.write64 (k.imageKey n) v
    if bad then s.markPoison (k.imageKey n) else s

end Sys2Proof.Machine
end

