-- ==== Sys2Proof/Machine/Control.lean ====
section
/-!
DEFINITION. Branches, jumps, calls and returns (05 R101-R107), holds, parks and restarts (09 R175-R181), traps and
returns from them (09 R190-R192), the window words (09 R193), and encodings that are no instruction (04 R92).
-/

namespace Sys2Proof.Machine

/-- The name of the class-E register-use check with sources alone. -/
def eSrc (regs : List Nat) : State → Ctx → Pre := usePre 1 regs []

/-- A branch on a register (05 R102). -/
def branchOp (sf : Bool) (a : BitVec 5) (i : BitVec 14) (cond : Word → Bool) (s : State) :
    Host.Outcome State Fault Refusal :=
  issueWord sf .e false (eSrc [a.toNat])
    (fun s x =>
      match s.sources x 0 [a.toNat] with
      | .fault s' code sub tv => .trap s' code sub tv
      | .vals s' l => .ok s' (if cond (arg l 0) then .jump (x.target i.toInt) else .seq)) s

/-- `br label` (05 R102). -/
def execBr (sf : Bool) (i : BitVec 24) (s : State) : Host.Outcome State Fault Refusal :=
  issueWord sf .e false noPre (fun s x => .ok s (.jump (x.target i.toInt))) s

/-- `brz a, label` (05 R102). -/
def execBrz (sf : Bool) (a : BitVec 5) (i : BitVec 14) (s : State) : Host.Outcome State Fault Refusal :=
  branchOp sf a i (fun v => v == 0) s

/-- `brnz a, label` (05 R102). -/
def execBrnz (sf : Bool) (a : BitVec 5) (i : BitVec 14) (s : State) : Host.Outcome State Fault Refusal :=
  branchOp sf a i (fun v => v != 0) s

/-- `jr a` (05 R102). -/
def execJr (sf : Bool) (a : BitVec 5) (s : State) : Host.Outcome State Fault Refusal :=
  issueWord sf .e false (eSrc [a.toNat])
    (fun s x =>
      match s.sources x 0 [a.toNat] with
      | .fault s' code sub tv => .trap s' code sub tv
      | .vals s' l => .ok s' (.jump ((arg l 0).setWidth 32))) s

/-- Whether 02 R21 forbids a word of the half the queue or the global register `r`: to a routine `ql0`, `ql1`, `qs0`,
`qs1` and a global register as destination, to the X-stream `ql2` while a routine is bound. -/
def loopForbidden (h : Half) (bound : Bool) (r : Nat) : Bool :=
  match h with
  | .x => r == 27 && bound
  | .w => (16 ≤ r && r < 24) || r == 25 || r == 26 || r == 28 || r == 29
  | .a => false

/-- The register-use check of a `loop`: what 02 R21 forbids is illegal first (04 R91, R93); otherwise `g0`, a queue and
`cy` are reserved codes of the word (05 R102). -/
def loopPre (r : Nat) (s : State) (x : Ctx) : Pre :=
  if loopForbidden x.half (s.core x.core).routineBound r then { illegal := true }
  else if r == 16 || (25 ≤ r && r ≤ 30) then { reserved := true }
  else usePre 1 [r] [r] s x

/-- `loop d, label`: d = d - 1, and a branch while the new d is positive; g0, a queue and `cy` are reserved (05 R102).
-/
def execLoop (sf : Bool) (d : BitVec 5) (i : BitVec 14) (s : State) : Host.Outcome State Fault Refusal :=
  let r := d.toNat
  issueWord sf .x false (loopPre r)
    (fun s x =>
      match s.sources x 0 [r] with
      | .fault s' code sub tv => .trap s' code sub tv
      | .vals s' l =>
        let v := arg l 0 - 1
        match deliver s s' x 1 r v with
        | .ok s'' _ => .ok s'' (if 0 < v.toInt then .jump (x.target i.toInt) else .seq)
        | t => t) s

/-! ### Calls and returns -/

/-- The trap value of a spill or fill (09 R187): the line count in [35:32], the first line in [31:0]. -/
def windowVal (count first : Nat) : Word := BitVec.ofNat 64 (count % 16 * 2 ^ 32 + first % 2 ^ 32)

/-- A call to `target` that slides by `n` (05 R105-R107). -/
def callTo (s : State) (x : Ctx) (target : BitVec 32) (n : Nat) : Res :=
  let k := s.core x.core
  let t := k.sx
  if k.ctl.wsize < (t.wptr + n) / 4 + 4 then .trap s 0x0D 0 (BitVec.ofNat 64 t.wptr)
  else
    let e := t.rcnt + n / 4 - k.capacity
    let lk := BitVec.ofNat 64 (n / 4 * 2 ^ 60 + x.nextAddr.toNat)
    if e = 0 then .ok ((s.modCore x.core (·.callSlide 0 n)).put x 1 31 lk) (.jump target)
    else if (s.bindAt x.bind).mode 0 then .trap s 0x0E 0 (windowVal e t.rbot)
    else .ok ((s.post (x.now + 16) 0 (.win x.core (.spill e n))).put x 1 31 lk) (.window target)

/-- `call label, n` (05 R103, R105). -/
def callOp (sf : Bool) (n : Nat) (i : BitVec 24) (s : State) : Host.Outcome State Fault Refusal :=
  issueWord sf .xOnly false noPre (fun s x => callTo s x (x.target i.toInt) n) s

/-- `callr a, n` (05 R103, R105). -/
def callrOp (sf : Bool) (n : Nat) (a : BitVec 5) (s : State) : Host.Outcome State Fault Refusal :=
  issueWord sf .xOnly false (eSrc [a.toNat])
    (fun s x =>
      match s.sources x 0 [a.toNat] with
      | .fault s' code sub tv => .trap s' code sub tv
      | .vals s' l =>
        match callTo s' x ((arg l 0).setWidth 32) n with
        | .trap _ code sub tv => .trap s code sub tv
        | r => r) s

/-- `call label, 4` (05 R105). -/
def execCall4 (sf : Bool) (i : BitVec 24) (s : State) : Host.Outcome State Fault Refusal := callOp sf 4 i s
/-- `call label, 8` (05 R105). -/
def execCall8 (sf : Bool) (i : BitVec 24) (s : State) : Host.Outcome State Fault Refusal := callOp sf 8 i s
/-- `call label, 12` (05 R105). -/
def execCall12 (sf : Bool) (i : BitVec 24) (s : State) : Host.Outcome State Fault Refusal := callOp sf 12 i s
/-- `callr a, 4` (05 R105). -/
def execCallr4 (sf : Bool) (a : BitVec 5) (s : State) : Host.Outcome State Fault Refusal := callrOp sf 4 a s
/-- `callr a, 8` (05 R105). -/
def execCallr8 (sf : Bool) (a : BitVec 5) (s : State) : Host.Outcome State Fault Refusal := callrOp sf 8 a s
/-- `callr a, 12` (05 R105). -/
def execCallr12 (sf : Bool) (a : BitVec 5) (s : State) : Host.Outcome State Fault Refusal := callrOp sf 12 a s

/-- `ret`: back through `lk`; writes in flight to the callee's lines are lost (05 R105-R107). -/
def execRet (sf : Bool) (s : State) : Host.Outcome State Fault Refusal :=
  issueWord sf .xOnly false noPre
    (fun s x =>
      let k := s.core x.core
      let t := k.sx
      let q := wfld k.regs.lk 61 60
      let n := 4 * q
      let target := k.regs.lk.setWidth 32
      if t.wptr < n then .trap s 0x0D 0 (BitVec.ofNat 64 t.wptr)
      else
        let f := t.rbot - (t.wptr - n) / 4
        let s' := s.dropLines x.core (t.wptr / 4 + 4 - q) q
        if f = 0 then .ok (s'.modCore x.core (·.retSlide 0 n)) (.jump target)
        else if (s.bindAt x.bind).mode 0 then .trap s 0x0F 0 (windowVal f (t.rbot - f))
        else .ok (s'.post (x.now + 16) 0 (.win x.core (.fill f n))) (.window target)) s

/-! ### Holds, parks and restarts -/

/-- The idle count of a `hold`: a plus the unsigned immediate, as an unsigned 64-bit sum (09 R175). -/
def holdCount (v : Word) (i : BitVec 14) : Nat := (v + i.setWidth 64).toNat

/-- Whether the count of a `hold` is reserved, if its source can be read. -/
def holdBad (a : BitVec 5) (i : BitVec 14) (s : State) (x : Ctx) : Bool :=
  match s.sources x 0 [a.toNat] with
  | .vals _ l => 2 ^ 32 ≤ holdCount (arg l 0) i
  | _ => false

/-- `hold a, imm` (09 R175). -/
def execHold (sf : Bool) (a : BitVec 5) (i : BitVec 14) (s : State) : Host.Outcome State Fault Refusal :=
  issueWord sf .e false
    (fun s x => let p := eSrc [a.toNat] s x; { p with reserved := p.reserved || holdBad a i s x })
    (fun s x =>
      match s.sources x 0 [a.toNat] with
      | .fault s' code sub tv => .trap s' code sub tv
      | .vals s' l => .ok s' (.hold (holdCount (arg l 0) i))) s

/-- `await !` (09 R176). -/
def execAwait (s : State) : Host.Outcome State Fault Refusal :=
  issueWord true .eOnly false noPre (fun s _ => .ok s .await) s

/-- The checks of a pointer that `rejoin` watches or that names a completion word: an A-half load of 8 bytes could reach
it, so its space is the scratchpad's or a column's, and it is a multiple of 8 (09 R177, 10 R210). -/
def watchFault (s : State) (x : Ctx) (p : Word) : Option (Nat × Word) :=
  let n := p.toNat
  if (ptrTag n ≠ 1 ∧ ptrTag n ≠ 2) ∨ (s.reach x.core x.bind .load (ptrTag n) n 8).isNone then some (0x08, p)
  else if n % 8 ≠ 0 then some (0x09, p)
  else none

/-- `rejoin a !` (09 R177): a sample that met poison raises the poison fault at the `rejoin`. -/
def execRejoin (a : BitVec 5) (s : State) : Host.Outcome State Fault Refusal :=
  issueWord true .eOnly false (eSrc [a.toNat])
    (fun s x =>
      if (x.stream s).sample = .poisoned then .trap s 0x0C 0 (x.stream s).watch
      else match s.sources x 0 [a.toNat] with
      | .fault s' code sub tv => .trap s' code sub tv
      | .vals s' l =>
        match watchFault s x (arg l 0) with
        | some f => .trap s f.1 0 f.2
        | none => .ok s' (.rejoin (arg l 0))) s

/-- Whether the queues that `mark` tests are empty: no entry there or in flight at the start of the cycle; `ql2` is left
out while a routine is bound (09 R179). -/
def Core.queuesClear (c : Core) (now : Nat) : Bool :=
  [0, 1, 3, 4].all (fun q => c.occupancy q now == 0) && (c.routineBound || c.occupancy 2 now == 0)

/-- `mark !` (09 R179). -/
def execMark (s : State) : Host.Outcome State Fault Refusal :=
  issueWord true .e false noPre
    (fun s x =>
      if x.m % (s.bindAt x.bind).interval = 0 ∧ (s.core x.core).queuesClear x.now then .ok s .seq
      else .slip 8) s

/-- `rpt`: the restart point (09 R180). -/
def execRpt (sf : Bool) (s : State) : Host.Outcome State Fault Refusal :=
  issueWord sf .e false noPre
    (fun s x => .ok (s.modStream x.core x.half fun t =>
      { t with traps := { t.traps with rstValid := true, rstPc := x.addr, rstCy := BitVec.ofNat 64 x.m } }) .seq) s

/-- `resync` (09 R181). -/
def execResync (sf : Bool) (s : State) : Host.Outcome State Fault Refusal :=
  issueWord sf .eOnly false noPre (fun s _ => .ok s .resync) s

/-! ### Traps -/

/-- `trap n`: `trap 0` ends the stream, and another n raises the software trap (09 R191). -/
def execTrap (sf : Bool) (n : BitVec 14) (s : State) : Host.Outcome State Fault Refusal :=
  issueWord sf .e false noPre
    (fun s x => if n = 0 ∧ x.half ≠ .w then .ok (s.noteEnd x) .ended else .soft n.toNat) s

/-- `rtt`: mode and count restored, the word at TPC next (09 R190). -/
def execRtt (sf : Bool) (s : State) : Host.Outcome State Fault Refusal :=
  issueWord sf .eOnly false (fun _ _ => { privileged := true })
    (fun s x => let t := (x.stream s).traps; .ok s (.back t.tpc t.scnt.toNat)) s

/-- `brk n`: with DBG set, TPC takes the next word's address and the domain stops at its next mark (09 R192). -/
def execBrk (sf : Bool) (n : BitVec 4) (s : State) : Host.Outcome State Fault Refusal :=
  issueWord sf .e false noPre
    (fun s x =>
      if (x.stream s).traps.dbg then
        let s := s.modStream x.core x.half fun t => { t with traps := { t.traps with tpc := x.nextAddr } }
        .ok (s.modBind x.bind fun b => { b with brk := b.brk ++ [{ n := n.toNat, core := x.core, half := x.half, pc := x.nextAddr }] }) .seq
      else .ok s .seq) s

/-- `wsave` (09 R193): in a spill handler the spilled lines leave the file. -/
def execWsave (sf : Bool) (s : State) : Host.Outcome State Fault Refusal :=
  issueWord sf .xOnly false noPre
    (fun s x =>
      let t := (x.stream s).traps
      let e := if t.priv && t.code == 0x0E then wfld t.tval 35 32 else 0
      .ok (s.post (x.now + 16) 0 (.win x.core (.wsave e))) (.window x.nextAddr)) s

/-- `wrest` (09 R193): in a fill handler the lines below RBOT come in, else every resident line is read again. -/
def execWrest (sf : Bool) (s : State) : Host.Outcome State Fault Refusal :=
  issueWord sf .xOnly false (fun _ _ => { privileged := true })
    (fun s x =>
      let t := (x.stream s).traps
      let f := if t.code == 0x0F then some (wfld t.tval 35 32) else none
      .ok (s.post (x.now + 16) 0 (.win x.core (.wrest f))) (.window x.nextAddr)) s

/-! ### Encodings that are no instruction -/

/-- A word that no row of the map assigns (04 R71, R92): illegal-instruction, or reserved-field after the class and the
register uses of the row it comes nearest to. A word outside the kernel image faults even where it would be skipped
(05 R108). -/
def execUnassignedEncoding (why : EncFault) (s : State) : Host.Outcome State Fault Refusal :=
  let sf := bitAt s.cur.bits 1
  match why with
  | .illegal => issueWord sf .e false (fun _ _ => { illegal := true }) nothing s
  | .reserved cls srcs dsts =>
    issueWord sf cls false
      (fun s x =>
        let p := usePre 1 (srcs.map (·.toNat)) (dsts.map (·.toNat)) s x
        { p with illegal := p.illegal || (cls == .a && dsts.contains 27 && (s.core x.core).routineBound), reserved := true })
      nothing s
  | .reservedLoop d =>
    issueWord sf .x false (fun s x => { loopPre d.toNat s x with reserved := true }) nothing s
  | .outside =>
    let x := s.ctx
    .next ((s.noteIssue x sf).raise x 0x01 0 x.wordVal x.addr (x.stream s).scnt)

end Sys2Proof.Machine
end

