-- ==== Sys2Proof/Machine/System.lean ====
section
/-!
DEFINITION. Control registers (02 R39-R45, 09 R183-R186, 13 R246, 22 R351), endpoint names (22 R352) and child launches
(09 R194).
-/

namespace Sys2Proof.Machine

/-- A word of fields: each is a value and the place of its lowest bit. -/
def pack (l : List (Nat × Nat)) : Word := BitVec.ofNat 64 (l.foldl (fun a p => a + p.1 * 2 ^ p.2) 0)

/-- The physical column of a core (02 R40, 24 R368). -/
def State.pcol (s : State) (c : Nat) : Nat :=
  let f := tget Fuse.init s.dev.fuses (coreLayer c * 32 + coreRow c)
  if f.skip && f.pcol ≤ coreCol c then coreCol c + 1 else coreCol c

/-- `COREID` (02 R40). -/
def State.coreId (s : State) (c : Nat) : Word :=
  pack [(coreLayer c, 30), (coreIdx c, 20), (s.pcol c, 14), (coreOctet c % 128, 7), (coreOpos c, 4)]

/-- `DOMAIN` (02 R41): written by dispatch, so it reads 0 before a domain holds the core. -/
def State.domainReg (s : State) (c : Nat) : Word :=
  match (s.core c).bound with
  | none => 0
  | some b =>
    let k := s.bindAt b
    pack [(if k.level = 5 then wfld (k.rec_ 1) 15 0 else 0, 48), (b, 32), (k.task, 16), (k.part, 8), (k.level, 0)]

/-- `SLIP` (02 R42). -/
def Ctl.slipReg (k : Ctl) : Word := pack [(k.slipCnt, 32), (k.slipMax, 0)]
/-- `WCTL` of a stream (02 R43). -/
def Stream.wctl (t : Stream) : Word := pack [(t.wptr, 48), (t.rbot, 32), (t.rcnt, 24), (t.wlimit, 16)]
/-- `WBASE` (02 R43). -/
def Ctl.wbaseReg (k : Ctl) : Word := pack [(k.wsize, 48), (k.wbase.toNat, 0)]
/-- `RND` of a stream (02 R44). -/
def Stream.rnd (t : Stream) : Word := pack [(t.ovf.toNat, 2), (t.rm.toNat, 0)]
/-- `CONTRAIL` (02 R44). -/
def Ctl.contrail (k : Ctl) : Word := pack [(k.role.toNat, 14), (k.dir.toNat, 12), (k.hop, 0)]
/-- `CLKN` (13 R246). -/
def Clock.reg (k : Clock) : Word := pack [(k.steps % 2 ^ 32, 16), (k.next, 8), (k.n, 0)]
/-- `EPNT` (22 R352). -/
def Ctl.epnt (k : Ctl) : Word :=
  pack [(k.epSt.toNat, 62), (k.epMove.toNat, 61), (k.epName.toNat, 8), (k.epGen.toNat, 0)]
/-- `PSJ`n (22 R351). -/
def Posted.reg (p : Posted) : Word :=
  pack [(p.isOpen.toNat, 63), (p.refused.toNat, 62), (p.reason.toNat, 60), ((if p.half = .a then 0 else 1), 59),
    (p.dst.toNat, 0)]
/-- `TCAUSE` (09 R186). -/
def TrapRegs.cause (t : TrapRegs) : Word := pack [(t.async.toNat, 63), (t.sub.toNat, 8), (t.code.toNat, 0)]
/-- `TSTAT` (09 R186). -/
def TrapRegs.stat (t : TrapRegs) : Word := pack [(t.priv.toNat, 8), (t.pPriv.toNat, 7), (t.scnt.toNat, 0)]
/-- `RSTPC` (09 R186). -/
def TrapRegs.rst (t : TrapRegs) : Word := pack [(t.rstValid.toNat, 63), (t.rstPc.toNat, 0)]

/-- Whether a control-register number is assigned (02 R39, 09 R185, 13 R246, 22 R351, R352). -/
def ctlKnown (n : Nat) : Bool := n ≤ 0x0E || (0x10 ≤ n && n ≤ 0x19) || (0x20 ≤ n && n ≤ 0x2F)

/-- Whether `mfs` needs privilege: the register holds a PR field (02 R39, 09 R186). -/
def ctlReadPriv (n : Nat) : Bool := (0x10 ≤ n && n ≤ 0x13) || n == 0x15

/-- Whether `mts` needs privilege: the register holds a PW or PR field. -/
def ctlWritePriv (n : Nat) : Bool :=
  n == 0x04 || n == 0x05 || n == 0x07 || (0x10 ≤ n && n ≤ 0x15)

/-- The value of a control register as a stream reads it (02 R39-R45, 09 R185). -/
def State.ctlRead (s : State) (x : Ctx) (n : Nat) : Word :=
  let k := s.core x.core
  let t := x.stream s
  let b := s.bindAt x.bind
  match n with
  | 0x00 => s.coreId x.core
  | 0x01 => s.domainReg x.core
  | 0x02 => BitVec.ofNat 64 x.m
  | 0x03 => pack [(b.mlog, 8), (b.plog, 0)]
  | 0x04 => BitVec.ofNat 64 k.ctl.stopmax
  | 0x05 => k.ctl.slipReg
  | 0x06 => t.wctl
  | 0x07 => k.ctl.wbaseReg
  | 0x08 => t.rnd
  | 0x09 => k.ctl.gseed
  | 0x0A => k.ctl.gstrm.setWidth 64
  | 0x0B => k.ctl.contrail
  | 0x0C => s.dev.clock.reg
  | 0x0D => k.ctl.rwin.setWidth 64
  | 0x0E => k.ctl.epnt
  | 0x10 => t.traps.cause
  | 0x11 => t.traps.tpc.setWidth 64
  | 0x12 => t.traps.tval
  | 0x13 => t.traps.stat
  | 0x14 => t.traps.tvec.setWidth 64
  | 0x15 => t.traps.tscr
  | 0x16 => boolWord t.traps.dbg
  | 0x17 => t.traps.tcyc
  | 0x18 => t.traps.rst
  | 0x19 => t.traps.rstCy
  | n => if 0x20 ≤ n ∧ n ≤ 0x2F then (vget Posted.init k.psj (n - 0x20)).reg else 0

/-- Whether `mts` of a value is refused (02 R42, R43; 09 R186). -/
def ctlRefused (s : State) (x : Ctx) (n : Nat) (v : Word) : Bool :=
  match n with
  | 0x04 => wfld v 6 0 < 8 || 64 < wfld v 6 0
  | 0x06 => wfld v 20 16 < 1 || 16 < wfld v 20 16
  | 0x07 =>
    let size := wfld v 63 48
    let base := wfld v 31 0
    size < 4 || 16384 < size || base % 32 != 0 || lCol base != x.core || 0x100000 < lOff base + 32 * size ||
      (s.core x.core).sx.rcnt != 4
  | 0x13 => 64 ≤ wfld v 6 0
  | 0x14 => wfld v 31 0 % 0x100 != 0
  | _ => false

/-- A stream after `mts` of a register of its own (02 R45, 09 R185). -/
def Stream.ctlWrite (t : Stream) (n : Nat) (v : Word) : Stream :=
  match n with
  | 0x06 => { t with wlimit := wfld v 20 16 }
  | 0x08 => { t with rm := v.setWidth 2, ovf := v.getLsbD 2 }
  | 0x10 => { t with traps := { t.traps with
      async := v.getLsbD 63, sub := v.extractLsb' 8 8, code := v.setWidth 8 } }
  | 0x11 => { t with traps := { t.traps with tpc := v.setWidth 32 } }
  | 0x12 => { t with traps := { t.traps with tval := v } }
  | 0x13 => { t with traps := { t.traps with pPriv := v.getLsbD 7, scnt := v.setWidth 7 } }
  | 0x14 => { t with traps := { t.traps with tvec := v.setWidth 32 } }
  | 0x15 => { t with traps := { t.traps with tscr := v } }
  | _ => t

/-- The shared control registers after a write (02 R42, R43, 22 R351). -/
def Ctl.write (k : Ctl) (n : Nat) (v : Word) : Ctl :=
  match n with
  | 0x04 => { k with stopmax := wfld v 6 0 }
  | 0x05 => { k with slipMax := wfld v 15 0 }
  | 0x07 => { k with wsize := wfld v 63 48, wbase := v.setWidth 32 }
  | 0x0D => { k with rwin := v.setWidth 4 }
  | _ => k

/-- The effect of `mts` (09 R183): a stream's own registers serve its next word; shared ones take the value at c+1, for
every stream (02 R45); `EPNT` acts on the directory at c+1 (22 R352); read-only registers ignore it. -/
def State.ctlPut (s : State) (x : Ctx) (n : Nat) (v : Word) : State :=
  if n = 0x04 ∨ n = 0x05 ∨ n = 0x07 ∨ n = 0x0D then s.post (x.now + 1) 1 (.ctl x.core n v)
  else if n = 0x0E then s.post (x.now + 1) 1 (.epnt x.core v)
  else s.modStream x.core x.half (·.ctlWrite n v)

/-- `mfs d, n` (09 R183). -/
def execMfs (sf : Bool) (d : BitVec 5) (n : BitVec 14) (s : State) : Host.Outcome State Fault Refusal :=
  issueWord sf .e false
    (fun s x =>
      let p := usePre 1 [] [d.toNat] s x
      { p with reserved := p.reserved || !ctlKnown n.toNat, privileged := ctlReadPriv n.toNat })
    (fun s x => regOp 1 d.toNat [] (fun _ => s.ctlRead x n.toNat) s x) s

/-- `mts n, a` (09 R183): a value that a field forbids is a reserved-field fault (02 R39). -/
def execMts (sf : Bool) (a : BitVec 5) (n : BitVec 14) (s : State) : Host.Outcome State Fault Refusal :=
  issueWord sf .e false
    (fun s x =>
      let p := usePre 1 [a.toNat] [] s x
      let bad := match s.sources x 0 [a.toNat] with
        | .vals _ l => ctlRefused s x n.toNat (arg l 0)
        | _ => false
      { p with reserved := p.reserved || !ctlKnown n.toNat || bad, privileged := ctlWritePriv n.toNat })
    (fun s x =>
      match s.sources x 0 [a.toNat] with
      | .fault s' code sub tv => .trap s' code sub tv
      | .vals s' l => .ok (s'.ctlPut x n.toNat (arg l 0)) .seq) s

/-! ### Endpoint names (22 R352) -/

/-- A directory in which no name is held by core `c` for a task: retired names keep their generation. -/
def dirRetire (d : Tab DirEnt) (c task : Nat) : Tab DirEnt :=
  d.map fun p => if p.2.live = some c ∧ p.2.task = task then (p.1, { p.2 with live := none }) else p

/-- A name live at core `c`, its location noted. -/
def dirPut (d : Tab DirEnt) (c name gen task : Nat) : Tab DirEnt :=
  let old := (tfind d name).map (·.locs)
  tset (dirRetire d c task) name { gen := gen, live := some c, task := task, locs := (c :: old.getD []).take 4 }

/-- What a write of `EPNT` does to the directory: the new directory, ST, and the generation where the name is live here
(22 R352). -/
def dirWrite (d : Tab DirEnt) (c task : Nat) (v : Word) : Tab DirEnt × Nat × Option Nat :=
  let name := wfld v 31 8
  let e := tfind d name
  if name = 0 then (dirRetire d c task, 0, some 0)
  else if v.getLsbD 61 then
    match e with
    | some { gen := g, live := some _, task := t, locs := _ } =>
      if t = task then (dirPut d c name g task, 1, some g) else (d, 2, none)
    | _ => (d, 2, none)
  else
    match e with
    | some { gen := g, live := none, task := _, locs := _ } =>
      let g := (g + 1) % 256
      (dirPut d c name g task, 1, some g)
    | some { gen := _, live := some o, task := _, locs := _ } =>
      if o ≠ c then (d, 2, none)
      else if 4096 ≤ d.length then (d, 3, none)
      else (dirPut d c name 0 task, 1, some 0)
    | none => if 4096 ≤ d.length then (d, 3, none) else (dirPut d c name 0 task, 1, some 0)

/-- `mts EPNT` takes effect (22 R352); the new ST is readable one cycle later. -/
def State.epntApply (s : State) (c : Nat) (v : Word) : State :=
  let p := s.corePart c
  let r := dirWrite (s.partAt p).directory c (s.bindAt (s.bindOf c)).task v
  let s := s.modPart p fun q => { q with directory := r.1 }
  let s := s.modCore c fun k => { k with ctl := { k.ctl with
    epMove := v.getLsbD 61, epName := v.extractLsb' 8 24, epGen := BitVec.ofNat 8 (r.2.2.getD k.ctl.epGen.toNat) } }
  s.post (s.ccyc + 1) 1 (.epntSt c (BitVec.ofNat 2 r.2.1))

/-! ### Child launches (09 R194) -/

/-- The 64-bit words of `n` bytes that a core reads. -/
def State.visWords (s : State) (b p n : Nat) : List Word :=
  (List.range (n / 8)).map fun i => BitVec.ofNat 64 (ofBytes (s.visBytes b (p + 8 * i) 8))

/-- The operand checks of `launch`: reach, alignment, the interface's two places, poison, then the order check (09 R194,
R195). -/
def launchRes (s : State) (x : Ctx) (rec_ st : Word) : Res :=
  let r := rec_.toNat
  let t := st.toNat
  let k := s.core x.core
  if (s.reach x.core x.bind .load 1 r 256).isNone then .trap s 0x08 0 rec_
  else if (s.reach x.core x.bind .load 1 t 8).isNone then .trap s 0x08 0 st
  else if r % 64 ≠ 0 then .trap s 0x09 0 rec_
  else if t % 8 ≠ 0 then .trap s 0x09 0 st
  else if 2 ≤ k.launches.length then .trap s 0x0A 0 0
  else match s.visPoison x.bind r 256 with
    | some p => .trap (s.noteRead (s.visKeys x.bind r 256)) 0x0C 0 (BitVec.ofNat 64 p)
    | none =>
      if s.orderOk x.core 0b11101 = false then .slip 6
      else
        let key := ptrKey ((pubRoute (s.pubs x.bind) false t).getD t)
        let s' := (s.noteRead (s.visKeys x.bind r 256)).release (x.now + 1) key 0
        let b := s.bindAt x.bind
        let held : HeldLaunch :=
          { words := s.visWords x.bind r 256, status := st, parent := b.task, rpl := (b.rec_ 0).getLsbD 50,
            trid := wfld (b.rec_ 24) 63 32, trc := b.rec_ 26 }
        .ok (s'.modCore x.core fun k => { k with launches := k.launches ++ [held] }) .seq

/-- `launch oxN` (09 R194). -/
def execLaunch (sf : Bool) (n : BitVec 3) (s : State) : Host.Outcome State Fault Refusal :=
  issueWord sf .eOnly false noPre
    (fun s x => launchRes s x (s.ox x n.toNat) (s.ox x (n.toNat + 1))) s

end Sys2Proof.Machine
end

