-- ==== Sys2Proof/Machine/Access.lean ====
section
/-!
DEFINITION. The access words of the A-half (06): scalar, vector, tagged, atomic and ordered accesses, the stage ring and
messages, with their fault order (06 R136).
-/

namespace Sys2Proof.Machine

/-! ### Shared checks -/

/-- Size in bytes of a scalar type code (04 R77). -/
def tySize (t : Nat) : Nat :=
  match t with
  | 0 => 1 | 1 => 2 | 2 => 4 | 3 => 8 | 4 => 1 | 5 => 2 | _ => 4

/-- The 64-bit entry that the bytes of a load make: sign-extended for the `.i` types (06 R120). -/
def tyVal (t : Nat) (bs : List Byte) : Word :=
  let v := ofBytes bs
  if 4 ≤ t then toWord (sval v (8 * tySize t)) else BitVec.ofNat 64 v

/-- The field checks of a word that fills load-data queue `q`: `ql2` while a routine is bound is illegal, a code above 2
reserved (06 R120). DEDUCED (log 112): R120 says it of loads, and the model has it for an atomic, `stacq` and `rcvp` too. -/
def qlPre (q : Nat) (bad : Bool) (s : State) (x : Ctx) : Pre :=
  { illegal := q == 2 && (s.core x.core).routineBound, reserved := 2 < q || bad }

/-- The field checks of a word that drains store-data queue `q`. -/
def qsPre (q : Nat) (bad : Bool) (_ : State) (_ : Ctx) : Pre := { reserved := 1 < q || bad }

/-- Whether `n` bytes from pointer `p` cross a bank of L-space (06 R118). -/
def crossBank (p n : Nat) : Bool := ptrTag p == 2 && p / 0x10000 != (p + n - 1) / 0x10000

/-- The reach and alignment checks of an access of `n` bytes at `p`, a multiple of `al`, that touches memory in cycle
`now + delay place`: the place, or the fault (06 R117, R118, R386). -/
def accessAt (s : State) (x : Ctx) (k : AccKind) (sp : Nat) (p n al : Nat) (delay : Place → Nat) :
    Place × Option Nat :=
  match s.reach x.core x.bind k sp p n with
  | none => (.scratch, some 0x08)
  | some pl =>
    if s.bankFails x (x.now + delay pl) p n then (pl, some 0x08)
    else if p % al ≠ 0 ∨ crossBank p n then (pl, some 0x09)
    else (pl, none)

/-- The state after a word issues `v` into load-data queue `q`. -/
def State.fillQl (s : State) (x : Ctx) (q lat : Nat) (v : Word) : State := s.push x.core x.half q (x.now + lat) v

/-! ### Scalar loads and stores (06 R120, R123) -/

/-- A scalar load of type `t` at pointer `p` into queue `q`; `tag` is the arrival tag that `ldt` expects. -/
def loadRes (s : State) (x : Ctx) (k : AccKind) (sp q t p : Nat) (lat : Place → Nat) (tag : Option Nat) : Res :=
  let n := tySize t
  let ea := BitVec.ofNat 64 p
  match accessAt s x k sp p n 1 (fun _ => 0) with
  | (_, some code) => .trap s code 0 ea
  | (pl, none) =>
    if tag.isSome && p / 64 != (p + n - 1) / 64 then .trap s 0x09 0 ea
    else if 8 ≤ (s.core x.core).occupancy q x.now then .trap s 0x0A (qSub q) 0
    else match s.visPoison x.bind p n with
      | some a => .trap (s.noteRead (s.visKeys x.bind p n)) 0x0C 0 (BitVec.ofNat 64 a)
      | none =>
        let vis := (pubRoute (s.pubs x.bind) false p).getD p
        let line := sOff vis / 64
        if tag.isSome && tag != some (s.mem.read (tagKey x.core line)).toNat then .slip 5
        else
          let s' := (s.noteRead (s.visKeys x.bind p n)).noteBanks x.core (s.banksOf x.bind p n)
          .ok (s'.fillQl x q (lat pl) (tyVal t (s.visBytes x.bind p n))) .seq

/-- A scalar store of `n` bytes at pointer `p` from store-data queue `q`; `mask` is the order check of `strel` (06 R120,
R127). -/
def storeRes (s : State) (x : Ctx) (k : AccKind) (sp q n al p : Nat) (mask : Nat) : Res :=
  let ea := BitVec.ofNat 64 p
  match accessAt s x k sp p n al Place.store with
  | (_, some code) => .trap s code 0 ea
  | (pl, none) =>
    match (s.core x.core).entry (3 + q) 0 x.now with
    | none => .trap s 0x0B (qSub (3 + q)) 0
    | some e =>
      let s' := s.modCore x.core (·.pop (3 + q) x.now)
      if e.bad then .trap (s'.noteErr .register false (64 * x.core + qSub (3 + q))) 0x0C 0
        (BitVec.ofNat 64 (2 ^ 63 + qSub (3 + q)))
      else if s.orderOk x.core mask = false then .slip 6
      else
        let bs := leBytes n e.val.toNat
        let segs := (lines p n).map fun g => (g.1, (bs.drop (g.1 - p)).take g.2)
        .ok (s'.post (x.now + pl.store) 2 (.store x.core x.half segs)) .seq

/-- `lds.t qlN, [a+disp]` (06 R120). -/
def execLds (sf : Bool) (q : BitVec 4) (a t : BitVec 3) (d : BitVec 12) (s : State) :
    Host.Outcome State Fault Refusal :=
  issueWord sf .a false (qlPre q.toNat (t == 7))
    (fun s x => loadRes s x .load 1 q.toNat t.toNat (s.ea x a.toNat d.toInt).toNat Place.load none) s

/-- `ldl.t qlN, [a+disp]` (06 R120). -/
def execLdl (sf : Bool) (q : BitVec 4) (a t : BitVec 3) (d : BitVec 12) (s : State) :
    Host.Outcome State Fault Refusal :=
  issueWord sf .a false (qlPre q.toNat (t == 7))
    (fun s x => loadRes s x .load 2 q.toNat t.toNat (s.ea x a.toNat d.toInt).toNat Place.load none) s

/-- `ldt.t qlN, [a], tag=v`: as `lds` if the line bears the tag, else a slip of cause 5 (06 R123). -/
def execLdt (sf : Bool) (q : BitVec 4) (a y : BitVec 3) (t : BitVec 8) (s : State) :
    Host.Outcome State Fault Refusal :=
  issueWord sf .a false (qlPre q.toNat (y == 7))
    (fun s x => loadRes s x .ldt 1 q.toNat y.toNat (s.ea x a.toNat 0).toNat Place.load (some t.toNat)) s

/-- `sts.t [a+disp], qsN` (06 R120). -/
def execSts (sf : Bool) (q : BitVec 4) (a t : BitVec 3) (d : BitVec 12) (s : State) :
    Host.Outcome State Fault Refusal :=
  issueWord sf .a false (qsPre q.toNat (t == 7))
    (fun s x => storeRes s x .store 1 q.toNat (tySize t.toNat) 1 (s.ea x a.toNat d.toInt).toNat 0) s

/-- `stl.t [a+disp], qsN` (06 R120). -/
def execStl (sf : Bool) (q : BitVec 4) (a t : BitVec 3) (d : BitVec 12) (s : State) :
    Host.Outcome State Fault Refusal :=
  issueWord sf .a false (qsPre q.toNat (t == 7))
    (fun s x => storeRes s x .store 2 q.toNat (tySize t.toNat) 1 (s.ea x a.toNat d.toInt).toNat 0) s

/-! ### Vector loads and stores (06 R124) -/

/-- The mask that MK names: all lanes for 0, else the low 32 bits of g1 to g7. -/
def mkMask (s : State) (x : Ctx) (m : BitVec 3) : BitVec 32 :=
  if m = 0 then BitVec.allOnes 32 else (vget 0 (s.core x.core).regs.g m.toNat).setWidth 32

/-- The lanes that a mask enables. -/
def lanesOf (m : BitVec 32) : List Nat := (List.range 32).filter fun i => m.getLsbD i

/-- A vector register whose lanes are the list's values at the lanes given, and zero elsewhere. -/
def laneVec (l : List (Nat × Nat)) : Vec := BitVec.ofNat 1024 (l.foldl (fun a p => a + p.2 % 2 ^ 32 * 2 ^ (32 * p.1)) 0)

/-- `vlds` and `vldl`: the span is checked whole, and the active lanes are read. DESIGN CHOICE (log 80): a load occupies
the banks of its whole span, even with every lane disabled (06 R386). -/
def vloadRes (s : State) (x : Ctx) (sp vd p : Nat) (m : BitVec 32) : Res :=
  let ea := BitVec.ofNat 64 p
  match accessAt s x .vload sp p 128 4 (fun _ => 0) with
  | (_, some code) => .trap s code 0 ea
  | (pl, none) =>
    let act := (lanesOf m).map fun i => (i, p + 4 * i)
    match act.findSome? (fun a => s.visPoison x.bind a.2 4) with
    | some a => .trap (s.noteRead (s.visKeys x.bind p 128)) 0x0C 0 (BitVec.ofNat 64 a)
    | none =>
      let v := laneVec (act.map fun a => (a.1, ofBytes (s.visBytes x.bind a.2 4)))
      let s' := (s.noteRead (s.visKeys x.bind p 128)).noteBanks x.core (s.banksOf x.bind p 128)
      .ok (s'.landVec x.core x.half false pl.vload vd (laneMask m) v) .seq

/-- The store pieces of vector lanes, lane 0 first. -/
def laneSegs (v : Vec) (act : List (Nat × Nat)) : List (Nat × List Byte) :=
  act.map fun a => (a.2, leBytes 4 (velem v 32 a.1))

/-- `vsts` and `vstl`: the span is checked whole, and the active lanes are written. DESIGN CHOICE (log 80): the bank check
(06 R386) is one of the whole span, so that a word with every lane disabled can fail it, although it then occupies no
bank. -/
def vstoreRes (s : State) (x : Ctx) (sp vs p : Nat) (m : BitVec 32) : Res :=
  let ea := BitVec.ofNat 64 p
  match accessAt s x .vstore sp p 128 4 Place.store with
  | (_, some code) => .trap s code 0 ea
  | (pl, none) =>
    let act := (lanesOf m).map fun i => (i, p + 4 * i)
    let v := vget 0 (s.core x.core).regs.v vs
    .ok (if act.isEmpty then s else s.post (x.now + pl.store) 2 (.store x.core x.half (laneSegs v act))) .seq

/-- The lanes of a gather or scatter with their addresses (06 R124). -/
def indexed (s : State) (x : Ctx) (a vx : Nat) (d : Int) (m : BitVec 32) : List (Nat × Nat) :=
  let iv := vget 0 (s.core x.core).regs.v vx
  (lanesOf m).map fun i => (i, (s.ea x a (d + sval (velem iv 32 i) 32)).toNat)

/-- The first fault among the active lanes: reach of every lane first, then alignment (06 R124, R136). -/
def lanesFault (s : State) (x : Ctx) (k : AccKind) (sp : Nat) (act : List (Nat × Nat)) (delay : Nat) :
    Option (Nat × Nat) :=
  let f (code : Nat) (a : Nat × Nat) : Option (Nat × Nat) :=
    if (accessAt s x k sp a.2 4 4 (fun _ => delay)).2 = some code then some (code, a.2) else none
  match act.findSome? (f 0x08) with
  | some r => some r
  | none => act.findSome? (f 0x09)

/-- `vlds` (06 R124). -/
def execVlds (sf : Bool) (q : BitVec 4) (a m : BitVec 3) (d : BitVec 12) (s : State) :
    Host.Outcome State Fault Refusal :=
  issueWord sf .a false noPre
    (fun s x => vloadRes s x 1 q.toNat (s.ea x a.toNat d.toInt).toNat (mkMask s x m)) s

/-- `vldl` (06 R124). -/
def execVldl (sf : Bool) (q : BitVec 4) (a m : BitVec 3) (d : BitVec 12) (s : State) :
    Host.Outcome State Fault Refusal :=
  issueWord sf .a false noPre
    (fun s x => vloadRes s x 2 q.toNat (s.ea x a.toNat d.toInt).toNat (mkMask s x m)) s

/-- `vsts` (06 R124). -/
def execVsts (sf : Bool) (q : BitVec 4) (a m : BitVec 3) (d : BitVec 12) (s : State) :
    Host.Outcome State Fault Refusal :=
  issueWord sf .a false noPre
    (fun s x => vstoreRes s x 1 q.toNat (s.ea x a.toNat d.toInt).toNat (mkMask s x m)) s

/-- `vstl` (06 R124). -/
def execVstl (sf : Bool) (q : BitVec 4) (a m : BitVec 3) (d : BitVec 12) (s : State) :
    Host.Outcome State Fault Refusal :=
  issueWord sf .a false noPre
    (fun s x => vstoreRes s x 2 q.toNat (s.ea x a.toNat d.toInt).toNat (mkMask s x m)) s

/-- The space field of a word that may name either space. -/
def spBad (p : BitVec 2) : Bool := p != 1 && p != 2

/-- `vgath vN, [a+d8], vX, gM` (06 R124). -/
def execVgath (sf : Bool) (p : BitVec 2) (q : BitVec 4) (a m : BitVec 3) (v : BitVec 4) (d : BitVec 8) (s : State) :
    Host.Outcome State Fault Refusal :=
  issueWord sf .a false (fun _ _ => { reserved := spBad p })
    (fun s x =>
      let mask := mkMask s x m
      let act := indexed s x a.toNat v.toNat d.toInt mask
      match lanesFault s x .gath p.toNat act 0 with
      | some f => .trap s f.1 0 (BitVec.ofNat 64 f.2)
      | none =>
        match act.findSome? (fun a => s.visPoison x.bind a.2 4) with
        | some e => .trap (s.noteRead ((act.map fun a => s.visKeys x.bind a.2 4).flatten)) 0x0C 0 (BitVec.ofNat 64 e)
        | none =>
          let r := laneVec (act.map fun a => (a.1, ofBytes (s.visBytes x.bind a.2 4)))
          let s' := s.noteRead ((act.map fun a => s.visKeys x.bind a.2 4).flatten)
          let s' := s'.noteBanks x.core ((act.map fun a => s.banksOf x.bind a.2 4).flatten.dedup)
          .ok (s'.landVec x.core x.half false 8 q.toNat (laneMask mask) r) .seq) s

/-- `vscat [a+d8], vX, vN, gM`: landing at c+4 in every space (06 R124). -/
def execVscat (sf : Bool) (p : BitVec 2) (q : BitVec 4) (a m : BitVec 3) (v : BitVec 4) (d : BitVec 8) (s : State) :
    Host.Outcome State Fault Refusal :=
  issueWord sf .a false (fun _ _ => { reserved := spBad p })
    (fun s x =>
      let act := indexed s x a.toNat v.toNat d.toInt (mkMask s x m)
      match lanesFault s x .scat p.toNat act 4 with
      | some f => .trap s f.1 0 (BitVec.ofNat 64 f.2)
      | none =>
        let r := vget 0 (s.core x.core).regs.v q.toNat
        .ok (if act.isEmpty then s else s.post (x.now + 4) 2 (.store x.core x.half (laneSegs r act))) .seq) s

/-! ### Atomics (06 R125, R126) -/

/-- The size that Z selects. -/
def zSize (z : BitVec 1) : Nat := if z = 1 then 8 else 4

/-- The value of g register `g` at the access's width. -/
def gVal (s : State) (x : Ctx) (g : BitVec 3) (z : BitVec 1) : Word :=
  let v := if g = 0 then 0 else vget 0 (s.core x.core).regs.g g.toNat
  BitVec.ofNat 64 (v.toNat % 2 ^ (8 * zSize z))

/-- An atomic access that pushes the old value: reach, alignment, queue-full, then the order check (06 R126, R136). -/
def atomicRes (s : State) (x : Ctx) (k : AccKind) (op : AtOp) (sp q n p : Nat) (v w : Word) (mask : Nat) : Res :=
  let ea := BitVec.ofNat 64 p
  match accessAt s x k sp p n n Place.store with
  | (_, some code) => .trap s code 0 ea
  | (pl, none) =>
    if 8 ≤ (s.core x.core).occupancy q x.now then .trap s 0x0A (qSub q) 0
    else if s.orderOk x.core mask = false then .slip 6
    else
      let id := s.seq
      let s' := s.fillQl x q pl.result 0
      .ok (s'.post (x.now + pl.store) 7 (.atomic x.core x.half op (n == 8) p v w q id)) .seq

/-- An atomic word (06 R125). -/
def atomicOp (op : AtOp) (sf : Bool) (p : BitVec 2) (q : BitVec 4) (a g : BitVec 3) (z : BitVec 1) (h : BitVec 3)
    (o : BitVec 5) (s : State) : Host.Outcome State Fault Refusal :=
  issueWord sf .a false (qlPre q.toNat (spBad p || o == 0))
    (fun s x =>
      atomicRes s x .atomic op p.toNat q.toNat (zSize z) (s.ea x a.toNat 0).toNat (gVal s x g z) (gVal s x h z)
        o.toNat) s

/-- `amadd` (06 R126). -/
def execAmadd (sf : Bool) (p : BitVec 2) (q : BitVec 4) (a g : BitVec 3) (z : BitVec 1) (o : BitVec 5) (s : State) :
    Host.Outcome State Fault Refusal :=
  atomicOp .add sf p q a g z 0 o s

/-- `amswp` (06 R126). -/
def execAmswp (sf : Bool) (p : BitVec 2) (q : BitVec 4) (a g : BitVec 3) (z : BitVec 1) (o : BitVec 5) (s : State) :
    Host.Outcome State Fault Refusal :=
  atomicOp .swp sf p q a g z 0 o s

/-- `amand` (06 R126). -/
def execAmand (sf : Bool) (p : BitVec 2) (q : BitVec 4) (a g : BitVec 3) (z : BitVec 1) (o : BitVec 5) (s : State) :
    Host.Outcome State Fault Refusal :=
  atomicOp .and sf p q a g z 0 o s

/-- `amor` (06 R126). -/
def execAmor (sf : Bool) (p : BitVec 2) (q : BitVec 4) (a g : BitVec 3) (z : BitVec 1) (o : BitVec 5) (s : State) :
    Host.Outcome State Fault Refusal :=
  atomicOp .or sf p q a g z 0 o s

/-- `ammin.i` (06 R126). -/
def execAmminI (sf : Bool) (p : BitVec 2) (q : BitVec 4) (a g : BitVec 3) (z : BitVec 1) (o : BitVec 5) (s : State) :
    Host.Outcome State Fault Refusal :=
  atomicOp .minI sf p q a g z 0 o s

/-- `ammin.n` (06 R126). -/
def execAmminN (sf : Bool) (p : BitVec 2) (q : BitVec 4) (a g : BitVec 3) (z : BitVec 1) (o : BitVec 5) (s : State) :
    Host.Outcome State Fault Refusal :=
  atomicOp .minN sf p q a g z 0 o s

/-- `ammax.i` (06 R126). -/
def execAmmaxI (sf : Bool) (p : BitVec 2) (q : BitVec 4) (a g : BitVec 3) (z : BitVec 1) (o : BitVec 5) (s : State) :
    Host.Outcome State Fault Refusal :=
  atomicOp .maxI sf p q a g z 0 o s

/-- `ammax.n` (06 R126). -/
def execAmmaxN (sf : Bool) (p : BitVec 2) (q : BitVec 4) (a g : BitVec 3) (z : BitVec 1) (o : BitVec 5) (s : State) :
    Host.Outcome State Fault Refusal :=
  atomicOp .maxN sf p q a g z 0 o s

/-- `amcas`: compare with gA, store gB (06 R126). -/
def execAmcas (sf : Bool) (p : BitVec 2) (q : BitVec 4) (a g : BitVec 3) (z : BitVec 1) (h : BitVec 3) (o : BitVec 5)
    (s : State) : Host.Outcome State Fault Refusal :=
  atomicOp .cas sf p q a g z h o s

/-- The new value of an atomic of width `w` (06 R126, R131, R132). -/
def AtOp.apply (op : AtOp) (w : Nat) (old x y : Nat) : Nat :=
  match op with
  | .add => (old + x) % 2 ^ w
  | .swp => x
  | .cas => if old = x then y else old
  | .and => (BitVec.ofNat w old &&& BitVec.ofNat w x).toNat
  | .or => (BitVec.ofNat w old ||| BitVec.ofNat w x).toNat
  | .minI => if sval old w ≤ sval x w then old else x
  | .minN => min old x
  | .maxI => if sval old w ≤ sval x w then x else old
  | .maxN => max old x
  | .stacq => if old < 2 ^ 63 then old + 2 ^ 63 else old
  | .strls => x % 2 ^ 63

/-- A queue whose entry of number `id` takes its value and parity. -/
def setEntry (l : List QEnt) (id : Nat) (v : Word) (bad : Bool) : List QEnt :=
  l.map fun e => if e.id = id then { e with val := v, bad := bad } else e

/-- An atomic performs: one read and one write of its word in the visible half; a poisoned word stays as it was, the
entry gets bad parity, and the error is logged with the atomic's own address (06 R126). -/
def State.perform (s : State) (c : Nat) (op : AtOp) (wide : Bool) (p : Nat) (x y : Word) (q id : Nat) : State :=
  let n := if wide then 8 else 4
  let key := ptrKey ((pubRoute (s.pubs (s.bindOf c)) false p).getD p)
  let set (s : State) (v : Word) (bad : Bool) : State :=
    s.modCore c fun k => k.setQueue q (setEntry (k.queue q) id v bad)
  if op = .strls then s.write key (leBytes n (op.apply 64 0 x.toNat 0))
  else if poisoned s.ecc key n then set (s.noteErr .memory false (ptrKey p)) 0 true
  else
    let s := s.noteRead [(key, n)]
    let old := s.mem.readLe key n
    let s := s.write key (leBytes n (op.apply (8 * n) old x.toNat y.toNat))
    set s (BitVec.ofNat 64 old) false

/-! ### Ordered words and the stage ring (06 R127-R132) -/

/-- `ldacq`: it makes no order check (06 R127). -/
def execLdacq (sf : Bool) (p : BitVec 2) (q : BitVec 4) (a : BitVec 3) (z : BitVec 1) (o : BitVec 5) (s : State) :
    Host.Outcome State Fault Refusal :=
  issueWord sf .a false (qlPre q.toNat (spBad p || o == 0))
    (fun s x =>
      let e := (s.ea x a.toNat 0).toNat
      match accessAt s x .ldacq p.toNat e (zSize z) (zSize z) (fun _ => 0) with
      | (_, some code) => .trap s code 0 (BitVec.ofNat 64 e)
      | (_, none) => loadRes s x .ldacq p.toNat q.toNat (if z = 1 then 3 else 2) e Place.result none) s

/-- `strel`: an order check and a store (06 R127). -/
def execStrel (sf : Bool) (p : BitVec 2) (q : BitVec 4) (a : BitVec 3) (z : BitVec 1) (o : BitVec 5) (s : State) :
    Host.Outcome State Fault Refusal :=
  issueWord sf .a false (qsPre q.toNat (spBad p || o == 0))
    (fun s x =>
      storeRes s x .strel p.toNat q.toNat (zSize z) (zSize z) (s.ea x a.toNat 0).toNat o.toNat) s

/-- `fence`: the order check and nothing else (06 R127). -/
def execFence (sf : Bool) (o : BitVec 5) (s : State) : Host.Outcome State Fault Refusal :=
  issueWord sf .a false (fun _ _ => { reserved := o == 0 })
    (fun s x => if s.orderOk x.core o.toNat then .ok s .seq else .slip 6) s

/-- `stacq`: sets HELD if it is clear and pushes the old stage word; it makes no order check (06 R131). -/
def execStacq (sf : Bool) (q : BitVec 4) (a : BitVec 3) (o : BitVec 5) (s : State) :
    Host.Outcome State Fault Refusal :=
  issueWord sf .a false (qlPre q.toNat (o == 0))
    (fun s x => atomicRes s x .stage .stacq 1 q.toNat 8 (s.ea x a.toNat 0).toNat 0 0 0) s

/-- `strls`: an order check, and the entry written with HELD clear at c+1, as a store: an engine write of the word in
that cycle prevails (06 R119, R132). -/
def execStrls (sf : Bool) (q : BitVec 4) (a : BitVec 3) (o : BitVec 5) (s : State) :
    Host.Outcome State Fault Refusal :=
  issueWord sf .a false (qsPre q.toNat (o == 0))
    (fun s x =>
      let p := (s.ea x a.toNat 0).toNat
      match accessAt s x .stage 1 p 8 8 Place.store with
      | (_, some code) => .trap s code 0 (BitVec.ofNat 64 p)
      | (_, none) =>
        match (s.core x.core).entry (3 + q.toNat) 0 x.now with
        | none => .trap s 0x0B (qSub (3 + q.toNat)) 0
        | some e =>
          let s' := s.modCore x.core (·.pop (3 + q.toNat) x.now)
          if e.bad then .trap (s'.noteErr .register false (64 * x.core + qSub (3 + q.toNat))) 0x0C 0
            (BitVec.ofNat 64 (2 ^ 63 + qSub (3 + q.toNat)))
          else if s.orderOk x.core o.toNat = false then .slip 6
          else .ok (s'.post (x.now + 1) 2 (.atomic x.core x.half .strls true p e.val 0 3 0)) .seq) s

/-! ### Messages (06 R134, R135) -/

/-- The location that a partition's directory gives for a name (22 R353). -/
def State.nameAt (s : State) (part name : Nat) : Option Nat :=
  (tfind (s.partAt part).directory name).bind (·.locs.head?)

/-- The name that is live at a core for the domain that holds it, with its directory entry (22 R352). -/
def State.heldName (s : State) (c : Nat) : Option (Nat × DirEnt) :=
  if (s.core c).bound.isNone then none
  else (s.partAt (s.corePart c)).directory.find? fun e =>
    e.2.live == some c && e.2.task == (s.bindAt (s.bindOf c)).task

/-- A core's own endpoint name and generation, 0 where it holds none. -/
def State.ownName (s : State) (c : Nat) : BitVec 32 :=
  match s.heldName c with
  | some e => BitVec.ofNat 24 e.1 ++ BitVec.ofNat 8 e.2.gen
  | none => 0

/-- `send oxM, [a], n`: the body of n words goes into the send buffer of 4 messages (06 R134). DESIGN CHOICE (log
79): the queue-full fault of a full buffer has SUB 0, since the buffer has no register number. -/
def execSend (sf : Bool) (o a : BitVec 3) (n : BitVec 5) (s : State) : Host.Outcome State Fault Refusal :=
  issueWord sf .a false (fun s x => { reserved := wfld (s.ox x o.toNat) 63 32 != 0 })
    (fun s x =>
      let p := (s.ea x a.toNat 0).toNat
      let len := 8 * (n.toNat + 1)
      let name := s.ox x o.toNat
      match accessAt s x .send 1 p len 8 (fun _ => 0) with
      | (_, some code) => .trap s code 0 (BitVec.ofNat 64 p)
      | (_, none) =>
        if 4 ≤ (s.core x.core).sendBuf.length then .trap s 0x0A 0 0
        else match s.visPoison x.bind p len with
          | some e => .trap (s.noteRead (s.visKeys x.bind p len)) 0x0C 0 (BitVec.ofNat 64 e)
          | none =>
            let m : Message := { name := name.extractLsb' 8 24, gen := name.setWidth 8,
                                 body := s.visWords x.bind p len, at_ := x.now,
                                 dest := s.nameAt (s.corePart x.core) (wfld name 31 8),
                                 own := s.ownName x.core }
            .ok ((s.noteRead (s.visKeys x.bind p len)).modCore x.core fun k => { k with sendBuf := k.sendBuf ++ [m] })
              .seq) s

/-- Byte `off` of a core's message rings (06 R133). -/
def ringMsgKey (c off : Nat) : Nat := spKey c (0x30000 + off)

/-- The offset of ring entry `n` (06 R133). -/
def ringEntry (n : Nat) : Nat := 0x200 + 0x200 * (n % 127)

/-- `rcvp qlN, [a]`: the pointer to entry HEAD, or 0 for an empty ring (06 R135). -/
def execRcvp (sf : Bool) (q : BitVec 4) (a : BitVec 3) (s : State) : Host.Outcome State Fault Refusal :=
  issueWord sf .a false (qlPre q.toNat false)
    (fun s x =>
      let p := (s.ea x a.toNat 0).toNat
      match accessAt s x .rcvp 1 p 8 1 (fun _ => 0) with
      | (_, some code) => .trap s code 0 (BitVec.ofNat 64 p)
      | (_, none) =>
        if 8 ≤ (s.core x.core).occupancy q.toNat x.now then .trap s 0x0A (qSub q.toNat) 0
        else
          let k := ringMsgKey x.core 0
          if poisoned s.ecc k 16 then
            .trap (s.noteRead [(k, 16)]) 0x0C 0 (BitVec.ofNat 64 (p + (firstPoison s.ecc k 16 - k)))
          else
            let tail := s.read64 k
            let head := s.read64 (k + 8)
            let s := s.noteRead [(k, 16)]
            if tail = head then .ok (s.fillQl x q.toNat 2 0) .seq
            else
              let s := s.post (x.now + 1) 2 (.rcvp x.core (head + 1))
              .ok (s.fillQl x q.toNat 2 (BitVec.ofNat 64 (sPtr x.core 6 (ringEntry head.toNat)))) .seq) s

end Sys2Proof.Machine
end

