-- ==== Sys2Proof/Decode.lean ====
section
/-!
DEFINITION. Decoding, from the layouts and maps of 04 R71-R92, total on every word; then the encoder, from the same
maps. A word is read as one number, bit 0 the least significant bit of its first halfword (R71). What is no
instruction decodes to `Instr.unassignedEncoding`, which names its fate (R92).
-/

namespace Sys2Proof

/-- The length of a word in halfwords, from bit 0 of its first halfword (04 R71). -/
def wordLen (w : Nat) : Nat := if w % 2 = 0 then 1 else 2

/-- The load-data queue that a malformed A-word's QD names, where it is `ql2` (register 27 of the X map): a routine that is
bound makes such a word illegal before its fields are looked at (04 R93, 06 R120). -/
def queueDst (w : Nat) : List (BitVec 5) := if w / 1024 % 16 = 2 then [27] else []

/-- The H-words (04 R73, R81), selected by op5. -/
def decodeH (w : Nat) : Instr :=
  let op := w / 4 % 32
    if op = 1 then
      if w / 128 % 32 = 0 then
        if w / 4096 % 16 = 0 then .nop (w / 2 % 2 == 1)
        else .unassignedEncoding (.reserved .e [] [])
      else if w / 128 % 32 < 8 then .nopHint (w / 2 % 2 == 1) (BitVec.ofNat 5 (w / 128)) (BitVec.ofNat 4 (w / 4096))
      else .unassignedEncoding .illegal
    else if op = 2 then
      if w / 128 % 2 = 0 then .mod (w / 2 % 2 == 1) (BitVec.ofNat 1 (w / 256)) (BitVec.ofNat 1 (w / 512)) (BitVec.ofNat 1 (w / 1024)) (BitVec.ofNat 1 (w / 2048)) (BitVec.ofNat 4 (w / 4096))
      else .unassignedEncoding (.reserved .e [] [])
    else if op = 3 then
      .movH (w / 2 % 2 == 1) (BitVec.ofNat 5 (w / 128)) (BitVec.ofNat 4 (w / 4096))
    else if op = 4 then
      .addH (w / 2 % 2 == 1) (BitVec.ofNat 5 (w / 128)) (BitVec.ofNat 4 (w / 4096))
    else if op = 5 then
      .subH (w / 2 % 2 == 1) (BitVec.ofNat 5 (w / 128)) (BitVec.ofNat 4 (w / 4096))
    else if op = 6 then
      .andH (w / 2 % 2 == 1) (BitVec.ofNat 5 (w / 128)) (BitVec.ofNat 4 (w / 4096))
    else if op = 7 then
      .orH (w / 2 % 2 == 1) (BitVec.ofNat 5 (w / 128)) (BitVec.ofNat 4 (w / 4096))
    else if op = 8 then
      .xorH (w / 2 % 2 == 1) (BitVec.ofNat 5 (w / 128)) (BitVec.ofNat 4 (w / 4096))
    else if op = 9 then
      .addiH (w / 2 % 2 == 1) (BitVec.ofNat 5 (w / 128)) (BitVec.ofNat 4 (w / 4096))
    else if op = 10 then
      .shliH (w / 2 % 2 == 1) (BitVec.ofNat 5 (w / 128)) (BitVec.ofNat 4 (w / 4096))
    else if op = 11 then
      .shriH (w / 2 % 2 == 1) (BitVec.ofNat 5 (w / 128)) (BitVec.ofNat 4 (w / 4096))
    else if op = 12 then
      .sraiH (w / 2 % 2 == 1) (BitVec.ofNat 5 (w / 128)) (BitVec.ofNat 4 (w / 4096))
    else if op = 13 then
      .liH (w / 2 % 2 == 1) (BitVec.ofNat 5 (w / 128)) (BitVec.ofNat 4 (w / 4096))
    else if op = 14 then
      .skipz (w / 2 % 2 == 1) (BitVec.ofNat 5 (w / 128)) (BitVec.ofNat 4 (w / 4096))
    else if op = 15 then
      .skipnz (w / 2 % 2 == 1) (BitVec.ofNat 5 (w / 128)) (BitVec.ofNat 4 (w / 4096))
    else if op = 16 then
      if w / 4096 % 16 = 0 then .setixH (w / 2 % 2 == 1) (BitVec.ofNat 5 (w / 128))
      else .unassignedEncoding (.reserved .xOnly [BitVec.ofNat 5 (w / 128)] [])
    else if op = 17 then
      if w / 128 % 32 = 0 then .addixH (w / 2 % 2 == 1) (BitVec.ofNat 4 (w / 4096))
      else .unassignedEncoding (.reserved .xOnly [] [])
    else if op = 18 then
      if w / 128 % 512 = 0 then .ret (w / 2 % 2 == 1)
      else .unassignedEncoding (.reserved .xOnly [] [])
    else if op = 19 then
      .amovH (w / 2 % 2 == 1) (BitVec.ofNat 5 (w / 128)) (BitVec.ofNat 4 (w / 4096))
    else if op = 20 then
      .aaddiH (w / 2 % 2 == 1) (BitVec.ofNat 5 (w / 128)) (BitVec.ofNat 4 (w / 4096))
    else if op = 21 then
      if w / 2 % 2 = 0 then .unassignedEncoding .illegal
      else
        if w / 128 % 512 = 0 then .mark
        else .unassignedEncoding (.reserved .e [] [])
    else if op = 22 then
      if w / 2 % 2 = 0 then .unassignedEncoding .illegal
      else
        if w / 128 % 512 = 0 then .await
        else .unassignedEncoding (.reserved .eOnly [] [])
    else if op = 23 then
      if w / 128 % 512 = 0 then .rpt (w / 2 % 2 == 1)
      else .unassignedEncoding (.reserved .e [] [])
    else if op = 24 then
      if w / 128 % 512 = 0 then .resync (w / 2 % 2 == 1)
      else .unassignedEncoding (.reserved .eOnly [] [])
    else if op = 25 then
      if w / 2 % 2 = 0 then .unassignedEncoding .illegal
      else
        if w / 4096 % 16 = 0 then .rejoin (BitVec.ofNat 5 (w / 128))
        else .unassignedEncoding (.reserved .eOnly [BitVec.ofNat 5 (w / 128)] [])
    else if op = 26 then
      if w / 128 % 512 = 0 then .rtt (w / 2 % 2 == 1)
      else .unassignedEncoding (.reserved .eOnly [] [])
    else if op = 27 then
      if w / 128 % 32 = 0 then .brk (w / 2 % 2 == 1) (BitVec.ofNat 4 (w / 4096))
      else .unassignedEncoding (.reserved .e [] [])
    else if op = 28 then
      if w / 128 % 512 = 0 then .wsave (w / 2 % 2 == 1)
      else .unassignedEncoding (.reserved .xOnly [] [])
    else if op = 29 then
      if w / 128 % 512 = 0 then .wrest (w / 2 % 2 == 1)
      else .unassignedEncoding (.reserved .xOnly [] [])
    else if op = 30 then
      if w / 1024 % 64 = 0 then .launch (w / 2 % 2 == 1) (BitVec.ofNat 3 (w / 128))
      else .unassignedEncoding (.reserved .eOnly [] [])
    else .unassignedEncoding .illegal


/-- The ALU group, by f9 (04 R85). -/
def decodeAlu (w : Nat) : Instr :=
  let f := w / 8388608 % 512
    if f = 0 then
      .addW (w / 2 % 2 == 1) (BitVec.ofNat 5 (w / 256)) (BitVec.ofNat 5 (w / 8192)) (BitVec.ofNat 5 (w / 262144))
    else if f = 1 then
      .subW (w / 2 % 2 == 1) (BitVec.ofNat 5 (w / 256)) (BitVec.ofNat 5 (w / 8192)) (BitVec.ofNat 5 (w / 262144))
    else if f = 2 then
      .mul (w / 2 % 2 == 1) (BitVec.ofNat 5 (w / 256)) (BitVec.ofNat 5 (w / 8192)) (BitVec.ofNat 5 (w / 262144))
    else if f = 3 then
      .mulh (w / 2 % 2 == 1) (BitVec.ofNat 5 (w / 256)) (BitVec.ofNat 5 (w / 8192)) (BitVec.ofNat 5 (w / 262144))
    else if f = 4 then
      .mulhn (w / 2 % 2 == 1) (BitVec.ofNat 5 (w / 256)) (BitVec.ofNat 5 (w / 8192)) (BitVec.ofNat 5 (w / 262144))
    else if f = 5 then
      .div (w / 2 % 2 == 1) (BitVec.ofNat 5 (w / 256)) (BitVec.ofNat 5 (w / 8192)) (BitVec.ofNat 5 (w / 262144))
    else if f = 6 then
      .divn (w / 2 % 2 == 1) (BitVec.ofNat 5 (w / 256)) (BitVec.ofNat 5 (w / 8192)) (BitVec.ofNat 5 (w / 262144))
    else if f = 7 then
      .rem (w / 2 % 2 == 1) (BitVec.ofNat 5 (w / 256)) (BitVec.ofNat 5 (w / 8192)) (BitVec.ofNat 5 (w / 262144))
    else if f = 8 then
      .remn (w / 2 % 2 == 1) (BitVec.ofNat 5 (w / 256)) (BitVec.ofNat 5 (w / 8192)) (BitVec.ofNat 5 (w / 262144))
    else if f = 9 then
      .andW (w / 2 % 2 == 1) (BitVec.ofNat 5 (w / 256)) (BitVec.ofNat 5 (w / 8192)) (BitVec.ofNat 5 (w / 262144))
    else if f = 10 then
      .orW (w / 2 % 2 == 1) (BitVec.ofNat 5 (w / 256)) (BitVec.ofNat 5 (w / 8192)) (BitVec.ofNat 5 (w / 262144))
    else if f = 11 then
      .xorW (w / 2 % 2 == 1) (BitVec.ofNat 5 (w / 256)) (BitVec.ofNat 5 (w / 8192)) (BitVec.ofNat 5 (w / 262144))
    else if f = 12 then
      .andn (w / 2 % 2 == 1) (BitVec.ofNat 5 (w / 256)) (BitVec.ofNat 5 (w / 8192)) (BitVec.ofNat 5 (w / 262144))
    else if f = 13 then
      .shl (w / 2 % 2 == 1) (BitVec.ofNat 5 (w / 256)) (BitVec.ofNat 5 (w / 8192)) (BitVec.ofNat 5 (w / 262144))
    else if f = 14 then
      .shr (w / 2 % 2 == 1) (BitVec.ofNat 5 (w / 256)) (BitVec.ofNat 5 (w / 8192)) (BitVec.ofNat 5 (w / 262144))
    else if f = 15 then
      .sra (w / 2 % 2 == 1) (BitVec.ofNat 5 (w / 256)) (BitVec.ofNat 5 (w / 8192)) (BitVec.ofNat 5 (w / 262144))
    else if f = 16 then
      .cmpeq (w / 2 % 2 == 1) (BitVec.ofNat 5 (w / 256)) (BitVec.ofNat 5 (w / 8192)) (BitVec.ofNat 5 (w / 262144))
    else if f = 17 then
      .cmplt (w / 2 % 2 == 1) (BitVec.ofNat 5 (w / 256)) (BitVec.ofNat 5 (w / 8192)) (BitVec.ofNat 5 (w / 262144))
    else if f = 18 then
      .cmpltn (w / 2 % 2 == 1) (BitVec.ofNat 5 (w / 256)) (BitVec.ofNat 5 (w / 8192)) (BitVec.ofNat 5 (w / 262144))
    else if f = 19 then
      .min (w / 2 % 2 == 1) (BitVec.ofNat 5 (w / 256)) (BitVec.ofNat 5 (w / 8192)) (BitVec.ofNat 5 (w / 262144))
    else if f = 20 then
      .max (w / 2 % 2 == 1) (BitVec.ofNat 5 (w / 256)) (BitVec.ofNat 5 (w / 8192)) (BitVec.ofNat 5 (w / 262144))
    else if f = 21 then
      .minn (w / 2 % 2 == 1) (BitVec.ofNat 5 (w / 256)) (BitVec.ofNat 5 (w / 8192)) (BitVec.ofNat 5 (w / 262144))
    else if f = 22 then
      .maxn (w / 2 % 2 == 1) (BitVec.ofNat 5 (w / 256)) (BitVec.ofNat 5 (w / 8192)) (BitVec.ofNat 5 (w / 262144))
    else if f = 23 then
      if w / 262144 % 32 = 0 then .abs (w / 2 % 2 == 1) (BitVec.ofNat 5 (w / 256)) (BitVec.ofNat 5 (w / 8192))
      else .unassignedEncoding (.reserved .x [BitVec.ofNat 5 (w / 8192)] [BitVec.ofNat 5 (w / 256)])
    else if f = 24 then
      if w / 262144 % 32 = 0 then .neg (w / 2 % 2 == 1) (BitVec.ofNat 5 (w / 256)) (BitVec.ofNat 5 (w / 8192))
      else .unassignedEncoding (.reserved .x [BitVec.ofNat 5 (w / 8192)] [BitVec.ofNat 5 (w / 256)])
    else if f = 25 then
      if w / 262144 % 32 = 0 then .clz (w / 2 % 2 == 1) (BitVec.ofNat 5 (w / 256)) (BitVec.ofNat 5 (w / 8192))
      else .unassignedEncoding (.reserved .x [BitVec.ofNat 5 (w / 8192)] [BitVec.ofNat 5 (w / 256)])
    else if f = 26 then
      if w / 262144 % 32 = 0 then .ctz (w / 2 % 2 == 1) (BitVec.ofNat 5 (w / 256)) (BitVec.ofNat 5 (w / 8192))
      else .unassignedEncoding (.reserved .x [BitVec.ofNat 5 (w / 8192)] [BitVec.ofNat 5 (w / 256)])
    else if f = 27 then
      if w / 262144 % 32 = 0 then .popc (w / 2 % 2 == 1) (BitVec.ofNat 5 (w / 256)) (BitVec.ofNat 5 (w / 8192))
      else .unassignedEncoding (.reserved .x [BitVec.ofNat 5 (w / 8192)] [BitVec.ofNat 5 (w / 256)])
    else if f = 28 then
      .sext (w / 2 % 2 == 1) (BitVec.ofNat 5 (w / 256)) (BitVec.ofNat 5 (w / 8192)) (BitVec.ofNat 5 (w / 262144))
    else if f = 29 then
      .zext (w / 2 % 2 == 1) (BitVec.ofNat 5 (w / 256)) (BitVec.ofNat 5 (w / 8192)) (BitVec.ofNat 5 (w / 262144))
    else if f = 30 then
      if w / 262144 % 32 = 0 then .movW (w / 2 % 2 == 1) (BitVec.ofNat 5 (w / 256)) (BitVec.ofNat 5 (w / 8192))
      else .unassignedEncoding (.reserved .x [BitVec.ofNat 5 (w / 8192)] [BitVec.ofNat 5 (w / 256)])
    else .unassignedEncoding .illegal


/-- The shifts by a count, by f9[8:7] (04 R84). -/
def decodeShift (w : Nat) : Instr :=
  let f := w / 1073741824 % 4
    if f = 0 then
      if w / 262144 % 32 = 0 ∧ w / 536870912 % 2 = 0 then .shliW (w / 2 % 2 == 1) (BitVec.ofNat 5 (w / 256)) (BitVec.ofNat 5 (w / 8192)) (BitVec.ofNat 6 (w / 8388608))
      else .unassignedEncoding (.reserved .x [BitVec.ofNat 5 (w / 8192)] [BitVec.ofNat 5 (w / 256)])
    else if f = 1 then
      if w / 262144 % 32 = 0 ∧ w / 536870912 % 2 = 0 then .shriW (w / 2 % 2 == 1) (BitVec.ofNat 5 (w / 256)) (BitVec.ofNat 5 (w / 8192)) (BitVec.ofNat 6 (w / 8388608))
      else .unassignedEncoding (.reserved .x [BitVec.ofNat 5 (w / 8192)] [BitVec.ofNat 5 (w / 256)])
    else if f = 2 then
      if w / 262144 % 32 = 0 ∧ w / 536870912 % 2 = 0 then .sraiW (w / 2 % 2 == 1) (BitVec.ofNat 5 (w / 256)) (BitVec.ofNat 5 (w / 8192)) (BitVec.ofNat 6 (w / 8388608))
      else .unassignedEncoding (.reserved .x [BitVec.ofNat 5 (w / 8192)] [BitVec.ofNat 5 (w / 256)])
    else .unassignedEncoding .illegal


/-- The relative-register words, by f9[8:7] (04 R84). -/
def decodeRel (w : Nat) : Instr :=
  let f := w / 1073741824 % 4
    if f = 0 then
      if w / 8192 % 1024 = 0 then .movx (w / 2 % 2 == 1) (BitVec.ofNat 5 (w / 256)) (BitVec.ofNat 7 (w / 8388608))
      else .unassignedEncoding (.reserved .xOnly [] [BitVec.ofNat 5 (w / 256)])
    else if f = 1 then
      if w / 256 % 32 = 0 ∧ w / 262144 % 32 = 0 then .movxw (w / 2 % 2 == 1) (BitVec.ofNat 5 (w / 8192)) (BitVec.ofNat 7 (w / 8388608))
      else .unassignedEncoding (.reserved .xOnly [BitVec.ofNat 5 (w / 8192)] [])
    else if f = 2 then
      if w / 256 % 32 = 0 ∧ w / 262144 % 32 = 0 then .setixW (w / 2 % 2 == 1) (BitVec.ofNat 5 (w / 8192)) (BitVec.ofNat 7 (w / 8388608))
      else .unassignedEncoding (.reserved .xOnly [BitVec.ofNat 5 (w / 8192)] [])
    else if f = 3 then
      if w / 256 % 32768 = 0 then .addixW (w / 2 % 2 == 1) (BitVec.ofNat 7 (w / 8388608))
      else .unassignedEncoding (.reserved .xOnly [] [])
    else .unassignedEncoding .illegal


/-- `jr` and `callr`, by f9 (04 R84). -/
def decodeJump (w : Nat) : Instr :=
  let f := w / 8388608 % 512
    if f = 0 then
      if w / 256 % 32 = 0 ∧ w / 262144 % 32 = 0 then .jr (w / 2 % 2 == 1) (BitVec.ofNat 5 (w / 8192))
      else .unassignedEncoding (.reserved .e [BitVec.ofNat 5 (w / 8192)] [])
    else if f = 1 then
      if w / 256 % 32 = 0 ∧ w / 262144 % 32 = 0 then .callr4 (w / 2 % 2 == 1) (BitVec.ofNat 5 (w / 8192))
      else .unassignedEncoding (.reserved .xOnly [BitVec.ofNat 5 (w / 8192)] [])
    else if f = 2 then
      if w / 256 % 32 = 0 ∧ w / 262144 % 32 = 0 then .callr8 (w / 2 % 2 == 1) (BitVec.ofNat 5 (w / 8192))
      else .unassignedEncoding (.reserved .xOnly [BitVec.ofNat 5 (w / 8192)] [])
    else if f = 3 then
      if w / 256 % 32 = 0 ∧ w / 262144 % 32 = 0 then .callr12 (w / 2 % 2 == 1) (BitVec.ofNat 5 (w / 8192))
      else .unassignedEncoding (.reserved .xOnly [BitVec.ofNat 5 (w / 8192)] [])
    else .unassignedEncoding .illegal


/-- op6 0x20, by SP; other SP values are reserved (04 R77, R86). -/
def decodeLd (w : Nat) : Instr :=
  let f := w / 256 % 4
    if f = 1 then
      .lds (w / 2 % 2 == 1) (BitVec.ofNat 4 (w / 1024)) (BitVec.ofNat 3 (w / 16384)) (BitVec.ofNat 3 (w / 131072)) (BitVec.ofNat 12 (w / 1048576))
    else if f = 2 then
      .ldl (w / 2 % 2 == 1) (BitVec.ofNat 4 (w / 1024)) (BitVec.ofNat 3 (w / 16384)) (BitVec.ofNat 3 (w / 131072)) (BitVec.ofNat 12 (w / 1048576))
    else .unassignedEncoding (.reserved .a [] (queueDst w))


/-- op6 0x21, by SP; other SP values are reserved (04 R77, R86). -/
def decodeSt (w : Nat) : Instr :=
  let f := w / 256 % 4
    if f = 1 then
      .sts (w / 2 % 2 == 1) (BitVec.ofNat 4 (w / 1024)) (BitVec.ofNat 3 (w / 16384)) (BitVec.ofNat 3 (w / 131072)) (BitVec.ofNat 12 (w / 1048576))
    else if f = 2 then
      .stl (w / 2 % 2 == 1) (BitVec.ofNat 4 (w / 1024)) (BitVec.ofNat 3 (w / 16384)) (BitVec.ofNat 3 (w / 131072)) (BitVec.ofNat 12 (w / 1048576))
    else .unassignedEncoding (.reserved .a [] [])


/-- op6 0x22, by SP; other SP values are reserved (04 R77, R86). -/
def decodeVld (w : Nat) : Instr :=
  let f := w / 256 % 4
    if f = 1 then
      .vlds (w / 2 % 2 == 1) (BitVec.ofNat 4 (w / 1024)) (BitVec.ofNat 3 (w / 16384)) (BitVec.ofNat 3 (w / 131072)) (BitVec.ofNat 12 (w / 1048576))
    else if f = 2 then
      .vldl (w / 2 % 2 == 1) (BitVec.ofNat 4 (w / 1024)) (BitVec.ofNat 3 (w / 16384)) (BitVec.ofNat 3 (w / 131072)) (BitVec.ofNat 12 (w / 1048576))
    else .unassignedEncoding (.reserved .a [] [])


/-- op6 0x23, by SP; other SP values are reserved (04 R77, R86). -/
def decodeVst (w : Nat) : Instr :=
  let f := w / 256 % 4
    if f = 1 then
      .vsts (w / 2 % 2 == 1) (BitVec.ofNat 4 (w / 1024)) (BitVec.ofNat 3 (w / 16384)) (BitVec.ofNat 3 (w / 131072)) (BitVec.ofNat 12 (w / 1048576))
    else if f = 2 then
      .vstl (w / 2 % 2 == 1) (BitVec.ofNat 4 (w / 1024)) (BitVec.ofNat 3 (w / 16384)) (BitVec.ofNat 3 (w / 131072)) (BitVec.ofNat 12 (w / 1048576))
    else .unassignedEncoding (.reserved .a [] [])


/-- The atomics of op6 0x27, by F3 (04 R86). -/
def decodeAtom (w : Nat) : Instr :=
  let f := w / 2097152 % 8
    if f = 0 then
      if w / 16777216 % 8 = 0 then .amadd (w / 2 % 2 == 1) (BitVec.ofNat 2 (w / 256)) (BitVec.ofNat 4 (w / 1024)) (BitVec.ofNat 3 (w / 16384)) (BitVec.ofNat 3 (w / 131072)) (BitVec.ofNat 1 (w / 1048576)) (BitVec.ofNat 5 (w / 134217728))
      else .unassignedEncoding (.reserved .a [] (queueDst w))
    else if f = 1 then
      if w / 16777216 % 8 = 0 then .amswp (w / 2 % 2 == 1) (BitVec.ofNat 2 (w / 256)) (BitVec.ofNat 4 (w / 1024)) (BitVec.ofNat 3 (w / 16384)) (BitVec.ofNat 3 (w / 131072)) (BitVec.ofNat 1 (w / 1048576)) (BitVec.ofNat 5 (w / 134217728))
      else .unassignedEncoding (.reserved .a [] (queueDst w))
    else if f = 2 then
      .amcas (w / 2 % 2 == 1) (BitVec.ofNat 2 (w / 256)) (BitVec.ofNat 4 (w / 1024)) (BitVec.ofNat 3 (w / 16384)) (BitVec.ofNat 3 (w / 131072)) (BitVec.ofNat 1 (w / 1048576)) (BitVec.ofNat 3 (w / 16777216)) (BitVec.ofNat 5 (w / 134217728))
    else if f = 3 then
      if w / 16777216 % 8 = 0 then .amand (w / 2 % 2 == 1) (BitVec.ofNat 2 (w / 256)) (BitVec.ofNat 4 (w / 1024)) (BitVec.ofNat 3 (w / 16384)) (BitVec.ofNat 3 (w / 131072)) (BitVec.ofNat 1 (w / 1048576)) (BitVec.ofNat 5 (w / 134217728))
      else .unassignedEncoding (.reserved .a [] (queueDst w))
    else if f = 4 then
      if w / 16777216 % 8 = 0 then .amor (w / 2 % 2 == 1) (BitVec.ofNat 2 (w / 256)) (BitVec.ofNat 4 (w / 1024)) (BitVec.ofNat 3 (w / 16384)) (BitVec.ofNat 3 (w / 131072)) (BitVec.ofNat 1 (w / 1048576)) (BitVec.ofNat 5 (w / 134217728))
      else .unassignedEncoding (.reserved .a [] (queueDst w))
    else .unassignedEncoding .illegal


/-- The atomics of op6 0x28, by F3 (04 R86). -/
def decodeAtomMm (w : Nat) : Instr :=
  let f := w / 2097152 % 8
    if f = 0 then
      if w / 16777216 % 8 = 0 then .amminI (w / 2 % 2 == 1) (BitVec.ofNat 2 (w / 256)) (BitVec.ofNat 4 (w / 1024)) (BitVec.ofNat 3 (w / 16384)) (BitVec.ofNat 3 (w / 131072)) (BitVec.ofNat 1 (w / 1048576)) (BitVec.ofNat 5 (w / 134217728))
      else .unassignedEncoding (.reserved .a [] (queueDst w))
    else if f = 1 then
      if w / 16777216 % 8 = 0 then .amminN (w / 2 % 2 == 1) (BitVec.ofNat 2 (w / 256)) (BitVec.ofNat 4 (w / 1024)) (BitVec.ofNat 3 (w / 16384)) (BitVec.ofNat 3 (w / 131072)) (BitVec.ofNat 1 (w / 1048576)) (BitVec.ofNat 5 (w / 134217728))
      else .unassignedEncoding (.reserved .a [] (queueDst w))
    else if f = 2 then
      if w / 16777216 % 8 = 0 then .ammaxI (w / 2 % 2 == 1) (BitVec.ofNat 2 (w / 256)) (BitVec.ofNat 4 (w / 1024)) (BitVec.ofNat 3 (w / 16384)) (BitVec.ofNat 3 (w / 131072)) (BitVec.ofNat 1 (w / 1048576)) (BitVec.ofNat 5 (w / 134217728))
      else .unassignedEncoding (.reserved .a [] (queueDst w))
    else if f = 3 then
      if w / 16777216 % 8 = 0 then .ammaxN (w / 2 % 2 == 1) (BitVec.ofNat 2 (w / 256)) (BitVec.ofNat 4 (w / 1024)) (BitVec.ofNat 3 (w / 16384)) (BitVec.ofNat 3 (w / 131072)) (BitVec.ofNat 1 (w / 1048576)) (BitVec.ofNat 5 (w / 134217728))
      else .unassignedEncoding (.reserved .a [] (queueDst w))
    else .unassignedEncoding .illegal


/-- The ordered words, by F3 (04 R86). -/
def decodeOrd (w : Nat) : Instr :=
  let f := w / 2097152 % 8
    if f = 0 then
      if w / 131072 % 8 = 0 ∧ w / 16777216 % 8 = 0 then .ldacq (w / 2 % 2 == 1) (BitVec.ofNat 2 (w / 256)) (BitVec.ofNat 4 (w / 1024)) (BitVec.ofNat 3 (w / 16384)) (BitVec.ofNat 1 (w / 1048576)) (BitVec.ofNat 5 (w / 134217728))
      else .unassignedEncoding (.reserved .a [] (queueDst w))
    else if f = 1 then
      if w / 131072 % 8 = 0 ∧ w / 16777216 % 8 = 0 then .strel (w / 2 % 2 == 1) (BitVec.ofNat 2 (w / 256)) (BitVec.ofNat 4 (w / 1024)) (BitVec.ofNat 3 (w / 16384)) (BitVec.ofNat 1 (w / 1048576)) (BitVec.ofNat 5 (w / 134217728))
      else .unassignedEncoding (.reserved .a [] [])
    else if f = 2 then
      if w / 256 % 8192 = 0 ∧ w / 16777216 % 8 = 0 then .fence (w / 2 % 2 == 1) (BitVec.ofNat 5 (w / 134217728))
      else .unassignedEncoding (.reserved .a [] [])
    else if f = 3 then
      if w / 256 % 4 = 1 ∧ w / 131072 % 16 = 8 ∧ w / 16777216 % 8 = 0 then .stacq (w / 2 % 2 == 1) (BitVec.ofNat 4 (w / 1024)) (BitVec.ofNat 3 (w / 16384)) (BitVec.ofNat 5 (w / 134217728))
      else .unassignedEncoding (.reserved .a [] (queueDst w))
    else if f = 4 then
      if w / 256 % 4 = 1 ∧ w / 131072 % 16 = 8 ∧ w / 16777216 % 8 = 0 then .strls (w / 2 % 2 == 1) (BitVec.ofNat 4 (w / 1024)) (BitVec.ofNat 3 (w / 16384)) (BitVec.ofNat 5 (w / 134217728))
      else .unassignedEncoding (.reserved .a [] [])
    else .unassignedEncoding .illegal


/-- The message words, by F3 (04 R86). -/
def decodeMsg (w : Nat) : Instr :=
  let f := w / 2097152 % 8
    if f = 0 then
      if w / 256 % 4 = 1 ∧ w / 8192 % 2 = 0 ∧ w / 131072 % 16 = 0 ∧ w / 536870912 % 8 = 0 then .send (w / 2 % 2 == 1) (BitVec.ofNat 3 (w / 1024)) (BitVec.ofNat 3 (w / 16384)) (BitVec.ofNat 5 (w / 16777216))
      else .unassignedEncoding (.reserved .a [] [])
    else if f = 1 then
      if w / 256 % 4 = 1 ∧ w / 131072 % 16 = 0 ∧ w / 16777216 % 256 = 0 then .rcvp (w / 2 % 2 == 1) (BitVec.ofNat 4 (w / 1024)) (BitVec.ofNat 3 (w / 16384))
      else .unassignedEncoding (.reserved .a [] (queueDst w))
    else .unassignedEncoding .illegal


/-- Vector words of op6 0x30, by f3 (04 R87). -/
def decodeV30 (w : Nat) : Instr :=
  let f := w / 536870912 % 8
    if f = 0 then
      .vadd (w / 2 % 2 == 1) (BitVec.ofNat 4 (w / 256)) (BitVec.ofNat 4 (w / 4096)) (BitVec.ofNat 5 (w / 65536)) (BitVec.ofNat 5 (w / 2097152)) (BitVec.ofNat 3 (w / 67108864))
    else if f = 1 then
      .vsub (w / 2 % 2 == 1) (BitVec.ofNat 4 (w / 256)) (BitVec.ofNat 4 (w / 4096)) (BitVec.ofNat 5 (w / 65536)) (BitVec.ofNat 5 (w / 2097152)) (BitVec.ofNat 3 (w / 67108864))
    else if f = 2 then
      .vmul (w / 2 % 2 == 1) (BitVec.ofNat 4 (w / 256)) (BitVec.ofNat 4 (w / 4096)) (BitVec.ofNat 5 (w / 65536)) (BitVec.ofNat 5 (w / 2097152)) (BitVec.ofNat 3 (w / 67108864))
    else if f = 3 then
      .vmin (w / 2 % 2 == 1) (BitVec.ofNat 4 (w / 256)) (BitVec.ofNat 4 (w / 4096)) (BitVec.ofNat 5 (w / 65536)) (BitVec.ofNat 5 (w / 2097152)) (BitVec.ofNat 3 (w / 67108864))
    else if f = 4 then
      .vmax (w / 2 % 2 == 1) (BitVec.ofNat 4 (w / 256)) (BitVec.ofNat 4 (w / 4096)) (BitVec.ofNat 5 (w / 65536)) (BitVec.ofNat 5 (w / 2097152)) (BitVec.ofNat 3 (w / 67108864))
    else if f = 5 then
      if w / 65536 % 32 = 0 then .vabs (w / 2 % 2 == 1) (BitVec.ofNat 4 (w / 256)) (BitVec.ofNat 4 (w / 4096)) (BitVec.ofNat 5 (w / 2097152)) (BitVec.ofNat 3 (w / 67108864))
      else .unassignedEncoding (.reserved .x [] [])
    else if f = 6 then
      if w / 65536 % 32 = 0 then .vneg (w / 2 % 2 == 1) (BitVec.ofNat 4 (w / 256)) (BitVec.ofNat 4 (w / 4096)) (BitVec.ofNat 5 (w / 2097152)) (BitVec.ofNat 3 (w / 67108864))
      else .unassignedEncoding (.reserved .x [] [])
    else if f = 7 then
      if w / 67108864 % 8 = 0 then .vsel (w / 2 % 2 == 1) (BitVec.ofNat 4 (w / 256)) (BitVec.ofNat 4 (w / 4096)) (BitVec.ofNat 5 (w / 65536)) (BitVec.ofNat 5 (w / 2097152))
      else .unassignedEncoding (.reserved .x [] [])
    else .unassignedEncoding .illegal


/-- Vector words of op6 0x31, by f3 (04 R87). -/
def decodeV31 (w : Nat) : Instr :=
  let f := w / 536870912 % 8
    if f = 0 then
      .vand (w / 2 % 2 == 1) (BitVec.ofNat 4 (w / 256)) (BitVec.ofNat 4 (w / 4096)) (BitVec.ofNat 5 (w / 65536)) (BitVec.ofNat 5 (w / 2097152)) (BitVec.ofNat 3 (w / 67108864))
    else if f = 1 then
      .vor (w / 2 % 2 == 1) (BitVec.ofNat 4 (w / 256)) (BitVec.ofNat 4 (w / 4096)) (BitVec.ofNat 5 (w / 65536)) (BitVec.ofNat 5 (w / 2097152)) (BitVec.ofNat 3 (w / 67108864))
    else if f = 2 then
      .vxor (w / 2 % 2 == 1) (BitVec.ofNat 4 (w / 256)) (BitVec.ofNat 4 (w / 4096)) (BitVec.ofNat 5 (w / 65536)) (BitVec.ofNat 5 (w / 2097152)) (BitVec.ofNat 3 (w / 67108864))
    else if f = 3 then
      .vandn (w / 2 % 2 == 1) (BitVec.ofNat 4 (w / 256)) (BitVec.ofNat 4 (w / 4096)) (BitVec.ofNat 5 (w / 65536)) (BitVec.ofNat 5 (w / 2097152)) (BitVec.ofNat 3 (w / 67108864))
    else if f = 4 then
      .vshl (w / 2 % 2 == 1) (BitVec.ofNat 4 (w / 256)) (BitVec.ofNat 4 (w / 4096)) (BitVec.ofNat 5 (w / 65536)) (BitVec.ofNat 5 (w / 2097152)) (BitVec.ofNat 3 (w / 67108864))
    else if f = 5 then
      .vshr (w / 2 % 2 == 1) (BitVec.ofNat 4 (w / 256)) (BitVec.ofNat 4 (w / 4096)) (BitVec.ofNat 5 (w / 65536)) (BitVec.ofNat 5 (w / 2097152)) (BitVec.ofNat 3 (w / 67108864))
    else if f = 6 then
      .vsra (w / 2 % 2 == 1) (BitVec.ofNat 4 (w / 256)) (BitVec.ofNat 4 (w / 4096)) (BitVec.ofNat 5 (w / 65536)) (BitVec.ofNat 5 (w / 2097152)) (BitVec.ofNat 3 (w / 67108864))
    else .unassignedEncoding .illegal


/-- Vector words of op6 0x32, by f3 (04 R87). -/
def decodeV32 (w : Nat) : Instr :=
  let f := w / 536870912 % 8
    if f = 0 then
      .vfma (w / 2 % 2 == 1) (BitVec.ofNat 4 (w / 256)) (BitVec.ofNat 4 (w / 4096)) (BitVec.ofNat 5 (w / 65536)) (BitVec.ofNat 5 (w / 2097152)) (BitVec.ofNat 3 (w / 67108864))
    else if f = 1 then
      .vfms (w / 2 % 2 == 1) (BitVec.ofNat 4 (w / 256)) (BitVec.ofNat 4 (w / 4096)) (BitVec.ofNat 5 (w / 65536)) (BitVec.ofNat 5 (w / 2097152)) (BitVec.ofNat 3 (w / 67108864))
    else if f = 2 then
      .vfnma (w / 2 % 2 == 1) (BitVec.ofNat 4 (w / 256)) (BitVec.ofNat 4 (w / 4096)) (BitVec.ofNat 5 (w / 65536)) (BitVec.ofNat 5 (w / 2097152)) (BitVec.ofNat 3 (w / 67108864))
    else if f = 3 then
      if w / 256 % 16 = 0 then
        .vredSum (w / 2 % 2 == 1) (BitVec.ofNat 4 (w / 4096)) (BitVec.ofNat 5 (w / 65536)) (BitVec.ofNat 5 (w / 2097152)) (BitVec.ofNat 3 (w / 67108864))
      else if w / 256 % 16 = 1 then
        .vredMin (w / 2 % 2 == 1) (BitVec.ofNat 4 (w / 4096)) (BitVec.ofNat 5 (w / 65536)) (BitVec.ofNat 5 (w / 2097152)) (BitVec.ofNat 3 (w / 67108864))
      else if w / 256 % 16 = 2 then
        .vredMax (w / 2 % 2 == 1) (BitVec.ofNat 4 (w / 4096)) (BitVec.ofNat 5 (w / 65536)) (BitVec.ofNat 5 (w / 2097152)) (BitVec.ofNat 3 (w / 67108864))
      else .unassignedEncoding (.reserved .x [] [BitVec.ofNat 5 (w / 65536)])
    else if f = 4 then
      if w / 4096 % 512 = 0 ∧ w / 67108864 % 8 = 3 then .vrng (w / 2 % 2 == 1) (BitVec.ofNat 4 (w / 256)) (BitVec.ofNat 5 (w / 2097152))
      else .unassignedEncoding (.reserved .x [] [])
    else if f = 5 then
      if w / 256 % 16 = 0 then .vmsk (w / 2 % 2 == 1) (BitVec.ofNat 4 (w / 4096)) (BitVec.ofNat 5 (w / 65536)) (BitVec.ofNat 5 (w / 2097152)) (BitVec.ofNat 3 (w / 67108864))
      else .unassignedEncoding (.reserved .x [] [BitVec.ofNat 5 (w / 65536)])
    else .unassignedEncoding .illegal


/-- Vector words of op6 0x33, by f3 (04 R87). -/
def decodeV33 (w : Nat) : Instr :=
  let f := w / 536870912 % 8
    if f = 0 then
      .vcmpEq (w / 2 % 2 == 1) (BitVec.ofNat 4 (w / 256)) (BitVec.ofNat 4 (w / 4096)) (BitVec.ofNat 5 (w / 65536)) (BitVec.ofNat 5 (w / 2097152)) (BitVec.ofNat 3 (w / 67108864))
    else if f = 1 then
      .vcmpNe (w / 2 % 2 == 1) (BitVec.ofNat 4 (w / 256)) (BitVec.ofNat 4 (w / 4096)) (BitVec.ofNat 5 (w / 65536)) (BitVec.ofNat 5 (w / 2097152)) (BitVec.ofNat 3 (w / 67108864))
    else if f = 2 then
      .vcmpLt (w / 2 % 2 == 1) (BitVec.ofNat 4 (w / 256)) (BitVec.ofNat 4 (w / 4096)) (BitVec.ofNat 5 (w / 65536)) (BitVec.ofNat 5 (w / 2097152)) (BitVec.ofNat 3 (w / 67108864))
    else if f = 3 then
      .vcmpLe (w / 2 % 2 == 1) (BitVec.ofNat 4 (w / 256)) (BitVec.ofNat 4 (w / 4096)) (BitVec.ofNat 5 (w / 65536)) (BitVec.ofNat 5 (w / 2097152)) (BitVec.ofNat 3 (w / 67108864))
    else .unassignedEncoding .illegal


/-- Vector words of op6 0x34, by f3 (04 R87). -/
def decodeV34 (w : Nat) : Instr :=
  let f := w / 536870912 % 8
    if f = 0 then
      .vperm (w / 2 % 2 == 1) (BitVec.ofNat 4 (w / 256)) (BitVec.ofNat 4 (w / 4096)) (BitVec.ofNat 5 (w / 65536)) (BitVec.ofNat 5 (w / 2097152)) (BitVec.ofNat 3 (w / 67108864))
    else if f = 1 then
      .vbcast (w / 2 % 2 == 1) (BitVec.ofNat 4 (w / 256)) (BitVec.ofNat 4 (w / 4096)) (BitVec.ofNat 5 (w / 65536)) (BitVec.ofNat 5 (w / 2097152)) (BitVec.ofNat 3 (w / 67108864))
    else if f = 2 then
      .vslide (w / 2 % 2 == 1) (BitVec.ofNat 4 (w / 256)) (BitVec.ofNat 4 (w / 4096)) (BitVec.ofNat 5 (w / 65536)) (BitVec.ofNat 5 (w / 2097152)) (BitVec.ofNat 3 (w / 67108864))
    else if f = 3 then
      if w / 256 % 16 = 0 then .vext (w / 2 % 2 == 1) (BitVec.ofNat 4 (w / 4096)) (BitVec.ofNat 5 (w / 65536)) (BitVec.ofNat 5 (w / 2097152)) (BitVec.ofNat 3 (w / 67108864))
      else .unassignedEncoding (.reserved .x [] [BitVec.ofNat 5 (w / 65536)])
    else if f = 4 then
      if w / 4096 % 16 = 0 then .vins (w / 2 % 2 == 1) (BitVec.ofNat 4 (w / 256)) (BitVec.ofNat 5 (w / 65536)) (BitVec.ofNat 5 (w / 2097152)) (BitVec.ofNat 3 (w / 67108864))
      else .unassignedEncoding (.reserved .x [BitVec.ofNat 5 (w / 65536)] [])
    else if f = 5 then
      if w / 4096 % 16 = 0 then .vsplat (w / 2 % 2 == 1) (BitVec.ofNat 4 (w / 256)) (BitVec.ofNat 5 (w / 65536)) (BitVec.ofNat 5 (w / 2097152)) (BitVec.ofNat 3 (w / 67108864))
      else .unassignedEncoding (.reserved .x [BitVec.ofNat 5 (w / 65536)] [])
    else .unassignedEncoding .illegal


/-- Vector words of op6 0x35, by f3 (04 R87). -/
def decodeV35 (w : Nat) : Instr :=
  let f := w / 536870912 % 8
    if f = 0 then
      if w / 65536 % 32 = 0 then .vrcp (w / 2 % 2 == 1) (BitVec.ofNat 4 (w / 256)) (BitVec.ofNat 4 (w / 4096)) (BitVec.ofNat 5 (w / 2097152)) (BitVec.ofNat 3 (w / 67108864))
      else .unassignedEncoding (.reserved .x [] [])
    else if f = 1 then
      if w / 65536 % 32 = 0 then .vrsq (w / 2 % 2 == 1) (BitVec.ofNat 4 (w / 256)) (BitVec.ofNat 4 (w / 4096)) (BitVec.ofNat 5 (w / 2097152)) (BitVec.ofNat 3 (w / 67108864))
      else .unassignedEncoding (.reserved .x [] [])
    else if f = 2 then
      if w / 65536 % 32 = 0 then .vexp2 (w / 2 % 2 == 1) (BitVec.ofNat 4 (w / 256)) (BitVec.ofNat 4 (w / 4096)) (BitVec.ofNat 5 (w / 2097152)) (BitVec.ofNat 3 (w / 67108864))
      else .unassignedEncoding (.reserved .x [] [])
    else if f = 3 then
      if w / 65536 % 32 = 0 then .vlog2 (w / 2 % 2 == 1) (BitVec.ofNat 4 (w / 256)) (BitVec.ofNat 4 (w / 4096)) (BitVec.ofNat 5 (w / 2097152)) (BitVec.ofNat 3 (w / 67108864))
      else .unassignedEncoding (.reserved .x [] [])
    else .unassignedEncoding .illegal


/-- The conversion group, by G (04 R78, R87). -/
def decodeConv (w : Nat) : Instr :=
  let f := w / 1073741824 % 4
    if f = 0 then
      .vcvt (w / 2 % 2 == 1) (BitVec.ofNat 4 (w / 256)) (BitVec.ofNat 4 (w / 4096)) (BitVec.ofNat 4 (w / 65536)) (BitVec.ofNat 1 (w / 1048576)) (BitVec.ofNat 5 (w / 2097152)) (BitVec.ofNat 4 (w / 67108864))
    else if f = 1 then
      .vscl (w / 2 % 2 == 1) (BitVec.ofNat 4 (w / 256)) (BitVec.ofNat 4 (w / 4096)) (BitVec.ofNat 4 (w / 65536)) (BitVec.ofNat 1 (w / 1048576)) (BitVec.ofNat 5 (w / 2097152)) (BitVec.ofNat 4 (w / 67108864))
    else if f = 2 then
      if w / 65536 % 32 = 2 ∧ w / 67108864 % 16 = 9 then .vbpk (w / 2 % 2 == 1) (BitVec.ofNat 4 (w / 256)) (BitVec.ofNat 4 (w / 4096)) (BitVec.ofNat 5 (w / 2097152))
      else .unassignedEncoding (.reserved .x [] [])
    else if f = 3 then
      if w / 65536 % 32 = 9 ∧ w / 67108864 % 16 = 2 then .vbupk (w / 2 % 2 == 1) (BitVec.ofNat 4 (w / 256)) (BitVec.ofNat 4 (w / 4096)) (BitVec.ofNat 5 (w / 2097152))
      else .unassignedEncoding (.reserved .x [] [])
    else .unassignedEncoding .illegal


/-- Matrix words, by F4; `.drop` is bit 27 of `mcfg` (04 R79, R87). -/
def decodeMat (w : Nat) : Instr :=
  let f := w / 256 % 16
    if f = 0 then
      if w / 134217728 % 2 = 0 then
        if w / 32768 % 4096 = 0 ∧ w / 268435456 % 2 = 0 then .mcfg (w / 2 % 2 == 1) (BitVec.ofNat 3 (w / 4096)) (BitVec.ofNat 3 (w / 536870912))
        else .unassignedEncoding (.reserved .x [] [])
      else
        if w / 32768 % 4096 = 0 ∧ w / 268435456 % 2 = 0 then .mcfgDrop (w / 2 % 2 == 1) (BitVec.ofNat 3 (w / 4096)) (BitVec.ofNat 3 (w / 536870912))
        else .unassignedEncoding (.reserved .x [] [])
    else if f = 1 then
      if w / 4096 % 8 = 0 ∧ w / 2097152 % 256 = 0 then .mclaim (w / 2 % 2 == 1) (BitVec.ofNat 6 (w / 32768)) (BitVec.ofNat 3 (w / 536870912))
      else .unassignedEncoding (.reserved .x [] [])
    else if f = 2 then
      if w / 4096 % 8 = 0 ∧ w / 2097152 % 256 = 0 then .mfree (w / 2 % 2 == 1) (BitVec.ofNat 6 (w / 32768)) (BitVec.ofNat 3 (w / 536870912))
      else .unassignedEncoding (.reserved .x [] [])
    else if f = 3 then
      if w / 4096 % 8 = 0 ∧ w / 2097152 % 256 = 0 then .mfill (w / 2 % 2 == 1) (BitVec.ofNat 6 (w / 32768)) (BitVec.ofNat 3 (w / 536870912))
      else .unassignedEncoding (.reserved .x [] [])
    else if f = 4 then
      .mma (w / 2 % 2 == 1) (BitVec.ofNat 3 (w / 4096)) (BitVec.ofNat 6 (w / 32768)) (BitVec.ofNat 6 (w / 2097152)) (BitVec.ofNat 2 (w / 134217728)) (BitVec.ofNat 3 (w / 536870912))
    else if f = 5 then
      .mmaz (w / 2 % 2 == 1) (BitVec.ofNat 3 (w / 4096)) (BitVec.ofNat 6 (w / 32768)) (BitVec.ofNat 6 (w / 2097152)) (BitVec.ofNat 2 (w / 134217728)) (BitVec.ofNat 3 (w / 536870912))
    else if f = 6 then
      if w / 32768 % 16384 = 0 then .mrd (w / 2 % 2 == 1) (BitVec.ofNat 3 (w / 4096)) (BitVec.ofNat 3 (w / 536870912))
      else .unassignedEncoding (.reserved .x [] [])
    else if f = 7 then
      if w / 32768 % 16384 = 0 then .mwb (w / 2 % 2 == 1) (BitVec.ofNat 3 (w / 4096)) (BitVec.ofNat 3 (w / 536870912))
      else .unassignedEncoding (.reserved .x [] [])
    else if f = 8 then
      if w / 32768 % 16384 = 0 then .mzero (w / 2 % 2 == 1) (BitVec.ofNat 3 (w / 4096)) (BitVec.ofNat 3 (w / 536870912))
      else .unassignedEncoding (.reserved .x [] [])
    else if f = 9 then
      if w / 32768 % 16384 = 0 then .mchk (w / 2 % 2 == 1) (BitVec.ofNat 3 (w / 4096)) (BitVec.ofNat 3 (w / 536870912))
      else .unassignedEncoding (.reserved .x [] [])
    else if f = 10 then
      if w / 4096 % 8 = 0 ∧ w / 134217728 % 4 = 0 then .mtr (w / 2 % 2 == 1) (BitVec.ofNat 6 (w / 32768)) (BitVec.ofNat 6 (w / 2097152)) (BitVec.ofNat 3 (w / 536870912))
      else .unassignedEncoding (.reserved .x [] [])
    else .unassignedEncoding .illegal


/-- Caddy words, by F4 (04 R80, R87). -/
def decodeCaddy (w : Nat) : Instr :=
  let f := w / 256 % 16
    if f = 0 then
      if w / 4096 % 32 = 0 then .ccopy (w / 2 % 2 == 1) (BitVec.ofNat 3 (w / 131072)) (BitVec.ofNat 1 (w / 1048576)) (BitVec.ofNat 11 (w / 2097152))
      else .unassignedEncoding (.reserved .e [] [])
    else if f = 1 then
      if w / 4096 % 32 = 0 then .cdist (w / 2 % 2 == 1) (BitVec.ofNat 3 (w / 131072)) (BitVec.ofNat 1 (w / 1048576)) (BitVec.ofNat 11 (w / 2097152))
      else .unassignedEncoding (.reserved .e [] [])
    else if f = 2 then
      if w / 4096 % 32 = 0 then .cslot (w / 2 % 2 == 1) (BitVec.ofNat 3 (w / 131072)) (BitVec.ofNat 1 (w / 1048576)) (BitVec.ofNat 11 (w / 2097152))
      else .unassignedEncoding (.reserved .e [] [])
    else if f = 3 then
      if w / 4096 % 32 = 0 ∧ w / 1048576 % 4096 = 0 then .cseal (w / 2 % 2 == 1) (BitVec.ofNat 3 (w / 131072))
      else .unassignedEncoding (.reserved .e [] [])
    else if f = 4 then
      if w / 131072 % 32768 = 0 then .cchk (w / 2 % 2 == 1) (BitVec.ofNat 5 (w / 4096))
      else .unassignedEncoding (.reserved .e [] [])
    else if f = 5 then
      if w / 2 % 2 = 0 then .unassignedEncoding .illegal
      else
        if w / 131072 % 32768 = 0 then .cwait (BitVec.ofNat 5 (w / 4096))
        else .unassignedEncoding (.reserved .e [] [])
    else if f = 6 then
      if w / 4096 % 1048576 = 0 then .cadv (w / 2 % 2 == 1)
      else .unassignedEncoding (.reserved .e [] [])
    else if f = 7 then
      if w / 4096 % 32 = 0 ∧ w / 1048576 % 4096 = 0 then .cpub (w / 2 % 2 == 1) (BitVec.ofNat 3 (w / 131072))
      else .unassignedEncoding (.reserved .e [] [])
    else if f = 8 then
      if w / 131072 % 32768 = 0 then .cstat (w / 2 % 2 == 1) (BitVec.ofNat 5 (w / 4096))
      else .unassignedEncoding (.reserved .e [] [BitVec.ofNat 5 (w / 4096)])
    else .unassignedEncoding .illegal


/-- Stratus words, by F4 (04 R80, R87). -/
def decodeStratus (w : Nat) : Instr :=
  let f := w / 256 % 16
    if f = 0 then
      if w / 4096 % 32 = 0 then .sname (w / 2 % 2 == 1) (BitVec.ofNat 3 (w / 131072)) (BitVec.ofNat 1 (w / 1048576)) (BitVec.ofNat 11 (w / 2097152))
      else .unassignedEncoding (.reserved .e [] [])
    else if f = 1 then
      if w / 4096 % 32 = 0 then .sred (w / 2 % 2 == 1) (BitVec.ofNat 3 (w / 131072)) (BitVec.ofNat 1 (w / 1048576)) (BitVec.ofNat 11 (w / 2097152))
      else .unassignedEncoding (.reserved .e [] [])
    else if f = 2 then
      if w / 4096 % 32 = 0 then .sgath (w / 2 % 2 == 1) (BitVec.ofNat 3 (w / 131072)) (BitVec.ofNat 1 (w / 1048576)) (BitVec.ofNat 11 (w / 2097152))
      else .unassignedEncoding (.reserved .e [] [])
    else if f = 3 then
      if w / 4096 % 32 = 0 then .sbc (w / 2 % 2 == 1) (BitVec.ofNat 3 (w / 131072)) (BitVec.ofNat 1 (w / 1048576)) (BitVec.ofNat 11 (w / 2097152))
      else .unassignedEncoding (.reserved .e [] [])
    else if f = 4 then
      if w / 1048576 % 4096 = 0 then .sstat (w / 2 % 2 == 1) (BitVec.ofNat 5 (w / 4096)) (BitVec.ofNat 3 (w / 131072))
      else .unassignedEncoding (.reserved .e [] [BitVec.ofNat 5 (w / 4096)])
    else if f = 5 then
      if w / 4096 % 32 = 0 then .sabort (w / 2 % 2 == 1) (BitVec.ofNat 3 (w / 131072)) (BitVec.ofNat 1 (w / 1048576)) (BitVec.ofNat 11 (w / 2097152))
      else .unassignedEncoding (.reserved .e [] [])
    else .unassignedEncoding .illegal


/-- Steep words, by F4 (04 R80, R87). -/
def decodeSteep (w : Nat) : Instr :=
  let f := w / 256 % 16
    if f = 0 then
      if w / 4096 % 32 = 0 ∧ w / 1048576 % 4096 = 0 then .fdecl (w / 2 % 2 == 1) (BitVec.ofNat 3 (w / 131072))
      else .unassignedEncoding (.reserved .x [] [])
    else if f = 1 then
      if w / 4096 % 32 = 0 ∧ w / 1048576 % 4096 = 0 then .fbind (w / 2 % 2 == 1) (BitVec.ofNat 3 (w / 131072))
      else .unassignedEncoding (.reserved .x [] [])
    else if f = 2 then
      if w / 4096 % 32 = 0 ∧ w / 1048576 % 4096 = 0 then .fcol (w / 2 % 2 == 1) (BitVec.ofNat 3 (w / 131072))
      else .unassignedEncoding (.reserved .x [] [])
    else if f = 3 then
      if w / 4096 % 32 = 0 ∧ w / 1048576 % 4096 = 0 then .frate (w / 2 % 2 == 1) (BitVec.ofNat 3 (w / 131072))
      else .unassignedEncoding (.reserved .x [] [])
    else if f = 4 then
      if w / 4096 % 32 = 27 ∧ w / 2097152 % 2048 = 0 then .fget (w / 2 % 2 == 1) (BitVec.ofNat 4 (w / 131072))
      else .unassignedEncoding (.reserved .f [] [])
    else if f = 5 then
      if w / 131072 % 32768 = 0 then .fset (w / 2 % 2 == 1) (BitVec.ofNat 5 (w / 4096))
      else .unassignedEncoding (.reserved .f [BitVec.ofNat 5 (w / 4096)] [])
    else if f = 6 then
      if w / 4096 % 1048576 = 0 then .fnext (w / 2 % 2 == 1)
      else .unassignedEncoding (.reserved .f [] [])
    else if f = 7 then
      if w / 4096 % 32 = 0 then .fsnap (w / 2 % 2 == 1) (BitVec.ofNat 3 (w / 131072)) (BitVec.ofNat 1 (w / 1048576)) (BitVec.ofNat 11 (w / 2097152))
      else .unassignedEncoding (.reserved .x [] [])
    else if f = 8 then
      if w / 4096 % 1048576 = 0 then .fpub (w / 2 % 2 == 1)
      else .unassignedEncoding (.reserved .x [] [])
    else if f = 9 then
      if w / 4096 % 1048576 = 0 then .fstop (w / 2 % 2 == 1)
      else .unassignedEncoding (.reserved .x [] [])
    else if f = 10 then
      if w / 4096 % 1048576 = 0 then .fgo (w / 2 % 2 == 1)
      else .unassignedEncoding (.reserved .x [] [])
    else .unassignedEncoding .illegal


/-- The W-words (04 R74-R80, R84), selected by op6. -/
def decodeW (w : Nat) : Instr :=
  let op := w / 4 % 64
    if op = 1 then
      decodeAlu w
    else if op = 2 then
      if w / 268435456 % 16 = 0 then .sel (w / 2 % 2 == 1) (BitVec.ofNat 5 (w / 256)) (BitVec.ofNat 5 (w / 8192)) (BitVec.ofNat 5 (w / 262144)) (BitVec.ofNat 5 (w / 8388608))
      else .unassignedEncoding (.reserved .x [BitVec.ofNat 5 (w / 8192), BitVec.ofNat 5 (w / 262144), BitVec.ofNat 5 (w / 8388608)] [BitVec.ofNat 5 (w / 256)])
    else if op = 3 then
      .addiW (w / 2 % 2 == 1) (BitVec.ofNat 5 (w / 256)) (BitVec.ofNat 5 (w / 8192)) (BitVec.ofNat 14 (w / 262144))
    else if op = 4 then
      .cmpeqi (w / 2 % 2 == 1) (BitVec.ofNat 5 (w / 256)) (BitVec.ofNat 5 (w / 8192)) (BitVec.ofNat 14 (w / 262144))
    else if op = 5 then
      .cmplti (w / 2 % 2 == 1) (BitVec.ofNat 5 (w / 256)) (BitVec.ofNat 5 (w / 8192)) (BitVec.ofNat 14 (w / 262144))
    else if op = 6 then
      decodeShift w
    else if op = 7 then
      if w / 8192 % 32 = 0 then .liW (w / 2 % 2 == 1) (BitVec.ofNat 5 (w / 256)) (BitVec.ofNat 14 (w / 262144))
      else .unassignedEncoding (.reserved .x [] [BitVec.ofNat 5 (w / 256)])
    else if op = 8 then
      .lui (w / 2 % 2 == 1) (BitVec.ofNat 5 (w / 256)) (BitVec.ofNat 5 (w / 8192)) (BitVec.ofNat 14 (w / 262144))
    else if op = 9 then
      if w / 1073741824 % 4 = 0 then .bfx (w / 2 % 2 == 1) (BitVec.ofNat 5 (w / 256)) (BitVec.ofNat 5 (w / 8192)) (BitVec.ofNat 6 (w / 262144)) (BitVec.ofNat 6 (w / 16777216))
      else .unassignedEncoding (.reserved .x [BitVec.ofNat 5 (w / 8192)] [BitVec.ofNat 5 (w / 256)])
    else if op = 10 then
      if w / 1073741824 % 4 = 0 then .bfi (w / 2 % 2 == 1) (BitVec.ofNat 5 (w / 256)) (BitVec.ofNat 5 (w / 8192)) (BitVec.ofNat 6 (w / 262144)) (BitVec.ofNat 6 (w / 16777216))
      else .unassignedEncoding (.reserved .x [BitVec.ofNat 5 (w / 8192), BitVec.ofNat 5 (w / 256)] [BitVec.ofNat 5 (w / 256)])
    else if op = 11 then
      if w / 2048 % 4 = 0 ∧ w / 262144 % 16384 = 0 then .oxset (w / 2 % 2 == 1) (BitVec.ofNat 3 (w / 256)) (BitVec.ofNat 5 (w / 8192))
      else .unassignedEncoding (.reserved .eOnly [BitVec.ofNat 5 (w / 8192)] [])
    else if op = 12 then
      if w / 2048 % 128 = 0 then .oxli (w / 2 % 2 == 1) (BitVec.ofNat 3 (w / 256)) (BitVec.ofNat 14 (w / 262144))
      else .unassignedEncoding (.reserved .eOnly [] [])
    else if op = 13 then
      decodeRel w
    else if op = 14 then
      if w / 8192 % 32 = 0 then .mfs (w / 2 % 2 == 1) (BitVec.ofNat 5 (w / 256)) (BitVec.ofNat 14 (w / 262144))
      else .unassignedEncoding (.reserved .e [] [BitVec.ofNat 5 (w / 256)])
    else if op = 15 then
      if w / 256 % 32 = 0 then .mts (w / 2 % 2 == 1) (BitVec.ofNat 5 (w / 8192)) (BitVec.ofNat 14 (w / 262144))
      else .unassignedEncoding (.reserved .e [BitVec.ofNat 5 (w / 8192)] [])
    else if op = 16 then
      if w / 256 % 1024 = 0 then .trap (w / 2 % 2 == 1) (BitVec.ofNat 14 (w / 262144))
      else .unassignedEncoding (.reserved .e [] [])
    else if op = 17 then
      .br (w / 2 % 2 == 1) (BitVec.ofNat 24 (w / 256))
    else if op = 18 then
      .call4 (w / 2 % 2 == 1) (BitVec.ofNat 24 (w / 256))
    else if op = 19 then
      .call8 (w / 2 % 2 == 1) (BitVec.ofNat 24 (w / 256))
    else if op = 20 then
      .call12 (w / 2 % 2 == 1) (BitVec.ofNat 24 (w / 256))
    else if op = 21 then
      if w / 256 % 32 = 0 then .brz (w / 2 % 2 == 1) (BitVec.ofNat 5 (w / 8192)) (BitVec.ofNat 14 (w / 262144))
      else .unassignedEncoding (.reserved .e [BitVec.ofNat 5 (w / 8192)] [])
    else if op = 22 then
      if w / 256 % 32 = 0 then .brnz (w / 2 % 2 == 1) (BitVec.ofNat 5 (w / 8192)) (BitVec.ofNat 14 (w / 262144))
      else .unassignedEncoding (.reserved .e [BitVec.ofNat 5 (w / 8192)] [])
    else if op = 23 then
      if w / 8192 % 32 = 0 then .loop (w / 2 % 2 == 1) (BitVec.ofNat 5 (w / 256)) (BitVec.ofNat 14 (w / 262144))
      else .unassignedEncoding (.reservedLoop (BitVec.ofNat 5 (w / 256)))
    else if op = 24 then
      decodeJump w
    else if op = 25 then
      if w / 256 % 32 = 0 then .hold (w / 2 % 2 == 1) (BitVec.ofNat 5 (w / 8192)) (BitVec.ofNat 14 (w / 262144))
      else .unassignedEncoding (.reserved .e [BitVec.ofNat 5 (w / 8192)] [])
    else if op = 26 then
      if w / 8388608 % 512 = 0 then .aadd (w / 2 % 2 == 1) (BitVec.ofNat 5 (w / 256)) (BitVec.ofNat 5 (w / 8192)) (BitVec.ofNat 5 (w / 262144))
      else .unassignedEncoding (.reserved .a [] [])
    else if op = 27 then
      .aaddiW (w / 2 % 2 == 1) (BitVec.ofNat 5 (w / 256)) (BitVec.ofNat 5 (w / 8192)) (BitVec.ofNat 14 (w / 262144))
    else if op = 28 then
      if w / 262144 % 16384 = 0 then .amovW (w / 2 % 2 == 1) (BitVec.ofNat 5 (w / 256)) (BitVec.ofNat 5 (w / 8192))
      else .unassignedEncoding (.reserved .a [] [])
    else if op = 29 then
      if w / 262144 % 16384 = 0 then .kset (w / 2 % 2 == 1) (BitVec.ofNat 5 (w / 256)) (BitVec.ofNat 5 (w / 8192))
      else .unassignedEncoding (.reserved .a [] [])
    else if op = 30 then
      if w / 8192 % 32 = 0 then .kloop (w / 2 % 2 == 1) (BitVec.ofNat 5 (w / 256)) (BitVec.ofNat 14 (w / 262144))
      else .unassignedEncoding (.reserved .a [] [])
    else if op = 32 then
      decodeLd w
    else if op = 33 then
      decodeSt w
    else if op = 34 then
      decodeVld w
    else if op = 35 then
      decodeVst w
    else if op = 36 then
      .vgath (w / 2 % 2 == 1) (BitVec.ofNat 2 (w / 256)) (BitVec.ofNat 4 (w / 1024)) (BitVec.ofNat 3 (w / 16384)) (BitVec.ofNat 3 (w / 131072)) (BitVec.ofNat 4 (w / 1048576)) (BitVec.ofNat 8 (w / 16777216))
    else if op = 37 then
      .vscat (w / 2 % 2 == 1) (BitVec.ofNat 2 (w / 256)) (BitVec.ofNat 4 (w / 1024)) (BitVec.ofNat 3 (w / 16384)) (BitVec.ofNat 3 (w / 131072)) (BitVec.ofNat 4 (w / 1048576)) (BitVec.ofNat 8 (w / 16777216))
    else if op = 38 then
      if w / 256 % 4 = 1 ∧ w / 1048576 % 16 = 0 then .ldt (w / 2 % 2 == 1) (BitVec.ofNat 4 (w / 1024)) (BitVec.ofNat 3 (w / 16384)) (BitVec.ofNat 3 (w / 131072)) (BitVec.ofNat 8 (w / 16777216))
      else .unassignedEncoding (.reserved .a [] (queueDst w))
    else if op = 39 then
      decodeAtom w
    else if op = 40 then
      decodeAtomMm w
    else if op = 41 then
      decodeOrd w
    else if op = 42 then
      decodeMsg w
    else if op = 48 then
      decodeV30 w
    else if op = 49 then
      decodeV31 w
    else if op = 50 then
      decodeV32 w
    else if op = 51 then
      decodeV33 w
    else if op = 52 then
      decodeV34 w
    else if op = 53 then
      decodeV35 w
    else if op = 54 then
      decodeConv w
    else if op = 55 then
      if w / 1073741824 % 4 = 0 then .vdot16 (w / 2 % 2 == 1) (BitVec.ofNat 4 (w / 256)) (BitVec.ofNat 4 (w / 4096)) (BitVec.ofNat 5 (w / 65536)) (BitVec.ofNat 5 (w / 2097152)) (BitVec.ofNat 4 (w / 67108864))
      else .unassignedEncoding (.reserved .x [] [])
    else if op = 56 then
      decodeMat w
    else if op = 57 then
      decodeCaddy w
    else if op = 58 then
      decodeStratus w
    else if op = 59 then
      decodeSteep w
    else .unassignedEncoding .illegal


/-- Decoding a word: an H-word from its low 16 bits, a W-word from its 32 bits (04 R71). -/
def decode (w : Nat) : Instr := if w % 2 = 0 then decodeH w else decodeW w

/-- Decoding the bytes of instruction memory, little-endian (04 R71): the instruction and its length in bytes, or
nothing where the bytes end before the word does. -/
def decodeBytes (bs : List (BitVec 8)) : Option (Instr × Nat) :=
  match bs with
  | b0 :: b1 :: rest =>
    if b0.toNat % 2 = 0 then some (decode (b0.toNat + 256 * b1.toNat), 2)
    else
      match rest with
      | b2 :: b3 :: _ =>
        some (decode (b0.toNat + 256 * b1.toNat + 65536 * b2.toNat + 16777216 * b3.toNat), 4)
      | _ => none
  | _ => none

/-- The bytes of a word of `n` bytes, lowest address first. -/
def wordBytes : Nat → Nat → List (BitVec 8)
  | 0, _ => []
  | n + 1, w => BitVec.ofNat 8 w :: wordBytes n (w / 256)

/-- What the decoder reads from a word given as the opcode table numbers its bits; bits from `nbits` up are zero. -/
def decodeTableWord (nbits w : Nat) : Option Instr :=
  match decodeBytes (wordBytes 4 (w % 2 ^ nbits)) with
  | some (.unassignedEncoding _, _) => none
  | some (i, _) => some i
  | none => none


/-- The word of an instruction, from the same maps (04 R73-R88); an event has none and is given 0. -/
def encode : Instr → Nat
  | .nop s => 4 + s.toNat * 2
  | .nopHint s n m => 4 + s.toNat * 2 + n.toNat * 128 + m.toNat * 4096
  | .mod s b n k t c => 8 + s.toNat * 2 + b.toNat * 256 + n.toNat * 512 + k.toNat * 1024 + t.toNat * 2048 + c.toNat * 4096
  | .movH s a b => 12 + s.toNat * 2 + a.toNat * 128 + b.toNat * 4096
  | .addH s a b => 16 + s.toNat * 2 + a.toNat * 128 + b.toNat * 4096
  | .subH s a b => 20 + s.toNat * 2 + a.toNat * 128 + b.toNat * 4096
  | .andH s a b => 24 + s.toNat * 2 + a.toNat * 128 + b.toNat * 4096
  | .orH s a b => 28 + s.toNat * 2 + a.toNat * 128 + b.toNat * 4096
  | .xorH s a b => 32 + s.toNat * 2 + a.toNat * 128 + b.toNat * 4096
  | .addiH s a i => 36 + s.toNat * 2 + a.toNat * 128 + i.toNat * 4096
  | .shliH s a n => 40 + s.toNat * 2 + a.toNat * 128 + n.toNat * 4096
  | .shriH s a n => 44 + s.toNat * 2 + a.toNat * 128 + n.toNat * 4096
  | .sraiH s a n => 48 + s.toNat * 2 + a.toNat * 128 + n.toNat * 4096
  | .liH s d i => 52 + s.toNat * 2 + d.toNat * 128 + i.toNat * 4096
  | .skipz s a n => 56 + s.toNat * 2 + a.toNat * 128 + n.toNat * 4096
  | .skipnz s a n => 60 + s.toNat * 2 + a.toNat * 128 + n.toNat * 4096
  | .setixH s a => 64 + s.toNat * 2 + a.toNat * 128
  | .addixH s i => 68 + s.toNat * 2 + i.toNat * 4096
  | .ret s => 72 + s.toNat * 2
  | .amovH s a b => 76 + s.toNat * 2 + a.toNat * 128 + b.toNat * 4096
  | .aaddiH s a i => 80 + s.toNat * 2 + a.toNat * 128 + i.toNat * 4096
  | .mark => 86
  | .await => 90
  | .rpt s => 92 + s.toNat * 2
  | .resync s => 96 + s.toNat * 2
  | .rejoin a => 102 + a.toNat * 128
  | .rtt s => 104 + s.toNat * 2
  | .brk s n => 108 + s.toNat * 2 + n.toNat * 4096
  | .wsave s => 112 + s.toNat * 2
  | .wrest s => 116 + s.toNat * 2
  | .launch s n => 120 + s.toNat * 2 + n.toNat * 128
  | .addW s d a b => 5 + s.toNat * 2 + d.toNat * 256 + a.toNat * 8192 + b.toNat * 262144
  | .subW s d a b => 8388613 + s.toNat * 2 + d.toNat * 256 + a.toNat * 8192 + b.toNat * 262144
  | .mul s d a b => 16777221 + s.toNat * 2 + d.toNat * 256 + a.toNat * 8192 + b.toNat * 262144
  | .mulh s d a b => 25165829 + s.toNat * 2 + d.toNat * 256 + a.toNat * 8192 + b.toNat * 262144
  | .mulhn s d a b => 33554437 + s.toNat * 2 + d.toNat * 256 + a.toNat * 8192 + b.toNat * 262144
  | .div s d a b => 41943045 + s.toNat * 2 + d.toNat * 256 + a.toNat * 8192 + b.toNat * 262144
  | .divn s d a b => 50331653 + s.toNat * 2 + d.toNat * 256 + a.toNat * 8192 + b.toNat * 262144
  | .rem s d a b => 58720261 + s.toNat * 2 + d.toNat * 256 + a.toNat * 8192 + b.toNat * 262144
  | .remn s d a b => 67108869 + s.toNat * 2 + d.toNat * 256 + a.toNat * 8192 + b.toNat * 262144
  | .andW s d a b => 75497477 + s.toNat * 2 + d.toNat * 256 + a.toNat * 8192 + b.toNat * 262144
  | .orW s d a b => 83886085 + s.toNat * 2 + d.toNat * 256 + a.toNat * 8192 + b.toNat * 262144
  | .xorW s d a b => 92274693 + s.toNat * 2 + d.toNat * 256 + a.toNat * 8192 + b.toNat * 262144
  | .andn s d a b => 100663301 + s.toNat * 2 + d.toNat * 256 + a.toNat * 8192 + b.toNat * 262144
  | .shl s d a b => 109051909 + s.toNat * 2 + d.toNat * 256 + a.toNat * 8192 + b.toNat * 262144
  | .shr s d a b => 117440517 + s.toNat * 2 + d.toNat * 256 + a.toNat * 8192 + b.toNat * 262144
  | .sra s d a b => 125829125 + s.toNat * 2 + d.toNat * 256 + a.toNat * 8192 + b.toNat * 262144
  | .cmpeq s d a b => 134217733 + s.toNat * 2 + d.toNat * 256 + a.toNat * 8192 + b.toNat * 262144
  | .cmplt s d a b => 142606341 + s.toNat * 2 + d.toNat * 256 + a.toNat * 8192 + b.toNat * 262144
  | .cmpltn s d a b => 150994949 + s.toNat * 2 + d.toNat * 256 + a.toNat * 8192 + b.toNat * 262144
  | .min s d a b => 159383557 + s.toNat * 2 + d.toNat * 256 + a.toNat * 8192 + b.toNat * 262144
  | .max s d a b => 167772165 + s.toNat * 2 + d.toNat * 256 + a.toNat * 8192 + b.toNat * 262144
  | .minn s d a b => 176160773 + s.toNat * 2 + d.toNat * 256 + a.toNat * 8192 + b.toNat * 262144
  | .maxn s d a b => 184549381 + s.toNat * 2 + d.toNat * 256 + a.toNat * 8192 + b.toNat * 262144
  | .abs s d a => 192937989 + s.toNat * 2 + d.toNat * 256 + a.toNat * 8192
  | .neg s d a => 201326597 + s.toNat * 2 + d.toNat * 256 + a.toNat * 8192
  | .clz s d a => 209715205 + s.toNat * 2 + d.toNat * 256 + a.toNat * 8192
  | .ctz s d a => 218103813 + s.toNat * 2 + d.toNat * 256 + a.toNat * 8192
  | .popc s d a => 226492421 + s.toNat * 2 + d.toNat * 256 + a.toNat * 8192
  | .sext s d a w => 234881029 + s.toNat * 2 + d.toNat * 256 + a.toNat * 8192 + w.toNat * 262144
  | .zext s d a w => 243269637 + s.toNat * 2 + d.toNat * 256 + a.toNat * 8192 + w.toNat * 262144
  | .movW s d a => 251658245 + s.toNat * 2 + d.toNat * 256 + a.toNat * 8192
  | .sel s d a b c => 9 + s.toNat * 2 + d.toNat * 256 + a.toNat * 8192 + b.toNat * 262144 + c.toNat * 8388608
  | .addiW s d a i => 13 + s.toNat * 2 + d.toNat * 256 + a.toNat * 8192 + i.toNat * 262144
  | .cmpeqi s d a i => 17 + s.toNat * 2 + d.toNat * 256 + a.toNat * 8192 + i.toNat * 262144
  | .cmplti s d a i => 21 + s.toNat * 2 + d.toNat * 256 + a.toNat * 8192 + i.toNat * 262144
  | .shliW s d a n => 25 + s.toNat * 2 + d.toNat * 256 + a.toNat * 8192 + n.toNat * 8388608
  | .shriW s d a n => 1073741849 + s.toNat * 2 + d.toNat * 256 + a.toNat * 8192 + n.toNat * 8388608
  | .sraiW s d a n => 2147483673 + s.toNat * 2 + d.toNat * 256 + a.toNat * 8192 + n.toNat * 8388608
  | .liW s d i => 29 + s.toNat * 2 + d.toNat * 256 + i.toNat * 262144
  | .lui s d a i => 33 + s.toNat * 2 + d.toNat * 256 + a.toNat * 8192 + i.toNat * 262144
  | .bfx s d a l p => 37 + s.toNat * 2 + d.toNat * 256 + a.toNat * 8192 + l.toNat * 262144 + p.toNat * 16777216
  | .bfi s d a l p => 41 + s.toNat * 2 + d.toNat * 256 + a.toNat * 8192 + l.toNat * 262144 + p.toNat * 16777216
  | .oxset s n a => 45 + s.toNat * 2 + n.toNat * 256 + a.toNat * 8192
  | .oxli s n i => 49 + s.toNat * 2 + n.toNat * 256 + i.toNat * 262144
  | .movx s d k => 53 + s.toNat * 2 + d.toNat * 256 + k.toNat * 8388608
  | .movxw s a k => 1073741877 + s.toNat * 2 + a.toNat * 8192 + k.toNat * 8388608
  | .setixW s a k => 2147483701 + s.toNat * 2 + a.toNat * 8192 + k.toNat * 8388608
  | .addixW s k => 3221225525 + s.toNat * 2 + k.toNat * 8388608
  | .mfs s d n => 57 + s.toNat * 2 + d.toNat * 256 + n.toNat * 262144
  | .mts s a n => 61 + s.toNat * 2 + a.toNat * 8192 + n.toNat * 262144
  | .trap s n => 65 + s.toNat * 2 + n.toNat * 262144
  | .br s i => 69 + s.toNat * 2 + i.toNat * 256
  | .call4 s i => 73 + s.toNat * 2 + i.toNat * 256
  | .call8 s i => 77 + s.toNat * 2 + i.toNat * 256
  | .call12 s i => 81 + s.toNat * 2 + i.toNat * 256
  | .brz s a i => 85 + s.toNat * 2 + a.toNat * 8192 + i.toNat * 262144
  | .brnz s a i => 89 + s.toNat * 2 + a.toNat * 8192 + i.toNat * 262144
  | .loop s d i => 93 + s.toNat * 2 + d.toNat * 256 + i.toNat * 262144
  | .jr s a => 97 + s.toNat * 2 + a.toNat * 8192
  | .callr4 s a => 8388705 + s.toNat * 2 + a.toNat * 8192
  | .callr8 s a => 16777313 + s.toNat * 2 + a.toNat * 8192
  | .callr12 s a => 25165921 + s.toNat * 2 + a.toNat * 8192
  | .hold s a i => 101 + s.toNat * 2 + a.toNat * 8192 + i.toNat * 262144
  | .aadd s d a b => 105 + s.toNat * 2 + d.toNat * 256 + a.toNat * 8192 + b.toNat * 262144
  | .aaddiW s d a i => 109 + s.toNat * 2 + d.toNat * 256 + a.toNat * 8192 + i.toNat * 262144
  | .amovW s d a => 113 + s.toNat * 2 + d.toNat * 256 + a.toNat * 8192
  | .kset s d a => 117 + s.toNat * 2 + d.toNat * 256 + a.toNat * 8192
  | .kloop s d i => 121 + s.toNat * 2 + d.toNat * 256 + i.toNat * 262144
  | .lds s q a t d => 385 + s.toNat * 2 + q.toNat * 1024 + a.toNat * 16384 + t.toNat * 131072 + d.toNat * 1048576
  | .ldl s q a t d => 641 + s.toNat * 2 + q.toNat * 1024 + a.toNat * 16384 + t.toNat * 131072 + d.toNat * 1048576
  | .sts s q a t d => 389 + s.toNat * 2 + q.toNat * 1024 + a.toNat * 16384 + t.toNat * 131072 + d.toNat * 1048576
  | .stl s q a t d => 645 + s.toNat * 2 + q.toNat * 1024 + a.toNat * 16384 + t.toNat * 131072 + d.toNat * 1048576
  | .vlds s q a m d => 393 + s.toNat * 2 + q.toNat * 1024 + a.toNat * 16384 + m.toNat * 131072 + d.toNat * 1048576
  | .vldl s q a m d => 649 + s.toNat * 2 + q.toNat * 1024 + a.toNat * 16384 + m.toNat * 131072 + d.toNat * 1048576
  | .vsts s q a m d => 397 + s.toNat * 2 + q.toNat * 1024 + a.toNat * 16384 + m.toNat * 131072 + d.toNat * 1048576
  | .vstl s q a m d => 653 + s.toNat * 2 + q.toNat * 1024 + a.toNat * 16384 + m.toNat * 131072 + d.toNat * 1048576
  | .vgath s p q a m x d => 145 + s.toNat * 2 + p.toNat * 256 + q.toNat * 1024 + a.toNat * 16384 + m.toNat * 131072 + x.toNat * 1048576 + d.toNat * 16777216
  | .vscat s p q a m x d => 149 + s.toNat * 2 + p.toNat * 256 + q.toNat * 1024 + a.toNat * 16384 + m.toNat * 131072 + x.toNat * 1048576 + d.toNat * 16777216
  | .ldt s q a y t => 409 + s.toNat * 2 + q.toNat * 1024 + a.toNat * 16384 + y.toNat * 131072 + t.toNat * 16777216
  | .amadd s p q a g z o => 157 + s.toNat * 2 + p.toNat * 256 + q.toNat * 1024 + a.toNat * 16384 + g.toNat * 131072 + z.toNat * 1048576 + o.toNat * 134217728
  | .amswp s p q a g z o => 2097309 + s.toNat * 2 + p.toNat * 256 + q.toNat * 1024 + a.toNat * 16384 + g.toNat * 131072 + z.toNat * 1048576 + o.toNat * 134217728
  | .amcas s p q a g z h o => 4194461 + s.toNat * 2 + p.toNat * 256 + q.toNat * 1024 + a.toNat * 16384 + g.toNat * 131072 + z.toNat * 1048576 + h.toNat * 16777216 + o.toNat * 134217728
  | .amand s p q a g z o => 6291613 + s.toNat * 2 + p.toNat * 256 + q.toNat * 1024 + a.toNat * 16384 + g.toNat * 131072 + z.toNat * 1048576 + o.toNat * 134217728
  | .amor s p q a g z o => 8388765 + s.toNat * 2 + p.toNat * 256 + q.toNat * 1024 + a.toNat * 16384 + g.toNat * 131072 + z.toNat * 1048576 + o.toNat * 134217728
  | .amminI s p q a g z o => 161 + s.toNat * 2 + p.toNat * 256 + q.toNat * 1024 + a.toNat * 16384 + g.toNat * 131072 + z.toNat * 1048576 + o.toNat * 134217728
  | .amminN s p q a g z o => 2097313 + s.toNat * 2 + p.toNat * 256 + q.toNat * 1024 + a.toNat * 16384 + g.toNat * 131072 + z.toNat * 1048576 + o.toNat * 134217728
  | .ammaxI s p q a g z o => 4194465 + s.toNat * 2 + p.toNat * 256 + q.toNat * 1024 + a.toNat * 16384 + g.toNat * 131072 + z.toNat * 1048576 + o.toNat * 134217728
  | .ammaxN s p q a g z o => 6291617 + s.toNat * 2 + p.toNat * 256 + q.toNat * 1024 + a.toNat * 16384 + g.toNat * 131072 + z.toNat * 1048576 + o.toNat * 134217728
  | .ldacq s p q a z o => 165 + s.toNat * 2 + p.toNat * 256 + q.toNat * 1024 + a.toNat * 16384 + z.toNat * 1048576 + o.toNat * 134217728
  | .strel s p q a z o => 2097317 + s.toNat * 2 + p.toNat * 256 + q.toNat * 1024 + a.toNat * 16384 + z.toNat * 1048576 + o.toNat * 134217728
  | .fence s o => 4194469 + s.toNat * 2 + o.toNat * 134217728
  | .stacq s q a o => 7340453 + s.toNat * 2 + q.toNat * 1024 + a.toNat * 16384 + o.toNat * 134217728
  | .strls s q a o => 9437605 + s.toNat * 2 + q.toNat * 1024 + a.toNat * 16384 + o.toNat * 134217728
  | .send s x a n => 425 + s.toNat * 2 + x.toNat * 1024 + a.toNat * 16384 + n.toNat * 16777216
  | .rcvp s q a => 2097577 + s.toNat * 2 + q.toNat * 1024 + a.toNat * 16384
  | .vadd s d a b m t => 193 + s.toNat * 2 + d.toNat * 256 + a.toNat * 4096 + b.toNat * 65536 + m.toNat * 2097152 + t.toNat * 67108864
  | .vsub s d a b m t => 536871105 + s.toNat * 2 + d.toNat * 256 + a.toNat * 4096 + b.toNat * 65536 + m.toNat * 2097152 + t.toNat * 67108864
  | .vmul s d a b m t => 1073742017 + s.toNat * 2 + d.toNat * 256 + a.toNat * 4096 + b.toNat * 65536 + m.toNat * 2097152 + t.toNat * 67108864
  | .vmin s d a b m t => 1610612929 + s.toNat * 2 + d.toNat * 256 + a.toNat * 4096 + b.toNat * 65536 + m.toNat * 2097152 + t.toNat * 67108864
  | .vmax s d a b m t => 2147483841 + s.toNat * 2 + d.toNat * 256 + a.toNat * 4096 + b.toNat * 65536 + m.toNat * 2097152 + t.toNat * 67108864
  | .vabs s d a m t => 2684354753 + s.toNat * 2 + d.toNat * 256 + a.toNat * 4096 + m.toNat * 2097152 + t.toNat * 67108864
  | .vneg s d a m t => 3221225665 + s.toNat * 2 + d.toNat * 256 + a.toNat * 4096 + m.toNat * 2097152 + t.toNat * 67108864
  | .vsel s d a b m => 3758096577 + s.toNat * 2 + d.toNat * 256 + a.toNat * 4096 + b.toNat * 65536 + m.toNat * 2097152
  | .vand s d a b m t => 197 + s.toNat * 2 + d.toNat * 256 + a.toNat * 4096 + b.toNat * 65536 + m.toNat * 2097152 + t.toNat * 67108864
  | .vor s d a b m t => 536871109 + s.toNat * 2 + d.toNat * 256 + a.toNat * 4096 + b.toNat * 65536 + m.toNat * 2097152 + t.toNat * 67108864
  | .vxor s d a b m t => 1073742021 + s.toNat * 2 + d.toNat * 256 + a.toNat * 4096 + b.toNat * 65536 + m.toNat * 2097152 + t.toNat * 67108864
  | .vandn s d a b m t => 1610612933 + s.toNat * 2 + d.toNat * 256 + a.toNat * 4096 + b.toNat * 65536 + m.toNat * 2097152 + t.toNat * 67108864
  | .vshl s d a b m t => 2147483845 + s.toNat * 2 + d.toNat * 256 + a.toNat * 4096 + b.toNat * 65536 + m.toNat * 2097152 + t.toNat * 67108864
  | .vshr s d a b m t => 2684354757 + s.toNat * 2 + d.toNat * 256 + a.toNat * 4096 + b.toNat * 65536 + m.toNat * 2097152 + t.toNat * 67108864
  | .vsra s d a b m t => 3221225669 + s.toNat * 2 + d.toNat * 256 + a.toNat * 4096 + b.toNat * 65536 + m.toNat * 2097152 + t.toNat * 67108864
  | .vfma s d a b m t => 201 + s.toNat * 2 + d.toNat * 256 + a.toNat * 4096 + b.toNat * 65536 + m.toNat * 2097152 + t.toNat * 67108864
  | .vfms s d a b m t => 536871113 + s.toNat * 2 + d.toNat * 256 + a.toNat * 4096 + b.toNat * 65536 + m.toNat * 2097152 + t.toNat * 67108864
  | .vfnma s d a b m t => 1073742025 + s.toNat * 2 + d.toNat * 256 + a.toNat * 4096 + b.toNat * 65536 + m.toNat * 2097152 + t.toNat * 67108864
  | .vredSum s a b m t => 1610612937 + s.toNat * 2 + a.toNat * 4096 + b.toNat * 65536 + m.toNat * 2097152 + t.toNat * 67108864
  | .vredMin s a b m t => 1610613193 + s.toNat * 2 + a.toNat * 4096 + b.toNat * 65536 + m.toNat * 2097152 + t.toNat * 67108864
  | .vredMax s a b m t => 1610613449 + s.toNat * 2 + a.toNat * 4096 + b.toNat * 65536 + m.toNat * 2097152 + t.toNat * 67108864
  | .vrng s d m => 2348810441 + s.toNat * 2 + d.toNat * 256 + m.toNat * 2097152
  | .vmsk s a b m t => 2684354761 + s.toNat * 2 + a.toNat * 4096 + b.toNat * 65536 + m.toNat * 2097152 + t.toNat * 67108864
  | .vcmpEq s d a b m t => 205 + s.toNat * 2 + d.toNat * 256 + a.toNat * 4096 + b.toNat * 65536 + m.toNat * 2097152 + t.toNat * 67108864
  | .vcmpNe s d a b m t => 536871117 + s.toNat * 2 + d.toNat * 256 + a.toNat * 4096 + b.toNat * 65536 + m.toNat * 2097152 + t.toNat * 67108864
  | .vcmpLt s d a b m t => 1073742029 + s.toNat * 2 + d.toNat * 256 + a.toNat * 4096 + b.toNat * 65536 + m.toNat * 2097152 + t.toNat * 67108864
  | .vcmpLe s d a b m t => 1610612941 + s.toNat * 2 + d.toNat * 256 + a.toNat * 4096 + b.toNat * 65536 + m.toNat * 2097152 + t.toNat * 67108864
  | .vperm s d a b m t => 209 + s.toNat * 2 + d.toNat * 256 + a.toNat * 4096 + b.toNat * 65536 + m.toNat * 2097152 + t.toNat * 67108864
  | .vbcast s d a b m t => 536871121 + s.toNat * 2 + d.toNat * 256 + a.toNat * 4096 + b.toNat * 65536 + m.toNat * 2097152 + t.toNat * 67108864
  | .vslide s d a b m t => 1073742033 + s.toNat * 2 + d.toNat * 256 + a.toNat * 4096 + b.toNat * 65536 + m.toNat * 2097152 + t.toNat * 67108864
  | .vext s a b x t => 1610612945 + s.toNat * 2 + a.toNat * 4096 + b.toNat * 65536 + x.toNat * 2097152 + t.toNat * 67108864
  | .vins s d b x t => 2147483857 + s.toNat * 2 + d.toNat * 256 + b.toNat * 65536 + x.toNat * 2097152 + t.toNat * 67108864
  | .vsplat s d b m t => 2684354769 + s.toNat * 2 + d.toNat * 256 + b.toNat * 65536 + m.toNat * 2097152 + t.toNat * 67108864
  | .vrcp s d a m t => 213 + s.toNat * 2 + d.toNat * 256 + a.toNat * 4096 + m.toNat * 2097152 + t.toNat * 67108864
  | .vrsq s d a m t => 536871125 + s.toNat * 2 + d.toNat * 256 + a.toNat * 4096 + m.toNat * 2097152 + t.toNat * 67108864
  | .vexp2 s d a m t => 1073742037 + s.toNat * 2 + d.toNat * 256 + a.toNat * 4096 + m.toNat * 2097152 + t.toNat * 67108864
  | .vlog2 s d a m t => 1610612949 + s.toNat * 2 + d.toNat * 256 + a.toNat * 4096 + m.toNat * 2097152 + t.toNat * 67108864
  | .vcvt s d a y r m x => 217 + s.toNat * 2 + d.toNat * 256 + a.toNat * 4096 + y.toNat * 65536 + r.toNat * 1048576 + m.toNat * 2097152 + x.toNat * 67108864
  | .vscl s d a y r m x => 1073742041 + s.toNat * 2 + d.toNat * 256 + a.toNat * 4096 + y.toNat * 65536 + r.toNat * 1048576 + m.toNat * 2097152 + x.toNat * 67108864
  | .vbpk s d a m => 2751594713 + s.toNat * 2 + d.toNat * 256 + a.toNat * 4096 + m.toNat * 2097152
  | .vbupk s d a m => 3356033241 + s.toNat * 2 + d.toNat * 256 + a.toNat * 4096 + m.toNat * 2097152
  | .vdot16 s d a b m f => 221 + s.toNat * 2 + d.toNat * 256 + a.toNat * 4096 + b.toNat * 65536 + m.toNat * 2097152 + f.toNat * 67108864
  | .mcfg s c x => 225 + s.toNat * 2 + c.toNat * 4096 + x.toNat * 536870912
  | .mcfgDrop s c x => 134217953 + s.toNat * 2 + c.toNat * 4096 + x.toNat * 536870912
  | .mclaim s p x => 481 + s.toNat * 2 + p.toNat * 32768 + x.toNat * 536870912
  | .mfree s p x => 737 + s.toNat * 2 + p.toNat * 32768 + x.toNat * 536870912
  | .mfill s p x => 993 + s.toNat * 2 + p.toNat * 32768 + x.toNat * 536870912
  | .mma s c p b h x => 1249 + s.toNat * 2 + c.toNat * 4096 + p.toNat * 32768 + b.toNat * 2097152 + h.toNat * 134217728 + x.toNat * 536870912
  | .mmaz s c p b h x => 1505 + s.toNat * 2 + c.toNat * 4096 + p.toNat * 32768 + b.toNat * 2097152 + h.toNat * 134217728 + x.toNat * 536870912
  | .mrd s c x => 1761 + s.toNat * 2 + c.toNat * 4096 + x.toNat * 536870912
  | .mwb s c x => 2017 + s.toNat * 2 + c.toNat * 4096 + x.toNat * 536870912
  | .mzero s c x => 2273 + s.toNat * 2 + c.toNat * 4096 + x.toNat * 536870912
  | .mchk s c x => 2529 + s.toNat * 2 + c.toNat * 4096 + x.toNat * 536870912
  | .mtr s p b x => 2785 + s.toNat * 2 + p.toNat * 32768 + b.toNat * 2097152 + x.toNat * 536870912
  | .ccopy s o i l => 229 + s.toNat * 2 + o.toNat * 131072 + i.toNat * 1048576 + l.toNat * 2097152
  | .cdist s o i l => 485 + s.toNat * 2 + o.toNat * 131072 + i.toNat * 1048576 + l.toNat * 2097152
  | .cslot s o i l => 741 + s.toNat * 2 + o.toNat * 131072 + i.toNat * 1048576 + l.toNat * 2097152
  | .cseal s o => 997 + s.toNat * 2 + o.toNat * 131072
  | .cchk s n => 1253 + s.toNat * 2 + n.toNat * 4096
  | .cwait n => 1511 + n.toNat * 4096
  | .cadv s => 1765 + s.toNat * 2
  | .cpub s o => 2021 + s.toNat * 2 + o.toNat * 131072
  | .cstat s d => 2277 + s.toNat * 2 + d.toNat * 4096
  | .sname s o i l => 233 + s.toNat * 2 + o.toNat * 131072 + i.toNat * 1048576 + l.toNat * 2097152
  | .sred s o i l => 489 + s.toNat * 2 + o.toNat * 131072 + i.toNat * 1048576 + l.toNat * 2097152
  | .sgath s o i l => 745 + s.toNat * 2 + o.toNat * 131072 + i.toNat * 1048576 + l.toNat * 2097152
  | .sbc s o i l => 1001 + s.toNat * 2 + o.toNat * 131072 + i.toNat * 1048576 + l.toNat * 2097152
  | .sstat s d o => 1257 + s.toNat * 2 + d.toNat * 4096 + o.toNat * 131072
  | .sabort s o i l => 1513 + s.toNat * 2 + o.toNat * 131072 + i.toNat * 1048576 + l.toNat * 2097152
  | .fdecl s o => 237 + s.toNat * 2 + o.toNat * 131072
  | .fbind s o => 493 + s.toNat * 2 + o.toNat * 131072
  | .fcol s o => 749 + s.toNat * 2 + o.toNat * 131072
  | .frate s o => 1005 + s.toNat * 2 + o.toNat * 131072
  | .fget s j => 111853 + s.toNat * 2 + j.toNat * 131072
  | .fset s a => 1517 + s.toNat * 2 + a.toNat * 4096
  | .fnext s => 1773 + s.toNat * 2
  | .fsnap s o i l => 2029 + s.toNat * 2 + o.toNat * 131072 + i.toNat * 1048576 + l.toNat * 2097152
  | .fpub s => 2285 + s.toNat * 2
  | .fstop s => 2541 + s.toNat * 2
  | .fgo s => 2797 + s.toNat * 2
  | .epntWrite => 0
  | .resultLanding => 0
  | .storeLanding => 0
  | .atomicPerform => 0
  | .holdExpire => 0
  | .asyncTrapEntry => 0
  | .resyncResume => 0
  | .contrailFollowerIssue => 0
  | .domainMark => 0
  | .chipMark => 0
  | .kernelEnd => 0
  | .clockStepRequest _ => 0
  | .mmaBlockStep => 0
  | .mmaResultWrite => 0
  | .mwbOutputLanding => 0
  | .caddyBeatRead => 0
  | .caddyBeatLand => 0
  | .hostBeatLand => 0
  | .overflowPageInstall => 0
  | .hostPageItem _ => 0
  | .staticCopyEntryRun => 0
  | .forcedRefresh _ _ _ => 0
  | .stratusWordAccept => 0
  | .contribution _ => 0
  | .result _ => 0
  | .vote _ => 0
  | .commit _ => 0
  | .abort _ => 0
  | .expired _ => 0
  | .owner _ => 0
  | .fault _ => 0
  | .abortRequest _ => 0
  | .linkAck _ => 0
  | .linkNak _ => 0
  | .replayTimeout => 0
  | .stratusDeadline => 0
  | .hostDeadlineExtend _ => 0
  | .decisionTimeout => 0
  | .collectiveOutcome => 0
  | .linkRetrain _ => 0
  | .haloExchange => 0
  | .sweepBoundary => 0
  | .builtinSiteUpdate => 0
  | .mergeApply => 0
  | .hostMergeDecision _ => 0
  | .preemptionRequest => 0
  | .preemptionWithdraw => 0
  | .drainComplete => 0
  | .eviction => 0
  | .resumeRequest => 0
  | .timetableRestart => 0
  | .hostDomainResume => 0
  | .brkRelease => 0
  | .domainEnd _ => 0
  | .endStatusWrite => 0
  | .notifyWrite _ => 0
  | .notifyWindowMap _ => 0
  | .notifyWindowUnmap => 0
  | .launchRecordAccept _ => 0
  | .launchPlacement => 0
  | .messageTokenSend => 0
  | .messageArrival => 0
  | .partitionCreate _ => 0
  | .partitionReset => 0
  | .lockInterface => 0
  | .getDeviceInterfaceReport => 0
  | .startInterface => 0
  | .stopInterface => 0
  | .spdmAttestation => 0
  | .ideStreamFailure => 0
  | .boot _ => 0
  | .bootFetchTimeout => 0
  | .bootService _ => 0
  | .fuseRepair _ _ _ => 0
  | .hbmScrub => 0
  | .heaterTuning _ => 0
  | .hostHeaterSettings _ => 0
  | .wavelengthRemoval _ _ => 0
  | .thermalEvaluation _ _ _ => 0
  | .fabricHeartbeat _ => 0
  | .fabricRecovery _ => 0
  | .unassignedEncoding _ => 0
  | .flitGroupRejected _ _ => 0
  | .mfillContentsInPlace => 0
  | .mtrTransposeInPlace => 0
  | .softError _ => 0
  | .launchQueueCreate _ _ _ => 0
  | .interfaceConfigurationChange => 0
  | .ideKm _ => 0

end Sys2Proof
end

