-- ==== Sys2Proof/Machine/Crypto.lean ====
section
/-!
DEFINITION. The ciphers and codes that the spec names: AES-256 with XTS for HBM (14 R257) and GCM for flit groups (18
R311), CRC-32 and RS(256,240) for flit groups, and RSASSA-PSS for firmware images (24 R365). PRESUMED (log 74): AES is
that of FIPS 197, XTS that of IEEE 1619, GCM that of SP 800-38D, PSS that of RFC 8017, which the spec names and does not
print.
-/

namespace Sys2Proof.Machine

/-! ### AES-256 -/

/-- Multiply a byte by x in AES's field. -/
def aesDouble (a : Nat) : Nat := if 128 ≤ a then (2 * a - 256) ^^^ 0x1B else 2 * a

/-- Multiply two bytes in AES's field, with a count of the bits left. -/
def aesMul : Nat → Nat → Nat → Nat
  | 0, _, _ => 0
  | n + 1, a, b => (if b % 2 = 1 then a else 0) ^^^ aesMul n (aesDouble a) (b / 2)

/-- The inverse of a byte in AES's field, by its 254th power; 0 for 0. -/
def aesInv (a : Nat) : Nat := (List.range 253).foldl (fun p _ => aesMul 8 p a) a

/-- Rotate a byte left. -/
def rotl8 (a n : Nat) : Nat := (a * 2 ^ n + a / 2 ^ (8 - n)) % 256

/-- AES's substitution box. -/
def aesBox : List Nat := (List.range 256).map fun a =>
  let b := aesInv a
  b ^^^ rotl8 b 1 ^^^ rotl8 b 2 ^^^ rotl8 b 3 ^^^ rotl8 b 4 ^^^ 0x63

/-- The inverse box. -/
def aesUnbox : List Nat := (List.range 256).map fun a => (aesBox.findIdx? (· == a)).getD 0

/-- A byte through a box. -/
def through (box : List Nat) (l : List Nat) : List Nat := l.map fun a => box.getD a 0

/-- Two lists of numbers, added bit by bit. -/
def xorList (a b : List Nat) : List Nat := (a.zip b).map fun p => p.1 ^^^ p.2

/-- More words of the key schedule, each of four bytes, newest first; `i` counts the words so far. -/
def aesExpand : Nat → Nat → List (List Nat) → List (List Nat)
  | 0, _, ws => ws
  | n + 1, i, ws =>
    let t := ws.headD []
    let t :=
      if i % 8 = 0 then
        xorList (through aesBox (t.drop 1 ++ t.take 1)) [(List.range (i / 8 - 1)).foldl (fun r _ => aesDouble r) 1, 0, 0, 0]
      else if i % 8 = 4 then through aesBox t
      else t
    aesExpand n (i + 1) (xorList (ws.getD 7 []) t :: ws)

/-- The 15 round keys of a 32-byte key, 16 bytes each. -/
def aesKeys (key : List Nat) : List (List Nat) :=
  chunks 16 15 ((aesExpand 52 8 (chunks 4 8 key).reverse).reverse.flatten)

/-- The rows of a block shifted left, row r by r (or, for decryption, by 4 - r), blocks being held column by column. -/
def aesShift (step : Nat) (b : List Nat) : List Nat :=
  (List.range 16).map fun i => b.getD ((i + 4 * (step * (i % 4))) % 16) 0

/-- The columns of a block times a circulant. -/
def aesMix (row : List Nat) (b : List Nat) : List Nat :=
  (List.range 16).map fun i =>
    (List.range 4).foldl (fun x j => x ^^^ aesMul 8 (b.getD (i / 4 * 4 + j) 0) (row.getD ((j + 4 - i % 4) % 4) 0)) 0

/-- AES-256 encrypts a block of 16 bytes under its round keys. -/
def aesEnc (ks : List (List Nat)) (b : List Nat) : List Nat :=
  let b := xorList b (ks.headD [])
  let b := ((ks.drop 1).take 13).foldl
    (fun b k => xorList (aesMix [2, 3, 1, 1] (aesShift 1 (through aesBox b))) k) b
  xorList (aesShift 1 (through aesBox b)) (ks.getD 14 [])

/-- AES-256 decrypts a block. -/
def aesDec (ks : List (List Nat)) (b : List Nat) : List Nat :=
  let b := through aesUnbox (aesShift 3 (xorList b (ks.getD 14 [])))
  let b := ((ks.drop 1).take 13).reverse.foldl
    (fun b k => through aesUnbox (aesShift 3 (aesMix [14, 11, 13, 9] (xorList b k)))) b
  xorList b (ks.headD [])

/-! ### XTS (14 R257) -/

/-- A 128-bit tweak as a number, lowest byte first, times x. -/
def xtsDouble (t : Nat) : Nat := if 2 ^ 127 ≤ t then (2 * t - 2 ^ 128) ^^^ 0x87 else 2 * t

/-- A number as a block of `n` bytes, lowest first. -/
def leNats (n v : Nat) : List Nat := (leBytes n v).map (·.toNat)

/-- The number that bytes hold, lowest first. -/
def ofNats (l : List Nat) : Nat := l.foldr (fun a r => a + 256 * r) 0

/-- The 16-byte blocks of a unit through a cipher, each between its tweak and the tweak again. -/
def xtsBlocks (f : List Nat → List Nat) : Nat → List (List Nat) → List (List Nat)
  | _, [] => []
  | t, b :: r => xorList (f (xorList b (leNats 16 t))) (leNats 16 t) :: xtsBlocks f (xtsDouble t) r

/-- The tweak of a data unit's first block. -/
def xtsTweak (key2 unit : Nat) : Nat := ofNats (aesEnc (aesKeys (leNats 32 key2)) (leNats 16 unit))

/-- AES-256-XTS of a 256-byte data unit under a key of two halves: encryption. -/
def xtsEnc (key1 key2 unit : Nat) (bs : List Byte) : List Byte :=
  let ks := aesKeys (leNats 32 key1)
  ((xtsBlocks (aesEnc ks) (xtsTweak key2 unit) (chunks 16 16 (bs.map (·.toNat)))).flatten).map (BitVec.ofNat 8)

/-- Decryption. -/
def xtsDec (key1 key2 unit : Nat) (bs : List Byte) : List Byte :=
  let ks := aesKeys (leNats 32 key1)
  ((xtsBlocks (aesDec ks) (xtsTweak key2 unit) (chunks 16 16 (bs.map (·.toNat)))).flatten).map (BitVec.ofNat 8)

/-! ### GCM (18 R311) -/

/-- A block as GCM's field element: its first bit is the coefficient of 1, the highest bit of the number. -/
def gcmVal (b : List Nat) : Nat := b.foldl (fun r a => r * 256 + a) 0

/-- A field element as a block. -/
def gcmBlock (v : Nat) : List Nat := (beBytes 16 v).map (·.toNat)

/-- Multiply in GCM's field: `v` is the second factor times x to the power of the bits done. -/
def gcmMul : Nat → Nat → Nat → Nat
  | 0, _, _ => 0
  | n + 1, a, v =>
    (if a / 2 ^ n % 2 = 1 then v else 0) ^^^
      gcmMul n a (if v % 2 = 1 then (v / 2) ^^^ (0xE1 * 2 ^ 120) else v / 2)

/-- GHASH over blocks. -/
def ghash (h : Nat) (bs : List (List Nat)) : Nat := bs.foldl (fun y b => gcmMul 128 (y ^^^ gcmVal b) h) 0

/-- The blocks of 16 bytes of a string, the last filled with zeros. -/
def gcmPad (l : List Nat) : List (List Nat) :=
  let n := (l.length + 15) / 16
  chunks 16 n (l ++ List.replicate (16 * n - l.length) 0)

/-- The key stream added to a text of whole blocks; `iv` has 12 bytes. -/
def gcmCrypt (ks : List (List Nat)) (iv text : List Nat) : List Nat :=
  (((gcmPad text).zipIdx.map fun b =>
    xorList b.1 (aesEnc ks (iv ++ (beBytes 4 (b.2 + 2)).map (·.toNat)))).flatten).take text.length

/-- The tag of a ciphertext with its authenticated data. -/
def gcmTag (ks : List (List Nat)) (iv aad text : List Nat) : List Nat :=
  let h := gcmVal (aesEnc ks (List.replicate 16 0))
  let lens := gcmBlock (aad.length * 8 * 2 ^ 64 + text.length * 8)
  xorList (gcmBlock (ghash h (gcmPad aad ++ gcmPad text ++ [lens]))) (aesEnc ks (iv ++ [0, 0, 0, 1]))

/-! ### CRC-32 (18 R311) -/

/-- One byte into the CRC register, bit by bit. PRESUMED (log 74): bits reflected, as the CRC-32 of IEEE 802.3 has them. -/
def crcByte (c b : Nat) : Nat :=
  (List.range 8).foldl (fun c _ => if c % 2 = 1 then (c / 2) ^^^ 0xEDB88320 else c / 2) (c ^^^ b)

/-- CRC-32 with the polynomial 0x04C1_1DB7. -/
def crc32 (l : List Nat) : Nat := (l.foldl crcByte 0xFFFFFFFF) ^^^ 0xFFFFFFFF

/-! ### RS(256,240) over GF(2^10) (18 R311) -/

/-- Multiply by x in GF(2^10), whose polynomial is x^10 + x^3 + 1. -/
def rsDouble (a : Nat) : Nat := if 512 ≤ a then (2 * a - 1024) ^^^ 0x9 else 2 * a

/-- Multiply in GF(2^10), with a count of the bits left. -/
def rsMulN : Nat → Nat → Nat → Nat
  | 0, _, _ => 0
  | n + 1, a, b => (if b % 2 = 1 then a else 0) ^^^ rsMulN n (rsDouble a) (b / 2)

/-- Multiply in GF(2^10). -/
def rsMul (a b : Nat) : Nat := rsMulN 10 a b

/-- A power in GF(2^10), with fuel for the bits of the exponent. -/
def rsPowN : Nat → Nat → Nat → Nat
  | 0, _, _ => 1
  | n + 1, a, e => rsMul (if e % 2 = 1 then a else 1) (rsPowN n (rsMul a a) (e / 2))

/-- The power α^e. -/
def rsAlpha (e : Nat) : Nat := rsPowN 10 2 (e % 1023)

/-- The inverse of an element. -/
def rsInv (a : Nat) : Nat := rsPowN 10 a 1022

/-- The generator polynomial's coefficients, highest first: its roots are α^0 to α^15. -/
def rsGen : List Nat :=
  (List.range 16).foldl (fun g i => ((g ++ [0]).zip (0 :: g)).map fun (p : Nat × Nat) => p.1 ^^^ rsMul (rsAlpha i) p.2) [1]

/-- The 16 parity symbols of a message, whose first symbol has the highest power. -/
def rsParity (m : List Nat) : List Nat :=
  m.foldl (fun r s =>
    let q := s ^^^ r.headD 0
    (((r.drop 1) ++ [0]).zip (rsGen.drop 1)).map fun (p : Nat × Nat) => p.1 ^^^ rsMul q p.2) (List.replicate 16 0)

/-- The value of a polynomial, highest coefficient first. -/
def rsEval (p : List Nat) (x : Nat) : Nat := p.foldl (fun y c => rsMul y x ^^^ c) 0

/-- The 16 syndromes of a received word. -/
def rsSyndromes (w : List Nat) : List Nat := (List.range 16).map fun i => rsEval w (rsAlpha i)

/-- Polynomials, lowest coefficient first: a sum. -/
def rsAdd (a b : List Nat) : List Nat :=
  (List.range (max a.length b.length)).map fun i => a.getD i 0 ^^^ b.getD i 0

/-- The state of the search for the error locator: the locator, its last version, its length, the shift and the last
discrepancy. -/
structure RsFind where
  loc : List Nat
  old : List Nat
  len : Nat
  shift : Nat
  disc : Nat
  deriving DecidableEq, Repr

/-- One syndrome into the search (Berlekamp and Massey). -/
def rsStep (ss : List Nat) (f : RsFind) (n : Nat) : RsFind :=
  let d := (List.range (f.len + 1)).foldl (fun d i => d ^^^ rsMul (f.loc.getD i 0) (if i ≤ n then ss.getD (n - i) 0 else 0)) 0
  if d = 0 then { f with shift := f.shift + 1 }
  else
    let q := rsMul d (rsInv f.disc)
    let loc := rsAdd f.loc (List.replicate f.shift 0 ++ f.old.map (rsMul q))
    if 2 * f.len ≤ n then { loc := loc, old := f.loc, len := n + 1 - f.len, shift := 1, disc := d }
    else { f with loc := loc, shift := f.shift + 1 }

/-- The symbols with some corrected: at place `i` from the end, the error that Forney's formula gives. -/
def rsFix (w ss loc : List Nat) (places : List Nat) : List Nat :=
  let om := (List.range 16).map fun k => (List.range (k + 1)).foldl (fun x i => x ^^^ rsMul (loc.getD i 0) (ss.getD (k - i) 0)) 0
  let dl := ((List.range (loc.length - 1)).map fun i => if i % 2 = 0 then loc.getD (i + 1) 0 else 0)
  (w.reverse.zipIdx.map fun s =>
    if places.contains s.2 then
      let x := rsAlpha (1023 - s.2)
      s.1 ^^^ rsMul (rsAlpha s.2) (rsMul (rsEval om.reverse x) (rsInv (rsEval dl.reverse x)))
    else s.1).reverse

/-- A received word of 256 symbols with up to 8 symbol errors corrected; none where there are more. -/
def rsCorrect (w : List Nat) : Option (List Nat) :=
  let ss := rsSyndromes w
  if ss.all (· == 0) then some w
  else
    let f := (List.range 16).foldl (rsStep ss) { loc := [1], old := [1], len := 0, shift := 1, disc := 1 }
    let places := (List.range w.length).filter fun i => rsEval f.loc.reverse (rsAlpha (1023 - i)) == 0
    if 8 < f.len || places.length != f.len then none
    else
      let v := rsFix w ss f.loc places
      if (rsSyndromes v).all (· == 0) then some v else none

/-! ### RSASSA-PSS (24 R365) -/

/-- A power modulo `n`, with fuel for the bits of the exponent. -/
def powMod (n : Nat) : Nat → Nat → Nat → Nat
  | 0, _, _ => 1 % n
  | k + 1, b, e => if e = 0 then 1 % n else (if e % 2 = 1 then b else 1) * powMod n k (b * b % n) (e / 2) % n

/-- The mask of `n` bytes from a seed. -/
def mgf1 (seed : List Byte) (n : Nat) : List Byte :=
  (((List.range ((n + 31) / 32)).map fun i => sha256 (seed ++ beBytes 4 i)).flatten).take n

/-- Whether an encoded message of 384 bytes holds a digest, with a salt of 32 bytes. -/
def pssHolds (hash em : List Byte) : Bool :=
  let masked := em.take 351
  let h := (em.drop 351).take 32
  let db := ((masked.zip (mgf1 h 351)).map fun p => p.1 ^^^ p.2).modify 0 fun b => b &&& 0x7F
  em.getLastD 0 == 0xBC && decide ((masked.headD 0).toNat < 128) && (db.take 318).all (· == 0) && db.getD 318 0 == 1 &&
    h == sha256 (List.replicate 8 0 ++ hash ++ db.drop 319)

/-- Whether an RSA-3072 signature over a digest verifies under a public key. -/
def pssVerify (modulus : BitVec 3072) (exponent : BitVec 32) (hash : List Byte) (sig : BitVec 3072) : Bool :=
  sig.toNat < modulus.toNat && pssHolds hash (beBytes 384 (powMod modulus.toNat 32 sig.toNat exponent.toNat))

/-- A digest as a number, its first byte highest. -/
def digest256 (bs : List Byte) : BitVec 256 := BitVec.ofNat 256 (beVal (sha256 bs))

/-- The digest of a public key. DESIGN CHOICE (log 74): over its modulus and then its exponent, highest bytes first. -/
def keyDigestOf (modulus : BitVec 3072) (exponent : BitVec 32) : BitVec 256 :=
  digest256 (beBytes 384 modulus.toNat ++ beBytes 4 exponent.toNat)

end Sys2Proof.Machine
end

