-- ==== Sys2Proof/Machine/Engine.lean ====
section
/-!
DEFINITION. Memory as the engines reach it: the windows of S-space word by word (14 R252), published buffers (14 R268,
R269), F-space pages (14 R254-R257), private views of merged regions (16 R290) and locked Stratus sources (10 R209).
-/

namespace Sys2Proof.Machine

/-! ### On-chip words -/

/-- A word of the queue view (14 R252): the landed entries of a queue head first, then the occupancy word; and whether
the entry's parity is bad. -/
def State.queueView (s : State) (c i : Nat) : Word × Bool :=
  let k := s.core c
  if i < 40 then
    match ((k.queue (i / 8)).filter fun e => e.due ≤ s.ccyc)[i % 8]? with
    | some e => (e.val, e.bad)
    | none => (0, false)
  else if i = 40 then
    (pack ((List.range 5).map fun q => (min (k.occupancy q s.ccyc) 15, 4 * q)), false)
  else (0, false)

/-- The 64-bit word that an engine reads at an S-space or L-space pointer, a multiple of 8, and whether it is poisoned
(10 R206, 14 R252). -/
def State.engineWord (s : State) (p : Nat) : Word × Bool :=
  let key := ptrKey p
  if ptrTag p = 2 then (s.read64 key, poisoned s.ecc key 8)
  else match sKind p with
    | 1 => s.imageWord (sCore p) (sOff p)
    | 2 => s.queueView (sCore p) (sOff p / 8)
    | 3 =>
      let slot := vget Acc.init (s.octet (coreOctet (sCore p))).accs (sOff p / 0x10000)
      (s.read64 key, slot.poison || poisoned s.ecc key 8)
    | _ => (s.read64 key, poisoned s.ecc key 8)

/-- An engine writes a 64-bit word at an S-space or L-space pointer; `bad` gives it the poison pattern (24 R371). -/
def State.putWord (s : State) (p : Nat) (w : Word) (bad : Bool) : State :=
  if ptrTag p = 1 ∧ sKind p = 1 then s.setImageWord (sCore p) (sOff p) w bad
  else
    let s := s.write64 (ptrKey p) w
    if bad then s.markPoison (ptrKey p) else s

/-- The bytes of a word with some replaced, given by place. -/
def patchWord (w : Word) (l : List (Nat × Byte)) : Word :=
  BitVec.ofNat 64 (ofBytes ((leBytes 8 w.toNat).zipIdx.map fun b => ((l.find? fun e => e.1 == b.2).map (·.2)).getD b.1))

/-- An engine writes some bytes of a word, given by place in it. -/
def State.putPart (s : State) (p : Nat) (l : List (Nat × Byte)) (bad : Bool) : State :=
  if l.isEmpty then s
  else if l.length = 8 ∨ (ptrTag p = 1 ∧ sKind p = 1) then s.putWord p (patchWord (s.engineWord p).1 l) bad
  else
    let s := l.foldl (fun s e => s.write (ptrKey p + e.1) [e.2]) s
    if bad then s.markPoison (ptrKey p) else s

/-- The arrival tag of the scratchpad line that an engine writes (06 R123). -/
def State.putTag (s : State) (p : Nat) (tag : Byte) : State :=
  if ptrTag p = 1 ∧ sKind p = 0 then s.write (tagKey (sCore p) (sOff p / 64)) [tag] else s

/-- Bytes and poisoned words in `n` bytes that an engine reads from pointer `p` of S-space or L-space, as domain `b` has
its buffers published; `p` is a multiple of 8. -/
def State.engineRead (s : State) (b p n : Nat) : List Byte × List Nat :=
  let ws := (List.range ((n + 7) / 8)).map fun i =>
    s.engineWord ((pubRoute (s.pubs b) false (p + 8 * i)).getD (p + 8 * i))
  (((ws.map fun w => leBytes 8 w.1.toNat).flatten).take n, (ws.zipIdx.filter (·.1.2)).map (8 * ·.2))

/-- The pointers of the words of `engineRead`. -/
def State.enginePtrs (s : State) (b p n : Nat) : List Nat :=
  (List.range ((n + 7) / 8)).map fun i => (pubRoute (s.pubs b) false (p + 8 * i)).getD (p + 8 * i)

/-- The memory words of `engineRead`, by key. The lines of a register image that are not resident lie in the near column;
resident lines and the queue view keep no SECDED code (02 R31, 14 R252, 24 R370). -/
def State.engineKeys (s : State) (b p n : Nat) : List (Nat × Nat) :=
  (s.enginePtrs b p n).filterMap fun q =>
    let k := s.core (sCore q)
    if ptrTag q = 1 ∧ sKind q = 2 then none
    else if ptrTag q = 1 ∧ sKind q = 1 then
      if k.resident (sOff q / 8 / 4) then none else some (k.imageKey (sOff q / 8), 8)
    else some (ptrKey q, 8)

/-- The error that word `i` of a core's queue view shows: an entry of bad parity. -/
def State.viewBad (s : State) (c i : Nat) : Option (LogPlace × Nat) :=
  if (s.queueView c i).2 then some (.register, 64 * c + qSub (i / 8)) else none

/-- The registers and queue entries of bad parity among the words of `engineRead` (24 R370). -/
def State.engineBad (s : State) (b p n : Nat) : List (LogPlace × Nat) :=
  (s.enginePtrs b p n).filterMap fun q =>
    let c := sCore q
    let k := s.core c
    let r := sOff q / 8
    if ptrTag q ≠ 1 then none
    else if sKind q = 2 then s.viewBad c r
    else if sKind q = 1 ∧ k.resident (r / 4) ∧ k.regs.winBad.getLsbD (r % 64) then some (.window, 64 * c + r % 64)
    else none

/-- An engine writes whole words from pointer `p` on into the invisible halves of published buffers (14 R269), as they
stand now; `poison` lists the byte offsets of words that get the poison pattern. -/
def State.engineWrite (s : State) (b p : Nat) (bs : List Byte) (poison : List Nat) : State :=
  ((chunks 8 (bs.length / 8 + 1) bs).zipIdx).foldl
    (fun s w =>
      let q := p + 8 * w.2
      s.putWord ((pubRoute (s.pubs b) true q).getD q) (BitVec.ofNat 64 (ofBytes w.1)) (poison.contains (8 * w.2))) s

/-! ### Page windows (14 R254-R257) -/

/-- The bytes of a page. -/
def pageSize (w0 : Word) : Nat :=
  match wfld w0 62 61 with
  | 0 => 2 ^ 16
  | 1 => 2 ^ 21
  | _ => 2 ^ 30

/-- The F-space address of a page's base. -/
def pageBase (w0 : Word) : Nat := wfld w0 47 16 * 2 ^ 16

/-- The physical address that an entry gives an F-space address. -/
def pagePhys (e : Word × Word) (a : Nat) : Nat := wfld e.2 35 0 * 2 ^ 16 + (a - pageBase e.1)

/-- Whether an entry is valid and its page holds the address. -/
def pageHit (e : Word × Word) (a : Nat) : Bool := e.1.getLsbD 63 && within (pageBase e.1) (pageSize e.1) a

/-- A page's format attribute (14 R259). -/
def pageFmt (e : Word × Word) : Nat := wfld e.2 63 36

/-- An octet's page-window entries for a domain: the launch's list with what was installed since (14 R258). -/
def Bind.window (b : Bind) (octet : Nat) : Tab (Word × Word) :=
  (b.installs.filter fun i => i.1 == octet).foldl (fun t i => tset t i.2.1 i.2.2)
    (b.pages.zipIdx.map fun e => (e.2, e.1))

/-- The entry that matches an F-space address in an octet's Caddy. -/
def Bind.page (b : Bind) (octet a : Nat) : Option (Word × Word) :=
  ((b.window octet).find? fun e => pageHit e.2 a).map (·.2)

/-- Whether a physical byte of HBM lies in a page that the partition owns (22 R354). -/
def Part.ownsHbm (p : Part) (pa : Nat) : Bool :=
  p.pages.any fun e => e.1.getLsbD 63 && !e.1.getLsbD 60 && within (wfld e.2 35 0 * 2 ^ 16) (pageSize e.1) pa

/-- The number of the key in a partition's key slot; 0 for none (22 R359). -/
def Part.key (p : Part) (slot : Nat) : Nat := p.keys.getD slot 0

/-- An F-space access: by which domain, octet and partition, whether it writes, and whether Stratus makes it. -/
structure FWho where
  bind : Nat
  octet : Nat
  part : Nat
  write : Bool
  stratus : Bool
  deriving DecidableEq, Repr

/-- What is left of the span `g` of bytes (first address, count) outside `n` bytes from `b`. -/
def spanCut (b n : Nat) (g : Nat × Nat) : List (Nat × Nat) :=
  [(g.1, min (g.1 + g.2) b - g.1), (max g.1 (b + n), g.1 + g.2 - max g.1 (b + n))].filter (·.2 != 0)

/-- Where `n` bytes of F-space named from address `a` on lie as the published buffers stand, each to its visible or (`inv`)
invisible half (14 R269): spans of routed addresses. -/
def routedSpans (pubs : List Pub) (inv : Bool) (a n : Nat) : List (Nat × Nat) :=
  let fs := pubs.filter fun p => ptrTag p.base.toNat == 3
  (fs.filterMap fun p =>
      let b := p.base.toNat % 2 ^ 48
      let lo := max a b
      let hi := min (a + n) (b + p.len)
      if lo < hi then some ((if p.map != inv then p.alt.toNat % 2 ^ 48 else b) + (lo - b), hi - lo) else none) ++
    fs.foldl (fun l p => l.flatMap (spanCut (p.base.toNat % 2 ^ 48) p.len)) [(a, n)]

/-- The source of a collective in memory, as the published buffers and the pages of its domain map it: whether host memory
or HBM, physical address and count of bytes. -/
def State.sourceSpans (s : State) (c : Coll) : List (Bool × Nat × Nat) :=
  (routedSpans (s.pubs c.cmd.bind) false (c.cmd.ent.sbase.toNat % 2 ^ 48) c.cmd.ent.len).flatMap fun g =>
    ((s.bindAt c.cmd.bind).window (coreOctet c.cmd.core)).filterMap fun e =>
      let lo := max g.1 (pageBase e.2.1)
      let hi := min (g.1 + g.2) (pageBase e.2.1 + pageSize e.2.1)
      if e.2.1.getLsbD 63 ∧ lo < hi then some (e.2.1.getLsbD 60, pagePhys e.2 lo, hi - lo) else none

/-- Whether a physical byte, of host memory or of HBM, is a locked source byte of a running collective, until its outcome
(10 R209, 18 R316). -/
def State.locked (s : State) (host : Bool) (pa : Nat) : Bool :=
  s.colls.any fun c => (c.lock.getD (s.sourceSpans c)).any fun r => r.1 == host && within r.2.1 r.2.2 pa

/-- Whether the byte where translation has led is a locked source byte. -/
def State.hitLocked (s : State) (hit : FHit) : Bool :=
  match hit with
  | .hbm pa _ => s.locked false pa
  | .host pa => s.locked true pa
  | _ => false

/-- The merged or reduce region of a domain that holds an F-space address. -/
def Bind.mergeAt (b : Bind) (a : Nat) : Option MergeReg :=
  b.merges.find? fun r => within (r.base.toNat * 2 ^ 16) (r.pages * 2 ^ 16) a

/-- Translate a routed F-space address (14 R256): a page of HBM that the partition does not own is out of its reach (22
R354), and Stratus has no source or destination in a merged or reduce region (16 R288). -/
def State.translate (s : State) (w : FWho) (a : Nat) : FHit :=
  match (s.bindAt w.bind).page w.octet a with
  | none => .miss
  | some e =>
    let key := (s.partAt w.part).key (wfld e.1 51 48)
    let host := e.1.getLsbD 60
    if wfld e.1 59 57 ≠ w.part ∨ (w.write ∧ ¬ e.1.getLsbD 55) ∨ (¬ w.write ∧ ¬ e.1.getLsbD 56) ∨
        (w.stratus ∧ (¬ e.1.getLsbD 54 ∨ ((s.bindAt w.bind).mergeAt a).isSome)) ∨ (¬ host ∧ (key = 0 ∨ ¬ (s.partAt w.part).ownsHbm (pagePhys e a))) ∨
        (w.write ∧ s.locked host (pagePhys e a))
    then .refused
    else if host then .host (pagePhys e a)
    else .hbm (pagePhys e a) key

/-! ### HBM under its keys (14 R257) -/

/-- The two halves of the XTS key with a number. -/
def xtsHalves (key : Nat) : Nat × Nat :=
  let k := (Config.xtsKey key).toNat
  (k % 2 ^ 256, k / 2 ^ 256)

/-- A byte of HBM as a key decrypts it, with tweak PA[38:8]. Memory holds what a unit decrypts to under the key that
encrypted it; another key decrypts what that one encrypted. A unit that nothing has written under a key reads as it is
stored. -/
def State.hbmByte (s : State) (key pa : Nat) : Byte :=
  let u := pa / 256
  let k := tget 0 s.unitKeys u
  if k = 0 ∨ k = key then s.mem.read (hbmKey pa)
  else
    let own := xtsHalves k
    let other := xtsHalves key
    (xtsDec other.1 other.2 u (xtsEnc own.1 own.2 u (s.mem.readN (hbmKey (256 * u)) 256))).getD (pa % 256) 0

/-- Write HBM bytes within one 256-byte unit: the unit is decrypted, changed and encrypted again as one. -/
def State.hbmWrite (s : State) (key pa : Nat) (bs : List Byte) : State :=
  let u := pa / 256
  let k := tget 0 s.unitKeys u
  let s' :=
    if k = 0 ∨ k = key then s
    else { s with mem := s.mem.write (hbmKey (u * 256)) (rangeFrom (u * 256) 256 |>.map (s.hbmByte key)) }
  { s'.write (hbmKey pa) bs with unitKeys := tset s'.unitKeys u key }

/-! ### Merged and reduce regions (16 R288-R290) -/

/-- The merge interval of a region in which MCYC `m` lies, counted from 1 (16 R291). -/
def MergeReg.interval (r : MergeReg) (m : Nat) : Nat := m / 2 ^ r.qlog + 1

/-- The task's own last write of a byte that no merge has taken yet, and whether its word was written as poison: a merge
takes every write of its region away. -/
def Bind.viewByte (b : Bind) (a : Nat) : Option (Byte × Bool) :=
  (b.view.reverse.find? fun w => within w.addr w.bytes.length a).bind fun w =>
    (w.bytes[a - w.addr]?).map fun v => (v, w.bad.contains ((a - w.addr) / 8 * 8))

/-- What a task's read of a byte takes from its own private view: nothing in a reduce region (16 R290). -/
def Bind.ownByte (b : Bind) (a : Nat) : Option (Byte × Bool) :=
  (b.mergeAt a).bind fun r => if r.reduce then none else b.viewByte a

/-- The 64 KiB pages of a domain's private views. -/
def Bind.viewPageList (b : Bind) : List Nat := (b.view.map fun w => w.addr / 2 ^ 16).dedup

/-! ### F-space words -/

/-- What an engine's read of an F-space byte comes to. -/
inductive FRead where
  | miss
  | refused
  | host
  | byte (v : Byte) (bad : Bool)
  deriving DecidableEq, Repr

/-- Read a byte at a routed F-space address; `host` says that host pages may be read now. -/
def State.fByte (s : State) (w : FWho) (a : Nat) (host : Bool) : FRead :=
  match s.translate w a with
  | .miss => .miss
  | .refused => .refused
  | .host pa =>
    if !host then .host
    else match (s.bindAt w.bind).ownByte a with
      | some v => .byte v.1 v.2
      | none => .byte (s.mem.read (hostKey pa)) false
  | .hbm pa key =>
    match (s.bindAt w.bind).ownByte a with
    | some v => .byte v.1 v.2
    | none => .byte (s.hbmByte key pa) (poisoned s.ecc (hbmKey pa) 1)

/-- The HBM words that reads at routed F-space addresses meet, by key; a byte of a private view is not read there. -/
def State.fKeys (s : State) (w : FWho) (as : List Nat) : List (Nat × Nat) :=
  ((as.filterMap fun a =>
    match s.translate w a, (s.bindAt w.bind).ownByte a with
    | .hbm pa _, none => some (hbmKey pa / 8)
    | _, _ => none).dedup).map fun k => (8 * k, 8)

/-- Route an F-space address, given without its tag, as the published buffers stand. -/
def pubRouteF (pubs : List Pub) (inv : Bool) (a : Nat) : Nat :=
  ((pubRoute pubs inv (3 * 2 ^ 60 + a)).getD (3 * 2 ^ 60 + a)) % 2 ^ 48

/-- Route an F-space address of a domain, given without its tag. -/
def State.fRoute (s : State) (b : Nat) (inv : Bool) (a : Nat) : Nat := pubRouteF (s.pubs b) inv a

/-- Bytes are written where translation has led, with the words that are written as poison; host memory keeps no such
mark. -/
def State.physWrite (s : State) (hit : FHit) (bs : List Byte) (poison : List Nat) : State :=
  match hit with
  | .hbm pa key => poison.foldl (fun s o => s.markPoison (hbmKey (pa + o))) (s.hbmWrite key pa bs)
  | .host pa => { s with mem := s.mem.write (hostKey pa) bs }
  | _ => s

/-- A byte where translation has led, and whether it is poisoned. -/
def State.physByte (s : State) (hit : FHit) : Byte × Bool :=
  match hit with
  | .hbm pa key => (s.hbmByte key pa, poisoned s.ecc (hbmKey pa) 1)
  | .host pa => (s.mem.read (hostKey pa), false)
  | _ => (0, false)

/-- What a write of bytes within one 64-byte line at a routed F-space address does, if its translation `hit` allows it:
into the private view of a merged region, into HBM, or into host memory; `none` where it is refused (14 R256, 16 R288). -/
def State.fWriteAt (s : State) (w : FWho) (hit : FHit) (m a : Nat) (bs : List Byte) (poison : List Nat) :
    Option State :=
  let b := s.bindAt w.bind
  match hit, b.mergeAt a with
  | .miss, _ | .refused, _ => none
  | hit, some r =>
    let pages := b.viewPageList
    if pages.contains (a / 2 ^ 16) ∨ pages.length < b.viewPages then
      some (s.modBind w.bind fun b =>
        { b with view := b.view ++ [{ interval := r.interval m, addr := a, hit := hit, bytes := bs, bad := poison }] })
    else none
  | hit, none => some (s.physWrite hit bs poison)

/-- A write translated in its own cycle. -/
def State.fWrite (s : State) (w : FWho) (m a : Nat) (bs : List Byte) (poison : List Nat) : Option State :=
  s.fWriteAt w (s.translate w a) m a bs poison

end Sys2Proof.Machine
end

