-- ==== Sys2Proof/Machine/Matrix.lean ====
section
/-!
DEFINITION. The octet's matrix unit (08): the matrix words with their checks, and what the unit does afterwards: block
steps, accumulator writes, fills, transposes and write-backs.
-/

namespace Sys2Proof.Machine

/-! ### Parameters and slots -/

/-- The parameter word of a matrix word: the slot index and the command's parameters (04 R79, 08 R157). -/
def State.mpar (s : State) (x : Ctx) (n : BitVec 3) : Nat := (s.ox x n.toNat).toNat

/-- The slot-table index in a parameter word. -/
def mIdx (w : Nat) : Nat := fld w 15 0

/-- The block length that a BL code names; 0 for none. -/
def blockLen (bl : Nat) : Nat :=
  match bl with
  | 0 => 0 | 1 => 16 | 2 => 32 | _ => 64

/-- Whether a format, block length and plane count combine as operand format (08 R157). -/
def tagOk (ef bl pk : Nat) : Bool :=
  match ef with
  | 1 => bl == 0 && pk == 0
  | 7 => bl == 0 && pk == 0
  | 8 => pk == 0
  | 9 => bl != 0 && 2 ≤ pk && pk ≤ 8
  | _ => false

/-- A format tag's fields (08 R158). -/
def tagEf (t : BitVec 16) : Nat := fld t.toNat 3 0
/-- The block length code of a tag. -/
def tagBl (t : BitVec 16) : Nat := fld t.toNat 5 4
/-- The plane count of a tag. -/
def tagPk (t : BitVec 16) : Nat := fld t.toNat 9 6

/-- Bytes that a fill or a slot transfer moves: elements, then scales (08 R160). -/
def slotBytes (bl : Nat) : Nat := 16384 + (if bl = 0 then 0 else 16384 / blockLen bl)

/-- Operand slot `i` of an octet. -/
def Octet.slot (o : Octet) (i : Nat) : OpSlot := tget OpSlot.init o.slots i
/-- An octet with a slot changed. -/
def Octet.modSlot (o : Octet) (i : Nat) (f : OpSlot → OpSlot) : Octet := { o with slots := tset o.slots i (f (o.slot i)) }
/-- Accumulator slot `a` of an octet. -/
def Octet.acc (o : Octet) (a : Nat) : Acc := vget Acc.init o.accs a
/-- An octet with an accumulator's state changed. -/
def Octet.modAcc (o : Octet) (a : Nat) (f : Acc → Acc) : Octet := { o with accs := vput o.accs a (f (o.acc a)) }

/-- The trap value of a matrix fault (09 R187). -/
def matrixVal (acc slot idx : Nat) : Word := pack [(idx, 16), (acc, 8), (slot, 0)]

/-- Whether an accumulator slot is given to the domain of the issuing core (08 R165). -/
def State.accGiven (s : State) (x : Ctx) (a : Nat) : Bool :=
  ((s.octet (coreOctet x.core)).acc a).owner == some x.bind && (s.core x.core).bound == some x.bind

/-- The end of a matrix word: the slot check comes last (08 R173). -/
def wheelThen (s : State) (x : Ctx) (idx : Nat) (s' : State) : Res :=
  match s.wheelCause x idx with
  | some c => .slip c
  | none => .ok s' .seq

/-- A matrix-state fault (08 R173). -/
def matrixFault (s : State) (cause acc slot idx : Nat) : Res := .trap s 0x10 cause (matrixVal acc slot idx)

/-- The reserved-field check of a parameter word whose bits under `zero` must be zero (08 R157). -/
def mPre (n : BitVec 3) (bad : State → Ctx → Nat → Bool) (s : State) (x : Ctx) : Pre :=
  { reserved := bad s x (s.mpar x n) }

/-- The octet of the issuing core. -/
def Ctx.octet (x : Ctx) : Nat := coreOctet x.core

/-- The bytes of an accumulator slot. -/
def accBytes (octet a : Nat) : Nat := accKey octet (a * 0x10000)

/-- An accumulator slot becomes zero, with LIVE and POISON clear (08 R170). -/
def State.zeroAcc (s : State) (octet a : Nat) : State :=
  let s := s.write (accBytes octet a) (List.replicate 0x10000 0)
  s.modOctet octet fun o => o.modAcc a fun k => { k with live := false, poison := false }

/-! ### Configuration, claims and clearing -/

/-- Whether an output format and block length combine (08 R157). -/
def outFmtOk (of_ bl : Nat) : Bool :=
  match of_ with
  | 6 => bl == 0
  | 7 => bl == 0
  | 8 => bl != 0
  | 9 => bl != 0
  | _ => false

/-- `mcfg` and `mcfg.drop` (08 R171). -/
def mcfgOp (drop sf : Bool) (c n : BitVec 3) (s : State) : Host.Outcome State Fault Refusal :=
  issueWord sf .x false
    (mPre n fun _ _ w => fld w 63 23 != 0 || !outFmtOk (fld w 19 16) (fld w 21 20))
    (fun s x =>
      let w := s.mpar x n
      let a := c.toNat
      if !s.accGiven x a then matrixFault s 5 a 0 (mIdx w)
      else if !drop && ((s.octet x.octet).acc a).live then matrixFault s 4 a 0 (mIdx w)
      else wheelThen s x (mIdx w)
        (s.post (x.now + 1) 6 (.accCfg x.octet a (fld w 19 16) (fld w 21 20) (bitAt w 22) drop))) s

/-- `mcfg acc ~oxn` (08 R171). -/
def execMcfg (sf : Bool) (c n : BitVec 3) (s : State) : Host.Outcome State Fault Refusal := mcfgOp false sf c n s

/-- `mcfg.drop acc ~oxn` (08 R171). -/
def execMcfgDrop (sf : Bool) (c n : BitVec 3) (s : State) : Host.Outcome State Fault Refusal := mcfgOp true sf c n s

/-- `mclaim opa ~oxn` (08 R159). -/
def execMclaim (sf : Bool) (p : BitVec 6) (n : BitVec 3) (s : State) : Host.Outcome State Fault Refusal :=
  issueWord sf .x false (mPre n fun _ _ w => fld w 63 16 != 0)
    (fun s x =>
      let i := mIdx (s.mpar x n)
      match ((s.octet x.octet).slot p.toNat).claim with
      | none => wheelThen s x i (s.post (x.now + 1) 0 (.claim x.octet p.toNat (some x.core)))
      | some o => if o = x.core then wheelThen s x i s else matrixFault s 1 0 p.toNat i) s

/-- `mfree opa ~oxn`: the tag becomes empty (08 R159). -/
def execMfree (sf : Bool) (p : BitVec 6) (n : BitVec 3) (s : State) : Host.Outcome State Fault Refusal :=
  issueWord sf .x false (mPre n fun _ _ w => fld w 63 16 != 0)
    (fun s x =>
      let i := mIdx (s.mpar x n)
      if ((s.octet x.octet).slot p.toNat).claim ≠ some x.core then matrixFault s 2 0 p.toNat i
      else wheelThen s x i
        ((s.post (x.now + 1) 0 (.claim x.octet p.toNat none)).post (x.now + 1) 0 (.tag x.octet p.toNat 0))) s

/-- `mzero acc ~oxn` (08 R170). -/
def execMzero (sf : Bool) (c n : BitVec 3) (s : State) : Host.Outcome State Fault Refusal :=
  issueWord sf .x false (mPre n fun _ _ w => fld w 63 16 != 0)
    (fun s x =>
      let i := mIdx (s.mpar x n)
      if !s.accGiven x c.toNat then matrixFault s 5 c.toNat 0 i
      else wheelThen s x i (s.post (x.now + 2) 6 (.accZero x.octet c.toNat (some x.core)))) s

/-- `mchk acc ~oxn`: a data-error trap if POISON is set (08 R170). -/
def execMchk (sf : Bool) (c n : BitVec 3) (s : State) : Host.Outcome State Fault Refusal :=
  issueWord sf .x false (mPre n fun _ _ w => fld w 63 16 != 0)
    (fun s x =>
      let i := mIdx (s.mpar x n)
      if !s.accGiven x c.toNat then matrixFault s 5 c.toNat 0 i
      else if ((s.octet x.octet).acc c.toNat).poison then .trap s 0x11 0 (matrixVal c.toNat 0 i)
      else wheelThen s x i s) s

/-! ### Reading an accumulator -/

/-- `mrd acc ~oxn`: 32 values of a row quarter into a vector register, readable at c+6 (08 R168); the pattern in the
words it reads sets POISON (14 R252). -/
def execMrd (sf : Bool) (c n : BitVec 3) (s : State) : Host.Outcome State Fault Refusal :=
  issueWord sf .x false (mPre n fun _ _ w => fld w 63 29 != 0)
    (fun s x =>
      let w := s.mpar x n
      let a := c.toNat
      let key := accBytes x.octet a + 512 * fld w 26 20 + 128 * fld w 28 27
      if !s.accGiven x a then matrixFault s 5 a 0 (mIdx w)
      else
        let pat := poisoned s.ecc key 128
        let s' := if pat then s.modOctet x.octet (·.modAcc a fun k => { k with poison := true }) else s
        let s' := { s' with dev := { s'.dev with log := s'.dev.log ++ logMarks s.ccyc (marksIn s.ecc key 128) } }
        if pat || ((s.octet x.octet).acc a).poison then .trap s' 0x0C 0 (BitVec.ofNat 64 a)
        else
          let v : Vec := BitVec.ofNat 1024 (s.mem.readLe key 128)
          wheelThen s x (mIdx w) (s'.landVec x.core x.half true 6 (fld w 19 16) (BitVec.allOnes 1024) v)) s

/-! ### Filling and transposing operand slots -/

/-- `mfill opa ~oxn` (08 R160). DESIGN CHOICE (log 97): a SOFF that is no multiple of 64 is a reserved-field fault. -/
def execMfill (sf : Bool) (p : BitVec 6) (n : BitVec 3) (s : State) : Host.Outcome State Fault Refusal :=
  issueWord sf .x false
    (mPre n fun _ _ w =>
      fld w 63 50 != 0 || fld w 31 26 != 0 || !tagOk (fld w 19 16) (fld w 21 20) (fld w 25 22) || fld w 49 32 % 64 != 0)
    (fun s x =>
      let w := s.mpar x n
      let i := mIdx w
      let len := slotBytes (fld w 21 20)
      let src := sPtr x.core 0 (fld w 49 32)
      if ((s.octet x.octet).slot p.toNat).claim ≠ some x.core then matrixFault s 2 0 p.toNat i
      else if 0x40000 < fld w 49 32 + len ∨ altHit (s.pubs x.bind) src len then
        .trap s 0x08 0 (BitVec.ofNat 64 src)
      else
        let s' := s.post (x.now + 1) 0 (.tag x.octet p.toNat (BitVec.ofNat 16 (fld w 31 16)))
        let id := s'.seq
        let s' := s'.modOctet x.octet fun o =>
          { o with fills := o.fills ++
              [{ id := id, core := x.core, slot := p.toNat, scaleLen := len - 16384, bytes := [], badAt := [] }] }
        let s' := s'.post (x.now + 1) 10 (.fillRead x.octet id x.core src (len / 256))
        wheelThen s x i (s'.post (x.now + len / 256 + 2) 4 (.fillDone x.octet id))) s

/-- `mtr opb, opa ~oxn` (08 R161). -/
def execMtr (sf : Bool) (p b : BitVec 6) (n : BitVec 3) (s : State) : Host.Outcome State Fault Refusal :=
  issueWord sf .x false (mPre n fun _ _ w => fld w 63 16 != 0)
    (fun s x =>
      let i := mIdx (s.mpar x n)
      let o := s.octet x.octet
      let t := (o.slot p.toNat).tag
      if (o.slot b.toNat).claim ≠ some x.core then matrixFault s 2 0 b.toNat i
      else if t ≠ 1 ∧ t ≠ 8 then matrixFault s 3 0 p.toNat i
      else
        let id := s.seq
        let s' := s.post (x.now + 1) 10 (.mtrRead x.octet id x.core p.toNat b.toNat)
        let s' := s'.post (x.now + 1) 0 (.tag x.octet b.toNat t)
        wheelThen s x i (s'.post (x.now + 130) 4 (.mtrDone x.octet id))) s

/-- An `mfill` reads 256 bytes of the scratchpad (08 R160); 64-bit words with an uncorrectable error get bad parity. -/
def State.fillRead (s : State) (octet id core src left : Nat) : State :=
  let r := s.engineRead (s.bindOf core) src 256
  let s := (s.noteRead (s.engineKeys (s.bindOf core) src 256)).modOctet octet fun o =>
    { o with fills := o.fills.map fun f =>
        if f.id = id then
          { f with bytes := f.bytes ++ r.1, badAt := f.badAt ++ r.2.map fun b => (f.bytes.length + b) / 8 }
        else f }
  if left ≤ 1 then s else s.post (s.ccyc + 1) 10 (.fillRead octet id core (src + 256) (left - 1))

/-- Write an operand slot's bytes, with the words of bad parity: all earlier marks in the bytes written go. -/
def State.writeSlot (s : State) (octet slot : Nat) (bs : List Byte) (bad : List Nat) : State :=
  let s := s.write (slotKey octet slot 0) bs
  s.modOctet octet fun o =>
    { o with badParity :=
        (o.badParity.filter fun b => b.1 != slot || bs.length ≤ 8 * b.2) ++ bad.map fun w => (slot, w) }

/-- The contents of an `mfill` are in place (08 R160). DESIGN CHOICE (log 83): until now the slot holds its old contents
whole. -/
def State.fillDone (s : State) (octet id : Nat) : State :=
  match (s.octet octet).fills.find? (·.id == id) with
  | none => s
  | some f =>
    let s := s.writeSlot octet f.slot (f.bytes.take (16384 + f.scaleLen)) f.badAt
    s.modOctet octet fun o => { o with fills := o.fills.filter (·.id != id) }

/-- Rows of equal length turned into columns, with fuel for their length. -/
def columns {α : Type} : Nat → List (List α) → List (List α)
  | 0, _ => []
  | n + 1, rows => rows.filterMap (·.head?) :: columns n (rows.map List.tail)

/-- An `mtr` reads its source; an earlier one less than 128 cycles before then yields this source's transpose as well
(08 R161). A destination word with an element of a source word of bad parity gets bad parity. -/
def State.mtrRead (s : State) (octet id core src dst : Nat) : State :=
  let o := s.octet octet
  let rows := chunks 128 128 (s.mem.block (slotKey octet src 0) 16384)
  let bytes := (columns 128 rows).flatten
  let badB := (o.badParity.filter fun b => b.1 == src && b.2 < 2048).flatMap fun b => rangeFrom (8 * b.2) 8
  let bad := (badB.map fun e => (e % 128 * 128 + e / 128) / 8).dedup
  let now := s.ccyc - 1
  let t : Transpose := { id := id, core := core, issue := now, dst := dst, bytes := bytes, bad := bad }
  s.modOctet octet fun o =>
    { o with paths := (o.paths.map fun q =>
        if now < q.issue + 128 then { q with bytes := bytes, bad := bad } else q) ++ [t] }

/-- The transpose is in place (08 R161). -/
def State.mtrDone (s : State) (octet id : Nat) : State :=
  match (s.octet octet).paths.find? (·.id == id) with
  | none => s
  | some t =>
    let s := s.writeSlot octet t.dst t.bytes t.bad
    s.modOctet octet fun o => { o with paths := o.paths.filter (·.id != id) }

/-! ### Multiply-accumulate -/

/-- Cycles of a block step under `b16` and `b16t`, by the operands' tags (08 R163). -/
def stepCycles (ta tb : BitVec 16) : Nat :=
  match tagEf ta with
  | 8 => 16
  | 7 => 64
  | _ => 2 * max (tagPk ta) (tagPk tb)

/-- Ceiling of log2, for 1 to 8. -/
def clog2 (n : Nat) : Nat := if n ≤ 1 then 0 else if n ≤ 2 then 1 else if n ≤ 4 then 2 else 3

/-- The array time T (08 R163), for `kb` = K/16 block steps of `l` cycles. -/
def arrayTime (shape kb l : Nat) : Nat :=
  match shape with
  | 0 => 16 * (kb * l)
  | 1 => kb * l
  | _ => kb * l + 4 * clog2 kb

/-- Whether an operand's tags serve an `mma` of K elements (08 R162). -/
def Octet.operandOk (o : Octet) (slot k ef : Nat) : Bool :=
  let t := (o.slot slot).tag
  tagEf t == ef && (ef == 7 || ef == 8 || ef == 9) &&
    (!(ef == 7 && 64 < k) || (slot < 63 && (o.slot (slot + 1)).tag == t))

/-- The cycles from `a` to `b` overlap the array reservation of a command (08 R163). -/
def MCmd.occupies (m : MCmd) (a b : Nat) : Bool := a ≤ m.issue + m.time + 1 + m.slack && m.issue + 2 ≤ b

/-- `mma` and `mmaz` (08 R162-R164): the tags are checked at issue, LIVE is set, and block steps, read and write are put
at their cycles. DESIGN CHOICE (log 101): bits [31:24] of the slot register are V (08 R157), also where 11 R220 says that
they make a launch value fault. -/
def mmaOp (zero sf : Bool) (c : BitVec 3) (p b : BitVec 6) (h : BitVec 2) (n : BitVec 3) (s : State) :
    Host.Outcome State Fault Refusal :=
  issueWord sf .x false
    (mPre n fun _ _ w => fld w 63 32 != 0 || fld w 23 19 != 0 || h == 3)
    (fun s x =>
      let w := s.mpar x n
      let i := mIdx w
      let a := c.toNat
      let kb := fld w 18 16 + 1
      let v := fld w 31 24
      let o := s.octet x.octet
      let ta := (o.slot p.toNat).tag
      let tb := (o.slot b.toNat).tag
      if !s.accGiven x a then matrixFault s 5 a 0 i
      else if !o.operandOk p.toNat (16 * kb) (tagEf ta) then matrixFault s 3 a p.toNat i
      else if !o.operandOk b.toNat (16 * kb) (tagEf ta) then matrixFault s 3 a b.toNat i
      else
        let l := stepCycles ta tb
        let t := arrayTime h.toNat kb l
        let l := if h = 0 then 16 * l else l
        let busy (lo : Nat) : Bool := o.cmds.any (·.occupies lo (lo + l - 1))
        let id := s.seq
        let cmd : MCmd :=
          { id := id, core := x.core, bind := x.bind, issue := x.now, zero := zero, acc := a, opa := p.toNat,
            opb := b.toNat, shape := h.toNat, kb := kb, slack := v, time := t, stepLen := l, slotIdx := i,
            tagA := ta, tagB := tb, got := [], reruns := 0,
            clash := (List.range kb).filter fun j => busy (x.now + 2 + j * l),
            rerunClash := busy (x.now + t + 2), bad := false, accIn := [], accBad := false }
        let s' := s.modOctet x.octet fun o =>
          { o.modAcc a (fun k => { k with live := true }) with cmds := o.cmds ++ [cmd] }
        let s' := (List.range kb).foldl
          (fun s j => s.post (x.now + 2 + j * l) 10 (.blockStep x.octet id j)) s'
        let s' := s'.post (x.now + t + 23 + v) 10 (.mmaRead x.octet id)
        wheelThen s x i (s'.post (x.now + t + 24 + v) 6 (.mmaWrite x.octet id))) s

/-- `mma.sh acc, opa, opb ~oxn` (08 R162). -/
def execMma (sf : Bool) (c : BitVec 3) (p b : BitVec 6) (h : BitVec 2) (n : BitVec 3) (s : State) :
    Host.Outcome State Fault Refusal := mmaOp false sf c p b h n s

/-- `mmaz.sh acc, opa, opb ~oxn` (08 R162). -/
def execMmaz (sf : Bool) (c : BitVec 3) (p b : BitVec 6) (h : BitVec 2) (n : BitVec 3) (s : State) :
    Host.Outcome State Fault Refusal := mmaOp true sf c p b h n s

/-- The slot bytes that hold elements k0 to k0+15 of row `i`, as offsets from the slot's first byte and lengths (08 R158),
BPN planes as they are read. -/
def rowSpans (t : BitVec 16) (i k0 : Nat) : List (Nat × Nat) :=
  match tagEf t with
  | 7 => [(128 * i + 2 * (k0 % 64), 32)]
  | 8 => [(128 * i + k0, 16)]
  | _ =>
    let b := blockLen (tagBl t)
    (List.range (tagPk t)).map fun p => (128 * i + k0 / b * b + p * (b / 8) + k0 % b / 8, 2)

/-- The offset of the scale byte of row `i`'s block that holds element k0, if the tile has scales. -/
def scaleOff (t : BitVec 16) (i k0 : Nat) : Option Nat :=
  let b := blockLen (tagBl t)
  if b = 0 then none else some (16384 + 128 / b * i + k0 / b)

/-- Elements k0 to k0+15 of row `i` of a tile (08 R158, 03 R52-R54). -/
def State.rowElems (s : State) (octet slot : Nat) (t : BitVec 16) (i k0 : Nat) : List Elem :=
  let code := (scaleOff t i k0).map fun o => (s.mem.read (slotKey octet slot o)).toNat
  let at_ (o n : Nat) : List Byte := s.mem.block (slotKey octet slot o) n
  match tagEf t with
  | 7 => (chunks 2 16 (at_ (128 * i + 2 * (k0 % 64)) 32)).map fun b => elemBf16 (ofBytes b)
  | 8 => (at_ (128 * i + k0) 16).map fun b => (elemE4m3 b.toNat).scaled code
  | _ =>
    let b := blockLen (tagBl t)
    let q := (unplane b (at_ (128 * i + k0 / b * b) b)).drop (k0 % b)
    (q.take 16).map fun e => (Elem.fin (planeVal (tagPk t) (sval e.toNat 8)) 0).scaled code

/-- The slot that holds element k0: BF16 tiles go on in the next slot (08 R162). -/
def operandSlot (slot : Nat) (t : BitVec 16) (k0 : Nat) : Nat := if tagEf t = 7 then slot + k0 / 64 else slot

/-- The 16 columns of an operand that block step `j` reads: 128 rows of 16 elements. -/
def State.stepRows (s : State) (octet slot : Nat) (t : BitVec 16) (j : Nat) : List (List Elem) :=
  (List.range 128).map fun i => s.rowElems octet (operandSlot slot t (16 * j)) t i (16 * j)

/-- The words of bad parity that a block step reads of an operand, by slot and place in it (08 R160). -/
def Octet.stepBad (o : Octet) (slot : Nat) (t : BitVec 16) (j : Nat) : List (Nat × Nat) :=
  let sl := operandSlot slot t (16 * j)
  (o.badParity.filter fun b => b.1 == sl).filter fun b => (List.range 128).any fun i =>
    ((rowSpans t i (16 * j)).any fun r => r.1 < 8 * b.2 + 8 && 8 * b.2 < r.1 + r.2) ||
      ((scaleOff t i (16 * j)).map fun r => r / 8 == b.2).getD false

/-- A command changed in its octet. -/
def State.modCmd (s : State) (octet id : Nat) (f : MCmd → MCmd) : State :=
  s.modOctet octet fun o => { o with cmds := o.cmds.map fun m => if m.id = id then f m else m }

/-- A block step runs, or runs again in the slack (08 R166, R167; 13 R248): it reads its columns, and a mismatch gives
one rerun where the slack has room, else poisons the result. -/
def State.blockStep (s : State) (octet id j : Nat) : State :=
  let o := s.octet octet
  match o.cmds.find? (·.id == id) with
  | none => s
  | some m =>
    let rerun := (tfind m.got j).isSome
    let got : Captured := { a := s.stepRows octet m.opa m.tagA j, b := s.stepRows octet m.opb m.tagB j }
    let words := (o.stepBad m.opa m.tagA j ++ o.stepBad m.opb m.tagB j).dedup
    let clash := if rerun then m.rerunClash else m.clash.contains j
    let bad := o.arrayErr || clash || !words.isEmpty
    let s := s.modOctet octet fun o => { o with arrayErr := false }
    let s := s.modCmd octet id fun m => { m with got := tset m.got j got }
    if !bad then s
    else
    let s := s.noteBad (words.map fun w => (.slot, slotKey octet w.1 (8 * w.2)))
    let s := if o.arrayErr || clash then s.noteErr .array (m.reruns == 0 && m.stepLen ≤ m.slack) octet else s
    if m.reruns = 0 ∧ m.stepLen ≤ m.slack then
      (s.modCmd octet id fun m => { m with reruns := 1 }).post (m.issue + m.time + 2) 10 (.blockStep octet id j)
    else s.modCmd octet id fun m => { m with bad := true }

/-- The FP32 values of an accumulator slot, row-major. -/
def State.accVals (s : State) (octet a : Nat) : List (BitVec 32) :=
  (chunks 4 16384 (s.mem.block (accBytes octet a) 0x10000)).map fun b => BitVec.ofNat 32 (ofBytes b)

/-- The matrix unit reads an accumulator slot: the pattern in its words sets POISON (14 R252); reads are logged. -/
def State.readAcc (s : State) (octet a : Nat) : State :=
  let key := accBytes octet a
  let s := { s with dev := { s.dev with log := s.dev.log ++ logMarks s.ccyc (marksIn s.ecc key 0x10000) } }
  if poisoned s.ecc key 0x10000 then s.modOctet octet (·.modAcc a fun k => { k with poison := true }) else s

/-- A command reads its accumulator, one cycle before the write (08 R162, R164); `mmaz` starts from +0. -/
def State.mmaRead (s : State) (octet id : Nat) : State :=
  match (s.octet octet).cmds.find? (·.id == id) with
  | none => s
  | some m =>
    if m.zero then s.modCmd octet id fun m => { m with accIn := List.replicate 16384 0 }
    else
      let s := s.readAcc octet m.acc
      let bad := ((s.octet octet).acc m.acc).poison
      let v := s.accVals octet m.acc
      s.modCmd octet id fun m => { m with accIn := v, accBad := bad }

/-- Row `i` or column `i` of an operand over a command's block steps. -/
def operandRow (l : List (List (List Elem))) (i : Nat) : List (List Elem) := l.map fun m => m.getD i []

/-- The results of a command, row-major (08 R162). -/
def MCmd.results (m : MCmd) : List (BitVec 32) :=
  let w := adderW (tagEf m.tagA)
  let caps := (List.range m.kb).map fun j => tget { a := [], b := [] } m.got j
  let as_ := (List.range 128).map (operandRow (caps.map (·.a)))
  let bs := (List.range 128).map (operandRow (caps.map (·.b)))
  ((as_.zip (chunks 128 128 m.accIn)).map fun r =>
    (bs.zip r.2).map fun c =>
      BitVec.ofNat 32 (foldShape m.shape w c.2.toNat
        ((r.1.zip c.1).map fun q => (q.1.zip q.2).map fun e => e.1.mul e.2))).flatten

/-- A command writes its accumulator (08 R162, R164, R167): LIVE set, POISON as its checks and its input leave it, and a
data-error trap for the issuing X-stream where a mismatch poisoned it. -/
def State.mmaWrite (s : State) (octet id : Nat) : State :=
  match (s.octet octet).cmds.find? (·.id == id) with
  | none => s
  | some m =>
    let s := s.write (accBytes octet m.acc) ((m.results.map fun v => leBytes 4 v.toNat).flatten)
    let bad := m.bad || m.accBad
    let s := s.modOctet octet fun o =>
      { o.modAcc m.acc (fun k => { k with live := true, poison := bad || (k.poison && !m.zero) }) with
        cmds := o.cmds.filter (·.id != id) }
    if m.bad then s.pendTrap m.core .x 0x11 0 (matrixVal m.acc 0 m.slotIdx) else s

/-! ### Write-back -/

/-- Bytes that a write-back puts out (08 R169). -/
def Acc.outBytes (k : Acc) : Nat :=
  match k.fmt with
  | 6 => 65536
  | 7 => 32768
  | _ => slotBytes k.bl

/-- Whether a 32-bit L-space destination of `n` bytes lies in one near or far column of a core of the octet, within the
partition (08 R169, 14 R253). -/
def State.mwbReach (s : State) (x : Ctx) (dst n : Nat) : Bool :=
  let col := lCol dst
  (coreOctet col == x.octet || coreOctet (col + 1024) == x.octet) && lOff dst + n ≤ 0x100000 &&
    s.colPart col == s.partOfCore x.core && (s.partOfCore x.core).isSome && !altHit (s.pubs x.bind) (2 * 2 ^ 60 + dst) n

/-- `mwb acc ~oxn` (08 R169). DESIGN CHOICE (log 97): a DST that is no multiple of 32 is a reserved-field fault. DEDUCED
(log 27): a copy of an FP32 slot rounds nothing, so SR alone does not have `ox7` checked. DESIGN CHOICE (log 113): N is
that of the slot's configuration at issue, whatever it is at the snapshot. -/
def execMwb (sf : Bool) (c n : BitVec 3) (s : State) : Host.Outcome State Fault Refusal :=
  issueWord sf .x false
    (mPre n fun s x w =>
      fld w 63 49 != 0 || fld w 47 16 % 32 != 0 ||
        (((s.octet x.octet).acc c.toNat).sr && ((s.octet x.octet).acc c.toNat).fmt != 6 && wfld (s.ox x 7) 63 48 != 0))
    (fun s x =>
      let w := s.mpar x n
      let a := c.toNat
      let k := (s.octet x.octet).acc a
      let dst := fld w 47 16
      let p := 2 * 2 ^ 60 + dst
      if !s.accGiven x a then matrixFault s 5 a 0 (mIdx w)
      else if !s.mwbReach x dst k.outBytes then .trap s 0x08 0 (BitVec.ofNat 64 p)
      else
        let g := (s.core x.core).ctl
        wheelThen s x (mIdx w)
          (s.post (x.now + 1) 10 (.mwbSnap x.octet s.seq x.core x.half a p (bitAt w 48) g.gseed g.gstrm
            (wfld (s.ox x 7) 47 0)))) s

/-- The rounding of element `e` of a write-back: to nearest even, or stochastic by the element's random bits (08 R169). -/
def mwbRnd (sr : Bool) (seed : Word) (strm : BitVec 16) (bx e : Nat) : Rnd :=
  if sr then .sto (gen seed strm.toNat ((bx + e) % 2 ^ 48)).toNat else .even

/-- The bytes that a write-back puts out: elements, then scales (08 R169). -/
def mwbBytes (k : Acc) (seed : Word) (strm : BitVec 16) (bx : Nat) (vals : List (BitVec 32)) : List Byte :=
  match k.fmt with
  | 6 => (vals.map fun v => leBytes 4 v.toNat).flatten
  | 7 =>
    (vals.zipIdx.map fun v =>
      leBytes 2 (packIeee bf16 (mwbRnd k.sr seed strm bx v.2) false (unpackIeee f32 v.1.toNat))).flatten
  | _ =>
    let b := blockLen k.bl
    let blocks := ((chunks b (16384 / b) vals).zipIdx).map fun q =>
      scaleBlock (k.fmt == 9) false (fun i => mwbRnd k.sr seed strm bx (q.2 * b + i))
        (q.1.map fun v => unpackIeee f32 v.toNat)
    let els := blocks.map fun r =>
      let bytes := r.2.map (BitVec.ofNat 8)
      if k.fmt = 9 then toPlanes b bytes else bytes
    els.flatten ++ blocks.map fun r => BitVec.ofNat 8 r.1

/-- The snapshot of a write-back in cycle c+1, its conversion, and the cycles of its output (08 R169); `key` is the
destination's pointer. A poisoned snapshot goes out as poison. DESIGN CHOICE (log 113): the configuration that the slot
has now gives the bytes that go out. -/
def State.mwbSnap (s : State) (octet id core : Nat) (half : Half) (a key : Nat) (rel : Bool) (seed : Word)
    (strm : BitVec 16) (bx : Nat) : State :=
  let s := s.readAcc octet a
  let k := (s.octet octet).acc a
  let bytes := mwbBytes k seed strm bx (s.accVals octet a)
  let wb : WriteBack := { id := id, core := core, half := half, bytes := bytes,
                          poisonWords := if k.poison then (List.range 32).map (8 * ·) else [] }
  let s := s.modOctet octet fun o => { o with backs := o.backs ++ [wb] }
  let s := if k.poison then
      s.noteErr .memory false (accBytes octet a)
    else s
  let s := if rel then s.post (s.ccyc + 1) 6 (.accZero octet a none) else s
  s.postTie (s.ccyc + 23) 4 (engineTie (s.ccyc - 1) core) (.mwbLand octet id key 0)

/-- 256 bytes of a write-back land in the invisible half (08 R169, 14 R269), in the order of engine writes of one cycle: the
word issued 24 cycles before its first (10 R198). -/
def State.mwbLand (s : State) (octet id key beat : Nat) : State :=
  match (s.octet octet).backs.find? (·.id == id) with
  | none => s
  | some b =>
    let s := s.engineWrite (s.bindOf b.core) (key + 256 * beat) (b.bytes.take 256) b.poisonWords
    let rest := b.bytes.drop 256
    let s := s.modOctet octet fun o =>
      { o with backs := if rest.isEmpty then o.backs.filter (·.id != id)
                        else o.backs.map fun q => if q.id = id then { q with bytes := rest } else q }
    if rest.isEmpty then s
    else s.postTie (s.ccyc + 1) 4 (engineTie (s.ccyc - 24 - beat) b.core) (.mwbLand octet id key (beat + 1))

/-- An accumulator slot takes its configuration at c+1 (08 R171). -/
def State.accConfigure (s : State) (octet a fmt bl : Nat) (sr drop : Bool) : State :=
  let s := if drop then s.zeroAcc octet a else s
  s.modOctet octet (·.modAcc a fun k => { k with fmt := fmt, bl := bl, sr := sr })

end Sys2Proof.Machine
end

