-- ==== Sys2Proof/Machine/PageFormat.lean ====
section
/-!
DEFINITION. Page formats (14 R259-R262): where a page keeps its elements and scales, and how the decoding paths of the
Caddy read them.
-/

namespace Sys2Proof.Machine

/-- A page's format attribute, unpacked, with the page's size (14 R259). -/
structure PFmt where
  ef : Nat
  pk : Nat
  bl : Nat
  tail : Bool
  grp : Nat
  size : Nat
  deriving DecidableEq, Repr

/-- The attribute of an entry; its bits are those of word 1. -/
def pfmt (e : Word × Word) : PFmt :=
  { ef := wfld e.2 63 60, pk := wfld e.2 59 56, bl := wfld e.2 55 54, tail := e.2.getLsbD 53,
    grp := 2 ^ wfld e.2 52 49, size := pageSize e.1 }

/-- Whether an attribute's fields combine (14 R259). -/
def pfmtOk (w1 : Word) : Bool :=
  let rest := wfld w1 59 49
  wfld w1 48 36 == 0 && match wfld w1 63 60 with
    | 1 => rest == 0
    | 6 => rest == 0
    | 7 => rest == 0
    | 8 => wfld w1 59 56 == 0 && wfld w1 52 49 == 0 && (wfld w1 55 54 != 0 || !w1.getLsbD 53)
    | 9 => wfld w1 55 54 != 0 && 2 ≤ wfld w1 59 56 && wfld w1 59 56 ≤ 8 && wfld w1 52 49 ≤ 6
    | _ => false

/-- Block length; 0 for none. -/
def PFmt.len (f : PFmt) : Nat :=
  match f.bl with
  | 0 => 0 | 1 => 16 | 2 => 32 | _ => 64

/-- Bytes of an element of an unscaled format (14 R260). -/
def PFmt.width (f : PFmt) : Nat :=
  match f.ef with
  | 6 => 4
  | 7 => 2
  | _ => 1

/-- Bytes of a unit of 64 blocks with its scales. -/
def PFmt.unit (f : PFmt) : Nat := 64 * f.len + 64

/-- Elements or blocks that a page holds (14 R260). -/
def PFmt.count (f : PFmt) : Nat :=
  if f.len = 0 then f.size / f.width
  else if f.tail then f.size * (f.len - 1) / (f.len * f.len)
  else 64 * (f.size / f.unit)

/-- The page offset of a block's elements (14 R260). -/
def PFmt.blockOff (f : PFmt) (b : Nat) : Nat :=
  if f.tail then b * f.len else b / 64 * f.unit + b % 64 * f.len

/-- The page offset of a block's scale byte. -/
def PFmt.scaleOff (f : PFmt) (b : Nat) : Nat :=
  if f.tail then f.size * (f.len - 1) / f.len + b else b / 64 * f.unit + 64 * f.len + b % 64

/-- Blocks of a plane group (14 R260). -/
def PFmt.group (f : PFmt) : Nat := if f.ef ≠ 9 ∨ f.grp = 0 then 1 else f.grp

/-- The page offset of byte `k` of a block in the plane layout of 03 R52, or of its element `k` where elements are
bytes. -/
def PFmt.byteOff (f : PFmt) (b k : Nat) : Nat :=
  if f.ef = 9 then
    let s := f.len / 8
    let g := f.group
    f.blockOff (b / g * g) + k / s * (g * s) + b % g * s + k % s
  else f.blockOff b + k

/-- The block that begins at an offset among element bytes of blocks alone, if one does: in a plane group, at its bytes of
plane 0 (14 R260). -/
def PFmt.blockIn (f : PFmt) (off : Nat) : Option Nat :=
  let s := if f.ef = 9 then f.len / 8 else f.len
  let r := off % (f.group * f.len)
  if r % s = 0 ∧ r / s < f.group then some (off / (f.group * f.len) * f.group + r / s) else none

/-- The element or block that begins at a page offset, if one does (14 R260). -/
def PFmt.blockAt (f : PFmt) (off : Nat) : Option Nat :=
  let b :=
    if f.len = 0 then (if off % f.width = 0 then some (off / f.width) else none)
    else if f.tail then (if off < f.size * (f.len - 1) / f.len then f.blockIn off else none)
    else if off % f.unit < 64 * f.len then (f.blockIn (off % f.unit)).map (off / f.unit * 64 + ·)
    else none
  b.filter (· < f.count)

/-- The element or block at which a source may begin: for a decoding `ccopy` of BPN blocks, the first of a plane group
(14 R261); for `cslot` (`slot`), any that begins a row of the operand (14 R262). -/
def PFmt.index (f : PFmt) (slot : Bool) (off : Nat) : Option Nat :=
  (f.blockAt off).filter fun i => if slot then f.len == 0 || i % (128 / f.len) == 0 else i % f.group == 0

/-- Where an element or block lies, by the named address of its page's base, or why it cannot be found: no page, or a page of another format (14 R261, R262). -/
inductive Place2 where
  | at_ (base : Nat) (f : PFmt) (i : Nat)
  | miss (a : Nat)
  | badFmt
  deriving DecidableEq, Repr

/-- Where a read of the F-space address `a`, as a word names it, goes: the visible half of a published buffer (14 R269).
-/
def Bind.readAt (b : Bind) (a : Nat) : Nat := pubRouteF b.pubs false (a % 2 ^ 48)

/-- The page that a read of the named address `a` meets. -/
def Bind.srcPage (b : Bind) (octet a : Nat) : Option (Word × Word) := b.page octet (b.readAt a)

/-- The named address at which the page of the named address `a` begins: the page's layout is that of the page that is
read, and names go on from `a` (14 R269). -/
def Bind.namedBase (b : Bind) (a : Nat) (e : Word × Word) : Nat := (a + 2 ^ 48 - (b.readAt a - pageBase e.1)) % 2 ^ 48

/-- Walk on from element or block `i` counted from the start of the page at the named address `a`, with fuel. -/
def Bind.walk (b : Bind) (octet fmt : Nat) : Nat → Nat → Nat → Place2
  | 0, a, _ => .miss (b.readAt a)
  | n + 1, a, i =>
    match b.srcPage octet a with
    | none => .miss (b.readAt a)
    | some e =>
      let f := pfmt e
      if pageFmt e ≠ fmt then .badFmt
      else if i < f.count then .at_ (b.namedBase a e) f i
      else if f.count = 0 then .badFmt
      else Bind.walk b octet fmt n (b.namedBase a e + f.size) (i - f.count)

/-- Element or block `i` counted from the one that begins at the named address `a`, for a `cslot` or a decoding `ccopy`.
-/
def Bind.elemAt (b : Bind) (octet : Nat) (slot : Bool) (a i : Nat) : Place2 :=
  match b.srcPage octet a with
  | none => .miss (b.readAt a)
  | some e =>
    match (pfmt e).index slot (b.readAt a - pageBase e.1) with
    | none => .badFmt
    | some j => b.walk octet (pageFmt e) 2048 (b.namedBase a e) (j + i)

/-- FP32 bits of an element from its element byte or bytes and its block's scale code (14 R261). -/
def decodeElem (f : PFmt) (els : List Byte) (code : Option Nat) : Nat :=
  match f.ef with
  | 6 => ofBytes els
  | 7 => packIeee f32 .even false (unpackIeee bf16 (ofBytes els))
  | _ =>
    let v := if f.ef = 9 then FVal.ofInt (planeVal f.pk (sval (ofBytes els) 8)) else unpackE4m3 (ofBytes els)
    match code with
    | none => packIeee f32 .even false v
    | some c =>
      if c = 0 then 0
      else if c = 0xFF then 0x7FC00000
      else packIeee f32 .even false (v.scale ((c : Int) - 127))

/-- The element's named addresses in F-space: its bytes, or for BPN the bytes of the planes that are read, and its scale. -/
def elemAddrs (base : Nat) (f : PFmt) (blk e : Nat) : List Nat :=
  if f.len = 0 then rangeFrom (base + blk * f.width) f.width
  else if f.ef = 9 then
    ((List.range f.pk).map fun p => base + f.byteOff blk (p * (f.len / 8) + e / 8)) ++ [base + f.scaleOff blk]
  else [base + f.byteOff blk e, base + f.scaleOff blk]

/-- The FP32 bytes of element `e` of a block from the bytes at `elemAddrs`. -/
def elemBytes (f : PFmt) (e : Nat) (bs : List Byte) : List Byte :=
  if f.len = 0 then leBytes 4 (decodeElem f bs none)
  else
    let code := some ((bs.getLastD 0).toNat)
    if f.ef = 9 then
      let q := (List.range f.pk).foldl (fun a p => a + if bitAt (bs.getD p 0).toNat (e % 8) then 2 ^ (7 - p) else 0) 0
      leBytes 4 (decodeElem f [BitVec.ofNat 8 q] code)
    else leBytes 4 (decodeElem f (bs.take 1) code)

end Sys2Proof.Machine
end

