-- ==== Sys2Proof/Machine/Caddy.lean ====
section
/-!
DEFINITION. The Caddy (10 R196-R207; 14 R254-R267; 16 R286; 22 R349, R350): its words, transfers and their beats,
batches, static copy schedules, published buffers and the posted-store journal.
-/

namespace Sys2Proof.Machine

/-! ### Streams' Caddy state -/

/-- The state with a stream's Caddy state changed. -/
def State.modCaddy (s : State) (c : Nat) (h : Half) (f : CaddyStream → CaddyStream) : State :=
  s.modStream c h fun t => { t with caddy := f t.caddy }

/-- The half that takes an asynchronous trap of a stream's command: the X-stream for the sweep stream (02 R37). -/
def asyncHalf (h : Half) : Half := if h = .a then .a else .x

/-- The batch number that a failing transfer records: its batch's, or NEXT (10 R207). -/
def CaddyStream.batchOf (k : CaddyStream) (id : Nat) : Nat :=
  match k.batches.find? (fun b => b.xfers.contains id) with
  | some b => b.num
  | none => k.next

/-- The first failure since the last `cstat` is kept (10 R206, R207). -/
def State.caddyErr (s : State) (x : Xfer) (err : Nat) : State :=
  s.modCaddy x.core x.half fun k =>
    if k.err = 0 then { k with err := err, ebatch := k.batchOf x.id } else k

/-- A transfer. -/
def State.xfer (s : State) (id : Nat) : Option Xfer := s.xfers.find? (·.id == id)

/-- The state with a transfer changed. -/
def State.modXfer (s : State) (id : Nat) (f : Xfer → Xfer) : State :=
  { s with xfers := s.xfers.map fun x => if x.id = id then f x else x }

/-- Transfers under way: one that a missing page stopped is abandoned when its domain is ended (22 R342). -/
def State.liveXfers (s : State) : List Xfer :=
  s.xfers.filter fun x => !(x.stalled.isSome && (s.bindAt x.bind).ending.isSome)

/-! ### Spans and beats (10 R198, R201) -/

/-- Bytes of a block of `cdist`. -/
def distBlock (r1 : Word) : Nat := 64 * wfld r1 47 32

/-- Blocks of `cdist`. -/
def distCount (r1 : Word) : Nat := wfld r1 63 48

/-- Logical index of the core that block `b` goes to. -/
def distCore (r2 : Word) (b : Nat) : Nat := wfld r2 9 0 + b % wfld r2 25 20 * wfld r2 19 10

/-- Scratchpad offset of block `b`. -/
def distOff (r1 r2 : Word) (b : Nat) : Nat := wfld r1 17 0 + b / wfld r2 25 20 * wfld r2 43 26

/-- Beats of 256 bytes that `n` bytes make. -/
def beatsOf (n : Nat) : Nat := (n + 255) / 256

/-- Beats of a transfer; each block of `cdist` begins a beat. -/
def Xfer.beats (x : Xfer) : Nat :=
  match x.kind with
  | .dist => distCount x.aux * beatsOf (distBlock x.aux)
  | _ => beatsOf x.bytes

/-- A beat's source offset, its length, and its destination: a pointer, or an offset in the operand slot. -/
def Xfer.span (x : Xfer) (j : Nat) : Nat × Nat × Nat :=
  match x.kind with
  | .dist =>
    let bs := distBlock x.aux
    let k := beatsOf bs
    let b := j / k
    let o := 256 * (j % k)
    (b * bs + o, min 256 (bs - o),
      sPtr (coreLayer x.core * 1024 + distCore x.aux2 b) 0 (distOff x.aux x.aux2 b + o))
  | .slot => (256 * j, min 256 (x.bytes - 256 * j), 256 * j)
  | _ => (256 * j, min 256 (x.bytes - 256 * j), x.dst.toNat + 256 * j)

/-! ### Reading a beat -/

/-- A part of a beat as it is read from F-space: its place in the beat, the routed addresses of its bytes, the page format
by which an element is decoded (`none` for bytes as stored), and whether it names a published buffer's second half, which
is out of reach (14 R268). -/
structure Piece where
  off : Nat
  addrs : List Nat
  dec : Option (PFmt × Nat)
  barred : Bool
  deriving DecidableEq, Repr

/-- What reading a beat comes to. -/
structure Fetch where
  data : List (Nat × Byte) := []
  poison : List Nat := []
  miss : Option Nat := none
  host : Bool := false
  refused : Option Nat := none
  badFmt : Bool := false
  /-- the memory words that were read, by key -/
  keys : List (Nat × Nat) := []
  /-- the registers and queue entries of bad parity that were read -/
  bad : List (LogPlace × Nat) := []
  deriving DecidableEq, Repr

/-- Bytes placed from an offset on. -/
def placed (off : Nat) (bs : List Byte) : List (Nat × Byte) := bs.zipIdx.map fun b => (off + b.2, b.1)

/-- Read one piece and add it to what was read; a piece with a refused byte is left out. -/
def State.readPiece (s : State) (w : FWho) (host : Bool) (r : Fetch) (p : Piece) : Fetch :=
  let rs := p.addrs.map fun a => (a, if p.barred then .refused else s.fByte w a host)
  match rs.find? (fun q => q.2 == .miss) with
  | some q => { r with miss := some (r.miss.getD q.1) }
  | none =>
    if rs.any (fun q => q.2 == .host) then { r with host := true }
    else match rs.find? (fun q => q.2 == .refused) with
      | some q => { r with refused := some (r.refused.getD q.1) }
      | none =>
        let bs := rs.map fun q => match q.2 with | .byte v _ => v | _ => 0
        let bad := (rs.zipIdx.filter fun q => match q.1.2 with | .byte _ b => b | _ => false).map (·.2)
        let r := { r with keys := r.keys ++ s.fKeys w p.addrs }
        match p.dec with
        | none => { r with data := r.data ++ placed p.off bs, poison := r.poison ++ (bad.map fun k => (p.off + k) / 8 * 8).dedup }
        | some d =>
          { r with data := r.data ++ placed p.off (elemBytes d.1 d.2 bs),
                   poison := if bad.isEmpty then r.poison else r.poison ++ [p.off / 8 * 8] }

/-- The block length of an F-space source's first page; 0 where the page is not loaded or has no blocks. -/
def Bind.srcLen (b : Bind) (oct src : Nat) : Nat := ((b.srcPage oct src).map fun e => (pfmt e).len).getD 0

/-- Where element `n` of a decoding source begins, counted from its first: its place, its place in its block, and the
named addresses that it is decoded from (14 R260, R261). -/
def Bind.decElem (b : Bind) (oct src n : Nat) : Place2 × Nat × List Nat :=
  let len := b.srcLen oct src
  let e := if len = 0 then 0 else n % len
  match b.elemAt oct false src (if len = 0 then n else n / len) with
  | .at_ base f j => if f.ef = 1 then (.badFmt, e, []) else (.at_ base f j, e, elemAddrs base f j e)
  | q => (q, e, [])

/-- Where byte `q` of an operand slot is read from a page with scales: block bytes in the slot's layout, then scale bytes
(14 R262). -/
def Bind.slotByte (b : Bind) (oct src q : Nat) : Place2 × List Nat :=
  let len := b.srcLen oct src
  match b.elemAt oct true src (if q < 16384 then q / len else q - 16384) with
  | .at_ base f j => (.at_ base f j, [if q < 16384 then base + f.byteOff j (q % len) else base + f.scaleOff j])
  | p => (p, [])

/-- Whether one of some F-space addresses, as a word names them, lies in a published buffer's second half (14 R268). -/
def Bind.namesAlt (b : Bind) (names : List Nat) : Bool := names.any fun a => altHit b.pubs (3 * 2 ^ 60 + a % 2 ^ 48) 1

/-- A piece at place `off` of a beat from its named addresses, or a format failure where one of the pages that are read
has another format than the source's first (14 R261, R262, R269). -/
def Bind.pieceOf (b : Bind) (oct src off : Nat) (names : List Nat) (dec : Option (PFmt × Nat)) : Option Piece :=
  let f0 := (b.srcPage oct src).map pageFmt
  if names.any fun a => ((b.srcPage oct a).map pageFmt).isSome && (b.srcPage oct a).map pageFmt != f0 then none
  else some { off := off, addrs := names.map b.readAt, dec := dec, barred := b.namesAlt names }

/-- A beat's pieces with one more, or the reason why it has none. -/
def addPiece (r : List Piece × Option Place2) (place : Place2) (p : Option Piece) : List Piece × Option Place2 :=
  match r.2, place, p with
  | some _, _, _ => r
  | none, .at_ _ _ _, some p => (r.1 ++ [p], none)
  | none, .at_ _ _ _, none => (r.1, some .badFmt)
  | none, q, _ => (r.1, some q)

/-- The pieces of a beat as stored: lines of 64 bytes, each routed to the visible half. -/
def State.rawPieces (s : State) (b a n : Nat) : List Piece :=
  (lines a n).map fun q =>
    { off := q.1 - a, addrs := rangeFrom (s.fRoute b false (q.1 % 2 ^ 48)) q.2, dec := none,
      barred := (s.bindAt b).namesAlt [q.1] }

/-- The pieces of decoded elements `e0` to `e0+n-1`, up to the first that cannot be found, and why (14 R261). -/
def Bind.decPieces (b : Bind) (oct src e0 n : Nat) : List Piece × Option Place2 :=
  (List.range n).foldl (fun r k =>
    match b.decElem oct src (e0 + k) with
    | (.at_ base f j, e, names) => addPiece r (.at_ base f j) (b.pieceOf oct src (4 * k) names (some (f, e)))
    | (q, _, _) => addPiece r q none) ([], none)

/-- The pieces of `n` bytes of an operand slot from byte `o` on, from a page with scales (14 R262). -/
def Bind.slotPieces (b : Bind) (oct src o n : Nat) : List Piece × Option Place2 :=
  (List.range n).foldl (fun r k =>
    let q := b.slotByte oct src (o + k)
    addPiece r q.1 (b.pieceOf oct src k q.2 none)) ([], none)

/-- Whether an F-space source's first page cannot serve a `cslot`: FP32, or a misplaced first block (14 R262). -/
def State.slotSrcBad (s : State) (x : Xfer) (src : Nat) : Bool :=
  let b := s.bindAt x.bind
  match b.srcPage (coreOctet x.core) src with
  | none => false
  | some e =>
    let f := pfmt e
    f.ef == 6 || (f.len != 0 && (f.index true (b.readAt src - pageBase e.1)).isNone)

/-- The pages of a beat that is moved as stored into a slot, where one has another format than the first (14 R262); a first
page that is not there fails no format check. -/
def State.slotPageBad (s : State) (x : Xfer) (src a n : Nat) : Bool :=
  let b := s.bindAt x.bind
  let oct := coreOctet x.core
  match (b.srcPage oct src).map pageFmt with
  | none => false
  | some f0 => (lines a n).any fun q => ((b.srcPage oct q.1).map fun e => pageFmt e != f0).getD false

/-- The routed F-space addresses that beat `j` of a transfer reads, without their tag, in the order in which its bytes are
taken. -/
def Bind.beatReads (b : Bind) (x : Xfer) (j : Nat) : List Nat :=
  let sp := x.span j
  let oct := coreOctet x.core
  let src := x.src.toNat % 2 ^ 48
  if ptrTag x.src.toNat ≠ 3 then []
  else if x.dec then (b.decPieces oct src (sp.1 / 4) (sp.2.1 / 4)).1.flatMap (·.addrs)
  else if x.kind = .slot ∧ b.srcLen oct src ≠ 0 then (b.slotPieces oct src sp.1 sp.2.1).1.flatMap (·.addrs)
  else (lines (x.src.toNat + sp.1) sp.2.1).flatMap fun q => rangeFrom (b.readAt q.1) q.2

/-- The address of the first byte that beat `j` of a transfer reads: a routed F-space address, without its tag, or a
pointer into another space. DESIGN CHOICE (log 73): it is the address that the beat names, also where its elements and
their scales lie apart. -/
def Bind.beatFrom (b : Bind) (x : Xfer) (j : Nat) : Nat :=
  if ptrTag x.src.toNat ≠ 3 then x.src.toNat + (x.span j).1
  else (b.beatReads x j).headD (b.readAt x.src.toNat)

/-- Whether a transfer from F-space reads a published buffer's second half, as the page windows stand; a source whose first
page is not loaded is checked by its pointer alone, and beat by beat as it is read (14 R268). -/
def Bind.readsAlt (b : Bind) (x : Xfer) : Bool :=
  let oct := coreOctet x.core
  let src := x.src.toNat % 2 ^ 48
  ptrTag x.src.toNat == 3 && b.pubs.any (fun p => ptrTag p.alt.toNat == 3) &&
    (if (b.srcPage oct src).isNone && (x.dec || x.kind == .slot) then b.namesAlt [src]
     else if x.dec then (List.range (x.bytes / 4)).any fun n => b.namesAlt (b.decElem oct src n).2.2
     else if x.kind == .slot && b.srcLen oct src != 0 then (List.range x.bytes).any fun q => b.namesAlt (b.slotByte oct src q).2
     else altHit b.pubs x.src.toNat x.bytes)

/-- Read a beat of a transfer from its source (10 R198, 14 R256, R261, R262); `host` says that host pages are read. -/
def State.fetch (s : State) (x : Xfer) (j : Nat) (host : Bool) : Fetch :=
  let sp := x.span j
  let p := x.src.toNat + sp.1
  if ptrTag x.src.toNat ≠ 3 then
    let r := s.engineRead x.bind p sp.2.1
    { data := placed 0 r.1, poison := r.2, keys := s.engineKeys x.bind p sp.2.1, bad := s.engineBad x.bind p sp.2.1 }
  else
    let w : FWho := { bind := x.bind, octet := coreOctet x.core, part := x.part, write := false, stratus := false }
    let src := x.src.toNat % 2 ^ 48
    let finish (r : List Piece × Option Place2) : Fetch :=
      let f := r.1.foldl (s.readPiece w host) {}
      match r.2 with
      | some (.miss a) => { f with miss := some (f.miss.getD a) }
      | some .badFmt => { f with badFmt := true }
      | _ => f
    if x.dec then finish ((s.bindAt x.bind).decPieces w.octet src (sp.1 / 4) (sp.2.1 / 4))
    else if x.kind = .slot then
      if s.slotSrcBad x src then { badFmt := true }
      else if (s.bindAt x.bind).srcLen w.octet src ≠ 0 then
        finish ((s.bindAt x.bind).slotPieces w.octet src sp.1 sp.2.1)
      else
        let f := finish (s.rawPieces x.bind p sp.2.1, none)
        if f.miss.isNone && s.slotPageBad x src p sp.2.1 then { badFmt := true } else f
    else finish (s.rawPieces x.bind p sp.2.1, none)

/-- The translation of a beat's F-space destination, made in its read cycle (14 R256): a miss, a host page, the lines that
are refused, by offset in the beat, and what each routed line is translated to. -/
def State.fetchDst (s : State) (x : Xfer) (j : Nat) : Fetch × List (Nat × Nat) × List (Nat × FHit) :=
  let sp := x.span j
  let p := sp.2.2
  if x.kind = .slot ∨ ptrTag p ≠ 3 then ({}, [], [])
  else
    let w : FWho := { bind := x.bind, octet := coreOctet x.core, part := x.part, write := true, stratus := false }
    (lines p sp.2.1).foldl (fun r q =>
      let a := s.fRoute x.bind true (q.1 % 2 ^ 48)
      let hit := s.translate w a
      let r := (r.1, r.2.1, r.2.2 ++ [(a, hit)])
      match hit with
      | .miss => ({ r.1 with miss := some (r.1.miss.getD a) }, r.2)
      | .refused => ({ r.1 with refused := some (r.1.refused.getD a) }, r.2.1 ++ [(q.1 - p, q.2)], r.2.2)
      | .host _ => ({ r.1 with host := true }, r.2)
      | .hbm _ _ => r) ({}, [], [])

/-- Whether a beat of a transfer meets a host page, as the page windows stand (14 R267). -/
def State.hostBeat (s : State) (x : Xfer) (j : Nat) : Bool :=
  (ptrTag x.src.toNat == 3 && (s.fetch x j false).host) || (s.fetchDst x j).1.host

/-- The beats of a transfer from beat `j` on that meet host pages. -/
def State.hostBeats (s : State) (x : Xfer) (j : Nat) : List Nat :=
  if ((s.bindAt x.bind).window (coreOctet x.core)).any (fun e => e.2.1.getLsbD 60) then
    (List.range x.beats).filter fun i => j ≤ i && s.hostBeat x i
  else []

/-! ### Starting a transfer -/

/-- The lowest free entry of the posted-store journal (22 R349). -/
def Core.freePosted (k : Core) : Option Nat := k.psj.toList.findIdx? fun p => !p.isOpen

/-- Whether a transfer writes an S-space window of another core (22 R349). -/
def Xfer.isPosted (x : Xfer) : Bool :=
  match x.kind with
  | .dist => (List.range (min (distCount x.aux) (wfld x.aux2 25 20))).any fun b =>
      coreLayer x.core * 1024 + distCore x.aux2 b != x.core
  | .slot => false
  | _ => ptrTag x.dst.toNat == 1 && sCore x.dst.toNat != x.core

/-- A journal entry that opens for a transfer whose beat 0 goes to `p` (22 R351). -/
def Posted.opened (h : Half) (p : Nat) : Posted :=
  { isOpen := true, refused := false, reason := 0, half := h, dst := BitVec.ofNat 40 p }

/-- The transfer starts: it joins the stream's unsealed transfers and the core's journal, and its first beat is read in
the next cycle (10 R198, R203; 22 R349). -/
def State.startXfer (s : State) (x : Xfer) (entry : Option Nat) : State :=
  let x := { x with id := s.seq, posted := entry, todo := x.beats, hostDue := s.hostBeats x 0 }
  let s := { s with xfers := s.xfers ++ [x], seq := s.seq + 1 }
  let s := if x.kind = .snap then s
    else s.modCaddy x.core x.half fun k => { k with unsealed := k.unsealed ++ [x.id] }
  let s := match entry with
    | none => s
    | some e => s.modCore x.core fun k =>
        { k with psj := vput k.psj e (Posted.opened x.half (x.span 0).2.2) }
  let s := if x.kind = .slot then
      let s := s.post (s.ccyc + 1) 0 (.tag (coreOctet x.core) x.aux.toNat 0)
      s.modOctet (coreOctet x.core) fun o =>
        { o with fills := o.fills ++ [{ id := x.id, core := x.core, slot := x.aux.toNat, scaleLen := x.bytes - 16384,
                                        bytes := List.replicate x.bytes 0, badAt := [] }] }
    else s
  s.post (s.ccyc + 1) 10 (.beatRead x.id 0)

/-- A transfer of domain `b` with what every kind shares; its path latency is that of its slot entry (10 R198, 13 R229). -/
def Bind.newXfer (k : Bind) (now core : Nat) (half : Half) (b m idx : Nat) (kind : XKind) : Xfer :=
  { id := 0, kind := kind, core := core, half := half, bind := b, part := k.part, issue := now,
    issueM := m, lat := wfld (k.slot idx) 7 0, src := 0, dst := 0, aux := 0, aux2 := 0, bytes := 0, tag := none,
    dec := false, release := false, posted := none, todo := 0, stalled := none, installed := false, hostTodo := [],
    next := 0, hostDue := [], linked := [],
    failed := 0, failAddr := 0, refused := 0, packetErr := none, fmt := none }

/-- A transfer that starts in the present cycle. -/
def newXfer (s : State) (core : Nat) (half : Half) (b m idx : Nat) (kind : XKind) : Xfer :=
  (s.bindAt b).newXfer s.ccyc core half b m idx kind

/-! ### Descriptors and their checks (10 R199-R202) -/

/-- Whether a `ccopy` descriptor's fields are reserved (10 R200). -/
def copyBad (w0 w1 w2 : Word) : Bool :=
  let n := wfld w2 24 0
  wfld w2 55 49 != 0 || wfld w2 47 25 != 0 || n < 64 || 16777216 < n || n % 64 != 0 ||
    (w2.getLsbD 48 && (ptrTag w0.toNat != 3 || ptrTag w1.toNat == 3))

/-- Whether a `cdist` descriptor's fields are reserved (10 R201). -/
def distBad (w1 w2 : Word) : Bool :=
  wfld w1 23 18 != 0 || wfld w2 63 44 != 0 || wfld w1 63 48 == 0 || wfld w1 47 32 < 1 || 4096 < wfld w1 47 32 ||
    wfld w1 17 0 % 64 != 0 || wfld w2 43 26 % 64 != 0 || wfld w2 25 20 < 1 || 32 < wfld w2 25 20 ||
    wfld w2 19 10 == 0 || 16777216 < distCount w1 * distBlock w1

/-- Whether a `cslot` descriptor's fields are reserved (10 R202). -/
def slotDescBad (w0 w1 : Word) : Bool :=
  let t := wfld w1 31 16
  wfld w1 63 32 != 0 || wfld w1 15 6 != 0 ||
    (if ptrTag w0.toNat = 3 then t != 0
     else fld t 15 10 != 0 || !tagOk (fld t 3 0) (fld t 5 4) (fld t 9 6))

/-- The first pointer of a `cdist` pattern that fails: its core or its block's place (10 R201). -/
def State.distFault (s : State) (core part : Nat) (w1 w2 : Word) (b : Nat) : Option Nat :=
  (List.range (distCount w1)).findSome? fun k =>
    let t := distCore w2 k
    let p := sPtr (coreLayer core * 1024 + t % 1024) 0 (distOff w1 w2 k)
    if 1024 ≤ t ∨ 0x40000 < distOff w1 w2 k + distBlock w1 ∨ s.partOfCore (coreLayer core * 1024 + t) ≠ some part ∨
        altHit (s.pubs b) p (distBlock w1)
    then some p else none

/-- The operand faults of a transfer's pointers, space-tag before alignment (10 R199, R219). -/
def State.spanFault (s : State) (b part : Nat) (src : Word) (sn : Nat) (dst : Option (Word × Nat)) :
    Option (Nat × Word) :=
  if s.caddySpan b part true src.toNat sn = false then some (0x08, src)
  else
    match dst with
    | none => if src.toNat % 64 ≠ 0 then some (0x09, src) else none
    | some d =>
      if s.caddySpan b part false d.1.toNat d.2 = false then some (0x08, d.1)
      else if src.toNat % 64 ≠ 0 then some (0x09, src)
      else if d.1.toNat % 64 ≠ 0 then some (0x09, d.1)
      else none

/-- Whether a `ccopy` is a release transfer: it writes stage words of another core (16 R286). -/
def releaseCopy (core : Nat) (dst : Word) (n : Nat) : Bool :=
  let p := dst.toNat
  ptrTag p == 1 && sKind p == 4 && sCore p != core && sOff p < 0x10080 && 0x10000 < sOff p + n

/-- The page that gives a transfer from F-space its format attribute. -/
def Bind.srcFmt (b : Bind) (octet : Nat) (src : Word) : Option (Word × Word) := b.srcPage octet src.toNat

/-- The slot tag and the bytes of a `cslot` (10 R202, 14 R262). -/
def Bind.slotTag (b : Bind) (octet : Nat) (src w1 : Word) : BitVec 16 × Nat × Option Word :=
  if ptrTag src.toNat = 3 then
    match b.srcFmt octet src with
    | none => (0, 16384, none)
    | some e =>
      let f := pfmt e
      (BitVec.ofNat 16 (f.ef + 16 * f.bl + 64 * f.pk), slotBytes f.bl, some e.2)
  else (BitVec.ofNat 16 (wfld w1 31 16), slotBytes (wfld w1 21 20), none)

/-- A transfer whose checks have passed so far: a journal entry, the slot check, the order check of a release transfer,
and its start (10 R219, 16 R286, 22 R349). -/
def caddyGo (s : State) (x : Ctx) (idx : Nat) (t : Xfer) (tv : Word) : Res :=
  let entry := if t.isPosted then (s.core x.core).freePosted else none
  if t.isPosted && entry.isNone then .trap s 0x13 2 tv
  else match s.slotCause x kindCaddy idx with
    | some c => .slip c
    | none =>
      if t.release && !s.orderOk x.core 0b01000 then .slip 6
      else .ok (s.startXfer t entry) .seq

/-- The transfer that `ccopy` starts. -/
def copyXfer (t : Xfer) (w0 w1 w2 : Word) : Xfer :=
  { t with src := w0, dst := w1, bytes := wfld w2 24 0, tag := some (BitVec.ofNat 8 (wfld w2 63 56)),
           dec := w2.getLsbD 48, release := releaseCopy t.core w1 (wfld w2 24 0) }

/-- The transfer that `cdist` starts. -/
def distXfer (t : Xfer) (w0 w1 w2 : Word) : Xfer :=
  { t with src := w0, aux := w1, aux2 := w2, bytes := distCount w1 * distBlock w1,
           tag := some (BitVec.ofNat 8 (wfld w1 31 24)) }

/-- The transfer that `cslot` starts; `aux` is the slot and `aux2` its tag. -/
def slotXfer (t : Xfer) (w0 w1 : Word) (tag : BitVec 16 × Nat × Option Word) : Xfer :=
  { t with src := w0, aux := BitVec.ofNat 64 (wfld w1 5 0), aux2 := tag.1.setWidth 64, bytes := tag.2.1,
           fmt := tag.2.2 }

/-- The operand fault of a transfer whose word or schedule entry issues, space-tag before alignment (10 R199-R202, R219, 14
R268). -/
def State.xferFault (s : State) (t : Xfer) : Option (Nat × Word) :=
  if (s.bindAt t.bind).readsAlt t then some (0x08, t.src)
  else match t.kind with
    | .slot => s.spanFault t.bind t.part t.src (if ptrTag t.src.toNat = 3 then 64 else t.bytes) none
    | .dist =>
      if s.caddySpan t.bind t.part true t.src.toNat t.bytes = false then some (0x08, t.src)
      else match s.distFault t.core t.part t.aux t.aux2 t.bind with
        | some p => some (0x08, BitVec.ofNat 64 p)
        | none => if t.src.toNat % 64 ≠ 0 then some (0x09, t.src) else none
    | _ => s.spanFault t.bind t.part t.src (if t.dec then 64 else t.bytes) (some (t.dst, t.bytes))

/-- `ccopy oxN ~s` (10 R200). -/
def execCcopy (sf : Bool) (o : BitVec 3) (i : BitVec 1) (l : BitVec 11) (s : State) :
    Host.Outcome State Fault Refusal :=
  issueWord sf .e false
    (fun s x => { reserved := slotFieldBad o 3 i l || copyBad (s.desc x o.toNat 0) (s.desc x o.toNat 1)
                    (s.desc x o.toNat 2) })
    (fun s x =>
      let w0 := s.desc x o.toNat 0
      let w1 := s.desc x o.toNat 1
      let w2 := s.desc x o.toNat 2
      let idx := s.slotIdx x i l
      let t := copyXfer (newXfer s x.core x.half x.bind x.m idx .copy) w0 w1 w2
      match s.xferFault t with
      | some f => .trap s f.1 0 f.2
      | none => caddyGo s x idx t w0) s

/-- `cdist oxN ~s` (10 R201). -/
def execCdist (sf : Bool) (o : BitVec 3) (i : BitVec 1) (l : BitVec 11) (s : State) :
    Host.Outcome State Fault Refusal :=
  issueWord sf .e false
    (fun s x => { reserved := slotFieldBad o 3 i l || distBad (s.desc x o.toNat 1) (s.desc x o.toNat 2) })
    (fun s x =>
      let w0 := s.desc x o.toNat 0
      let w1 := s.desc x o.toNat 1
      let w2 := s.desc x o.toNat 2
      let idx := s.slotIdx x i l
      let t := distXfer (newXfer s x.core x.half x.bind x.m idx .dist) w0 w1 w2
      match s.xferFault t with
      | some f => .trap s f.1 0 f.2
      | none => caddyGo s x idx t w0) s

/-- `cslot oxN ~s` (10 R202). -/
def execCslot (sf : Bool) (o : BitVec 3) (i : BitVec 1) (l : BitVec 11) (s : State) :
    Host.Outcome State Fault Refusal :=
  issueWord sf .e false
    (fun s x => { reserved := slotFieldBad o 2 i l || slotDescBad (s.desc x o.toNat 0) (s.desc x o.toNat 1) })
    (fun s x =>
      let w0 := s.desc x o.toNat 0
      let w1 := s.desc x o.toNat 1
      let idx := s.slotIdx x i l
      let tag := (s.bindAt x.bind).slotTag x.octet w0 w1
      let t := slotXfer (newXfer s x.core x.half x.bind x.m idx .slot) w0 w1 tag
      match s.xferFault t with
      | some f => .trap s f.1 0 f.2
      | none =>
        if ((s.octet x.octet).slot (wfld w1 5 0)).claim ≠ some x.core then
          .trap s 0x10 2 (matrixVal 0 (wfld w1 5 0) idx)
        else caddyGo s x idx t w0) s

/-! ### Taking a beat -/

/-- A permission or format failure is recorded for `cstat` and for the trap at the transfer's end (10 R197, R206). -/
def State.xferFail (s : State) (x : Xfer) (code : Nat) (a : Nat) : State :=
  let s := s.caddyErr x code
  s.modXfer x.id fun x => if x.failed = 0 then { x with failed := code, failAddr := BitVec.ofNat 64 a } else x

/-- What a beat of a transfer holds when it has been read, and the state with its failures recorded; `none` where it
meets a page that is not loaded or (unless `host`) a host page. -/
def State.takeBeat (s : State) (x : Xfer) (j : Nat) (host : Bool) : State × Option Beat :=
  let read (s : State) : State :=
    s.modXfer x.id fun x => { x with hostDue := x.hostDue.erase j, next := max x.next (j + 1) }
  if x.failed = 4 then (read s, some ⟨[], [], []⟩)
  else
    let f := s.fetch x j host
    let d := s.fetchDst x j
    match (if f.miss.isSome then f.miss else d.1.miss) with
    | some a =>
      ((s.caddyErr x 1).modXfer x.id (fun x => { x with stalled := some j, installed := false }) |>.report
        (.pageFault x.id (BitVec.ofNat 64 a)), none)
    | none =>
      if !host && (f.host || d.1.host) then
        ((read s).modXfer x.id fun x => { x with hostTodo := x.hostTodo ++ [j] }, none)
      else
        let s := (s.noteRead f.keys.dedup).noteBad f.bad
        let s := match (if f.refused.isSome then f.refused else d.1.refused) with
          | some a => s.xferFail x 2 a
          | none => s
        let s := if f.badFmt then s.xferFail x 4 x.src.toNat else s
        let keep (o : Nat) : Bool := !(d.2.1.any fun q => q.1 ≤ o && o < q.1 + q.2)
        (read s, some ⟨f.data.filter fun e => keep e.1, f.poison.filter keep, d.2.2⟩)

/-! ### Landing a beat -/

/-- Why a beat to a core or column is refused in its landing cycle, if it is (22 R342, R350). -/
def State.refusal (s : State) (x : Xfer) (p : Nat) : Option Nat :=
  let late (b : Bind) : Bool := match b.freeze with
    | some f => f.at_ ≤ x.issue
    | none => false
  if ptrTag p = 1 then
    let k := s.core (sCore p)
    if sCore p = x.core then none
    else match k.bound with
      | none => some 1
      | some b =>
        if (s.bindAt b).part ≠ x.part ∨ late (s.bindAt b) then some 1
        else
          let bit := match sKind p with | 0 => 0 | 1 => 1 | 3 => 2 | _ => 3
          if k.ctl.rwin.getLsbD bit then none else some 2
  else if ptrTag p = 2 then
    match (s.core (lCol p)).bound with
    | some b => if b ≠ x.bind ∧ late (s.bindAt b) then some 1 else none
    | none => none
  else none

/-- Bytes with neighbouring places put together, each run within one 64-byte line of the place `base`. -/
def byteRuns (base : Nat) : List (Nat × Byte) → List (Nat × List Byte)
  | [] => []
  | (o, b) :: r =>
    match byteRuns base r with
    | (o', bs) :: q => if o + 1 = o' ∧ (base + o') % 64 ≠ 0 then (o, b :: bs) :: q else (o, [b]) :: (o', bs) :: q
    | [] => [(o, [b])]

/-- A run of a beat lands in S-space or L-space: its words in the invisible half, and the arrival tag of its line. -/
def State.landRun (s : State) (x : Xfer) (p : Nat) (poison : List Nat) (r : Nat × List Byte) : State :=
  let q := p + r.1
  let q := (pubRoute (s.pubs x.bind) true q).getD q
  let s := (List.range 9).foldl (fun s k =>
    let w := (q / 8 + k) * 8
    let part := (r.2.zipIdx.filter fun b => w ≤ q + b.2 && q + b.2 < w + 8).map fun b => (q + b.2 - w, b.1)
    s.putPart w part (poison.contains (r.1 / 8 * 8 + 8 * k))) s
  match x.tag with
  | some t => s.putTag q t
  | none => s

/-- A run of a beat lands in F-space, at the place to which its read cycle translated it (14 R256), or where a flip has
routed it since. A write that the view reserve refuses is a permission failure, and so is one on bytes that a collective
has locked since they were read (10 R206, R209). -/
def State.landF (s : State) (x : Xfer) (p : Nat) (poison : List Nat) (dst : List (Nat × FHit)) (r : Nat × List Byte) :
    State :=
  let a := s.fRoute x.bind true ((p + r.1) % 2 ^ 48)
  let w : FWho := { bind := x.bind, octet := coreOctet x.core, part := x.part, write := true, stratus := false }
  let k := (s.bindAt x.bind).mergeAt a
  let m := if k.isSome then x.issueM else s.mcycOf x.bind
  let hit := match dst.find? fun d => d.1 ≤ a && a < d.1 / 64 * 64 + 64 with
    | some d => d.2.shift (a - d.1)
    | none => s.translate w a
  match (if s.hitLocked hit then none
    else s.fWriteAt w hit m a r.2 ((poison.filter fun o => r.1 ≤ o && o < r.1 + r.2.length).map (· - r.1))) with
  | some s' => s'
  | none => s.xferFail x 2 a

/-- The bytes of a beat land in the operand slot's fill (10 R202). -/
def State.landSlot (s : State) (x : Xfer) (o : Nat) (data : List (Nat × Byte)) (poison : List Nat) : State :=
  s.modOctet (coreOctet x.core) fun k =>
    { k with fills := k.fills.map fun f =>
        if f.id = x.id then
          { f with bytes := f.bytes.take o ++ (data.map (·.2) ++ f.bytes.drop (o + data.length)),
                   badAt := f.badAt ++ poison.map fun p => (o + p) / 8 }
        else f }

/-- A refused beat of a posted store marks its journal entry; the first refusal stands (22 R350, R351). -/
def State.refuse (s : State) (x : Xfer) (reason p : Nat) : State :=
  let s := s.caddyErr x 2
  let s := s.modXfer x.id fun x => if x.refused = 0 then { x with refused := reason } else x
  match x.posted with
  | none => s
  | some e => s.modCore x.core fun k =>
      { k with psj := vput k.psj e (let q := vget Posted.init k.psj e
          if q.refused then q
          else { q with refused := true, reason := BitVec.ofNat 2 reason, dst := BitVec.ofNat 40 p }) }

/-- A batch that a finished transfer leaves with none unfinished: its completion word is written one cycle later (10
R203). DESIGN CHOICE (log 105): a word that an engine writes into a published buffer goes to the half that is visible as it
is posted. -/
def State.batchDone (s : State) (x : Xfer) : State :=
  let k := (s.stream x.core x.half).caddy
  let done := k.batches.filter fun b => b.xfers == [x.id]
  let s := s.modCaddy x.core x.half fun k =>
    { k with batches :=
        ((k.batches.map fun b => { b with xfers := b.xfers.filter (· != x.id) }).filter (!·.xfers.isEmpty)) }
  done.foldl (fun s b =>
    if b.cw = 0 then s
    else
      let p := b.cw.toNat
      s.release (s.ccyc + 1) (ptrKey ((pubRoute (s.pubs x.bind) false p).getD p)) (pack [(1, 32), (b.num, 0)])) s

/-- The end of a transfer, in the landing cycle of its last beat: its traps, its journal entry, its operand slot, its
batch (10 R197, R202, R203; 22 R350). -/
def State.xferDone (s : State) (x : Xfer) : State :=
  let k := (s.stream x.core x.half).caddy
  let h := asyncHalf x.half
  let s := if x.failed = 2 ∨ x.failed = 4 then
      s.pendTrap x.core h 0x13 (if x.failed = 2 then 1 else 7)
        (pack [(k.batchOf x.id, 48), (x.failAddr.toNat % 2 ^ 48, 0)])
    else s
  let s := match x.posted with
    | none => s
    | some e =>
      let p := vget Posted.init (s.core x.core).psj e
      let tv := pack [(p.reason.toNat, 62), (p.dst.toNat, 0)]
      let s := s.modCore x.core fun k => { k with psj := vput k.psj e { p with isOpen := false } }
      if !p.refused then s
      else if (s.bindAt x.bind).mode 5 then s.report (.postedRefusal x.core e tv)
      else s.pendTrap x.core h 0x12 e tv
  let s := if x.kind ≠ .slot then s
    else if x.failed ≠ 0 then
      s.modOctet (coreOctet x.core) fun o => { o with fills := o.fills.filter (·.id != x.id) }
    else
      let s := s.post (s.ccyc + 2) 0 (.tag (coreOctet x.core) x.aux.toNat (x.aux2.setWidth 16))
      s.post (s.ccyc + 2) 4 (.fillDone (coreOctet x.core) x.id)
  let s := s.batchDone x
  let s := { s with xfers := s.xfers.filter (·.id != x.id) }
  if x.kind = .snap then s.post (s.ccyc + 1) 0 (.snapFlip x.core x.bind x.aux.toNat) else s

/-- Cycles of the arithmetic clock in `n` tenths of a second, at N sixteenths of 1.75 GHz (13 R245). -/
def State.tenths (s : State) (n : Nat) : Nat := n * 175000000 * s.dev.clock.n / 16

/-- Home channels of the Cirrus crossbar, and the wavelengths of one when all are live (00). -/
def homeChannels : Nat := 128
/-- Wavelengths of a home channel. -/
def channelWaves : Nat := 32

/-- A wavelength of a home channel has lost lock, or a packet on it has failed its CRC: firmware removes one without lock,
and one with more than 16 such packets in one second (24 R375). -/
def State.ringFault (s : State) (channel wave : Nat) (lost : Bool) : State :=
  if ¬ (channel < homeChannels ∧ wave < channelWaves) then s
  else
    let recent := (s.dev.crcFails.filter fun f => s.ccyc < f.2.2 + s.tenths 10) ++ (if lost then [] else [(channel, wave, s.ccyc)])
    let many := 16 < (recent.filter fun f => f.1 == channel && f.2.1 == wave).length
    s.modDev fun d =>
      { d with crcFails := recent, removals := if lost || many then d.removals ++ [(channel, wave)] else d.removals }

/-- A landing beat's packet fails its CRC (24 R370, R373, R375): the error is logged with where the beat goes, and counts
against the wavelength. -/
def State.packetFails (s : State) (x : Xfer) (p : Nat) : State :=
  match x.packetErr with
  | none => s
  | some w =>
    (s.noteErr (.packet x.part) false (if x.kind = .slot then slotKey (coreOctet x.core) x.aux.toNat p else p)).ringFault
      w.1 w.2 false

/-- A beat lands, or is refused, and the transfer finishes with its last (10 R198, R206; 22 R350; 24 R370). -/
def State.landBeat (s : State) (id j : Nat) (data : List (Nat × Byte)) (poison : List Nat) (dst : List (Nat × FHit)) :
    State :=
  match s.xfer id with
  | none => s
  | some x =>
    let p := (x.span j).2.2
    let poison := if x.packetErr.isSome then (List.range 32).map (8 * ·) else poison
    let s := (s.packetFails x p).modXfer id fun x => { x with packetErr := none, todo := x.todo - 1, hostTodo := x.hostTodo.erase j }
    let refusal := if x.kind = .slot then none else s.refusal x p
    let s : State := match refusal with
      | some r => s.refuse x r p
      | none =>
        let bad := poison.filter fun o => data.any fun e => o ≤ e.1 && e.1 < o + 8
        let s : State := if bad.isEmpty then s else s.caddyErr x 3
        if x.kind = .slot then s.landSlot x p data bad
        else if ptrTag p = 3 then (byteRuns p data).foldl (fun s r => s.landF x p bad dst r) s
        else (byteRuns p data).foldl (fun s r => s.landRun x p bad r) s
    match s.xfer id with
    | none => s
    | some x => if x.todo = 0 then s.xferDone x else s

/-- A `cslot` from F-space whose first page was not loaded at issue takes its tag, its length and its beats from the
page once it is there (10 R202, 14 R262). DESIGN CHOICE (log 114): a `cslot` takes its page's format once, at its issue where
the page is loaded then, and else at its first read that finds it. -/
def State.refit (s : State) (x : Xfer) : State :=
  let oct := coreOctet x.core
  let t := (s.bindAt x.bind).slotTag oct x.src 0
  if x.kind = .slot ∧ ptrTag x.src.toNat = 3 ∧ x.fmt = none ∧ t.2.2.isSome then
    let s := s.modXfer x.id fun x =>
      { x with aux2 := t.1.setWidth 64, bytes := t.2.1, fmt := t.2.2, todo := beatsOf t.2.1 }
    s.modOctet oct fun o => { o with fills := o.fills.map fun f =>
      if f.id = x.id then { f with scaleLen := t.2.1 - 16384, bytes := List.replicate t.2.1 0 } else f }
  else s

/-- Whether a physical address belongs to a slice's commands (14 R257). -/
def onSlice (stack slice pa : Nat) : Bool := fld pa 10 8 == stack && fld pa 14 11 == slice

/-- The routed F-space addresses at which beat `j` of a transfer writes, without their tag: the first of each line. -/
def Bind.beatWrites (b : Bind) (x : Xfer) (j : Nat) : List Nat :=
  let sp := x.span j
  if x.kind = .slot ∨ ptrTag sp.2.2 ≠ 3 then []
  else (lines sp.2.2 sp.2.1).map fun q => pubRouteF b.pubs true (q.1 % 2 ^ 48)

/-- Whether a beat of a transfer uses a slice's commands, by a byte that it reads, scales among them, or by one that it
writes: a beat that is no aligned unit uses two units' slices (14 R257). -/
def State.beatSlice (s : State) (x : Xfer) (j stack slice : Nat) : Bool :=
  let b := s.bindAt x.bind
  (b.beatReads x j ++ b.beatWrites x j).any fun a =>
    match b.page (coreOctet x.core) a with
    | none => false
    | some e => !e.1.getLsbD 60 && onSlice stack slice (pagePhys e a)

/-- By how many cycles a beat that is read now lands late: a refresh that its slice is forced into delays its commands (13
R234, R247). -/
def State.refreshDelay (s : State) (x : Xfer) (j : Nat) : Nat :=
  ((s.dev.refreshes.filter fun r => decide (s.ccyc < r.ends) && s.beatSlice x j r.stack r.slice).map (·.delay)).foldl max 0

/-- A beat is read in its cycle, to land P - 1 cycles later, or later where a forced refresh delays it; the next beat is
read in the next cycle. A beat on a host page lands at a cycle that is not fixed, and a missing page stops the timed beats
(10 R198, R206). -/
def State.readBeat (s : State) (id j : Nat) : State :=
  match s.xfer id with
  | none => s
  | some x0 =>
    if x0.stalled.isSome then s
    else
      -- a page that has come since the issue of a `cslot` gives it its tag now (10 R202)
      let s := s.refit x0
      match s.xfer id with
      | none => s
      | some x =>
        let r := s.takeBeat x j false
        let s := match r.2 with
          | some d =>
            r.1.postTie (x.issue + x.lat + j + s.refreshDelay x j) 4 (engineTie x.issue x.core)
              (.beatLand id j d.data d.poison d.dst)
          | none => r.1
        if j + 1 < x.beats then s.post (s.ccyc + 1) 10 (.beatRead id (j + 1)) else s

/-- The unread beats of a stopped transfer on host pages, as the windows stand now (14 R267). -/
def State.noteHost (s : State) (id : Nat) : State :=
  match s.xfer id with
  | none => s
  | some x => s.modXfer id fun y => { y with hostDue := s.hostBeats x (x.stalled.getD 0) }

/-- The page fault's address: the one that the stopped beat meets. -/
def State.missAddr (s : State) (x : Xfer) : Option Nat :=
  match x.stalled with
  | none => none
  | some j => if (s.fetch x j true).miss.isSome then (s.fetch x j true).miss else (s.fetchDst x j).1.miss

/-- A beat on a host page reaches the host link, where it is read; whether it has (14 R267). -/
def State.reachLink (s : State) (id j : Nat) : State × Bool :=
  match s.xfer id with
  | none => (s, false)
  | some x =>
    if x.linked.any (·.1 == j) then (s, true)
    else
      let r := s.takeBeat x j true
      match r.2 with
      | none => (r.1, false)
      | some d => (r.1.modXfer id fun x => { x with linked := x.linked ++ [(j, d)] }, true)

/-- An untimed beat is read, after what lands in its cycle, to land in the next (10 R198, 14 R258, R267): a beat on a host
page, or the next remaining beat of a transfer that a missing page stopped. The host beats before it reach the link first,
and land when they will. -/
def State.lateRead (s : State) (id j : Nat) : State :=
  match s.xfer id with
  | none => s
  | some x =>
    let r := (x.hostTodo.filter (· < j) ++ [j]).foldl (fun r i => if r.2 then r.1.reachLink id i else r) (s, true)
    match r.2, (r.1.xfer id).bind fun y => y.linked.find? (·.1 == j) with
    | true, some d =>
      (r.1.modXfer id fun y =>
        { y with linked := y.linked.filter (·.1 != j)
                 stalled := if y.stalled = some j then (if y.next < y.beats then some y.next else none) else y.stalled }).postTie
        (s.ccyc + 1) 4 (engineTie x.issue x.core) (.beatLand id j d.2.data d.2.poison d.2.dst)
    | _, _ => r.1

/-- Whether an untimed beat of a transfer is under way already. -/
def State.beatUnderWay (s : State) (id j : Nat) : Bool :=
  s.agenda.any fun e => match e.ev with
    | .lateRead x k | .beatLand x k _ _ _ => x == id && k == j
    | _ => false

/-- The beats of a transfer that have not landed and write host memory, or may: those that are not read yet and whose
page is not there (16 R295). -/
def State.hostWrites (s : State) (x : Xfer) : List Nat :=
  if x.kind ≠ .copy ∨ ptrTag x.dst.toNat ≠ 3 then []
  else
    (x.hostTodo.filter fun i => (s.fetchDst x i).1.host) ++
      (rangeFrom x.next (x.beats - x.next)).filter fun i =>
        let d := (s.fetchDst x i).1
        d.host || d.miss.isSome

/-- Whether a beat may reach host memory now (16 R295): every host beat of the stream's earlier batches has landed, and
the last of its own batch comes after all the others. A stopped transfer that its domain's end abandons is not awaited. -/
def State.hostOrderOk (s : State) (x : Xfer) (j : Nat) : Bool :=
  if !(s.hostWrites x).contains j then true
  else
    let k := (s.stream x.core x.half).caddy
    let groups := k.batches.map (·.xfers) ++ [k.unsealed]
    let left (g : List Nat) : List (Nat × Nat) :=
      g.flatMap fun id => match s.liveXfers.find? (·.id == id) with
        | some y => (s.hostWrites y).map fun i => (id, i)
        | none => []
    let mine := left ((groups.find? (·.contains x.id)).getD [x.id])
    ((groups.takeWhile fun g => !g.contains x.id).all fun g => (left g).isEmpty) &&
      (mine.length ≤ 1 || mine.any fun q =>
        decide ((x.id, j) ≠ q) && decide (x.id < q.1 ∨ x.id = q.1 ∧ j < q.2))

/-- An untimed beat on a host page that may land begins (14 R267, 16 R295). -/
def State.hostBeatGo (s : State) (id j : Nat) : State :=
  match s.xfer id with
  | none => s
  | some x =>
    if x.hostTodo.contains j && !s.beatUnderWay id j && s.hostOrderOk x j then s.post s.ccyc 10 (.lateRead id j) else s

/-- A transfer that a missing page stopped runs its next remaining beat, once an item has been installed for it or the
page has come with another transfer's (14 R258). -/
def State.lateBeat (s : State) (id : Nat) : State :=
  match s.xfer id with
  | none => s
  | some x0 =>
    match x0.stalled with
    | none => s
    | some j =>
      if (!x0.installed && (s.missAddr x0).isSome) || (s.bindAt x0.bind).ending.isSome then s
      else
        let s := (s.refit x0).noteHost id
        match s.xfer id with
        | none => s
        | some x => if s.beatUnderWay id j || !s.hostOrderOk x j then s else s.post s.ccyc 10 (.lateRead id j)

/-- An item is installed in the window entry it names and the stopped transfer's beats may run; an item that overlaps
another valid entry is refused, which is a domain fault (14 R258). -/
def State.installPage (s : State) (x : Xfer) (it : PageItem) : State :=
  let b := s.bindAt x.bind
  let oct := coreOctet x.core
  let clash := (b.window oct).any fun e =>
    e.1 != it.entry.toNat && e.2.1.getLsbD 63 && it.w0.getLsbD 63 &&
      pageBase e.2.1 < pageBase it.w0 + pageSize it.w0 && pageBase it.w0 < pageBase e.2.1 + pageSize e.2.1
  if clash then
    let f : DomFault :=
      { fc := 4, core := x.core, half := x.half, code := 0, cause := 0, mcyc := s.mcycOf x.bind }
    s.faultDomain x.bind f
  else
    ((s.modBind x.bind fun b => { b with installs := b.installs ++ [(oct, it.entry.toNat, it.w0, it.w1)] }).modXfer x.id
      fun x => { x with installed := true }).noteHost x.id

/-- In hardware mode the loader looks the address up in the overflow list and installs the item (14 R258). -/
def State.overflowInstall (s : State) (id : Nat) : State :=
  match s.xfer id with
  | none => s
  | some x =>
    let b := s.bindAt x.bind
    match s.missAddr x with
    | none => s
    | some a =>
      if b.mode 3 || x.installed || b.ending.isSome then s
      else match b.overflow.find? (fun it => pageHit (it.w0, it.w1) a) with
        | some it => s.installPage x it
        | none => s

/-! ### Batches (10 R203) -/

/-- Whether a completion word's pointer does not name a word of the core's scratchpad (10 R203). -/
def sealBad (s : State) (x : Ctx) (p : Nat) : Bool :=
  ptrTag p != 1 || !ptrZero p || sCore p != x.core || sKind p != 0 || 0x40000 < sOff p + 8 || altHit (s.pubs x.bind) p 8

/-- Sealing: the transfers since the last `cseal` become batch NEXT; a batch with none unfinished is finished. -/
def State.seal (s : State) (x : Ctx) (cw : Word) : State :=
  let k := (x.stream s).caddy
  let left := k.unsealed.filter fun id => (s.xfer id).isSome
  let s := s.modCaddy x.core x.half fun k =>
    { k with next := (k.next + 1) % 65536, unsealed := [],
             batches := if left.isEmpty then k.batches
                        else k.batches ++ [{ num := k.next, xfers := left, cw := cw, sealedAt := x.now }] }
  if left.isEmpty ∧ cw ≠ 0 then
    let p := cw.toNat
    s.release (x.now + 1) (ptrKey ((pubRoute (s.pubs x.bind) false p).getD p)) (pack [(1, 32), (k.next, 0)])
  else s

/-- `cseal oxN` (10 R203). -/
def execCseal (sf : Bool) (o : BitVec 3) (s : State) : Host.Outcome State Fault Refusal :=
  issueWord sf .e false noPre
    (fun s x =>
      let cw := s.ox x o.toNat
      let k := (x.stream s).caddy
      if cw ≠ 0 ∧ sealBad s x cw.toNat then .trap s 0x08 0 cw
      else if cw.toNat % 8 ≠ 0 then .trap s 0x09 0 cw
      else if 16 ≤ k.batches.length then .trap s 0x0A 0 0
      else if k.unsealed.isEmpty then .ok s .seq
      else .ok (s.seal x cw) .seq) s

/-- `cchk n`: slip cause 9 if more than n sealed batches are unfinished (10 R203). -/
def execCchk (sf : Bool) (n : BitVec 5) (s : State) : Host.Outcome State Fault Refusal :=
  issueWord sf .e false noPre
    (fun s x => if n.toNat < (x.stream s).caddy.batches.length then .slip 9 else .ok s .seq) s

/-- `cwait n !` (10 R203). -/
def execCwait (n : BitVec 5) (s : State) : Host.Outcome State Fault Refusal :=
  issueWord true .e false noPre (fun s _ => .ok s (.cwait n.toNat)) s

/-! ### Static copy schedules (10 R204, 14 R266) -/

/-- Whether a pointer breaks R199 for `n` bytes. -/
def State.ptrBad (s : State) (b part : Nat) (src : Bool) (p n : Nat) : Bool :=
  !s.caddySpan b part src p n || p % 64 != 0

/-- Whether a schedule entry belongs to a stream. -/
def SchedEnt.owned (e : SchedEnt) (core : Nat) (h : Half) : Bool :=
  wfld e.w0 39 38 * 1024 + wfld e.w0 37 28 == core && (e.w0.getLsbD 27 == (h != .a)) && h != .w

/-- The indices of a stream's schedule entries, in list order. -/
def Bind.schedOf (b : Bind) (core : Nat) (h : Half) : List Nat :=
  (b.sched.zipIdx.filter fun e => e.1.owned core h).map (·.2)

/-- The transfer that a schedule entry of domain `b` describes. -/
def Bind.entryXfer (k : Bind) (now c : Nat) (h : Half) (b m : Nat) (ent : SchedEnt) : Xfer :=
  let base := k.newXfer now c h b m (wfld ent.w0 10 0)
    (match wfld ent.w0 63 62 with | 0 => .copy | 1 => .dist | _ => .slot)
  match wfld ent.w0 63 62 with
  | 0 => copyXfer base ent.w1 ent.w2 ent.w3
  | 1 => distXfer base ent.w1 ent.w2 ent.w3
  | _ => slotXfer base ent.w1 ent.w2 (k.slotTag (coreOctet c) ent.w1 ent.w2)

/-- Whether a schedule entry's descriptor breaks R199 to R202 by its pointers, by the test `bad` of one pointer. -/
def State.descBad (s : State) (bad : Bool → Nat → Nat → Bool) (b part core : Nat) (e : SchedEnt) : Bool :=
  (s.bindAt b).readsAlt ((s.bindAt b).entryXfer 0 core .a b 0 e) ||
  match wfld e.w0 63 62 with
  | 0 =>
    bad true e.w1.toNat (if e.w3.getLsbD 48 then 64 else wfld e.w3 24 0) || bad false e.w2.toNat (wfld e.w3 24 0)
  | 1 => bad true e.w1.toNat (distCount e.w2 * distBlock e.w2) || (s.distFault core part e.w2 e.w3 b).isSome
  | _ => bad true e.w1.toNat (if ptrTag e.w1.toNat = 3 then 64 else slotBytes (wfld e.w2 21 20))

/-- The transfer that a schedule entry starts in the present cycle. -/
def State.entryXfer (s : State) (c : Nat) (h : Half) (b m : Nat) (ent : SchedEnt) : Xfer :=
  (s.bindAt b).entryXfer s.ccyc c h b m ent

/-- `cadv`: the stream's next schedule entry is released (10 R204). -/
def execCadv (sf : Bool) (s : State) : Host.Outcome State Fault Refusal :=
  issueWord sf .e false noPre
    (fun s x =>
      let k := (x.stream s).caddy
      let l := (s.bindAt x.bind).schedOf x.core x.half
      if 16 ≤ k.released.length then .trap s 0x0A 0 0
      else if l.isEmpty then .trap s 0x13 3 0
      else .ok (s.modCaddy x.core x.half fun k =>
        { k with pos := (k.pos + 1) % l.length,
                 released := k.released ++ [(l.getD (k.pos % l.length) 0, x.m)] }) .seq) s

/-- A released entry whose operand slot its core does not claim moves no beat: its transfer starts and finishes in this
cycle, `cstat` records ERR 5 and the stream takes SUB 8 (14 R266). -/
def State.schedRefused (s : State) (c : Nat) (h : Half) (e : Nat) : State :=
  let s := s.modCaddy c h fun k =>
    { k with unsealed := k.unsealed ++ [s.seq], err := if k.err = 0 then 5 else k.err,
             ebatch := if k.err = 0 then k.next else k.ebatch }
  { s with seq := s.seq + 1 }.pendTrap c (asyncHalf h) 0x13 8 (BitVec.ofNat 64 e)

/-- A stream as the word that it issues at present: the one at its program counter, or the `mod` that waits before it. -/
def State.ctxAt (s : State) (c : Nat) (h : Half) : Ctx :=
  let t := s.stream c h
  { core := c, half := h, now := s.ccyc, m := s.mcyc c, addr := (t.pending.map (·.addr)).getD t.pc, bits := 0,
    bind := s.bindOf c }

/-- A released entry runs as its transfer, issued by the stream, in its slot cycle (10 R204, 14 R266). What makes the word
fault makes the entry fault: a pointer's fault and a full journal are precise (22 R347, R349), and a failing order check of a
release transfer is slip cause 6 (16 R286). DEDUCED (log 20): the stream takes such a fault at its next word. -/
def State.runEntry (s : State) (c : Nat) (h : Half) (e m : Nat) : State :=
  let b := s.bindOf c
  let k := s.bindAt b
  let ent : SchedEnt := k.sched.getD e ⟨0, 0, 0, 0⟩
  let s := s.modCaddy c h fun q =>
    { q with released := match q.released.find? (·.1 == e) with
        | some r => q.released.erase r
        | none => q.released }
  let t := s.entryXfer c h b m ent
  let entry := if t.isPosted then (s.core c).freePosted else none
  match s.xferFault t with
  | some f => s.pendTrap c h f.1 0 f.2
  | none =>
    if t.kind = .slot ∧ ((s.octet (coreOctet c)).slot t.aux.toNat).claim ≠ some c then s.schedRefused c h e
    else if t.isPosted ∧ entry.isNone then s.pendTrap c h 0x13 2 ent.w1
    else if t.release ∧ s.orderOk c 0b01000 = false then
      if [Run.ended, .absent, .stopped].contains (s.stream c h).run then s else s.slip (s.ctxAt c h) 6
    else s.startXfer t entry

/-- The released entry of a stream whose slot cycle is `m`, if one is due (10 R204). -/
def State.dueEntry (s : State) (c : Nat) (h : Half) (m : Nat) : Option Nat :=
  let b := s.bindAt (s.bindOf c)
  (((s.stream c h).caddy.released.find? fun r =>
    r.2 < m && (m + b.period - (slotCyc (b.slot (wfld (b.sched.getD r.1 ⟨0, 0, 0, 0⟩).w0 10 0)) + s.hopOf c) % b.period) %
      b.period == 0).map (·.1))

/-! ### Publishing and status -/

/-- `cpub oxN`: flips a published buffer after the pointer's checks (10 R196, R199) and an order check with mask K (10
R205). -/
def execCpub (sf : Bool) (o : BitVec 3) (s : State) : Host.Outcome State Fault Refusal :=
  issueWord sf .e false noPre
    (fun s x =>
      let p := s.ox x o.toNat
      if s.caddySpan x.bind (s.bindAt x.bind).part true p.toNat 1 = false then .trap s 0x08 0 p
      else if p.toNat % 64 ≠ 0 then .trap s 0x09 0 p
      else match (s.pubs x.bind).findIdx? (fun b => b.base == p && !b.strs) with
      | none => .trap s 0x13 2 p
      | some i =>
        if s.orderOk x.core 0b01000 = false then .slip 6
        else .ok (s.post (x.now + 1) 0 (.flip x.bind i)) .seq) s

/-- A published buffer's other half becomes visible (14 R269). -/
def State.flip (s : State) (b i : Nat) : State :=
  s.modBind b fun k => { k with pubs := k.pubs.zipIdx.map fun p => if p.2 = i then { p.1 with map := !p.1.map } else p.1 }

/-- The status that `cstat` reads (10 R207). -/
def CaddyStream.stat (k : CaddyStream) : Word :=
  pack [(k.next, 48), ((k.batches.head?.map (·.num)).getD k.next, 32), (min k.unsealed.length 255, 24), (k.err, 16),
    (k.ebatch, 0)]

/-- `cstat d`: reading clears ERR and EBATCH (10 R207). -/
def execCstat (sf : Bool) (d : BitVec 5) (s : State) : Host.Outcome State Fault Refusal :=
  issueWord sf .e false (usePre 1 [] [d.toNat])
    (fun s x =>
      match regOp 1 d.toNat [] (fun _ => (x.stream s).caddy.stat) s x with
      | .ok s' nx => .ok (s'.modCaddy x.core x.half fun k => { k with err := 0, ebatch := 0 }) nx
      | r => r) s

end Sys2Proof.Machine
end

