-- ==== Sys2Proof/Machine/Stratus.lean ====
section
/-!
DEFINITION. Stratus: its words and the mirror (10 R208-R213), and what the stratum dies of this device do (18): links,
contributions and results, the coordinator's decision, deadlines, and outcomes.
-/

namespace Sys2Proof.Machine

/-! ### The mirror -/

/-- A registry entry as the mirror shows it. -/
def State.mirror (s : State) (part nid : Nat) : RegEnt := tget RegEnt.init (s.partAt part).registry nid

/-- A registry entry as the Stratus words issued so far in this cycle leave it (10 R208). -/
def State.mirrorNext (s : State) (part nid : Nat) : RegEnt :=
  s.agenda.foldl (fun r e =>
    match e.ev with
    | .mirror p n ent => if p = part ∧ n = nid ∧ s.ccyc < e.due then ent else r
    | _ => r) (s.mirror part nid)

/-- The mirror with an entry changed. -/
def State.setMirror (s : State) (part nid : Nat) (e : RegEnt) : State :=
  s.modPart part fun p => { p with registry := tset p.registry nid e }

/-- A device group of a partition, if this device is a member (10 R209). DESIGN CHOICE (log 99): a group of other devices
only is none that the device can name, and raises SUB 6 too. -/
def State.groupOf (s : State) (part grp : Nat) : Option (List Nat) :=
  match tfind (s.partAt part).groups grp with
  | some l => if l.contains s.dev.id then some l else none
  | none => none

/-- The rank of a device in a group. -/
def rankOf (l : List Nat) (dev : Nat) : Nat := (l.filter (· < dev)).length

/-! ### Stratus words (10 R209-R213) -/

/-- The state code of an entry (10 R213). -/
def RegSt.code : RegSt → Nat
  | .free => 0 | .ready => 1 | .running => 2 | .done => 3 | .failed => 4

/-- What `sstat` delivers (10 R213). -/
def RegEnt.stat (e : RegEnt) : Word := pack [(e.st.code, 60), (e.last, 56), (e.epoch % 2 ^ 32, 0)]

/-- Whether the F-space span of `n` bytes from a base fails the reach check (14 R249): one that enters a published buffer's
second half does (14 R268). -/
def fBaseBad (pubs : List Pub) (p : Word) (n : Nat) : Bool :=
  ptrTag p.toNat != 3 || !ptrZero p.toNat || altHit pubs p.toNat n

/-- A Stratus word's slot check, its change of the mirror at c+1 and its acceptance at c+16 (10 R208). -/
def stratusGo (s : State) (x : Ctx) (idx nid : Nat) (e : Option RegEnt) (k : StratusCmd) : Res :=
  match s.slotCause x kindStratus idx with
  | some c => .slip c
  | none =>
    let s := match e with
      | some e => s.post (x.now + 1) 8 (.mirror (s.bindAt x.bind).part nid e)
      | none => s
    .ok (s.post (x.now + 16) 8 (.stratus k)) .seq

/-- A command of the issuing stream. -/
def newCmd (s : State) (x : Ctx) (nid : Nat) (abort : Bool) (verb : Verb) (kind root : Nat) (cw : Word)
    (ent : RegEnt) : StratusCmd :=
  { part := (s.bindAt x.bind).part, nid := nid, core := x.core, half := x.half, bind := x.bind, abort := abort,
    verb := verb, kind := kind, root := root, cw := cw, ent := ent }

/-- Whether an `sname` descriptor's fields are reserved (10 R209). -/
def nameBad (w1 w3 : Word) : Bool :=
  let et := wfld w1 43 40
  wfld w1 55 52 != 0 || 3 < wfld w1 51 48 || 2 < wfld w1 47 44 || !(et == 0 || et == 3 || et == 6 || et == 7) ||
    wfld w1 39 0 == 0 || wfld w1 39 0 % 4096 != 0 || wfld w3 63 48 != 0 || wfld w3 47 16 == 0

/-- `sname oxN ~s` (10 R209). -/
def execSname (sf : Bool) (o : BitVec 3) (i : BitVec 1) (l : BitVec 11) (s : State) :
    Host.Outcome State Fault Refusal :=
  issueWord sf .e false
    (fun s x => { reserved := slotFieldBad o 4 i l || nameBad (s.desc x o.toNat 1) (s.desc x o.toNat 3) })
    (fun s x =>
      let w0 := s.desc x o.toNat 0
      let w1 := s.desc x o.toNat 1
      let w2 := s.desc x o.toNat 2
      let w3 := s.desc x o.toNat 3
      let part := (s.bindAt x.bind).part
      let nid := wfld w1 63 56
      let old := s.mirrorNext part nid
      if fBaseBad (s.pubs x.bind) w0 (wfld w1 39 0) then .trap s 0x08 0 w0
      else if fBaseBad (s.pubs x.bind) w2 (wfld w1 39 0) then .trap s 0x08 0 w2
      else if w0.toNat % 65536 ≠ 0 then .trap s 0x09 0 w0
      else if w2.toNat % 65536 ≠ 0 then .trap s 0x09 0 w2
      else if old.st = .running then .trap s 0x13 2 w0
      else if (s.groupOf part (wfld w3 15 0)).isNone then .trap s 0x13 6 w3
      else
        let e : RegEnt :=
          { st := .ready, last := old.last, epoch := old.epoch, sbase := w0, dbase := w2, ord := wfld w1 51 48,
            op := wfld w1 47 44, et := wfld w1 43 40, len := wfld w1 39 0, dln := wfld w3 47 16, grp := wfld w3 15 0 }
        -- the dies only take the name at c+16: a command without a collective
        stratusGo s x (s.slotIdx x i l) nid (some e) (newCmd s x nid false .sred 3 0 0 e)) s

/-- The fourth descriptor register that an entry's `sname` gave (10 R209), the TVAL of a group fault (10 R197). -/
def RegEnt.groupWord (e : RegEnt) : Word := pack [(e.dln, 16), (e.grp, 0)]

/-- A word that starts a collective (10 R210, R211). -/
def startOp (verb : Verb) (sf : Bool) (o : BitVec 3) (i : BitVec 1) (l : BitVec 11) (s : State) :
    Host.Outcome State Fault Refusal :=
  issueWord sf .e false
    (fun s x =>
      let w0 := s.desc x o.toNat 0
      { reserved := slotFieldBad o 2 i l || wfld w0 63 32 != 0 || wfld w0 15 10 != 0 ||
          (verb != .sbc && wfld w0 31 16 != 0) || (if verb = .sred then 1 else 0) < wfld w0 9 8 })
    (fun s x =>
      let w0 := s.desc x o.toNat 0
      let cw := s.desc x o.toNat 1
      let part := (s.bindAt x.bind).part
      let nid := wfld w0 7 0
      let old := s.mirrorNext part nid
      match watchFault s x cw with
      | some f => .trap s f.1 0 f.2
      | none =>
        if old.st = .free ∨ old.st = .running then .trap s 0x13 2 w0
        else
          match s.groupOf part old.grp with
          | none => .trap s 0x13 6 old.groupWord
          | some g =>
            if verb = .sbc ∧ ¬ g.contains (wfld w0 31 16) then .trap s 0x13 6 old.groupWord
            else
              let e := { old with st := .running, epoch := (old.epoch + 1) % 2 ^ 32 }
              match stratusGo s x (s.slotIdx x i l) nid (some e)
                  (newCmd s x nid false verb (wfld w0 9 8) (wfld w0 31 16) cw e) with
              | .ok s' nx =>
                let p := cw.toNat
                .ok (s'.release (x.now + 1) (ptrKey ((pubRoute (s.pubs x.bind) false p).getD p)) 0) nx
              | r => r) s

/-- `sred oxN ~s` (10 R210). -/
def execSred (sf : Bool) (o : BitVec 3) (i : BitVec 1) (l : BitVec 11) (s : State) :
    Host.Outcome State Fault Refusal := startOp .sred sf o i l s
/-- `sgath oxN ~s` (10 R210). -/
def execSgath (sf : Bool) (o : BitVec 3) (i : BitVec 1) (l : BitVec 11) (s : State) :
    Host.Outcome State Fault Refusal := startOp .sgath sf o i l s
/-- `sbc oxN ~s` (10 R210). -/
def execSbc (sf : Bool) (o : BitVec 3) (i : BitVec 1) (l : BitVec 11) (s : State) :
    Host.Outcome State Fault Refusal := startOp .sbc sf o i l s

/-- `sabort oxN ~s`: FAILED, status 2 in the mirror at c+1, and a request to the coordinator (10 R211, 18 R320). -/
def execSabort (sf : Bool) (o : BitVec 3) (i : BitVec 1) (l : BitVec 11) (s : State) :
    Host.Outcome State Fault Refusal :=
  issueWord sf .e false
    (fun s x => { reserved := slotFieldBad o 1 i l || wfld (s.desc x o.toNat 0) 63 8 != 0 })
    (fun s x =>
      let nid := wfld (s.desc x o.toNat 0) 7 0
      let old := s.mirrorNext (s.bindAt x.bind).part nid
      let run := old.st = .running
      let e := { old with st := .failed, last := 2 }
      stratusGo s x (s.slotIdx x i l) nid (if run then some e else none)
        (newCmd s x nid run .sred 3 0 0 old)) s

/-- `sstat d, oxN`: the mirror at the start of the cycle (10 R208, R213). -/
def execSstat (sf : Bool) (d : BitVec 5) (o : BitVec 3) (s : State) : Host.Outcome State Fault Refusal :=
  issueWord sf .e false
    (fun s x =>
      let p := usePre 1 [] [d.toNat] s x
      { p with reserved := p.reserved || wfld (s.ox x o.toNat) 63 8 != 0 })
    (fun s x =>
      regOp 1 d.toNat [] (fun _ => (s.mirror (s.bindAt x.bind).part (wfld (s.ox x o.toNat) 7 0)).stat) s x) s

/-! ### Links (18 R310-R312) -/

/-- A link of this device. -/
def State.link (s : State) (l : Nat) : Link := tget Link.init s.dev.links l
/-- The state with a link changed. -/
def State.modLink (s : State) (l : Nat) (f : Link → Link) : State :=
  s.modDev fun d => { d with links := tset d.links l (f (s.link l)) }

/-- Where the route of a stratum die to a device stands in the table of routes. -/
def routeKey (die dest : Nat) : Nat := die * 65536 + dest

/-- A group leaves on a link under the next SEQ: it is reported, and kept in the replay buffer (18 R312). Groups for a
link that is down stay unsent. -/
def State.sendOn (s : State) (kind l : Nat) (g : FlitGroup) : State :=
  let k := s.link l
  if !k.up then s
  else
    let g := { g with seq := BitVec.ofNat 32 k.txSeq }
    let s := s.modLink l fun k =>
      { k with txSeq := (k.txSeq + 1) % 2 ^ 32, lastAck := if k.acked = k.txSeq then s.ccyc else k.lastAck,
               replay := ((k.txSeq, kind, g) :: k.replay.reverse).take 1024 |>.reverse }
    s.report (.groupSent kind l g)

/-- A stratum die sends a group to a device, on the link of its route; this device reaches itself through the package. -/
def State.sendGroup (s : State) (kind die dest : Nat) (g : FlitGroup) : State :=
  if dest = s.dev.id then s else s.sendOn kind (tget 0 s.dev.routes (routeKey die dest)) g

/-- An acknowledgement or NAK travels back; KIND 15 groups carry no SEQ of their own and are never retried. -/
def State.sendControl (s : State) (l : Nat) (nak : Bool) (seq : Nat) : State :=
  s.report (.linkControl l nak (BitVec.ofNat 32 seq))

/-- What a receiver does with a group that passes every check, on a link (18 R312): `true` where the group is accepted. -/
def State.receiveOn (s : State) (l seq : Nat) : State × Bool :=
  let k := s.link l
  if !k.up then (s, false)
  else
    let ahead := (seq + 2 ^ 32 - k.rxSeq) % 2 ^ 32
    if ahead = 0 then
      ((s.modLink l fun k => { k with rxSeq := (k.rxSeq + 1) % 2 ^ 32 }).sendControl l false seq, true)
    else if 2 ^ 31 ≤ ahead then (s.sendControl l false seq, false)
    else (s.sendControl l true k.rxSeq, false)

/-- A group reaches this device on the link that `cur` names; one of its own dies comes through the package, without a
link. -/
def State.receive (s : State) (g : FlitGroup) : State × Bool :=
  if g.src.toNat = s.dev.id then (s, true) else s.receiveOn s.cur.link g.seq.toNat

/-- The sender resends its replay buffer from a SEQ on, in order, acknowledged groups among them; with the sixteenth resend
of one SEQ the link goes down. -/
def State.resendFrom (s : State) (l seq : Nat) : State :=
  let k := s.link l
  if !k.up then s
  else
    let again := k.replay.dropWhile fun r => r.1 != seq
    if again.isEmpty then s
    else
      let counts := again.foldl (fun t r => tset t r.1 (tget 0 t r.1 + 1)) k.resends
      let s := s.modLink l fun k =>
        { k with resends := counts, up := again.all fun r => decide (tget 0 counts r.1 < 16) }
      again.foldl (fun s r => s.report (.groupSent r.2.1 l r.2.2)) s

/-- Whether one SEQ comes after another, counted modulo 2^32 (18 R312). -/
def seqAfter (a b : Nat) : Bool := decide ((a + 2 ^ 32 - (b % 2 ^ 32 + 1)) % 2 ^ 32 < 2 ^ 31)

/-- An acknowledgement covers the groups up to its SEQ (18 R312); the replay buffer keeps them. -/
def State.ackLink (s : State) (l : Nat) (seq : BitVec 32) : State :=
  s.modLink l fun k =>
    { k with acked := if seqAfter k.acked seq.toNat || !seqAfter k.txSeq seq.toNat then k.acked else (seq.toNat + 1) % 2 ^ 32,
             lastAck := s.ccyc, resends := k.resends.filter (fun r => seqAfter r.1 seq.toNat) }

/-- The state with the boot status changed. -/
def State.modBoot (s : State) (f : BootSt → BootSt) : State := s.modDev fun d => { d with boot := f d.boot }

/-- A KIND 14 group (24 R366): its other fields are zero. -/
def bootGroup (dev beat data : Nat) : FlitGroup :=
  { seq := 0, part := 0, beat := BitVec.ofNat 32 beat, src := BitVec.ofNat 16 dev, nid := 0, ep := 0,
    data := BitVec.ofNat 2048 data }

/-- Groups that a link may send before more than the replay buffer's 1,024 are unacknowledged. -/
def Link.room (k : Link) : Nat := 1024 - (k.txSeq + 2 ^ 32 - k.acked) % 2 ^ 32

/-- Boot service sends more of the running image as KIND 14 groups, its beats of 256 bytes in order (24 R366), as far as the
replay buffer can hold what is not acknowledged (18 R312). -/
def State.serveMore (s : State) : State :=
  match s.dev.boot.serving with
  | none => s
  | some q =>
    let bs := s.dev.boot.running
    let total := (bs.length + 255) / 256
    let m := if (s.link q.1).up then min (s.link q.1).room (total - q.2) else 0
    let s := (rangeFrom q.2 m).foldl
      (fun s i => s.sendOn 14 q.1 (bootGroup s.dev.id i (ofBytes ((bs.drop (256 * i)).take 256)))) s
    s.modBoot fun b => { b with serving := if q.2 + m < total then some (q.1, q.2 + m) else none }

/-- A rejected group is discarded, counted and answered with a NAK (18 R311, R312); a reserved KIND or a nonzero zero
field is only counted. -/
def State.rejectGroup (s : State) (l : Nat) (seq : BitVec 32) (why : FlitReject) : State :=
  if !(s.link l).up then s
  else match why with
    | .seqAbove => s.sendControl l true (s.link l).rxSeq
    | .kind | .zeroField => s.modLink l fun k => { k with errors := k.errors + 1 }
    | _ => ((s.modLink l fun k => { k with errors := k.errors + 1 }).noteErr .link false l).sendControl l true seq.toNat

/-- 2 microseconds in cycles of the arithmetic clock at N sixteenths of 1.75 GHz (18 R312, 13 R245). -/
def State.replayWait (s : State) : Nat := 3500 * s.dev.clock.n / 16

/-- The oldest unacknowledged group of a link that the replay buffer holds. -/
def Link.oldest (k : Link) : Nat :=
  if k.replay.any (·.1 == k.acked) then k.acked else (k.replay.head?.map (·.1)).getD k.acked

/-- Links with an unacknowledged group whose wait is over. -/
def State.replayDue (s : State) : Option Nat :=
  (s.dev.links.find? fun l => l.2.up && l.2.acked != l.2.txSeq && l.2.lastAck + s.replayWait ≤ s.ccyc).map (·.1)

/-- Firmware retrains a link that is down: SEQ starts again and the buffers are empty; three failures in one hour mark
the link failed (24 R376). -/
def State.retrain (s : State) (l : Nat) (ok : Bool) : State :=
  let k := s.link l
  if k.up || k.failed then s
  else if ok then
    s.modLink l fun k => { k with up := true, txSeq := 0, rxSeq := 0, replay := [], acked := 0, resends := [], lastAck := s.ccyc }
  else
    let hour := 3600 * 1750000000 * s.dev.clock.n / 16
    let recent := (k.retrains.filter fun t => s.ccyc < t + hour) ++ [s.ccyc]
    s.modLink l fun k => { k with retrains := recent, failed := 3 ≤ recent.length }

/-! ### Who folds what (18 R313-R315) -/

/-- Whether a collective is the one that a group names (18 R311). -/
def Coll.isOf (k : Coll) (g : FlitGroup) : Bool :=
  k.cmd.part == g.part.toNat && k.cmd.nid == g.nid.toNat && k.cmd.ent.epoch % 256 == g.ep.toNat

/-- The state with the collectives that satisfy `p` changed. -/
def State.modColl (s : State) (p : Coll → Bool) (f : Coll → Coll) : State :=
  { s with colls := s.colls.map fun k => if p k then f k else k }

/-- Whether two entries are one collective. -/
def Coll.same (k q : Coll) : Bool := k.cmd.part == q.cmd.part && k.cmd.nid == q.cmd.nid && k.cmd.ent.epoch == q.cmd.ent.epoch

/-- The members of a device group of a partition by rank: sorted by increasing identifier (18 R313). -/
def State.ranked (s : State) (part grp : Nat) : List Nat := sortNat (tget [] (s.partAt part).groups grp)

/-- The members of a collective's group, by rank. -/
def State.members (s : State) (k : Coll) : List Nat := s.ranked k.cmd.part k.cmd.ent.grp

/-- The ranks whose partials the tree node of rank `r` folds after its own contribution, in their order: of each level
whose group it begins, the other members (18 R314). `w` is the number of ranks that a value of the level stands for. -/
def treeKids (f size r : Nat) : Nat → Nat → List Nat
  | 0, _ => []
  | n + 1, w =>
    if size ≤ w || r % (w * f) != 0 then []
    else ((rangeFrom 1 (f - 1)).map fun i => r + i * w).filter (decide <| · < size) ++ treeKids f size r n (w * f)

/-- The rank to which a tree node passes its partial: the first of its group; none for the root. -/
def treeParent (f size r : Nat) : Nat → Nat → Option Nat
  | 0, _ => none
  | n + 1, w =>
    if size ≤ w then none
    else if r % (w * f) ≠ 0 then some (r - r % (w * f))
    else treeParent f size r n (w * f)

/-- The chunk of a beat, in a group of `size` members: 4 KiB pages go round the chunks (18 R313). -/
def beatChunk (size beat : Nat) : Nat := beat / 16 % size

/-- The ranks whose values the dies of rank `r` fold for a beat, in order, its own contribution among them (18 R314,
R315): a ring step adds its own to its predecessor's partial; a tree node folds its children's partials into its own;
the copies of `sgath` and `sbc` start at the rank that holds them. -/
def Coll.inputs (k : Coll) (g : List Nat) (r beat : Nat) : List Nat :=
  let size := g.length
  let c := beatChunk size beat
  match k.cmd.verb with
  | .sred =>
    if k.cmd.ent.ord = 0 then
      if r = (c + 1) % size then [r] else [(r + size - 1) % size, r]
    else r :: treeKids (2 ^ k.cmd.ent.ord) size r size 1
  | .sgath => if r = c then [r] else []
  | .sbc => if g[r]? = some k.cmd.root then [r] else []

/-- The rank to which rank `r` passes its partial; none for the last step of the expression. -/
def Coll.parent (k : Coll) (g : List Nat) (r beat : Nat) : Option Nat :=
  let size := g.length
  match k.cmd.verb with
  | .sred =>
    if k.cmd.ent.ord = 0 then (if r = beatChunk size beat then none else some ((r + 1) % size))
    else treeParent (2 ^ k.cmd.ent.ord) size r size 1
  | _ => none

/-- Whether a rank receives the result of a beat: of a reduce-scatter, rank r chunk r alone (18 R314). -/
def Coll.receives (k : Coll) (g : List Nat) (r beat : Nat) : Bool :=
  !(k.cmd.verb == .sred && k.cmd.kind == 1) || beatChunk g.length beat == r

/-- One step of the reduction on two elements' bits (18 R314). -/
def redStep (et op a b : Nat) : Nat :=
  match et with
  | 6 =>
    let x := unpackIeee f32 a
    let y := unpackIeee f32 b
    packIeee f32 .even false (if op = 0 then x.add .even y else if op = 1 then x.min y else x.max y)
  | 7 =>
    let x := unpackIeee bf16 a
    let y := unpackIeee bf16 b
    packIeee bf16 .even false (if op = 0 then x.add .even y else if op = 1 then x.min y else x.max y)
  | et =>
    let v (w : Nat) : Int := if et = 0 then sval w 32 else w
    if op = 0 then (a + b) % 2 ^ 32
    else if op = 1 then (if v a ≤ v b then a else b)
    else if v b ≤ v a then a else b

/-- Bytes of an element. -/
def redWidth (et : Nat) : Nat := if et = 7 then 2 else 4

/-- Two beats of 256 bytes reduced element by element. -/
def redBeat (e : RegEnt) (a b : List Byte) : List Byte :=
  let w := redWidth e.et
  let at_ (l : List Byte) (i : Nat) : Nat := ofBytes ((l.drop (w * i)).take w)
  ((List.range (256 / w)).map fun i => leBytes w (redStep e.et e.op (at_ a i) (at_ b i))).flatten

/-! ### The dies' work (18 R313-R316) -/

/-- The accesses of a collective. -/
def Coll.who (k : Coll) (wr : Bool) : FWho :=
  { bind := k.cmd.bind, octet := coreOctet k.cmd.core, part := k.cmd.part, write := wr, stratus := true }

/-- The routed F-space addresses of a beat of this device's own source. -/
def State.ownAddrs (s : State) (k : Coll) (beat : Nat) : List Nat :=
  (rangeFrom (k.cmd.ent.sbase.toNat + 256 * beat) 256).map fun p => s.fRoute k.cmd.bind false (p % 2 ^ 48)

/-- The bytes of a beat of this device's own source, with the places of poisoned bytes, or `none` where its page is
missing or refused (10 R209). -/
def State.ownBeat (s : State) (k : Coll) (beat : Nat) : Option (List Byte × List Nat) :=
  let rs := (s.ownAddrs k beat).map fun a => s.fByte (k.who false) a true
  if rs.any (fun r => r == .miss || r == .refused) then none
  else
    some (rs.map (fun r => match r with | .byte v _ => v | _ => 0),
      (rs.zipIdx.filter fun r => match r.1 with | .byte _ b => b | _ => false).map (·.2))

/-- The value of a rank that a fold takes: this device's source, or the arrival record of a partial (18 R316). -/
def State.contribution (s : State) (k : Coll) (g : List Nat) (beat r : Nat) : Option (List Byte × List Nat) :=
  let d := g.getD r 0
  if d = s.dev.id then s.ownBeat k beat
  else (k.shadow.find? fun a => a.kind == 0 && a.src == d && a.beat == beat).map fun a => (leBytes 256 a.data.toNat, [])

/-- A group of an epoch (18 R311, R317). -/
def epochGroup (part nid epoch beat dev data : Nat) : FlitGroup :=
  { seq := 0, part := BitVec.ofNat 3 part, beat := BitVec.ofNat 32 beat, src := BitVec.ofNat 16 dev,
    nid := BitVec.ofNat 8 nid, ep := BitVec.ofNat 8 epoch, data := BitVec.ofNat 2048 data }

/-- A control group of a collective: BEAT zero (18 R317). -/
def Coll.group (k : Coll) (dev data : Nat) : FlitGroup :=
  epochGroup k.cmd.part k.cmd.nid k.cmd.ent.epoch 0 dev data

/-- Commit for status 1, else abort with a status, is sent to every device of a group (18 R317). An abort group carries
its status in the lowest byte of its first flit (log 24). -/
def State.sendDecision (s : State) (l : List Nat) (g : FlitGroup) (st : Nat) : State :=
  l.foldl (fun s d => s.sendGroup (if st = 1 then 3 else 4) 0 d { g with data := BitVec.ofNat 2048 (if st = 1 then 0 else st) }) s

/-- The coordinator decides once, and the decision is sent to every device (18 R317). -/
def State.decideColl (s : State) (k : Coll) (st : Nat) : State :=
  match s.colls.find? (·.same k) with
  | none => s
  | some q =>
    if q.decided.isSome then s
    else (s.modColl (·.same k) fun q => { q with decided := some st }).sendDecision (s.members k) (k.group s.dev.id 0) st

/-- Whether this device coordinates a collective: it has rank 0 (18 R313). -/
def State.coordinates (s : State) (k : Coll) : Bool := (s.members k).head? == some s.dev.id

/-- The status with which a message of KIND 5, 6, 7 or 8 aborts an epoch (18 R317). -/
def abortOf (kind : Nat) : Nat :=
  match kind with
  | 5 => 3 | 6 => 4 | 7 => 5 | _ => 2

/-- A message of a KIND has reached the coordinator in this cycle; what has is taken at its end, in the order of 18
R317. -/
def State.noteInput (s : State) (k : Coll) (kind : Nat) : State :=
  s.modColl (·.same k) fun q => { q with inbox := q.inbox ++ [kind] }

/-- A message to the coordinator: KIND 5, 6, 7 or 8 (18 R317). -/
def State.tellCoordinator (s : State) (k : Coll) (kind : Nat) : State :=
  if s.coordinates k then s.noteInput k kind else s.sendGroup kind 0 ((s.members k).headD 0) (k.group s.dev.id 0)

/-- The message that the coordinator takes first of those of one cycle (18 R317): abort request, expired, owner, fault. -/
def firstAbort (inbox : List Nat) : Option Nat := [8, 5, 6, 7].find? inbox.contains

/-- The coordinator takes the messages of one cycle (18 R317): an abort, or else the votes, and at the last die's of the
last device it commits. -/
def State.takeCycle (s : State) (k : Coll) (msgs : List Nat) : State :=
  let n := ((s.colls.find? (·.same k)).map (·.votes)).getD 0 + (msgs.filter (· == 2)).length
  let s := s.modColl (·.same k) fun q => { q with votes := n }
  match firstAbort msgs with
  | some kind => s.decideColl k (abortOf kind)
  | none => if n = 8 * (s.members k).length then s.decideColl k 1 else s

/-- The coordinator takes what has reached it in a cycle, after what has waited. While its domain is frozen its dies are
suspended: what arrives is held, and nothing is sent (18 R321). -/
def State.takeInbox (s : State) (k : Coll) : State :=
  if (s.bindAt k.cmd.bind).freeze.isSome then
    s.modColl (·.same k) fun q => { q with held := q.held ++ [k.inbox], inbox := [] }
  else
    (k.held ++ [k.inbox]).foldl (fun s l => s.takeCycle k l) (s.modColl (·.same k) fun q => { q with held := [], inbox := [] })

/-- This device's part of a collective cannot complete: the coordinator is told once, and the dies stop. -/
def State.loseColl (s : State) (k : Coll) (kind : Nat) : State :=
  (s.modColl (·.same k) fun q => { q with lost := true }).tellCoordinator k kind

/-- The F-space address of a line of a beat's destination, in the invisible half. -/
def State.destLine (s : State) (k : Coll) (beat i : Nat) : Nat :=
  s.fRoute k.cmd.bind true ((k.cmd.ent.dbase.toNat + 256 * beat + 64 * i) % 2 ^ 48)

/-- A result beat is written into the destination's invisible half, once; a write that the page's owner or key refuses is
dropped, and owner is sent (18 R319). -/
def State.writeResult (s : State) (k : Coll) (beat : Nat) (bs : List Byte) (bad : List Nat) : State :=
  if k.written.contains beat then s
  else
    let m := s.mcycOf k.cmd.bind
    let r := (List.range 4).foldl (fun (r : State × Bool) i =>
      match r.1.fWrite (k.who true) m (r.1.destLine k beat i) ((bs.drop (64 * i)).take 64)
          (((bad.map (· / 8 * 8)).dedup.filter fun o => 64 * i ≤ o && o < 64 * i + 64).map (· - 64 * i)) with
      | some s' => (s', r.2)
      | none => (r.1, true)) (s, false)
    if r.2 then r.1.loseColl k 6
    else r.1.modColl (·.same k) fun q => { q with written := q.written ++ [beat] }

/-- A value that stands at the end of a beat's expression goes to every rank that receives it (18 R314, R315). -/
def State.deliver (s : State) (k : Coll) (g : List Nat) (beat : Nat) (bs : List Byte) (bad : List Nat) : State :=
  g.zipIdx.foldl (fun s d =>
    if !k.receives g d.2 beat then s
    else if d.1 = s.dev.id then s.writeResult k beat bs bad
    else s.sendGroup 1 (beat % 8) d.1 (epochGroup k.cmd.part k.cmd.nid k.cmd.ent.epoch beat s.dev.id (ofBytes bs))) s

/-- Whether the dies of this device work on a collective: its domain is not frozen (18 R321), its outcome is not there,
and its part can complete. -/
def State.works (s : State) (k : Coll) : Bool :=
  (s.bindAt k.cmd.bind).freeze.isNone && k.entered.isNone && !k.lost

/-- A beat's bytes with some bits changed. -/
def flipBits (m : Nat) (bs : List Byte) : List Byte := if m = 0 then bs else leBytes 256 (ofBytes bs ^^^ m)

/-- The bits that soft errors in the reduction unit change in a beat, of the contributors that satisfy `p` (18 R323). -/
def Coll.flips (k : Coll) (beat : Nat) (p : Nat → Bool) : Nat :=
  (k.struck.filter fun q => q.2.1 == beat && p q.1).foldl (fun m q => m ^^^ 2 ^ (q.2.2 % 2048)) 0

/-- The fold of a beat's inputs, which come from the devices `devs` (18 R313): soft errors change inputs, or the folded
value where they name none of them (18 R323). -/
def Coll.folded (k : Coll) (beat : Nat) (devs : List Nat) (vals : List (List Byte)) : List Byte :=
  match (devs.zip vals).map fun q => flipBits (k.flips beat (· == q.1)) q.2 with
  | [] => []
  | x :: xs => flipBits (k.flips beat fun d => !devs.contains d) (xs.foldl (redBeat k.cmd.ent) x)

/-- The die of a beat folds it, once, if every input is there, and passes the partial on, or delivers the result (18 R313,
R316); a source page that it may not read sends fault (18 R317). -/
def State.foldBeat (s : State) (k : Coll) (beat : Nat) : State :=
  let g := s.members k
  let r := rankOf g s.dev.id
  let ins := k.inputs g r beat
  if !s.works k || k.passed.contains beat || ins.isEmpty then s
  else if (s.ownBeat k beat).isNone then s.loseColl k 7
  else
    match ins.mapM (s.contribution k g beat) with
    | none => s
    | some vals =>
      let bs := k.folded beat (ins.map fun r => g.getD r 0) (vals.map (·.1))
      let bad := (vals.map (·.2)).flatten
      let s := if ins.contains r then s.noteRead (s.fKeys (k.who false) (s.ownAddrs k beat)) else s
      let s := s.modColl (·.same k) fun q => { q with passed := q.passed ++ [beat] }
      match k.parent g r beat with
      | some p =>
        s.sendGroup 0 (beat % 8) (g.getD p 0)
          (epochGroup k.cmd.part k.cmd.nid k.cmd.ent.epoch beat s.dev.id (ofBytes bs))
      | none => s.deliver k g beat bs bad

/-- A result that waits in the shadow is written (18 R321). -/
def State.settleBeat (s : State) (k : Coll) (beat : Nat) : State :=
  if !s.works k then s
  else match k.shadow.find? fun a => a.kind == 1 && a.beat == beat with
    | some a => s.writeResult k beat (leBytes 256 a.data.toNat) []
    | none => s

/-- The die of a beat does what it can for it: it folds, and it writes a result that has come. -/
def State.workBeat (s : State) (k : Coll) (beat : Nat) : State :=
  let step (s : State) (f : State → Coll → State) : State :=
    match s.colls.find? (·.same k) with
    | some q => f s q
    | none => s
  step (step s fun s q => s.foldBeat q beat) fun s q => s.settleBeat q beat

/-- The beats of a collective's buffer. -/
def Coll.beats (k : Coll) : Nat := k.cmd.ent.len / 256

/-- The beats of a die: the work on byte offset o is done by die o / 256 mod 8 (18 R313). -/
def Coll.dieBeats (k : Coll) (die : Nat) : List Nat := (List.range k.beats).filter fun b => decide (b % 8 = die)

/-- Whether a die's part of the work is complete on this device. -/
def State.dieDone (s : State) (k : Coll) (die : Nat) : Bool :=
  let g := s.members k
  let r := rankOf g s.dev.id
  !k.lost && (k.dieBeats die).all fun b =>
    (k.passed.contains b || (k.inputs g r b).isEmpty) && (k.written.contains b || !k.receives g r b)

/-! ### What a group does once it is accepted (18 R316, R317) -/

/-- Whether a group belongs to an epoch that this device has still to start: one whose start word is on its way to the
dies, or a later one (log 70: up to 127 epochs ahead, since EP has eight bits). -/
def State.ahead (s : State) (g : FlitGroup) : Bool :=
  let e := s.mirror g.part.toNat g.nid.toNat
  let n := (g.ep.toNat + 256 - e.epoch % 256) % 256
  (s.partAt g.part.toNat).present && ((0 < n && n < 128) || (n == 0 && s.agenda.any fun a => match a.ev with
    | .stratus k => k.part == g.part.toNat && k.nid == g.nid.toNat && k.kind != 3 && k.ent.epoch == e.epoch
    | _ => false))

/-- A group of an epoch that this device has not started waits for its start (18 R317). -/
def State.keepEarly (s : State) (kind : Nat) (g : FlitGroup) : State :=
  if s.ahead g then s.modDev fun d => { d with early := d.early ++ [(kind, g)] } else s

/-- Whether the destination page of a beat takes writes of its collective: its PART and key, as R319 has every partial
and result checked. -/
def State.destTakes (s : State) (k : Coll) (beat : Nat) : Bool :=
  (List.range 4).all fun i =>
    match s.translate (k.who true) (s.destLine k beat i) with
    | .hbm _ _ | .host _ => true
    | _ => false

/-- A contribution or partial is recorded once per contributor, beat and epoch, if the destination's page still takes
it, and folded when its group is complete. One of this device's own dies is the die taking up a beat of its own
source. -/
def State.takeContribution (s : State) (g : FlitGroup) : State :=
  match s.colls.find? (·.isOf g) with
  | none => s.keepEarly 0 g
  | some k =>
    let l := s.members k
    if k.beats ≤ g.beat.toNat ∨ k.entered.isSome then s
    else if g.src.toNat = s.dev.id then s.workBeat k g.beat.toNat
    else if (k.shadow.any fun a => a.src == g.src.toNat && a.beat == g.beat.toNat) ∨
        ¬ ((k.inputs l (rankOf l s.dev.id) g.beat.toNat).any fun r => l[r]? == some g.src.toNat) then s
    else if !s.destTakes k g.beat.toNat then s.loseColl k 6
    else
      (s.modColl (·.same k) fun q =>
        { q with shadow := q.shadow ++ [{ kind := 0, src := g.src.toNat, beat := g.beat.toNat, data := g.data }] }).workBeat
        k g.beat.toNat

/-- A result group is recorded once, and written if this device receives its beat, at once or after a freeze (18 R319,
R321). -/
def State.takeResult (s : State) (g : FlitGroup) : State :=
  match s.colls.find? (·.isOf g) with
  | none => s.keepEarly 1 g
  | some k =>
    let l := s.members k
    if k.beats ≤ g.beat.toNat ∨ k.entered.isSome then s
    else if g.src.toNat = s.dev.id then s.workBeat k g.beat.toNat
    else if (k.shadow.any fun a => a.src == g.src.toNat && a.beat == g.beat.toNat) ∨
        ¬ k.receives l (rankOf l s.dev.id) g.beat.toNat then s
    else
      (s.modColl (·.same k) fun q =>
        { q with shadow := q.shadow ++ [{ kind := 1, src := g.src.toNat, beat := g.beat.toNat, data := g.data }] }).workBeat
        k g.beat.toNat

/-- A die of this device finishes its part of the work if it can, and then votes, once. -/
def State.dieVote (s : State) (k : Coll) (die : Nat) : State :=
  let s := (k.dieBeats die).foldl (fun s b => s.workBeat k b) s
  match s.colls.find? (·.same k) with
  | none => s
  | some k =>
    if !s.works k || !s.dieDone k die || k.voted.any (fun v => v.1 == die) then s
    else
      let s := s.modColl (·.same k) fun q => { q with voted := q.voted ++ [(die, s.ccyc)] }
      if s.coordinates k then s.noteInput k 2
      else s.sendGroup 2 die ((s.members k).headD 0) (k.group s.dev.id 0)

/-- A vote (18 R317): of the die of this device that `cur` names by a beat, or of another device's die. -/
def State.takeVote (s : State) (g : FlitGroup) : State :=
  match s.colls.find? (·.isOf g) with
  | none => s.keepEarly 2 g
  | some k =>
    if g.src.toNat = s.dev.id then s.dieVote k (s.cur.beat % 8)
    else if s.coordinates k then s.noteInput k 2
    else s

/-- An outcome has reached this device: it enters the mirror in the cycle before a chip mark (10 R211). -/
def State.enterColl (s : State) (k : Coll) (st : Nat) : State :=
  s.modColl (·.same k) fun q => { q with decided := some st, entered := some s.ccyc }

/-- A decision reaches this device: commit, or abort with a status (18 R317). A device that has not started the epoch
keeps an abort for its start. -/
def State.takeDecision (s : State) (g : FlitGroup) (st : Nat) : State :=
  match s.colls.find? (·.isOf g) with
  | some k => if k.entered.isSome ∨ (s.coordinates k ∧ k.decided ≠ some st) then s else s.enterColl k st
  | none => if st = 1 then s else s.keepEarly 4 g

/-- Whether an abort of a group's epoch waits for this device's start. -/
def State.abortKept (s : State) (g : FlitGroup) : Bool :=
  s.dev.early.any fun e => e.1 == 4 && e.2.part == g.part && e.2.nid == g.nid && e.2.ep == g.ep

/-- A message reaches the coordinator (18 R317). A coordinator that has named the entry but not started the epoch decides
as well, and keeps the abort for its own start. -/
def State.takeInput (s : State) (g : FlitGroup) (kind : Nat) : State :=
  match s.colls.find? (·.isOf g) with
  | some k => if s.coordinates k then s.noteInput k kind else s
  | none =>
    let e := s.mirror g.part.toNat g.nid.toNat
    let l := s.ranked g.part.toNat e.grp
    if e.st = .free then s.keepEarly kind g
    else if l.head? ≠ some s.dev.id ∨ s.ahead g = false ∨ s.abortKept g = true then s
    else
      let a : FlitGroup := { g with seq := 0, beat := 0, src := BitVec.ofNat 16 s.dev.id, data := BitVec.ofNat 2048 (abortOf kind) }
      (s.sendDecision l a (abortOf kind)).keepEarly 4 a

/-- The status that an abort group carries (log 24). -/
def abortStatus (g : FlitGroup) : Nat := g.data.toNat % 256

/-- What an accepted group of a KIND does (18 R311). -/
def State.takeGroup (s : State) (kind : Nat) (g : FlitGroup) : State :=
  match kind with
  | 0 => s.takeContribution g
  | 1 => s.takeResult g
  | 2 => s.takeVote g
  | 3 => s.takeDecision g 1
  | 4 => s.takeDecision g (abortStatus g)
  | 5 | 6 | 7 | 8 => s.takeInput g kind
  | _ => s

/-! ### Acceptance, deadlines and outcomes -/

/-- A collective at its start (18 R316): a fresh shadow. -/
def StratusCmd.coll (k : StratusCmd) (now : Nat) : Coll :=
  { cmd := k, accept := now, deadline := now + k.ent.dln * 1024, extended := false, expired := false, shadow := [],
    passed := [], written := [], lost := false, voted := [], votes := 0, inbox := [], held := [], assisted := false, faultSent := false, lock := none,
    struck := [], decided := none, entered := none, reported := [], crossed := 0 }

/-- The stratum die accepts a Stratus word at c+16 (10 R208): a start locks its source and begins its deadline, and takes
the groups of its epoch that came before it, in their order, an abort among them as its outcome (18 R317); an abort sends its
request. -/
def State.acceptStratus (s : State) (k : StratusCmd) : State :=
  let c := { k.coll s.ccyc with assisted := (s.bindAt k.bind).mode 4 }
  if k.abort then
    match s.colls.find? (·.same c) with
    | some q => s.tellCoordinator q 8
    | none => s
  else if k.kind = 3 then s
  else
    let mine (e : Nat × FlitGroup) : Bool := c.isOf e.2
    let early := s.dev.early.filter mine
    let s : State := { s with colls := s.colls ++ [c] }
    if early.isEmpty then s
    else
      early.foldl (fun s e => if e.1 = 4 then s.enterColl c (abortStatus e.2) else s.takeGroup e.1 e.2)
        (s.modDev fun d => { d with early := d.early.filter fun e => !mine e })

/-- A deadline that has passed without an outcome or a message sent. -/
def State.deadlineDue (s : State) : Option Coll :=
  s.colls.find? fun k => k.entered.isNone && !k.expired && k.deadline ≤ s.ccyc

/-- A device's deadline passes: it sends expired, or in host-assisted mode tells the host (18 R318). -/
def State.deadlinePass (s : State) (k : Coll) : State :=
  let s := s.modColl (·.same k) fun q => { q with expired := true }
  if k.assisted then s.report (.deadline k.cmd.part k.cmd.nid)
  else s.tellCoordinator k 5

/-- The host lets an expired deadline go on to the coordinator, or extends it once (18 R318). -/
def State.hostDeadline (s : State) (part nid : Nat) (ext : Bool) : State :=
  match s.colls.find? (fun k => k.cmd.part == part && k.cmd.nid == nid && k.expired && k.entered.isNone) with
  | none => s
  | some k =>
    if !k.assisted then s
    else if ext && !k.extended then
      s.modColl (·.same k) fun q =>
        { q with expired := false, extended := true, deadline := q.deadline + q.cmd.ent.dln * 1024 }
    else s.tellCoordinator k 5

/-- A die that voted and has waited 2 x DLN x 1,024 cycles for a decision, and has not reported it (18 R317). -/
def Coll.lateDie (k : Coll) (now : Nat) : Option Nat :=
  if k.entered.isSome then none
  else (k.voted.find? fun v => !k.reported.contains v.1 && v.2 + 2 * k.cmd.ent.dln * 1024 ≤ now).map (·.1)

/-- A collective with such a die. -/
def State.timeoutDue (s : State) : Option Coll := s.colls.find? fun k => (k.lateDie s.ccyc).isSome

/-- The die reports a fabric fault (18 R317). -/
def State.timeoutPass (s : State) (k : Coll) : State :=
  match k.lateDie s.ccyc with
  | some d =>
    (s.modColl (·.same k) fun q => { q with reported := q.reported ++ [d] }).report (.fabricFault k.cmd.part k.cmd.nid d)
  | none => s

/-- An outcome that may enter the mirror in this cycle: the one before a chip mark, with the domain not frozen (10 R211,
18 R321). -/
def State.outcomeDue (s : State) : Option Coll :=
  if (s.ccyc + 1) % 2 ^ Config.cmlog ≠ 0 then none
  else s.colls.find? fun k => k.entered.isSome && (s.bindAt k.cmd.bind).freeze.isNone

/-- A registry entry as an outcome of an epoch leaves it: LAST is its status; an entry RUNNING in that epoch, or aborted in
it, is DONE or FAILED; one that has been named or started since keeps its state (10 R211, R213; 18 R320). -/
def RegEnt.settle (e : RegEnt) (epoch st : Nat) : RegEnt :=
  { e with last := st, st := if e.epoch = epoch ∧ (e.st = .running ∨ e.st = .failed) then (if st = 1 then .done else .failed)
                             else e.st }

/-- A change of a registry entry that is on its way to the mirror, as an outcome leaves it. -/
def Ev.settle (part nid epoch st : Nat) : Ev → Ev
  | .mirror p n e => if p = part ∧ n = nid then .mirror p n (e.settle epoch st) else .mirror p n e
  | e => e

/-- An outcome enters the mirror, and the changes that are on their way to it; it flips the destination on DONE, and lands
the completion word (10 R211, R212; 18 R319, R320, R322). -/
def State.outcome (s : State) (k : Coll) : State :=
  let st := k.decided.getD 5
  let ep := k.cmd.ent.epoch
  let s := s.setMirror k.cmd.part k.cmd.nid ((s.mirror k.cmd.part k.cmd.nid).settle ep st)
  let s : State := { s with
    colls := s.colls.filter fun q => !q.same k
    agenda := s.agenda.map fun e => { e with ev := e.ev.settle k.cmd.part k.cmd.nid ep st } }
  let s : State := if st = 1 then
      -- the flip comes before what lands in this cycle, and the completion word with it (16 R293, R297)
      match (s.pubs k.cmd.bind).findIdx? (fun b => b.base == k.cmd.ent.dbase) with
      | some i => s.flip k.cmd.bind i
      | none => s
    else s
  if s.partOfCore k.cmd.core = some k.cmd.part then
    let p := k.cmd.cw.toNat
    s.release s.ccyc (ptrKey ((pubRoute (s.pubs k.cmd.bind) false p).getD p))
      (pack [(st, 60), (k.cmd.ent.epoch % 2 ^ 32, 0)] ^^^ k.crossed)
  else s

/-- A domain that faults or ends before its vote sends fault for each of its collectives, once (18 R317, 22 R348). -/
def State.collsFault (s : State) (b : Nat) : State :=
  (s.colls.filter fun k =>
      k.cmd.bind == b && !k.faultSent && decide (k.voted.length < 8) && k.entered.isNone).foldl
    (fun s k => (s.modColl (·.same k) fun q => { q with faultSent := true }).tellCoordinator k 7) s

/-- Whether a domain has faulted or ended, so that its collectives that have not voted fail. -/
def Bind.failsColls (k : Bind) : Bool := k.fault.isSome || k.ended || k.ending.isSome

/-- What the stratum dies do at the end of a cycle (18 R317): the domains that have faulted or ended send fault, also for a
collective accepted since; and the coordinator takes what has reached it. -/
def State.closeColls (s : State) : State :=
  let bad := (s.colls.map (·.cmd.bind)).dedup.filter fun b => (s.bindAt b).failsColls
  let s := bad.foldl (fun s b => s.collsFault b) s
  (s.colls.filter fun k => !k.inbox.isEmpty || (!k.held.isEmpty && (s.bindAt k.cmd.bind).freeze.isNone)).foldl
    (fun s k => s.takeInbox k) s

/-- A collective that a partition's reset takes away: the peers hear of the fault at once (22 R357). -/
def State.quitColl (s : State) (k : Coll) : State :=
  if s.coordinates k then
    if k.decided.isSome then s else s.sendDecision (s.members k) (k.group s.dev.id 0) 5
  else s.sendGroup 7 0 ((s.members k).headD 0) (k.group s.dev.id 0)

/-- The running collectives of a partition: those that its dies have accepted, and those whose start is on its way to them. -/
def State.runningColls (s : State) (part : Nat) : List Coll :=
  (s.colls.filter fun k => k.cmd.part == part && k.entered.isNone) ++
    s.agenda.filterMap fun e => match e.ev with
      | .stratus k => if k.part = part ∧ k.abort = false ∧ k.kind ≠ 3 then some (k.coll s.ccyc) else none
      | _ => none

end Sys2Proof.Machine
end

