-- ==== Sys2Proof/Machine/Steep.lean ====
section
/-!
DEFINITION. The Steep field (10 R214-R218, 17 R300-R309): tiles and their geometry, the set-up and command words, the
routine words, and what the engine does by itself: built-in updates, overruns, halo exchanges and sweep boundaries.
-/

namespace Sys2Proof.Machine

/-! ### Geometry -/

/-- The state with a core's tile changed. -/
def State.modTile (s : State) (c : Nat) (f : Tile → Tile) : State := s.modCore c fun k => { k with tile := f k.tile }

/-- Whether a tile sweeps: RUNNING or STOPPING. -/
def Tile.sweeping (t : Tile) : Bool := t.st == .running || t.st == .stopping

/-- Sites of a tile. -/
def Tile.sites (t : Tile) : Nat := t.th * t.tw

/-- Bytes of a tile (10 R216). -/
def Tile.bytes (t : Tile) : Nat :=
  match t.sf with
  | 0 => (t.sites + 7) / 8
  | 1 => t.sites
  | _ => 2 * t.sites

/-- The lattice position of a site (17 R300). -/
def Tile.pos (t : Tile) (i : Nat) : Nat × Nat := (t.x0 + i % t.tw, t.y0 + i / t.tw)

/-- The lattice index of a position. -/
def Tile.lat (t : Tile) (p : Nat × Nat) : Nat := p.2 * t.lw + p.1

/-- The colour of a position (10 R215). -/
def Tile.colourAt (t : Tile) (p : Nat × Nat) : Nat :=
  if t.colours = 4 then p.1 % 2 + 2 * (p.2 % 2) else (p.1 + p.2) % 2

/-- Neighbours of a site by NB (10 R214, R217). -/
def Tile.degree (t : Tile) : Nat :=
  match t.nb with
  | 0 => 4
  | 1 => 8
  | _ => 2

/-- The step to neighbour `j` (10 R217). -/
def neighbourStep (j : Nat) : Int × Int :=
  [(-1, 0), (1, 0), (0, -1), (0, 1), (-1, -1), (1, -1), (-1, 1), (1, 1)].getD j (0, 0)

/-- The position of neighbour `j` of a position, or none beyond an edge that does not wrap. -/
def Tile.neighbour (t : Tile) (p : Nat × Nat) (j : Nat) : Option (Nat × Nat) :=
  let d := neighbourStep j
  let x := (p.1 : Int) + d.1
  let y := (p.2 : Int) + d.2
  if t.wrap then some ((x % t.lw).toNat, (y % t.lh).toNat)
  else if 0 ≤ x ∧ x < t.lw ∧ 0 ≤ y ∧ y < t.lh then some (x.toNat, y.toNat) else none

/-- The local index of a position in a tile, if the tile holds it. -/
def Tile.index (t : Tile) (p : Nat × Nat) : Option Nat :=
  if t.x0 ≤ p.1 ∧ p.1 < t.x0 + t.tw ∧ t.y0 ≤ p.2 ∧ p.2 < t.y0 + t.th then some ((p.2 - t.y0) * t.tw + (p.1 - t.x0))
  else none

/-- The sites on a tile's border: only they have neighbours in other tiles. -/
def Tile.border (t : Tile) : List Nat :=
  (List.range t.sites).filter fun i =>
    i % t.tw == 0 || i % t.tw + 1 == t.tw || i / t.tw == 0 || i / t.tw + 1 == t.th

/-- The positions outside a tile that neighbour one of its sites (17 R304). -/
def Tile.foreign (t : Tile) : List (Nat × Nat) :=
  (t.border.flatMap fun i =>
    ((List.range t.degree).filterMap (t.neighbour (t.pos i))).filter fun p => (t.index p).isNone).dedup

/-- The first site of a colour at or after a local index. -/
def Tile.nextSite (t : Tile) (k i : Nat) : Option Nat :=
  (rangeFrom i (t.sites - i)).find? fun i => t.colourAt (t.pos i) == k

/-! ### Sites and couplings -/

/-- The byte offset of a site in its tile, its bytes, its lowest bit and its width (10 R214). -/
def Tile.place (t : Tile) (i : Nat) : Nat × Nat × Nat × Nat :=
  match t.sf with
  | 0 => (i / 8, 1, i % 8, 1)
  | 1 => (i, 1, 0, 8)
  | _ => (2 * i, 2, 0, 16)

/-- The memory key of the byte at an offset of a pointer, in the visible half of a published buffer. -/
def State.visKey (s : State) (b p : Nat) : Nat := ptrKey ((pubRoute (s.pubs b) false p).getD p)

/-- A site's value and whether it is poisoned; loads of the tile see what `fset` writes leave (16 R299), so both go to
the visible half where a tile lies in a published buffer. -/
def State.siteVal (s : State) (c : Nat) (t : Tile) (i : Nat) : Nat × Bool :=
  let q := t.place i
  let key := s.visKey (s.bindOf c) (t.tbase.toNat + q.1)
  (s.mem.readLe key q.2.1 / 2 ^ q.2.2.1 % 2 ^ q.2.2.2, poisoned s.ecc key q.2.1)

/-- The bytes that a read of a site meets, by key. -/
def State.siteBytes (s : State) (c : Nat) (t : Tile) (i : Nat) : List (Nat × Nat) :=
  let q := t.place i
  [(s.visKey (s.bindOf c) (t.tbase.toNat + q.1), q.2.1)]

/-- Some bits of a value replaced. -/
def bitsPut (old v lo w : Nat) : Nat := old - old / 2 ^ lo % 2 ^ w * 2 ^ lo + v % 2 ^ w * 2 ^ lo

/-- A site takes a value. -/
def State.setSite (s : State) (c : Nat) (t : Tile) (i v : Nat) : State :=
  let q := t.place i
  let key := s.visKey (s.bindOf c) (t.tbase.toNat + q.1)
  s.write key (leBytes q.2.1 (bitsPut (s.mem.readLe key q.2.1) v q.2.2.1 q.2.2.2))

/-- A site's previous bits are written into the invisible half of a snapshot's buffer (17 R307). -/
def State.copySite (s : State) (c : Nat) (t : Tile) (base : Word) (i v : Nat) : State :=
  let q := t.place i
  let p := base.toNat + q.1
  let key := ptrKey ((pubRoute (s.pubs (s.bindOf c)) true p).getD p)
  s.write key (leBytes q.2.1 (bitsPut (s.mem.readLe key q.2.1) v q.2.2.1 q.2.2.2))

/-- Coupling entry `j` of a site, from the visible half of the coupling table, and whether it is poisoned (10 R214, 17
R307). -/
def State.coupling (s : State) (c : Nat) (t : Tile) (i j : Nat) : Nat × Bool :=
  let key := s.visKey (s.bindOf c) (t.cbase.toNat + 32 * i + 2 * j)
  (s.mem.readLe key 2, poisoned s.ecc key 2)

/-- The bytes that a read of a coupling entry meets, by key. -/
def State.couplingKeys (s : State) (c : Nat) (t : Tile) (i j : Nat) : List (Nat × Nat) :=
  [(s.visKey (s.bindOf c) (t.cbase.toNat + 32 * i + 2 * j), 2)]

/-- What an update reads as neighbour `j` of a site: whether it lies beyond an edge, its value, and whether it is
poisoned (10 R217, 17 R300, R304). -/
def State.neighbourVal (s : State) (c : Nat) (t : Tile) (i j : Nat) : Bool × Nat × Bool :=
  match t.neighbour (t.pos i) j with
  | none => (true, 0, false)
  | some p =>
    match t.index p with
    | some k => let v := s.siteVal c t k; (false, v.1, v.2)
    | none =>
      match tfind t.halo (t.lat p) with
      | some v => (false, v.toNat, false)
      | none => (true, 0, false)

/-- The bytes of its own tile that an update's read of neighbour `j` meets, by key. -/
def State.neighbourKeys (s : State) (c : Nat) (t : Tile) (i j : Nat) : List (Nat × Nat) :=
  (((t.neighbour (t.pos i) j).bind t.index).map fun k => s.siteBytes c t k).getD []

/-! ### Fields and their time (17 R302, R303) -/

/-- The cores of a domain whose tiles belong to a field. -/
def State.fieldCores (s : State) (b key : Nat) : List Nat :=
  (s.cores.filter fun k => k.2.bound == some b && k.2.tile.st != .undeclared && k.2.tile.fkey == key).map (·.1)

/-- A field of a domain. -/
def State.fieldOf (s : State) (b key : Nat) : Option FieldRun := (s.bindAt b).fields.find? (·.fkey == key)

/-- The state with a field changed. -/
def State.modField (s : State) (b key : Nat) (f : FieldRun → FieldRun) : State :=
  s.modBind b fun k => { k with fields := k.fields.map fun q => if q.fkey = key then f q else q }

/-- The reserved cycles of a field before MCYC `m`, counted from the start mark (17 R303). -/
def FieldRun.rho (f : FieldRun) (start m : Nat) : Nat := (m - start) / 16 * f.rnum + min ((m - start) % 16) f.rnum

/-- Where a sweeping field stands in a reserved cycle: the place in the colour window, the colour and the sweep. -/
structure Place3 where
  at_ : Nat
  colour : Nat
  sweep : Nat
  deriving DecidableEq, Repr

/-- The place of a reserved cycle `m`, if the field sweeps and the cycle is reserved. -/
def FieldRun.place (f : FieldRun) (colours m : Nat) : Option Place3 :=
  match f.start with
  | none => none
  | some start =>
    if m < start ∨ f.rnum ≤ m % 16 then none
    else
      let r := f.rho start m
      let q := r / f.win
      some { at_ := r % f.win, colour := q % colours, sweep := f.n0 + q / colours }

/-- Whether the sweep stream owns a cycle of a core: the cycle is reserved and a routine is bound (02 R21, 10 R215). -/
def Core.reserved (k : Core) (m : Nat) : Bool := k.routineBound && m % 16 < k.tile.rate

/-- The site in update on a core, with the colour window's place. -/
def State.siteNow (s : State) (c : Nat) : Option (Nat × Place3) :=
  let t := (s.core c).tile
  match s.fieldOf (s.bindOf c) t.fkey with
  | none => none
  | some f =>
    match f.place t.colours (s.mcyc c) with
    | none => none
    | some p =>
      if t.sweeping && p.at_ + 4 ≤ f.win then (t.nextSite p.colour t.site).map fun i => (i, p) else none

/-- Random bits of a site's draw (17 R305). -/
def State.fieldDraw (s : State) (c : Nat) (t : Tile) (i n d : Nat) : BitVec 32 :=
  gen (s.core c).ctl.gseed (t.fkey * 256 + d * 64 + n / 65536 % 64) (n % 65536 * 2 ^ 32 + t.lat (t.pos i))

/-! ### The status word (10 R218) -/

/-- The state code. -/
def TileSt.code : TileSt → Nat
  | .undeclared => 0 | .declared => 1 | .bound => 2 | .running => 3 | .stopping => 4 | .stopped => 5 | .faulted => 6

/-- The status word of a tile. -/
def Tile.status (t : Tile) : Word := pack [(t.st.code, 60), (t.snaps % 256, 48), (t.sweep % 2 ^ 48, 0)]

/-- The engine writes the status word. -/
def State.tileStatus (s : State) (c : Nat) : State :=
  let t := (s.core c).tile
  if t.st = .undeclared then s else s.write64 (s.visKey (s.bindOf c) t.sw.toNat) t.status

/-- The status word of a tile lands in cycle `due`, as a release (16 R281). -/
def State.postStatus (s : State) (due c : Nat) : State := s.postTie due 4 (engineTie s.ccyc c) (.tileStatus c)

/-- A tile changes its state; the status word lands in the next cycle. -/
def State.tileState (s : State) (c : Nat) (st : TileSt) : State :=
  (s.modTile c fun t => { t with st := st }).postStatus (s.ccyc + 1) c

/-! ### Set-up words (10 R214, R215) -/

/-- An engine fault of sub-cause `sub`: TVAL is the first descriptor register, or 0 (10 R197). -/
def engineFault (s : State) (sub : Nat) (tv : Word) : Res := .trap s 0x13 sub tv

/-- The tile that a descriptor of `fdecl` declares (10 R214). -/
def declTile (w0 w1 w2 w3 w4 : Word) : Tile :=
  { Tile.init with
    st := .declared, tbase := w0, th := wfld w1 63 48, tw := wfld w1 47 32, lh := wfld w1 31 16, lw := wfld w1 15 0,
    fkey := wfld w2 63 56, ncat := wfld w2 55 48, wrap := w2.getLsbD 40, nb := wfld w2 39 36, sf := wfld w2 35 32,
    y0 := wfld w2 31 16, x0 := wfld w2 15 0, cbase := w3, sw := w4 }

/-- Whether a descriptor of `fdecl` has reserved fields, or its tile leaves the lattice. -/
def declBad (w2 : Word) (t : Tile) : Bool :=
  wfld w2 47 41 != 0 || 2 < t.nb || 2 < t.sf || ((t.sf == 1) != (t.ncat != 0)) || t.th == 0 || t.tw == 0 ||
    t.lh < t.th || t.lw < t.tw || (t.nb == 2 && (t.lh != 1 || !t.wrap)) || t.lw < t.x0 + t.tw || t.lh < t.y0 + t.th

/-- Whether `n` bytes at an L-space pointer lie in the near column of a core, or (`far`) in its near or far column. -/
def State.columnOk (s : State) (c b : Nat) (far : Bool) (p n : Nat) : Bool :=
  ptrTag p == 2 && ptrZero p && lOff p + n ≤ 0x100000 && !altHit (s.pubs b) p n &&
    (lCol p == c || (far && lCol p + 1024 == c && s.colPart (lCol p) == s.partOfCore c))

/-- Whether two tiles of one field agree and do not overlap (17 R300). -/
def Tile.fits (t u : Tile) : Bool :=
  t.lh == u.lh && t.lw == u.lw && t.nb == u.nb && t.sf == u.sf && t.ncat == u.ncat && t.wrap == u.wrap &&
    !(u.x0 < t.x0 + t.tw && t.x0 < u.x0 + u.tw && u.y0 < t.y0 + t.th && t.y0 < u.y0 + u.th)

/-- Whether a scratchpad word of the core is named, as the status word of a tile. -/
def statusPtrOk (s : State) (x : Ctx) (p : Nat) : Bool :=
  ptrTag p == 1 && ptrZero p && sCore p == x.core && sKind p == 0 && sOff p + 8 ≤ 0x40000 &&
    !altHit (s.pubs x.bind) p 8

/-- Whether `fdecl` raises SUB 2: the field sweeps, has no entry, disagrees with a tile of the field, or the halo is too
large (10 R216; 17 R300, R301; 22 R343). -/
def State.declRefused (s : State) (x : Ctx) (t : Tile) : Bool :=
  (s.core x.core).tile.sweeping || (s.fieldOf x.bind t.fkey).isNone ||
    ((s.fieldCores x.bind t.fkey).any fun c => c != x.core && !t.fits (s.core c).tile) ||
    2048 < t.foreign.length

/-- The routine is unbound: its window lines and `ql2` go back to the X-stream (02 R21, R32). -/
def State.unbind (s : State) (c : Nat) : State :=
  s.modCore c fun k =>
    { k with tile := { k.tile with routine := .none, updating := false, draws := 0 }, sw := Stream.init }

/-- `fdecl oxN` (10 R214); a copy of `fsnap` that is under way stays pending, and its flip is counted (R216, R218). DESIGN
CHOICE (log 100): a new declaration writes the status word, also in DECLARED. -/
def execFdecl (sf : Bool) (o : BitVec 3) (s : State) : Host.Outcome State Fault Refusal :=
  let d (s : State) (x : Ctx) (i : Nat) : Word := s.desc x o.toNat i
  let tile (s : State) (x : Ctx) : Tile := declTile (d s x 0) (d s x 1) (d s x 2) (d s x 3) (d s x 4)
  issueWord sf .x false
    (fun s x => { reserved := declBad (d s x 2) (tile s x) })
    (fun s x =>
      let t := tile s x
      if !s.columnOk x.core x.bind false t.tbase.toNat t.bytes then .trap s 0x08 0 t.tbase
      else if !s.columnOk x.core x.bind true t.cbase.toNat (32 * t.sites) then .trap s 0x08 0 t.cbase
      else if !statusPtrOk s x t.sw.toNat then .trap s 0x08 0 t.sw
      else if t.tbase.toNat % 32 ≠ 0 then .trap s 0x09 0 t.tbase
      else if t.cbase.toNat % 32 ≠ 0 then .trap s 0x09 0 t.cbase
      else if t.sw.toNat % 8 ≠ 0 then .trap s 0x09 0 t.sw
      else if s.declRefused x t then engineFault s 2 t.tbase
      else .ok (((s.unbind x.core).modTile x.core fun u => { t with snapCopy := u.snapCopy }).postStatus (x.now + 1) x.core) .seq) s

/-- Whether a colour count fits a tile (10 R215). -/
def Tile.coloursOk (t : Tile) (n : Nat) : Bool :=
  n == (if t.nb = 1 then 4 else 2) && (!t.wrap || (t.lw % 2 == 0 && (t.nb == 2 || t.lh % 2 == 0)))

/-- `fcol oxN` (10 R215). -/
def execFcol (sf : Bool) (o : BitVec 3) (s : State) : Host.Outcome State Fault Refusal :=
  issueWord sf .x false
    (fun s x => { reserved := wfld (s.desc x o.toNat 0) 63 3 != 0 })
    (fun s x =>
      let w := s.desc x o.toNat 0
      let t := (s.core x.core).tile
      if t.st ≠ .declared then engineFault s 2 w
      else if !t.coloursOk (wfld w 2 0) then engineFault s 5 w
      else .ok (s.modTile x.core fun t => { t with colours := wfld w 2 0 }) .seq) s

/-- A routine's address, or the built-in rule (17 R306). -/
def routineOf (a : Nat) : Routine := if a = 0xFFFFFFFF then .builtin else .code (BitVec.ofNat 32 a)

/-- The sweep stream of a bound routine: its `RND` is a copy of the X-stream's (02 R45) and its DBG the launch's (09
R186); the built-in rule has none. DESIGN CHOICE (log 65): the launch record gives it no handler base, and its TVEC is
0. -/
def sweepStream (x : Stream) (r : Routine) : Stream :=
  match r with
  | .code a => { Stream.init with
      run := .due, pc := a, rm := x.rm, ovf := x.ovf, traps := { TrapRegs.init with dbg := x.traps.dbg } }
  | _ => Stream.init

/-- Whether `fbind` raises SUB 2 (10 R215, R216; 17 R306). -/
def State.bindRefused (s : State) (x : Ctx) (a : Nat) : Bool :=
  let k := s.core x.core
  let t := k.tile
  !(t.st == .bound || t.st == .stopped || (t.st == .declared && t.colours != 0)) ||
    (a != 0 && ((if a = 0xFFFFFFFF then t.sf != 0 else (s.bindAt x.bind).klen ≤ a) || 12 < k.sx.rcnt || !k.ql2.isEmpty))

/-- `fbind oxN` (10 R215). -/
def execFbind (sf : Bool) (o : BitVec 3) (s : State) : Host.Outcome State Fault Refusal :=
  issueWord sf .x false
    (fun s x => { reserved := wfld (s.desc x o.toNat 0) 63 32 != 0 })
    (fun s x =>
      let w := s.desc x o.toNat 0
      let a := wfld w 31 0
      let t := (s.core x.core).tile
      if s.bindRefused x a then engineFault s 2 w
      else if a = 0 then .ok (if t.st = .declared then s else (s.unbind x.core).tileState x.core .declared) .seq
      else
        let r := routineOf a
        let s := s.modCore x.core fun k =>
          { k with tile := { k.tile with routine := r, updating := false, draws := 0 }, sw := sweepStream k.sx r }
        .ok (if t.st = .declared then s.tileState x.core .bound else s) .seq) s

/-- `frate oxN`: RNUM is in force from the next mark (10 R215). -/
def execFrate (sf : Bool) (o : BitVec 3) (s : State) : Host.Outcome State Fault Refusal :=
  issueWord sf .x false
    (fun s x => { reserved := wfld (s.desc x o.toNat 0) 63 5 != 0 || 16 < wfld (s.desc x o.toNat 0) 4 0 })
    (fun s x =>
      let w := s.desc x o.toNat 0
      let t := (s.core x.core).tile
      if t.st ≠ .bound ∧ t.st ≠ .stopped then engineFault s 2 w
      else if ((s.fieldOf x.bind t.fkey).map (·.rnum)) ≠ some (wfld w 4 0) then engineFault s 4 w
      else .ok (s.modTile x.core fun t => { t with rateNext := some (wfld w 4 0) }) .seq) s

/-! ### Command words (10 R216, 17 R302, R307) -/

/-- The tiles of a field in one state take another. -/
def State.fieldState (s : State) (b key : Nat) (old new : TileSt) : State :=
  (s.fieldCores b key).foldl (fun s c => if (s.core c).tile.st = old then s.tileState c new else s) s

/-- `fgo` (10 R216, 17 R302). DEDUCED (log 115): on a field that runs it has no effect (R302), also where RNUM is 0 and
R216 would give SUB 2. -/
def execFgo (sf : Bool) (s : State) : Host.Outcome State Fault Refusal :=
  issueWord sf .x false noPre
    (fun s x =>
      let t := (s.core x.core).tile
      let run := ((s.fieldOf x.bind t.fkey).bind (·.start)).isSome
      match t.st with
      | .running => .ok s .seq
      | .stopping => .ok (s.fieldState x.bind t.fkey .stopping .running) .seq
      | .bound | .stopped =>
        if run then .ok s .seq
        else if t.rateNext.getD t.rate = 0 then engineFault s 2 0
        else .ok (s.modField x.bind t.fkey fun f => { f with startReq := true }) .seq
      | _ => engineFault s 2 0) s

/-- `fstop`: by any core of the field, every running tile of it stops at the next sweep boundary (10 R216, 17 R302). -/
def execFstop (sf : Bool) (s : State) : Host.Outcome State Fault Refusal :=
  issueWord sf .x false noPre
    (fun s x =>
      let t := (s.core x.core).tile
      match t.st with
      | .undeclared | .declared => engineFault s 2 0
      | _ => .ok (s.fieldState x.bind t.fkey .running .stopping) .seq) s

/-- The published buffer that a pointer names, by its index. -/
def State.pubAt (s : State) (b : Nat) (p : Word) : Option Nat := (s.pubs b).findIdx? fun q => q.base == p

/-- `fpub`: the coupling table flips, now or at the next sweep boundary, after an order check with mask K and M (10 R216).
-/
def execFpub (sf : Bool) (s : State) : Host.Outcome State Fault Refusal :=
  issueWord sf .x false noPre
    (fun s x =>
      let t := (s.core x.core).tile
      if t.st = .undeclared ∨ t.st = .faulted then engineFault s 2 0
      else match s.pubAt x.bind t.cbase with
        | none => engineFault s 2 0
        | some i =>
          if s.orderOk x.core 0b01100 = false then .slip 6
          else if t.sweeping then .ok (s.modTile x.core fun t => { t with flipPend := true }) .seq
          else .ok (s.post (x.now + 1) 0 (.flip x.bind i)) .seq) s

/-- `fsnap oxN ~s` (10 R216, 17 R307). -/
def execFsnap (sf : Bool) (o : BitVec 3) (i : BitVec 1) (l : BitVec 11) (s : State) :
    Host.Outcome State Fault Refusal :=
  issueWord sf .x false
    (fun _ _ => { reserved := slotFieldBad o 1 i l })
    (fun s x =>
      let p := s.desc x o.toNat 0
      let t := (s.core x.core).tile
      let idx := s.slotIdx x i l
      if !s.columnOk x.core x.bind true p.toNat 1 then .trap s 0x08 0 p
      else if t.st = .undeclared ∨ t.st = .faulted ∨ t.snapPend.isSome ∨ t.snapCopy then engineFault s 2 p
      else match s.pubAt x.bind p with
        | none => engineFault s 2 p
        | some k =>
          if ((s.pubs x.bind).getD k ⟨0, 0, false, false, 0⟩).len < t.bytes then engineFault s 2 p
          else match s.slotCause x kindCaddy idx with
            | some c => .slip c
            | none =>
              if t.sweeping then
                .ok (s.modTile x.core fun t => { t with snapPend := some { base := p, copying := false } }) .seq
              else
                let q : Xfer := { newXfer s x.core x.half x.bind x.m idx .snap with
                                  src := t.tbase, dst := p, bytes := t.bytes, aux := BitVec.ofNat 64 k }
                .ok ((s.modTile x.core fun t => { t with snapCopy := true }).startXfer q none) .seq) s

/-! ### Routine words (10 R217) -/

/-- The site in update, or site 0 in states where none is. -/
def State.siteCur (s : State) (c : Nat) : Nat := ((s.siteNow c).map (·.1)).getD 0
/-- The sweep of the update. -/
def State.sweepCur (s : State) (c : Nat) : Nat := ((s.siteNow c).map (·.2.sweep)).getD (s.core c).tile.sweep

/-- The entry of `fget` for selector `j`, and whether it meets poison (10 R217). -/
def State.fgetEntry (s : State) (c : Nat) (t : Tile) (i j : Nat) : Word × Bool :=
  let q := s.coupling c t i j
  if j = 8 then
    let v := s.siteVal c t i
    (pack [(q.1, 32), (v.1, 0)], v.2 || q.2)
  else
    let v := s.neighbourVal c t i j
    (pack [(v.1.toNat, 63), (q.1, 32), (v.2.1, 0)], v.2.2 || q.2)

/-- The bytes that `fget` reads for selector `j`, by key (24 R373). -/
def State.fgetKeys (s : State) (c : Nat) (t : Tile) (i j : Nat) : List (Nat × Nat) :=
  s.couplingKeys c t i j ++ if j = 8 then s.siteBytes c t i else s.neighbourKeys c t i j

/-- `fget ql2, j` (10 R217). -/
def execFget (sf : Bool) (j : BitVec 4) (s : State) : Host.Outcome State Fault Refusal :=
  issueWord sf .f false
    (fun s x => { reserved := 8 < j.toNat || (j.toNat < 8 && (s.core x.core).tile.degree ≤ j.toNat) })
    (fun s x =>
      let t := (s.core x.core).tile
      let e := s.fgetEntry x.core t (s.siteCur x.core) j.toNat
      if 8 ≤ (s.core x.core).occupancy 2 x.now then .trap s 0x0A 0 0
      else
        let s := s.noteRead (s.fgetKeys x.core t (s.siteCur x.core) j.toNat)
        if e.2 then .trap s 0x0C 0 0 else .ok (s.push x.core x.half 2 (x.now + 3) e.1) .seq) s

/-- `fnext` (10 R217, 17 R305). -/
def execFnext (sf : Bool) (s : State) : Host.Outcome State Fault Refusal :=
  issueWord sf .f false noPre
    (fun s x =>
      let t := (s.core x.core).tile
      if 8 ≤ (s.core x.core).occupancy 2 x.now then .trap s 0x0A 0 0
      else if 4 ≤ t.draws then .trap s 0x30 0 0
      else
        let g := s.fieldDraw x.core t (s.siteCur x.core) (s.sweepCur x.core) t.draws
        .ok ((s.push x.core x.half 2 (x.now + 4) (g.setWidth 64)).modTile x.core fun t =>
          { t with draws := t.draws + 1 }) .seq) s

/-- The routine's first word. -/
def Tile.first (t : Tile) : BitVec 32 :=
  match t.routine with
  | .code a => a
  | _ => 0

/-- `fset a` (10 R217). -/
def execFset (sf : Bool) (a : BitVec 5) (s : State) : Host.Outcome State Fault Refusal :=
  issueWord sf .f false (usePre 1 [a.toNat] [])
    (fun s x =>
      match s.sources x 0 [a.toNat] with
      | .fault s' code sub tv => .trap s' code sub tv
      | .vals s' l =>
        let t := (s.core x.core).tile
        let v := arg l 0
        let i := s.siteCur x.core
        if t.sf = 1 ∧ t.ncat < wfld v 7 0 then .trap s 0x31 0 0
        else if !(s'.core x.core).ql2.isEmpty then .trap s 0x32 0 0
        else .ok ((s'.post (x.now + 2) 5 (.fset x.core i v)).modTile x.core fun t =>
            { t with site := i + 1, updating := false, draws := 0 }) (.restart t.first)) s

/-- An update lands; a running snapshot takes the site's previous bits (17 R307). -/
def State.landSite (s : State) (c i v : Nat) : State :=
  let t := (s.core c).tile
  let old := (s.siteVal c t i).1
  let s := match t.snapPend with
    | some r => if r.copying then s.copySite c t r.base i old else s
    | none => s
  s.setSite c t i v

/-! ### The built-in rule (17 R306) -/

/-- FP32 rounding to nearest even. -/
def FVal.r32 (v : FVal) : FVal := unpackIeee f32 (packIeee f32 .even false v)

/-- Whether random bits g[31:8] are below floor(p * 2^24). -/
def drawBelow (g : BitVec 32) : FVal → Bool
  | .fin neg m e => decide (((g.toNat / 256 : Nat) : Int) < floor24 neg m e)
  | .inf neg => !neg
  | .nan => false

/-- The local field of a site: the bias and the couplings by neighbour, FP32 sums in order. -/
def State.localField (s : State) (c : Nat) (t : Tile) (i : Nat) : FVal :=
  (List.range t.degree).foldl (fun h j =>
    let v := s.neighbourVal c t i j
    if v.1 then h
    else
      let q := unpackIeee bf16 (s.coupling c t i j).1
      (h.add .even (if v.2.1 = 1 then q else q.neg)).r32) (unpackIeee bf16 (s.coupling c t i 8).1)

/-- The new value of a site under the built-in rule. -/
def State.builtinVal (s : State) (c : Nat) (t : Tile) (i n : Nat) : Nat :=
  let h := s.localField c t i
  let x := ((unpackIeee f32 0x4038AA3B).mul h).r32.neg
  let e := x.exp2.r32
  let p := (((FVal.ofInt 1).add .even e).r32.rcp).r32
  if drawBelow (s.fieldDraw c t i n 0) p then 1 else 0

/-- The sites that the next built-in update takes: four of the present colour, in increasing local index. -/
def Tile.nextFour (t : Tile) (k : Nat) : List Nat :=
  ((rangeFrom t.site (t.sites - t.site)).filter fun i => t.colourAt (t.pos i) == k).take 4

/-- Whether a core's built-in rule makes an update in this cycle. -/
def State.builtinDue (s : State) (c : Nat) : Bool :=
  let t := (s.core c).tile
  t.routine == .builtin && t.lastUpdate != s.mcyc c + 1 && (s.siteNow c).isSome

/-- The built-in updates of a reserved cycle: they read the tile now and land at c+2 (17 R306). -/
def State.builtinUpdate (s : State) (c : Nat) : State :=
  match s.siteNow c with
  | none => s
  | some p =>
    let t := (s.core c).tile
    let l := t.nextFour p.2.colour
    let s := s.noteRead (l.flatMap fun i =>
      s.couplingKeys c t i 8 ++ (List.range t.degree).flatMap fun j => s.neighbourKeys c t i j ++ s.couplingKeys c t i j)
    let s := s.modTile c fun t => { t with site := l.getLastD 0 + 1, lastUpdate := s.mcyc c + 1 }
    s.post (s.ccyc + 2) 5 (.sitePut c (l.map fun i => (i, s.builtinVal c t i p.2.sweep)))

/-! ### Starts, overruns, halos and sweep boundaries -/

/-- The core, among some, whose tile holds a lattice position, and its local index there. -/
def State.holder (s : State) (cs : List Nat) (p : Nat × Nat) : Option (Nat × Nat) :=
  cs.findSome? fun c => ((s.core c).tile.index p).map fun i => (c, i)

/-- The halo of a tile from the tiles of its field as they stand (17 R304). -/
def State.haloOf (s : State) (b : Nat) (t : Tile) : Tab (BitVec 16) :=
  let others := s.fieldCores b t.fkey
  t.foreign.foldl (fun h p =>
    match s.holder others p with
    | some q => tset h (t.lat p) (BitVec.ofNat 16 (s.siteVal q.1 (s.core q.1).tile q.2).1)
    | none => h) []

/-- The bytes that copies of some lattice positions read from the tiles of cores, by key (24 R373). -/
def State.holderKeys (s : State) (cs : List Nat) (ps : List (Nat × Nat)) : List (Nat × Nat) :=
  (ps.filterMap (s.holder cs)).flatMap fun q => s.siteBytes q.1 (s.core q.1).tile q.2

/-- A field starts at a mark (17 R302): tiles that are BOUND or STOPPED with a rate run, and every halo takes the current
values. -/
def State.startField (s : State) (b : Nat) (f : FieldRun) (m : Nat) : State :=
  let cs := s.fieldCores b f.fkey
  let run := cs.filter fun c =>
    let t := (s.core c).tile
    (t.st == .bound || t.st == .stopped) && t.rate != 0
  let s := s.modField b f.fkey fun f => { f with startReq := false }
  match run with
  | [] => s
  | c0 :: _ =>
    let n0 := (s.core c0).tile.sweep
    let s := s.modField b f.fkey fun f => { f with start := some m, n0 := n0, faulting := false }
    let s := s.noteRead (cs.flatMap fun c => s.holderKeys cs (s.core c).tile.foreign)
    let s := cs.foldl (fun s c => s.modTile c fun t => { t with halo := s.haloOf b t }) s
    run.foldl (fun s c =>
      let s := s.tileState c .running
      s.modCore c fun k =>
        { k with tile := { k.tile with site := 0, updating := false, draws := 0 },
                 sw := if k.sw.run = .stopped then sweepStream k.sx k.tile.routine else k.sw }) s

/-- The cores of a field that sweep. -/
def State.sweepers (s : State) (b key : Nat) : List Nat :=
  (s.fieldCores b key).filter fun c => (s.core c).tile.sweeping

/-- The cores of a field that sweep, or stopped in the present cycle: they sweep until its end. -/
def State.swept (s : State) (b key : Nat) : List Nat :=
  (s.fieldCores b key).filter fun c => (s.core c).tile.sweeping || (s.core c).tile.stopAt == s.mcycOf b + 1

/-- The colours of a field, by a sweeping tile of it. -/
def State.fieldColours (s : State) (b key : Nat) : Nat :=
  ((s.swept b key).head?.map fun c => (s.core c).tile.colours).getD 2

/-- The place of a field in MCYC `m`. -/
def State.fieldPlace (s : State) (b : Nat) (f : FieldRun) (m : Nat) : Option Place3 :=
  f.place (s.fieldColours b f.fkey) m

/-- Whether the update cycles of a window ended in the cycle before `m` (17 R303). -/
def State.overrunAt (s : State) (b : Nat) (f : FieldRun) (m : Nat) : Bool :=
  m != 0 && match s.fieldPlace b f (m - 1) with
    | some p => p.at_ + 4 == f.win
    | none => false

/-- Whether `m` is the last reserved cycle of a window. -/
def State.windowEnd (s : State) (b : Nat) (f : FieldRun) (m : Nat) : Bool :=
  match s.fieldPlace b f m with
  | some p => p.at_ + 1 == f.win
  | none => false

/-- Whether a field of a domain has an overrun check or a halo exchange in this cycle. -/
def State.haloDue (s : State) (b : Nat) (f : FieldRun) : Bool :=
  let m := s.mcycOf b
  f.start.isSome && f.lastHalo != m + 1 && (s.overrunAt b f m || s.windowEnd b f m)

/-- A site that its window's update cycles did not reach: overrun, SUB 0x33 (17 R303). -/
def State.overrun (s : State) (b : Nat) (f : FieldRun) (m : Nat) : State :=
  match s.fieldPlace b f (m - 1) with
  | none => s
  | some p =>
    (s.sweepers b f.fkey).foldl (fun s c =>
      let k := s.core c
      if (k.tile.nextSite p.colour k.tile.site).isSome ∧ k.sw.run ≠ .stopped then
        s.sweepFault c 0x33 (match k.tile.routine with
          | .code _ => BitVec.ofNat 64 k.sw.pc.toNat
          | _ => 0)
      else s) s

/-- The tiles of a field that swept become FAULTED, and pending flips and snapshots are discarded (17 R303, R307, R308).
-/
def State.fieldFaulted (s : State) (b : Nat) (f : FieldRun) : State :=
  let s := (s.sweepers b f.fkey).foldl (fun s c =>
    (s.modTile c fun t => { t with flipPend := false, snapPend := none, updating := false }).tileState c .faulted) s
  s.modField b f.fkey fun f => { f with start := none, faulting := false }

/-- Each sweeping tile's sites of a colour are copied into the halos that hold them (17 R304). -/
def State.exchange (s : State) (b : Nat) (f : FieldRun) (colour : Nat) : State :=
  let from_ := s.swept b f.fkey
  let place (t : Tile) (e : Nat × BitVec 16) : Nat × Nat := (e.1 % t.lw, e.1 / t.lw)
  let s := s.noteRead ((s.fieldCores b f.fkey).flatMap fun c =>
    let t := (s.core c).tile
    s.holderKeys from_ ((t.halo.map (place t)).filter fun p => t.colourAt p == colour))
  (s.fieldCores b f.fkey).foldl (fun s c =>
    let t := (s.core c).tile
    let halo := t.halo.map fun e =>
      let p := place t e
      if t.colourAt p ≠ colour then e
      else match s.holder from_ p with
        | some q => (e.1, BitVec.ofNat 16 (s.siteVal q.1 (s.core q.1).tile q.2).1)
        | none => e
    s.modTile c fun t => { t with halo := halo, site := 0 }) s

/-- The end of the update cycles, or the last reserved cycle of a window: overruns are found, and halos are exchanged or
the field faults (17 R303, R304, R308). -/
def State.haloStep (s : State) (b : Nat) (f : FieldRun) : State :=
  let m := s.mcycOf b
  let s := s.modField b f.fkey fun f => { f with lastHalo := m + 1 }
  let s := if s.overrunAt b f m then s.overrun b f m else s
  match s.fieldOf b f.fkey with
  | none => s
  | some f =>
    if !s.windowEnd b f m then s
    else if f.faulting then s.fieldFaulted b f
    else match s.fieldPlace b f m with
      | some p =>
        let s := s.exchange b f p.colour
        if (s.sweepers b f.fkey).isEmpty then s.modField b f.fkey fun f => { f with start := none } else s
      | none => s

/-- Whether a field of a domain has a sweep boundary in this cycle (17 R303). It comes before what lands in the cycle, so
that its flips and its status words hold for every observer of the cycle (16 R297); a window at whose end the field
faults has none. -/
def State.boundaryDue (s : State) (b : Nat) (f : FieldRun) : Bool :=
  let m := s.mcycOf b
  f.start.isSome && !f.faulting && f.lastBoundary != m + 1 && f.lastHalo != m + 1 && s.windowEnd b f m &&
    match s.fieldPlace b f m with
    | some p => p.colour + 1 == s.fieldColours b f.fkey
    | none => false

/-- A tile at a sweep boundary: the sweep counts, a pending flip is made, a snapshot ends or begins, STOPPING becomes
STOPPED, and the status word lands (10 R216, R218; 17 R307). -/
def State.tileBoundary (s : State) (b c : Nat) : State :=
  let t := (s.core c).tile
  let s := if t.flipPend then
      match s.pubAt b t.cbase with
      | some i => s.flip b i
      | none => s
    else s
  let s := match t.snapPend with
    | some r =>
      if r.copying then
        match s.pubAt b r.base with
        | some i => s.post (s.ccyc + 1) 0 (.snapFlip c b i)
        | none => s
      else s
    | none => s
  let keep := match t.snapPend with
    | some r => if r.copying || t.st == .stopping then none else some { r with copying := true }
    | none => none
  let s := s.modTile c fun t => { t with sweep := t.sweep + 1, flipPend := false, snapPend := keep }
  let s := if t.st = .stopping then
      (s.modTile c fun t => { t with stopAt := s.mcycOf b + 1 }).tileState c .stopped
    else s
  s.postStatus s.ccyc c

/-- A sweep boundary (17 R302, R303). -/
def State.boundary (s : State) (b : Nat) (f : FieldRun) : State :=
  let m := s.mcycOf b
  let s := s.modField b f.fkey fun f => { f with lastBoundary := m + 1 }
  (s.sweepers b f.fkey).foldl (fun s c => s.tileBoundary b c) s

/-- A snapshot's buffer flips, SNAP counts it, and the status word follows (10 R216, R218). -/
def State.snapFlip (s : State) (c b i : Nat) : State :=
  (((s.flip b i).modTile c fun t => { t with snaps := t.snaps + 1, snapCopy := false })).postStatus (s.ccyc + 1) c

/-- The sweep stream is about to issue the first word of an update: its registers start at zero (02 R32). -/
def State.beginUpdate (s : State) (c : Nat) : State :=
  let k := s.core c
  if k.tile.updating then s
  else s.modCore c fun k =>
    { k with regs := { k.regs with sw := Vector.replicate 16 0, swBad := 0, swIx := 0, swLk := 0 },
             tile := { k.tile with updating := true, draws := 0 },
             sw := { k.sw with pc := k.tile.first } }

end Sys2Proof.Machine
end

