-- ==== Sys2Proof/Machine/Marks.lean ====
section
/-!
DEFINITION. Domain marks (13 R240-R243; 09 R176-R178): fetching a stream's next word, samples of parked streams, what
makes a mark clean, holds, freezes and the drain, and the events that ask for them.
-/

namespace Sys2Proof.Machine

/-! ### Fetching (04 R71) -/

/-- The halfword at an address of a domain's kernel image. -/
def State.halfword (s : State) (b : Nat) (pc : Nat) : Nat := s.mem.readLe (imgKey b (2 * pc)) 2

/-- The word at an address: its bits, and whether any halfword of it lies outside the kernel image. DESIGN CHOICE (log 78):
the bits of a halfword outside, which the TVAL of its fault shows, are 0. -/
def State.fetch2 (s : State) (b : Nat) (pc : BitVec 32) : Nat × Bool :=
  let n := (s.bindAt b).klen
  let p := pc.toNat
  if n ≤ p then (0, true)
  else
    let h := s.halfword b p
    if h % 2 = 0 then (h, false)
    else if n ≤ p + 1 then (h, true)
    else (h + 65536 * s.halfword b (p + 1), false)

/-- The instruction that a word fetched is. -/
def fetched (w : Nat × Bool) : Instr := if w.2 then .unassignedEncoding .outside else decode w.1

/-! ### Parked streams (09 R176-R178, 10 R203) -/

/-- The sample of a parked stream's condition, as memory and batches stand now. -/
def State.sampleOf (s : State) (c : Nat) (t : Stream) : Sample :=
  match t.run with
  | .rejoin =>
    let b := s.bindOf c
    let p := t.watch.toNat
    if (s.visPoison b p 8).isSome then .poisoned
    else if ofBytes (s.visBytes b p 8) ≠ 0 then .holds else .fails
  | .cwait => if t.caddy.batches.length ≤ t.cwaitN then .holds else .fails
  | _ => t.sample

/-- The bytes that the samples of a core's parked streams read, by key (24 R373). -/
def State.watchKeys (s : State) (c : Nat) : List (Nat × Nat) :=
  let k := s.core c
  [k.sa, k.sx, k.sw].flatMap fun t => if t.run = .rejoin then s.visKeys (s.bindOf c) t.watch.toNat 8 else []

/-- Whether an asynchronous trap can be taken by a stream in this cycle (02 R37, 09 R189). -/
def Stream.trapReady (t : Stream) (now : Nat) : Bool := !t.traps.priv && t.pend.any (·.since < now)

/-- Whether a stream whose park ends at this mark, of MCYC `m`, has something of its own to do before any further word: a
poison fault at its `rejoin` (09 R177), or a trap that cuts the park short (09 R178). -/
def Stream.parkTrap (t : Stream) (m now : Nat) : Bool :=
  t.run == .due && t.afterPark && (t.sample == .poisoned || (t.wake == m && t.trapReady now))

/-- A stream at a mark of MCYC `m` (R241 step 1): a park ends, a poisoned sample sends it back to its `rejoin`, and a
pending trap cuts a park short. -/
def Stream.atMark (t : Stream) (m now : Nat) : Stream :=
  match t.run with
  | .await => { t with run := .due, wake := m }
  | .rejoin | .cwait =>
    match t.sample with
    | .holds => { t with run := .due, wake := m, sample := .none }
    | .poisoned => { t with run := .due, wake := m, pc := t.parkPc }
    | q =>
      if q == .fails && t.trapReady now then { t with run := .due, wake := m, pc := t.parkPc, sample := .none }
      else { t with sample := .none }
  | _ => t

/-! ### Clean marks (13 R240) -/

/-- Whether a stream's word due now carries a stop flag; a follower's is the word it has taken. -/
def State.flagDue (s : State) (c : Nat) (t : Stream) : Bool :=
  match t.taken with
  | some w => bitAt w.2 1
  | none => !t.follows && bitAt (s.fetch2 (s.bindOf c) t.pc).1 1

/-- Conditions 1 and 2 for a stream in mark cycle `m`; one whose park ends at the mark was parked to resume at it. -/
def State.streamClean (s : State) (c : Nat) (h : Half) (m : Nat) : Bool :=
  let t := s.stream c h
  match t.run with
  | .absent | .ended | .await | .rejoin | .cwait | .resync => true
  | .stopped => false
  | _ =>
    (t.afterPark && t.wake == m) || t.wake ≤ m && t.skip == 0 && !(h == .x && (s.core c).reserved m) && s.flagDue c t && !s.inFlight c h

/-- Condition 3: no queue holds an entry or has one in flight; `ql2` is the sweep stream's while a routine is bound. -/
def Core.queuesEmpty (k : Core) : Bool :=
  k.ql0.isEmpty && k.ql1.isEmpty && (k.routineBound || k.ql2.isEmpty) && k.qs0.isEmpty && k.qs1.isEmpty

/-- Condition 4: no transfer of a stream is unfinished and unsealed. -/
def State.allSealed (s : State) (c : Nat) : Bool :=
  [Half.a, .x, .w].all fun h => (s.stream c h).caddy.unsealed.all fun id => (s.xfer id).isNone

/-- The cores that a bind entry's domain holds. -/
def State.heldCores (s : State) (b : Nat) : List Nat := (s.cores.filter fun k => k.2.bound == some b).map (·.1)

/-- Whether a domain mark is clean (13 R240). -/
def State.clean (s : State) (b m : Nat) : Bool :=
  (s.heldCores b).all fun c =>
    s.streamClean c .a m && s.streamClean c .x m && (s.core c).queuesEmpty && s.allSealed c

/-! ### In-flight work of a bind entry (22 R342, R356) -/

/-- The cores that a transfer's beats are addressed to: window cores, and the near cores of columns. -/
def Xfer.targets (x : Xfer) : List Nat :=
  match x.kind with
  | .slot => []
  | .dist => (List.range (distCount x.aux)).map fun b => coreLayer x.core * 1024 + distCore x.aux2 b
  | _ =>
    let p := x.dst.toNat
    if ptrTag p = 1 then [sCore p] else if ptrTag p = 2 then [lCol p] else []

/-- The Caddy counter: transfers of the entry's streams that are unfinished. -/
def State.caddyCount (s : State) (b : Nat) : Nat := (s.liveXfers.filter (·.bind == b)).length

/-- The Cirrus counter: packets sent by the cores that the entry holds, or held last, or addressed to them, that have not
landed. -/
def State.cirrusCount (s : State) (b : Nat) : Nat :=
  let held (c : Nat) : Bool := (s.core c).last == some b
  (s.liveXfers.filter fun x => x.bind == b || x.targets.any held).length +
    (s.net.filter fun m => held m.sender || held m.target).length

/-- The matrix command that an entry of the agenda begins, if it has not yet got a place in its unit: its core and its
number. -/
def AEnt.matrix (e : AEnt) : Option (Nat × Nat) :=
  match e.ev with
  | .mwbSnap _ id c _ _ _ _ _ _ _ | .mtrRead _ id c _ _ => some (c, id)
  | .accZero _ _ (some c) => some (c, e.tie)
  | _ => none

/-- The matrix commands under way in an octet's unit, by their cores and numbers. -/
def Octet.matrix (o : Octet) : List (Nat × Nat) :=
  o.cmds.map (fun k => (k.core, k.id)) ++ o.fills.map (fun k => (k.core, k.id)) ++
    o.paths.map (fun k => (k.core, k.id)) ++ o.backs.map fun k => (k.core, k.id)

/-- The matrix commands that have not written, of the cores that satisfy `p` (08 R166, 22 R342). -/
def State.matrixIds (s : State) (p : Nat → Bool) : List Nat :=
  ((s.octets.flatMap (·.2.matrix) ++ s.agenda.filterMap AEnt.matrix).filter fun q => p q.1).map (·.2)

/-- Matrix commands of the entry's cores that have not written. -/
def State.matrixCount (s : State) (b : Nat) : Nat := (s.matrixIds fun c => (s.core c).bound == some b).length

/-- The matrix commands of an entry's partition that have not written (08 R166). -/
def State.matrixOfPart (s : State) (b : Nat) : List Nat :=
  s.matrixIds fun c => s.partOfCore c == some (s.bindAt b).part

/-- Stratus words of the entry that the die has not accepted. -/
def State.stratusCount (s : State) (b : Nat) : Nat :=
  (s.agenda.filter fun e => match e.ev with
    | .stratus k => k.bind == b
    | _ => false).length

/-- Whether everything that a freeze or an end waits for has happened (22 R342, R348). -/
def State.drained (s : State) (b : Nat) : Bool :=
  s.caddyCount b == 0 && s.cirrusCount b == 0 && s.matrixCount b == 0 && s.stratusCount b == 0

/-! ### Holds and freezes (13 R241-R243) -/

/-- A domain freezes in the present cycle: MCYC stops, and the drain begins (13 R242, 22 R342); it waits for the matrix
commands of the whole partition that are under way (08 R166). -/
def State.freeze (s : State) (b : Nat) (why : FreezeWhy) : State :=
  let m := s.mcycOf b
  let waits := s.matrixOfPart b
  s.modBind b fun k =>
    { k with st := .frozen, preempt := if why = .preempt then none else k.preempt,
             freeze := some { why := why, mark := m, at_ := s.ccyc, waits := waits,
                              drain := if k.quiet && waits.isEmpty && s.drained b then some s.ccyc else none,
                              saved := false, evicted := false, resumeReq := false, restore := none, heldFor := none } }

/-- A change of every core of a domain. -/
def State.modHeld (s : State) (b : Nat) (f : Core → Core) : State :=
  (s.heldCores b).foldl (fun s c => s.modCore c f) s

/-- The streams of a core at a mark. -/
def Core.atMark (k : Core) (m now : Nat) : Core :=
  { k with sa := k.sa.atMark m now, sx := k.sx.atMark m now }

/-- The sweep stream of a core at a mark: it goes on while its domain is held (13 R243). -/
def Core.sweepMark (k : Core) (m now : Nat) : Core := { k with sw := k.sw.atMark m now }

/-- A core at the first cycle of a period: SLIPCNT is cleared (02 R42). -/
def Core.clearSlips (k : Core) : Core := { k with ctl := { k.ctl with slipCnt := 0 } }

/-- RNUM takes effect (10 R215). -/
def Core.takeRate (k : Core) : Core :=
  match k.tile.rateNext with
  | some r => { k with tile := { k.tile with rate := r, rateNext := none } }
  | none => k

/-- Whether MCYC `m` is a merge mark of one of the domain's regions (16 R291). -/
def Bind.mergeMark (b : Bind) (m : Nat) : Bool := m != 0 && b.merges.any fun r => m % 2 ^ r.qlog == 0

/-- A domain mark (13 R241): SLIPCNT at a new period, rates and field starts, then the steps in their order; a domain
that is held meets its merge marks like one that runs, and one whose kernel has ended has none (16 R291). DESIGN CHOICE
(log 104): a domain that a pre-emption freezes at a mark keeps the stop of a `brk` for the clean mark after it goes on. -/
def State.domainMark (s : State) (b : Nat) : State :=
  let m := s.mcycOf b
  let k := s.bindAt b
  let s := s.modBind b fun k => { k with lastMark := m + 1 }
  let s := if m % k.period = 0 then s.modHeld b Core.clearSlips else s
  let s := s.modHeld b Core.takeRate
  let s := (k.fields.filter fun f => f.startReq && f.start.isNone).foldl (fun s f => s.startField b f m) s
  let go := k.st = .running ∨ k.release
  let s := if k.release then
      (s.modBind b fun k => { k with st := .running, fault := none, release := false }).modHeld b Core.clearSlips
    else s
  let s := if go then s.modHeld b (fun c => c.atMark m s.ccyc) else s
  let s := s.modHeld b (fun c => c.sweepMark m s.ccyc)
  let k := s.bindAt b
  let merges := k.mergeMark m && !k.ended
  if k.st = .held then (if k.preempt.isSome then s.freeze b .preempt else if merges then s.freeze b .merge else s)
  else if k.st ≠ .running then s
  else if k.fault.isSome then
    -- a request that waits meets a held domain, which freezes at once (22 R341)
    let s := s.modBind b fun k => { k with st := .held }
    if k.preempt.isSome then s.freeze b .preempt else if merges then s.freeze b .merge else s
  else if k.preempt.isSome ∧ s.clean b m then s.freeze b .preempt
  else if k.brk ≠ [] ∧ s.clean b m then
    k.brk.foldl (fun s q => s.report (.brk b q.core q.half q.n q.pc))
      ((s.modBind b fun k => { k with brk := [] }).freeze b .brk)
  else if merges then s.freeze b .merge
  else s

/-- Whether a domain mark of an entry has not been taken in this cycle. -/
def State.domainMarkDue (s : State) (b : Nat) : Bool :=
  let k := s.bindAt b
  let m := s.mcycOf b
  (k.st == .running || k.st == .held) && k.ending.isNone && m % k.interval == 0 && k.lastMark != m + 1

/-! ### Pre-emption and holds from outside -/

/-- Management firmware's request to pre-empt a domain: a held domain freezes at once (22 R341); a domain that waits for
its start, or is frozen for `brk` or a merge, meets it at its next clean mark. -/
def State.requestPreempt (s : State) (b : Nat) : State :=
  let k := s.bindAt b
  let wait := s.modBind b fun k => { k with preempt := some (k.preempt.getD s.ccyc) }
  match k.st with
  | .held => s.freeze b .preempt
  | .running | .pending => wait
  | .frozen => if (k.freeze.map (·.why)) = some .preempt then s else wait
  | _ => s

/-- Whether a pending request has waited 2^24 cycles without a clean mark (22 R341). -/
def State.withdrawDue (s : State) (b : Nat) : Bool :=
  let k := s.bindAt b
  match k.preempt with
    | some t => t + 2 ^ 24 ≤ s.ccyc
    | none => false

/-- The request is withdrawn, and the requester is told. -/
def State.withdrawPreempt (s : State) (b : Nat) : State :=
  (s.modBind b fun k => { k with preempt := none }).report (.notClean b)

/-- Whether a domain's fault is firmware's to end. -/
def Bind.mustEnd (k : Bind) : Bool := (k.fault.map fun f => k.firmwareEnds f.fc).getD false

/-- The holder resumes a held domain, at its next mark (13 R243), after a merge that it is frozen for; one that firmware
ends is not resumed (21 R340, 22 R348). -/
def State.releaseHeld (s : State) (b : Nat) : State :=
  let k := s.bindAt b
  let held := k.st = .held ∨ ((k.freeze.map (·.why)) = some .merge ∧ k.fault.isSome ∧ (k.fault.map (·.fc)) ≠ some 3)
  if held ∧ k.ending = none ∧ k.mustEnd = false then s.modBind b fun k => { k with release := true } else s

/-- Whether firmware ends a domain now: one that is held or frozen with a fault that is firmware's to end (21 R340, 16
R292, 22 R348). -/
def State.endNow (s : State) (b : Nat) : Bool :=
  let k := s.bindAt b
  k.mustEnd && k.ending.isNone && (k.st == .held || k.st == .frozen)

/-! ### Ends (01 R14, 22 R348) -/

/-- Whether a kernel has ended (01 R14). -/
def State.kernelOver (s : State) (b : Nat) : Bool :=
  let k := s.bindAt b
  (k.st == .running || k.st == .held) && !k.ended && k.ending.isNone &&
    (s.heldCores b).all fun c =>
      let q := s.core c
      let gone (t : Stream) : Bool := t.run == .ended || t.run == .absent
      gone q.sa && gone q.sx && !q.tile.sweeping

/-- A stream is ended by firmware; its pending traps are discarded. -/
def Stream.halt (t : Stream) : Stream :=
  if t.run = .absent then t else { t with run := .ended, pend := [], pending := none, skip := 0, taken := none }

/-- Every stream of a core is ended, and its field stops. DESIGN CHOICE (log 116): a sweeping tile is STOPPED without a
status word, and a flip or snapshot that waits for its boundary is dropped. -/
def Core.halt (k : Core) : Core :=
  { k with sa := k.sa.halt, sx := k.sx.halt, sw := k.sw.halt,
           tile := { k.tile with st := if k.tile.sweeping then .stopped else k.tile.st, flipPend := false, snapPend := none } }

/-- Firmware begins to end a domain: every stream is ended, and each running collective sends fault (22 R348); the end
status waits for a chip mark. A fault that is firmware's to end gives its own fault code (21 R340). Its queue entries and collectives go with the entry. -/
def State.endDomain (s : State) (b fc : Nat) : State :=
  let k := s.bindAt b
  let fc := if k.mustEnd then (k.fault.map (·.fc)).getD fc else fc
  if k.st = .free ∨ k.st = .pending ∨ k.ending.isSome then s
  else
    let s := s.modHeld b Core.halt
    let s := s.modBind b fun k =>
      { k with ending := some fc, fields := k.fields.map fun f => { f with start := none, startReq := false } }
    s.collsFault b

end Sys2Proof.Machine
end

