-- ==== Sys2Proof/Machine/Context.lean ====
section
/-!
DEFINITION. Contexts (22 R342-R346, 13 R242): the image of a frozen core as its state port shows it, the save and
restore schedules, eviction and rebinding of the copies, and the restart of the timetable.
-/

namespace Sys2Proof.Machine

/-! ### The context block (22 R343, R344) -/

/-- The memory key of a core's context block. -/
def Core.blockKey (k : Core) (c : Nat) : Nat := colKey c (lOff k.ctl.wbase.toNat + 32 * k.ctl.wsize)

/-- The state code of a stream in its record. -/
def Stream.saveCode (t : Stream) (h : Half) (role : BitVec 2) (updating : Bool) : Nat :=
  match t.run with
  | .await => 1
  | .rejoin => 2
  | .cwait => 3
  | .resync => 4
  | .ended | .absent => 5
  | _ => if h = .w then (if updating then 7 else 0) else if role = 2 ∧ t.follows = false then 6 else 0

/-- The first pending asynchronous trap of code 0x11 + i. -/
def Stream.pendOf (t : Stream) (i : Nat) : Option PTrap := t.pend.find? fun p => p.code == 0x11 + i

/-- Word `j` of a stream record (22 R344). -/
def Core.recordWord (k : Core) (h : Half) (j : Nat) : Word :=
  let t := k.stream h
  let r := t.traps
  match j with
  | 0 =>
    let pc := if t.run = .resync then r.rstPc else t.pc
    pack [(t.saveCode h k.ctl.role k.tile.updating, 61), (if t.run = .cwait then t.cwaitN else 0, 56), (t.scnt, 40),
      (pc.toNat, 0)]
  | 1 => if t.run = .rejoin then t.watch else if t.run = .resync then BitVec.ofNat 64 t.wake else 0
  | 2 => t.rnd
  | 3 => t.wctl
  | 4 => r.cause
  | 5 => r.tpc.setWidth 64
  | 6 => r.tval
  | 7 => r.stat
  | 8 => r.tvec.setWidth 64
  | 9 => r.tscr
  | 10 => boolWord r.dbg
  | 11 => r.tcyc
  | 12 => r.rst
  | 13 => r.rstCy
  | 14 => pack [(t.caddy.next, 48), (t.caddy.pos, 32), (t.caddy.released.length, 16)]
  | 15 =>
    pack (((List.range 4).map fun i => ((t.pendOf i).isSome.toNat, i)) ++
      (List.range 4).map fun i => (((t.pendOf i).map (·.sub)).getD 0, 8 + 8 * i))
  | j => if j < 20 then ((t.pendOf (j - 16)).map (·.tval)).getD 0 else 0

/-- The address of a routine as `fbind` takes it. -/
def Routine.addr (r : Routine) : Nat :=
  match r with
  | .none => 0
  | .builtin => 0xFFFFFFFF
  | .code a => a.toNat

/-- Word `i` of the four words of a core's tile (22 R343). -/
def State.tileWord (s : State) (c i : Nat) : Word :=
  let t := (s.core c).tile
  match i with
  | 0 =>
    let b := s.bindOf c
    match s.fieldOf b t.fkey with
    | some f => match f.start with
      | some start => BitVec.ofNat 64 (f.rho start (s.mcycOf b) % 2 ^ 40)
      | none => 0
    | none => 0
  | 1 => t.status
  | 2 => pack [(t.site % 2 ^ 32, 32), (t.routine.addr, 0)]
  | _ => BitVec.ofNat 64 t.draws

/-- Four halo sites as a word of the halo image, in increasing lattice index. -/
def Tile.haloWord (t : Tile) (i : Nat) : Word :=
  pack ((List.range 4).map fun j => (((t.halo[4 * i + j]?).map (·.2.toNat)).getD 0, 16 * j))

/-- Word `i` of a core's state as its state port shows it, and whether it has bad parity (22 R343, R345). -/
def State.portWord (s : State) (c i : Nat) : Word × Bool :=
  let k := s.core c
  let r := k.regs
  if i < 256 then ((vget 0 r.v (i / 16)).extractLsb' (64 * (i % 16)) 64, false)
  else if i < 297 then s.queueView c (i - 256)
  else if i < 304 then (0, false)
  else if i < 312 then (vget 0 r.a (i - 304), false)
  else if i < 316 then ((vget 0 r.k (i - 312)).setWidth 64, false)
  else if i < 320 then (0, false)
  else if i < 328 then (vget 0 r.oxA (i - 320), false)
  else if i < 336 then (vget 0 r.oxX (i - 328), false)
  else if i < 343 then (vget 0 r.g (i - 335), false)
  else if i < 352 then
    (match i with
      | 343 => r.ix
      | 344 => r.lk
      | 345 => BitVec.ofNat 64 k.ctl.stopmax
      | 346 => k.ctl.slipReg
      | 347 => k.ctl.rwin.setWidth 64
      | 348 => k.ctl.epnt
      | _ => 0, false)
  else if i < 368 then (vget 0 r.sw (i - 352), r.swBad.getLsbD (i - 352))
  else if i < 372 then (s.tileWord c (i - 368), false)
  else if i < 384 then (0, false)
  else if i < 480 then
    (k.recordWord (if i < 416 then .a else if i < 448 then .x else .w) (i % 32), false)
  else if i < 512 then (0, false)
  else (k.tile.haloWord (i - 512), false)

/-- The error that word `i` of a core's state port shows: a queue entry or a sweep register of bad parity (24 R370). -/
def State.portBad (s : State) (c i : Nat) : Option (LogPlace × Nat) :=
  if 256 ≤ i ∧ i < 297 then s.viewBad c (i - 256)
  else if (s.portWord c i).2 then some (.register, 64 * c + (i - 352))
  else none

/-! ### Writing the state port -/

/-- A queue's entry of landed place `n` with a value. -/
def setPlace (l : List QEnt) (now n : Nat) (v : Word) (bad : Bool) : List QEnt :=
  match ((l.zipIdx.filter fun e => decide (e.1.due ≤ now))[n]?) with
  | some e => l.set e.2 { e.1 with val := v, bad := bad }
  | none => l

/-- The run that a stream record's code names; a code that names the present run leaves it. -/
def Stream.setCode (t : Stream) (h : Half) (role : BitVec 2) (updating : Bool) (code : Nat) : Stream :=
  if t.saveCode h role updating = code then t
  else match code with
    | 1 => { t with run := .await, afterPark := true }
    | 2 => { t with run := .rejoin, afterPark := true }
    | 3 => { t with run := .cwait, afterPark := true }
    | 4 => { t with run := .resync }
    | 5 => { t with run := .ended }
    | 6 => { t with run := .due, follows := false }
    | _ => { t with run := .due }

/-- The pending traps with the one of code 0x11 + i set from its bit and SUB. -/
def setPend (l : List PTrap) (i : Nat) (on : Bool) (sub : Nat) : List PTrap :=
  let code := 0x11 + i
  match l.find? (fun p => p.code == code) with
  | some p => if on then l.map fun q => if q = p then { q with sub := sub } else q else l.erase p
  | none => if on then l ++ [{ code := code, sub := sub, tval := 0, since := 0 }] else l

/-- The pending traps with the TVAL of the first of code 0x11 + i set. -/
def setPendVal (l : List PTrap) (i : Nat) (v : Word) : List PTrap :=
  match l.find? (fun p => p.code == 0x11 + i) with
  | some p => l.map fun q => if q = p then { q with tval := v } else q
  | none => l

/-- A stream after word `j` of its record is written (22 R344); the core's tile follows code 7. -/
def Stream.setRecord (t : Stream) (h : Half) (role : BitVec 2) (updating : Bool) (j : Nat) (v : Word) : Stream :=
  match j with
  | 0 => { t.setCode h role updating (wfld v 63 61) with
           cwaitN := if wfld v 63 61 = 3 then wfld v 60 56 else t.cwaitN, scnt := wfld v 55 40, pc := v.setWidth 32 }
  | 1 => if t.run = .rejoin then { t with watch := v } else if t.run = .resync then { t with wake := v.toNat } else t
  | 2 => { t with rm := v.setWidth 2, ovf := v.getLsbD 2 }
  | 3 => { t with wptr := wfld v 63 48, rbot := wfld v 47 32, rcnt := wfld v 31 24, wlimit := wfld v 23 16 }
  | 4 => t.ctlWrite 0x10 v
  | 5 => t.ctlWrite 0x11 v
  | 6 => t.ctlWrite 0x12 v
  | 7 => { t.ctlWrite 0x13 v with
           traps := { t.traps with priv := v.getLsbD 8, pPriv := v.getLsbD 7, scnt := v.setWidth 7 } }
  | 8 => t.ctlWrite 0x14 v
  | 9 => t.ctlWrite 0x15 v
  | 10 => { t with traps := { t.traps with dbg := v.getLsbD 0 } }
  | 11 => { t with traps := { t.traps with tcyc := v } }
  | 12 => { t with traps := { t.traps with rstValid := v.getLsbD 63, rstPc := v.setWidth 32 } }
  | 13 => { t with traps := { t.traps with rstCy := v } }
  | 14 => { t with caddy := { t.caddy with next := wfld v 63 48, pos := wfld v 47 32,
                                           released := t.caddy.released.take (wfld v 31 16) } }
  | 15 =>
    let l := (List.range 4).foldl (fun l i => setPend l i (v.getLsbD i) (wfld v (15 + 8 * i) (8 + 8 * i))) t.pend
    { t with pend := l }
  | j => if 16 ≤ j ∧ j < 20 then { t with pend := setPendVal t.pend (j - 16) v } else t

/-- The state that a tile's status word codes. -/
def tileStOf (code : Nat) (old : TileSt) : TileSt :=
  match code with
  | 0 => .undeclared | 1 => .declared | 2 => .bound | 3 => .running | 4 => .stopping | 5 => .stopped | 6 => .faulted
  | _ => old

/-- A tile after word `i` of its four words is written; ρ follows from MCYC. -/
def Tile.setWord (t : Tile) (i : Nat) (v : Word) : Tile :=
  match i with
  | 1 => { t with st := tileStOf (wfld v 63 60) t.st, snaps := wfld v 55 48, sweep := wfld v 47 0 }
  | 2 => { t with site := wfld v 63 32, routine := if wfld v 31 0 = 0 then .none else routineOf (wfld v 31 0) }
  | 3 => { t with draws := v.toNat }
  | _ => t

/-- A tile after a word of the halo image is written. -/
def Tile.setHalo (t : Tile) (i : Nat) (v : Word) : Tile :=
  { t with halo := t.halo.zipIdx.map fun e =>
      if e.2 / 4 = i then (e.1.1, v.extractLsb' (16 * (e.2 % 4)) 16) else e.1 }

/-- The shared control registers after a word of the image is written. -/
def Ctl.setPort (k : Ctl) (i : Nat) (v : Word) : Ctl :=
  match i with
  | 345 => { k with stopmax := wfld v 6 0 }
  | 346 => { k with slipCnt := wfld v 47 32, slipMax := wfld v 15 0 }
  | 347 => { k with rwin := v.setWidth 4 }
  | 348 => { k with epSt := v.extractLsb' 62 2, epMove := v.getLsbD 61, epName := v.extractLsb' 8 24,
                    epGen := v.setWidth 8 }
  | _ => k

/-- One bit of a mask set to a value. -/
def setBit {w : Nat} (m : BitVec w) (i : Nat) (b : Bool) : BitVec w :=
  if b then m ||| BitVec.ofNat w (2 ^ i) else m &&& ~~~ BitVec.ofNat w (2 ^ i)

/-- Some bits of a vector register replaced. -/
def setVecWord (x : Vec) (j : Nat) (v : Word) : Vec :=
  (x &&& ~~~ ((BitVec.allOnes 64).setWidth 1024 <<< (64 * j))) ||| (v.setWidth 1024 <<< (64 * j))

/-- A core's queues after a word of their image is written: a value, or the occupancies. -/
def Core.setQueuePort (k : Core) (now i : Nat) (v : Word) (bad : Bool) : Core :=
  if i < 40 then k.setQueue (i / 8) (setPlace (k.queue (i / 8)) now (i % 8) v bad)
  else (List.range 5).foldl (fun k q => k.setQueue q ((k.queue q).take (wfld v (4 * q + 3) (4 * q)))) k

/-- A core after word `i` of its state port is written; a poisoned word sets bad parity where the place keeps parity (22
R345, 24 R371). -/
def Core.setPort (k : Core) (now i : Nat) (v : Word) (bad : Bool) : Core :=
  let r := k.regs
  if i < 256 then { k with regs := { r with v := vput r.v (i / 16) (setVecWord (vget 0 r.v (i / 16)) (i % 16) v) } }
  else if i < 297 then k.setQueuePort now (i - 256) v bad
  else if i < 304 then k
  else if i < 312 then { k with regs := { r with a := vput r.a (i - 304) v } }
  else if i < 316 then { k with regs := { r with k := vput r.k (i - 312) (v.setWidth 32) } }
  else if i < 320 then k
  else if i < 328 then { k with regs := { r with oxA := vput r.oxA (i - 320) v } }
  else if i < 336 then { k with regs := { r with oxX := vput r.oxX (i - 328) v } }
  else if i < 343 then { k with regs := { r with g := vput r.g (i - 335) v } }
  else if i = 343 then { k with regs := { r with ix := v } }
  else if i = 344 then { k with regs := { r with lk := v } }
  else if i < 352 then { k with ctl := k.ctl.setPort i v }
  else if i < 368 then
    { k with regs := { r with sw := vput r.sw (i - 352) v, swBad := setBit r.swBad (i - 352) bad } }
  else if i < 372 then { k with tile := k.tile.setWord (i - 368) v }
  else if i < 384 then k
  else if i < 480 then
    let h : Half := if i < 416 then .a else if i < 448 then .x else .w
    let k' := k.setStream h ((k.stream h).setRecord h k.ctl.role k.tile.updating (i % 32) v)
    if i = 448 then { k' with tile := { k'.tile with updating := wfld v 63 61 == 7 } } else k'
  else if i < 512 then k
  else { k with tile := k.tile.setHalo (i - 512) v }

/-! ### The save and restore schedules (22 R345) -/

/-- What a schedule does for every core that a domain holds. -/
def State.forHeld (s : State) (b : Nat) (f : State → Nat → State) : State := (s.heldCores b).foldl f s

/-- The save schedule of a core from drain cycle `d`: its resident lines in increasing order, four cycles a line, then
its block's beats. -/
def State.saveCore (s : State) (d c : Nat) : State :=
  let t := (s.core c).sx
  let s := (List.range t.rcnt).foldl (fun s i => s.post (d + 4 * (i + 1)) 4 (.ctxLine c (t.rbot + i))) s
  (List.range 32).foldl (fun s j => s.post (d + 65 + 32 * coreOpos c + j) 10 (.ctxSave c j)) s

/-- Whether the drain cycle of a frozen domain is now and the save schedule has not begun (22 R342). -/
def State.drainDue (s : State) (b : Nat) : Bool :=
  match (s.bindAt b).freeze with
  | some f => f.drain == some s.ccyc && !f.saved
  | none => false

/-- A freeze changed. -/
def State.modFreeze (s : State) (b : Nat) (f : Freeze → Freeze) : State :=
  s.modBind b fun k => { k with freeze := k.freeze.map f }

/-- The drain cycle: the save schedule begins (22 R345). -/
def State.beginSave (s : State) (b : Nat) : State :=
  if s.drainDue b then
    (s.forHeld b fun s c => s.saveCore s.ccyc c).modFreeze b fun f => { f with saved := true }
  else s

/-- The restore schedule of a core from cycle `d`. -/
def State.loadCore (s : State) (d c : Nat) : State :=
  (List.range 32).foldl (fun s j => s.post (d + 1 + 32 * coreOpos c + j) 10 (.ctxLoad c j)) s

/-- The window lines of a restored core: those that its restored `WCTL` names are read back from cycle `d` + 263. -/
def State.loadLines (s : State) (d c : Nat) : State :=
  let t := (s.core c).sx
  (List.range t.rcnt).foldl (fun s i => s.post (d + 262 + 4 * (i + 1)) 4 (.ctxFill c (t.rbot + i))) s

/-- Whether the image of a frozen domain is complete: the drain cycle is 326 cycles back. -/
def Freeze.complete (f : Freeze) (now : Nat) : Bool :=
  match f.drain with
  | some d => f.saved && d + 326 ≤ now
  | none => false

/-- Whether the restore of a frozen domain begins now: a resume is asked for, the image is complete and, for an evicted
domain, firmware has restored the copies. -/
def State.restoreDue (s : State) (b : Nat) : Bool :=
  match (s.bindAt b).freeze with
  | some f => f.resumeReq && f.restore.isNone && !f.evicted && f.complete s.ccyc
  | none => false

/-- The restore schedule begins. -/
def State.beginRestore (s : State) (b : Nat) : State :=
  if s.restoreDue b then
    (s.forHeld b fun s c => s.loadCore s.ccyc c).modFreeze b fun f => { f with restore := some s.ccyc }
  else s

/-- A line of a frozen core goes to the stack image. -/
def State.ctxLine (s : State) (c line : Nat) : State := s.spillLines c line 1

/-- A line of a restored core comes from the stack image. -/
def State.ctxFill (s : State) (c line : Nat) : State := s.fillLines c line 1

/-- A beat is read from a core's state port, to land 6 cycles later. -/
def State.ctxSave (s : State) (c j : Nat) : State :=
  let ws := (List.range 32).map fun i => s.portWord c (32 * j + i)
  let bad := (ws.zipIdx.filter (·.1.2)).map (8 * ·.2)
  (s.noteBad ((List.range 32).filterMap fun i => s.portBad c (32 * j + i))).post (s.ccyc + 6) 4
    (.ctxLand c j ((ws.map fun w => leBytes 8 w.1.toNat).flatten) bad)

/-- A beat lands in a core's context block. -/
def State.ctxLand (s : State) (c j : Nat) (bytes : List Byte) (bad : List Nat) : State :=
  let key := (s.core c).blockKey c + 256 * j
  bad.foldl (fun s o => s.markPoison (key + o)) (s.write key bytes)

/-- A beat is read from a core's context block, to set the state 6 cycles later. -/
def State.ctxLoad (s : State) (c j : Nat) : State :=
  let key := (s.core c).blockKey c + 256 * j
  let bad := (List.range 32).filterMap fun i => if poisoned s.ecc (key + 8 * i) 8 then some (8 * i) else none
  (s.noteRead [(key, 256)]).post (s.ccyc + 6) 4 (.ctxSet c j (s.mem.readN key 256) bad)

/-- A beat of the image sets a core's state; the last record beat fixes the lines that are read back. -/
def State.ctxSet (s : State) (c j : Nat) (bytes : List Byte) (bad : List Nat) : State :=
  let ws := (chunks 8 32 bytes).map fun b => BitVec.ofNat 64 (ofBytes b)
  let s := s.modCore c fun k => ws.zipIdx.foldl
    (fun k w => k.setPort s.ccyc (32 * j + w.2) w.1 (bad.contains (8 * w.2))) k
  if j = 31 then
    match ((s.bindAt (s.bindOf c)).freeze).bind (·.restore) with
    | some d => s.loadLines d c
    | none => s
  else s

/-- Whether the timetable of a restored domain restarts now: the first cycle after the image is in place that is
congruent to the freeze mark modulo the chip mark interval (13 R242). -/
def State.restartDue (s : State) (b : Nat) : Bool :=
  match (s.bindAt b).freeze with
  | some f =>
    match f.restore with
    | some d => d + 327 ≤ s.ccyc && s.ccyc % 2 ^ Config.cmlog == f.mark % 2 ^ Config.cmlog
    | none => false
  | none => false

/-- The timetable restarts: MCYC reads the mark again (13 R242). A domain that was held stays held. -/
def State.restart (s : State) (b : Nat) : State :=
  if s.restartDue b then
    s.modBind b fun k =>
      { k with base := s.ccyc - (k.freeze.map (·.mark)).getD 0, freeze := none,
               st := if k.fault.isSome ∧ k.ending.isNone then .held else .running }
  else s

/-- Firmware or the host asks that a frozen domain resume (22 R345). -/
def State.requestResume (s : State) (b : Nat) : State := s.modFreeze b fun f => { f with resumeReq := true }

/-! ### Eviction and rebinding (22 R346) -/

/-- The memory of a domain's unit that firmware copies: ranges of keys and lengths. -/
def State.unitRanges (s : State) (b : Nat) (cores : List Nat) : List (Nat × Nat) :=
  let accm := wfld ((s.bindAt b).rec_ 13) 47 40
  let octs := (cores.map coreOctet).dedup
  cores.flatMap (fun c => [(spKey c 0, 0x40000), (tagKey c 0, 4096), (ringKey c 0, 0x10080), (colKey c 0, 0x100000)]) ++
  octs.flatMap fun o =>
    (((List.range 8).filter (bitAt accm)).map fun a => (accBytes o a, 0x10000)) ++
    (((s.octet o).slots.filter fun q => (q.2.claim.map cores.contains).getD false).map fun q =>
      (slotKey o q.1 0, 17408))

/-- Whether a key lies in one of some ranges. -/
def inRanges (rs : List (Nat × Nat)) (k : Nat) : Bool := rs.any fun r => within r.1 r.2 k

/-- The bytes of memory that lie in some ranges. -/
def Memory.part (m : Memory) (rs : List (Nat × Nat)) : Memory := m.filter fun c => inRanges rs c.1

/-- Memory with the bytes of some ranges replaced by copies. -/
def Memory.putBack (m : Memory) (rs : List (Nat × Nat)) (copy : Memory) : Memory :=
  copy.foldl (fun m c => m.write c.1 [c.2]) (m.filter fun c => !inRanges rs c.1)

/-- The lowest index from `lo` on with a free entry whose counters are zero (22 R356), with fuel. -/
def State.freeIndex (s : State) : Nat → Nat → Nat
  | 0, i => i
  | n + 1, i =>
    if (s.bindAt i).st = .free ∧ s.caddyCount i = 0 ∧ s.cirrusCount i = 0 then i else State.freeIndex s n (i + 1)

/-- The collectives of one entry become those of another. -/
def State.moveColls (s : State) (b b' : Nat) : State :=
  { s with colls := s.colls.map fun k => if k.cmd.bind = b then { k with cmd := { k.cmd with bind := b' } } else k }

/-- The operand slots that some cores claim become free and empty (08 R165). -/
def Octet.dropClaims (o : Octet) (cores : List Nat) : Octet :=
  { o with slots := o.slots.map fun q => if (q.2.claim.map cores.contains).getD false then (q.1, OpSlot.init) else q }

/-- A domain's octet is free of its accumulator slots and wheel positions; their contents stay until a domain starts
there (08 R165). -/
def Octet.giveBack (o : Octet) (b octet : Nat) (map : Word) (cores : List Nat) : Octet :=
  { o with
    accs := o.accs.map fun a => if a.owner = some b then { a with owner := none } else a
    wheel := Vector.ofFn fun i =>
      let w := vget 8 o.wheel i.val
      if wfld map (4 * i.val + 3) (4 * i.val) ≠ 8 ∧ (cores.any fun c => coreOctet c == octet) then 8 else w }

/-- The words of bad parity in the operand slots that cores claim. -/
def State.claimedBad (s : State) (cores : List Nat) : List (LogPlace × Nat) :=
  (cores.map coreOctet).dedup.flatMap fun o =>
    ((s.octet o).badParity.filter fun q => (((s.octet o).slot q.1).claim.map cores.contains).getD false).map
      fun q => (.slot, slotKey o q.1 (8 * q.2))

/-- The scrub between binds (24 R373): the memories and columns of the cores, and the slots that they claim, whose parity
finds errors and corrects none. -/
def State.scrubUnit (s : State) (b : Nat) (cores : List Nat) : State :=
  (s.scrub (inRanges (s.unitRanges b cores))).noteBad (s.claimedBad cores)

/-- A domain's cores, octets and accumulators are free, and scrubbed. -/
def State.giveBack (s : State) (b : Nat) : State :=
  let cores := s.heldCores b
  let s := s.scrubUnit b cores
  let map := (s.bindAt b).wheelMap
  let s := (cores.map coreOctet).dedup.foldl (fun s o => s.modOctet o fun q => q.giveBack b o map cores) s
  cores.foldl (fun s c => s.modCore c fun k => { k with bound := none }) s

/-- Whether an eviction finds a complete image. -/
def State.evictable (s : State) (b : Nat) : Bool :=
  match (s.bindAt b).freeze with
  | some f => f.complete (s.ccyc - 1) && f.restore.isNone && !f.evicted && s.ccyc != 0
  | none => false

/-- Firmware evicts a frozen domain: copies go to the partition's eviction area, with what their reads find corrected and
logged (24 R373), the entry is freed, and the domain waits
under an index of its own above the hardware's 64 entries. -/
def State.evict (s : State) (b : Nat) : State :=
  if s.evictable b then
    let k := s.bindAt b
    let cores := s.heldCores b
    let rs := s.unitRanges b cores
    let i := s.freeIndex s.binds.length 64
    let e : Evicted :=
      { index := i, image := s.mem.block (imgKey b 0) (2 * k.klen), mem := s.mem.part rs,
        ecc := s.ecc.filter fun q => inRanges rs (8 * q.1) && q.2 == .poison,
        octets := (cores.map coreOctet).dedup.map fun o => (o, s.octet o),
        cores := cores.map fun c => (c, s.core c), passed := 0 }
    let s := (((s.noteRead rs).noteBad (s.claimedBad cores)).giveBack b).moveColls b i
    let s := (cores.map coreOctet).dedup.foldl (fun s o => s.modOctet o fun q => q.dropClaims cores) s
    let s := s.modBind i fun _ => { k with freeze := k.freeze.map fun f => { f with evicted := true } }
    let s := s.modBind b fun _ => Bind.init
    s.modPart k.part fun p => { p with eviction := p.eviction ++ [e] }
  else s

/-- What an evicted domain's octet takes back of its copy: claims, accumulator slots and wheel positions. -/
def Octet.takeBack (o copy : Octet) (b' b octet : Nat) (map : Word) (cores : List Nat) : Octet :=
  { o with
    slots := copy.slots.foldl (fun t q =>
      if (q.2.claim.map cores.contains).getD false then tset t q.1 q.2 else t) o.slots
    accs := Vector.ofFn fun i =>
      let a := vget Acc.init copy.accs i.val
      if a.owner = some b' then { a with owner := some b } else vget Acc.init o.accs i.val
    wheel := Vector.ofFn fun i =>
      let w := wfld map (4 * i.val + 3) (4 * i.val)
      if w ≠ 8 ∧ (cores.any fun c => coreOctet c == octet) then w else vget 8 o.wheel i.val
    badParity := o.badParity ++ copy.badParity.filter fun q => ((copy.slot q.1).claim.map cores.contains).getD false }

/-- Firmware rebinds an evicted domain on the unit it left, under entry `b`, with its copies restored, while the
network interfaces keep what they hold; the restore schedule then runs (22 R345, R346). `b0` is the entry that it held before. -/
def State.rebind (s : State) (e : Evicted) (b : Nat) : State :=
  let k := s.bindAt e.index
  let cores := e.cores.map (·.1)
  let old := ((e.cores.head?.bind fun c => c.2.bound)).getD b
  let s := s.modBind e.index fun _ => Bind.init
  let s := s.modBind b fun _ => { k with freeze := k.freeze.map fun f => { f with evicted := false } }
  let s := s.moveColls e.index b
  let s := e.cores.foldl (fun s c => s.setCore c.1 
    { c.2 with bound := some b, last := some b, sendBuf := (s.core c.1).sendBuf, launches := (s.core c.1).launches }) s
  let s := e.octets.foldl (fun s o => s.modOctet o.1 fun q => q.takeBack o.2 old b o.1 k.wheelMap cores) s
  let rs := s.unitRanges b cores
  let s : State := { s with mem := (s.mem.putBack rs e.mem).write (imgKey b 0) e.image,
                            ecc := (s.ecc.filter fun q => !inRanges rs (8 * q.1)) }
  let s : State := { s with ecc := e.ecc.foldl (fun t q => tset t q.1 q.2) s.ecc }
  s.modPart k.part fun p => { p with eviction := p.eviction.filter fun q => q.index != e.index }

end Sys2Proof.Machine
end

