-- ==== Sys2Proof/Machine/Landing.lean ====
section
/-!
DEFINITION. What happens in a cycle already fixed: results, stores, atomics, engine reads and writes as they land (02
R33, R34; 06 R119, R126; 08; 10 R198, R208), and the events of the opcode table that they are.
-/

namespace Sys2Proof.Machine

/-- The registers after a result lands (02 R34). -/
def Core.landReg (k : Core) (d : Dst) (v : Word) : Core :=
  let r := k.regs
  match d with
  | .stack n => k.setWin n v
  | .sweep n => { k with regs := { r with sw := vput r.sw n v, swBad := setBit r.swBad n false } }
  | .g n => { k with regs := { r with g := vput r.g n v } }
  | .ix => { k with regs := { r with ix := v } }
  | .lk => { k with regs := { r with lk := v } }
  | .sweepIx => { k with regs := { r with swIx := v } }
  | .sweepLk => { k with regs := { r with swLk := v } }
  | .a n => { k with regs := { r with a := vput r.a n v } }
  | .k n => { k with regs := { r with k := vput r.k n (v.setWidth 32) } }
  | .oxA n => { k with regs := { r with oxA := vput r.oxA n v } }
  | .oxX n => { k with regs := { r with oxX := vput r.oxX n v } }

/-- A vector register after the lanes of a result land (02 R27, R34). -/
def Core.landVec (k : Core) (vd : Nat) (mask v : Vec) : Core :=
  let old := vget 0 k.regs.v vd
  { k with regs := { k.regs with v := vput k.regs.v vd ((old &&& ~~~ mask) ||| (v &&& mask)) } }

/-- The keys of the bytes of a site. -/
def State.siteKeys (s : State) (c i : Nat) : List Nat :=
  let t := (s.core c).tile
  rangeFrom (s.visKey (s.bindOf c) (t.tbase.toNat + (t.place i).1)) (t.place i).2.1

/-- The bytes that site updates write in the present cycle: a store that lands on one then is lost there (15 R278). -/
def State.siteLandings (s : State) : List Nat :=
  s.agenda.flatMap fun e =>
    if e.due ≤ s.ccyc then
      match e.ev with
      | .fset c i _ => s.siteKeys c i
      | .sitePut c l => l.flatMap fun q => s.siteKeys c q.1
      | _ => []
    else []

/-- A piece of a store without the bytes that are lost. -/
def State.landPiece (s : State) (lost : List Nat) (key : Nat) (bs : List Byte) : State :=
  if lost.isEmpty then s.write key bs
  else (byteRuns key ((bs.zipIdx.map fun b => (b.2, b.1)).filter fun b => !lost.contains (key + b.1))).foldl
    (fun s r => s.write (key + r.1) r.2) s

/-- The pieces of a store are written, each where its published buffer routes it now (06 R119, 14 R269). Each lane is a
write of its own, and one that fills a poisoned word in part leaves it poisoned (06 R121); DEDUCED (log 66) for `vsts`. -/
def State.landStore (s : State) (c : Nat) (segs : List (Nat × List Byte)) : State :=
  let lost := s.siteLandings
  segs.foldl (fun s g => s.landPiece lost (s.visKey (s.bindOf c) g.1) g.2) s

/-- `rcvp` leaves the new HEAD (06 R135). -/
def State.landHead (s : State) (c : Nat) (head : Word) : State := s.write64 (ringMsgKey c 8) head

/-- What an entry of the agenda does in its cycle. -/
def Ev.run (e : Ev) (s : State) : State :=
  match e with
  | .reg c _ d v => s.modCore c (·.landReg d v)
  | .vec c _ _ vd mask v => s.modCore c (·.landVec vd mask v)
  | .ctl c n v => s.modCore c fun k => { k with ctl := k.ctl.write n v }
  | .win c op => s.winDone c op
  | .store c _ segs => (s.noteBanks c (e.banks s c)).landStore c segs
  | .atomic c _ op wide p x y q id => (s.noteBanks c (e.banks s c)).perform c op wide p x y q id
  | .rcvp c head => s.landHead c head
  | .epnt c v => s.epntApply c v
  | .epntSt c st => s.modCore c fun k => { k with ctl := { k.ctl with epSt := st } }
  | .release key v => s.write64 key v
  | .beatRead id j => s.readBeat id j
  | .lateRead id j => s.lateRead id j
  | .beatLand id j data poison dst => s.landBeat id j data poison dst
  | .snapFlip c b i => s.snapFlip c b i
  | .claim o slot owner => s.modOctet o fun k => k.modSlot slot fun q => { q with claim := owner }
  | .tag o slot t => s.modOctet o fun k => k.modSlot slot fun q => { q with tag := t }
  | .accCfg o a fmt bl sr drop => s.accConfigure o a fmt bl sr drop
  | .accZero o a _ => s.zeroAcc o a
  | .fillRead o id c src left => s.fillRead o id c src left
  | .fillDone o id => s.fillDone o id
  | .mtrRead o id c src dst => s.mtrRead o id c src dst
  | .mtrDone o id => s.mtrDone o id
  | .blockStep o id j => s.blockStep o id j
  | .mmaRead o id => s.mmaRead o id
  | .mmaWrite o id => s.mmaWrite o id
  | .mwbSnap o id c h a key rel seed strm bx => s.mwbSnap o id c h a key rel seed strm bx
  | .mwbLand o id key beat => s.mwbLand o id key beat
  | .flip b i => s.flip b i
  | .mirror p nid e => s.setMirror p nid e
  | .stratus k => s.acceptStratus k
  | .fset c i v => s.landSite c i v.toNat
  | .sitePut c l => l.foldl (fun s q => s.landSite c q.1 q.2) s
  | .tileStatus c => s.tileStatus c
  | .ctxLine c line => s.ctxLine c line
  | .ctxFill c line => s.ctxFill c line
  | .ctxSave c j => s.ctxSave c j
  | .ctxLand c j bytes bad => s.ctxLand c j bytes bad
  | .ctxLoad c j => s.ctxLoad c j
  | .ctxSet c j bytes bad => s.ctxSet c j bytes bad

/-- The event of the opcode table that an entry of the agenda is. -/
def Ev.instr (e : Ev) : Instr :=
  match e with
  | .store .. | .rcvp .. | .ctxLine .. | .ctxFill .. => .storeLanding
  | .atomic .. => .atomicPerform
  | .epnt .. | .epntSt .. => .epntWrite
  | .beatRead .. | .lateRead .. | .ctxSave .. | .ctxLoad .. => .caddyBeatRead
  | .beatLand .. | .ctxLand .. | .ctxSet .. => .caddyBeatLand
  | .fillRead .. | .fillDone .. => .mfillContentsInPlace
  | .mtrRead .. | .mtrDone .. => .mtrTransposeInPlace
  | .blockStep .. => .mmaBlockStep
  | .mmaRead .. | .mmaWrite .. => .mmaResultWrite
  | .mwbSnap .. | .mwbLand .. => .mwbOutputLanding
  | .stratus _ => .stratusWordAccept
  | _ => .resultLanding

/-- The agenda's first entry, if its cycle has come. -/
def State.headDue (s : State) : Option AEnt :=
  match s.agenda with
  | e :: _ => if e.due ≤ s.ccyc then some e else none
  | [] => none

/-- The agenda's first entry happens, if its cycle has come and it is the event `i`; else nothing does. -/
def State.fire (s : State) (i : Instr) : State :=
  match s.headDue with
  | some e => if e.ev.instr = i then e.ev.run { s with agenda := s.agenda.tail } else s
  | none => s

/-- `mts EPNT` acts on the partition's directory, and its ST becomes readable (22 R352). -/
def execEpntWrite (s : State) : Host.Outcome State Fault Refusal := .next (s.fire .epntWrite)

/-- A register or queue result lands, or what becomes visible with results of its kind: a claim, a tag, a flip, a control
register, a status word (02 R33, R34). -/
def execResultLanding (s : State) : Host.Outcome State Fault Refusal := .next (s.fire .resultLanding)

/-- A store, scatter or release writes memory in its landing cycle (06 R119). -/
def execStoreLanding (s : State) : Host.Outcome State Fault Refusal := .next (s.fire .storeLanding)

/-- An atomic, `stacq` or `strls` performs (06 R126, R131, R132). -/
def execAtomicPerform (s : State) : Host.Outcome State Fault Refusal := .next (s.fire .atomicPerform)

/-- A block step reads its columns and checks its sums (08 R166, R167). -/
def execMmaBlockStep (s : State) : Host.Outcome State Fault Refusal := .next (s.fire .mmaBlockStep)

/-- A matrix command reads its accumulator, or writes it a cycle later (08 R162, R164). -/
def execMmaResultWrite (s : State) : Host.Outcome State Fault Refusal := .next (s.fire .mmaResultWrite)

/-- A write-back takes its snapshot, or puts out 256 bytes (08 R169). -/
def execMwbOutputLanding (s : State) : Host.Outcome State Fault Refusal := .next (s.fire .mwbOutputLanding)

/-- A beat reads its source (10 R198). -/
def execCaddyBeatRead (s : State) : Host.Outcome State Fault Refusal := .next (s.fire .caddyBeatRead)

/-- A beat lands (10 R198): the timed one whose cycle it is, or else the next remaining beat of the transfer that `cur`
names, which an installed page lets run (14 R258). -/
def execCaddyBeatLand (s : State) : Host.Outcome State Fault Refusal :=
  .next (match s.headDue with
    | some e => if e.ev.instr = .caddyBeatLand then s.fire .caddyBeatLand else s.lateBeat s.cur.xfer
    | none => s.lateBeat s.cur.xfer)

/-- The stratum die accepts a Stratus word (10 R208). -/
def execStratusWordAccept (s : State) : Host.Outcome State Fault Refusal := .next (s.fire .stratusWordAccept)

/-- An `mfill` reads 256 bytes, or its contents are in place (08 R160). -/
def execMfillContentsInPlace (s : State) : Host.Outcome State Fault Refusal := .next (s.fire .mfillContentsInPlace)

/-- An `mtr` reads its source, or the transpose is in place (08 R161). -/
def execMtrTransposeInPlace (s : State) : Host.Outcome State Fault Refusal := .next (s.fire .mtrTransposeInPlace)

/-! ### Events of a transfer -/

/-- An untimed beat on a host page is read and lands (14 R267, 16 R295), in the next cycle. -/
def execHostBeatLand (s : State) : Host.Outcome State Fault Refusal := .next (s.hostBeatGo s.cur.xfer s.cur.beat)

/-- The loader installs an item of the overflow list (14 R258). -/
def execOverflowPageInstall (s : State) : Host.Outcome State Fault Refusal := .next (s.overflowInstall s.cur.xfer)

/-- Whether an entry of the agenda is a beat that lands and uses a slice's commands. -/
def State.lateEnt (s : State) (stack slice : Nat) (e : AEnt) : Bool :=
  match e.ev with
  | .beatLand id j _ _ _ => ((s.xfer id).map fun x => s.beatSlice x j stack slice).getD false
  | _ => false

/-- A forced refresh of `delay` cycles delays the commands of a slice: the beats under way that use them, and those that
are read in its cycles, land late (13 R234, R247). DESIGN CHOICE (log 117): every beat between its read and its landing is
one whose command the refresh delays, and it lands later by the whole of it. -/
def State.delayBeats (s : State) (stack slice delay : Nat) : State :=
  let late := s.lateEnt stack slice
  let rest := s.agenda.filter fun e => !late e
  let l := (s.agenda.filter late).foldl (fun l e => agendaInsert { e with due := e.due + delay } l) rest
  ({ s with agenda := l } : State).modDev fun (d : Device) =>
    { d with refreshes := (d.refreshes.filter fun r => decide (s.ccyc < r.ends)) ++
        [{ stack := stack, slice := slice, ends := s.ccyc + delay, delay := delay }] }

/-- The HBM forces a refresh outside the windows (13 R234). -/
def execForcedRefresh (stack slice delay : Nat) (s : State) : Host.Outcome State Fault Refusal :=
  .next (s.delayBeats stack slice delay)

/-- The stream whose released entry is due in this cycle, if one is (10 R204). -/
def State.entryDue (s : State) (c : Nat) (h : Half) : Option Nat :=
  let k := s.bindAt (s.bindOf c)
  if k.st = .running ∧ (s.core c).bound.isSome then s.dueEntry c h (s.mcyc c) else none

/-- A released schedule entry runs in its slot cycle (10 R204, 14 R266): that of the stream that `cur` names. -/
def execStaticCopyEntryRun (s : State) : Host.Outcome State Fault Refusal :=
  .next (match s.entryDue s.cur.core s.cur.half with
    | some e => s.runEntry s.cur.core s.cur.half e (s.mcyc s.cur.core)
    | none => s)

end Sys2Proof.Machine
end

