-- ==== Sys2Proof/Machine/Net.lean ====
section
/-!
DEFINITION. Messages between endpoints (06 R133, R134; 22 R353): a partition's message token, the way of a message and
its fates, and the message rings.
-/

namespace Sys2Proof.Machine

/-- Cycles of a token revolution: the time of a hop (13 R232, 22 R353). -/
def revolution : Nat := 64

/-- The message class of a packet (22 R355): 1 for messages, 3 for reports. -/
def NetMsg.cls (m : NetMsg) : Nat := if m.kind = 0 then 1 else 3

/-- The token slot in which a partition's packets of a class move (22 R355). -/
def Part.tokenOf (p : Part) (cls : Nat) : Nat :=
  match cls with
  | 0 => p.tokens.headD 0
  | 1 => p.msgToken
  | 2 => p.ctlToken
  | _ => p.reportToken

/-- The first cycle after `now` in which a token slot begins (13 R232). -/
def slotAfter (token now : Nat) : Nat := now + 1 + (2 * token + revolution - (now + 1) % revolution) % revolution

/-! ### Sending (06 R134) -/

/-- The core of a partition whose oldest buffered message leaves next: the oldest, then the lowest core. -/
def State.nextSender (s : State) (p : Nat) : Option Nat :=
  let l := s.cores.filter fun k =>
    s.partOfCore k.1 == some p && (k.2.sendBuf.take 1).any fun m => m.at_ < s.ccyc
  (l.foldl (fun (r : Option (Nat × Nat)) k =>
    let t := (k.2.sendBuf.head?.map (·.at_)).getD 0
    match r with
    | some q => if t < q.2 then some (k.1, t) else r
    | none => some (k.1, t)) none).map (·.1)

/-- Whether a partition's message token slot begins in this cycle and has not been used. -/
def State.tokenDue (s : State) (p : Nat) : Bool :=
  let k := s.partAt p
  k.present && s.ccyc % revolution == 2 * k.tokenOf 1 % revolution && k.lastSend != s.ccyc + 1 && (s.nextSender p).isSome

/-- A fate of a message goes back to its sender as a report, in the partition's next token slot for reports and a hop
later (06 R134, 22 R355). -/
def NetMsg.fate (m : NetMsg) (p : Part) (kind now : Nat) : NetMsg :=
  let r := { m with kind := kind, target := m.sender, hops := 0 }
  { r with due := slotAfter (p.tokenOf r.cls) now + revolution }

/-- The partition's next message leaves its core's buffer (06 R134, 22 R353); one to an unknown name is lost. -/
def State.sendMessage (s : State) (p : Nat) : State :=
  match s.nextSender p with
  | none => s
  | some c =>
    match (s.core c).sendBuf with
    | [] => s
    | m :: rest =>
      let n : NetMsg :=
        { part := p, sender := c, kind := 0, name := m.name.toNat, gen := m.gen.toNat, own := m.own, body := m.body,
          target := m.dest.getD c, hops := 0, due := s.ccyc + revolution }
      let n := if m.dest.isSome then n else n.fate (s.partAt p) 3 s.ccyc
      let s := s.modCore c fun k => { k with sendBuf := rest }
      let s : State := { s with net := s.net ++ [n] }
      s.modPart p fun q => { q with lastSend := s.ccyc + 1 }

/-- A buffered message leaves on its partition's message token slot (06 R134). -/
def execMessageTokenSend (s : State) : Host.Outcome State Fault Refusal :=
  .next (if s.tokenDue s.cur.part then s.sendMessage s.cur.part else s)

/-! ### Appending (06 R133) -/

/-- Whether a core's ring takes an entry: fewer than 127 entries are unconsumed (06 R134). -/
def State.ringRoom (s : State) (c : Nat) : Bool :=
  ((s.read64 (ringMsgKey c 0) - s.read64 (ringMsgKey c 8)).toNat) < 127

/-- Whether a core holds a registered endpoint (06 R133), of a name where one is given: by the directory, whatever a later
refused write of `EPNT` left in the register. The core of an evicted domain does not. -/
def State.endpoint (s : State) (c : Nat) (name : Option Nat) : Bool :=
  (s.heldName c).any fun e => name.all (· == e.1)

/-- The header of an entry. -/
def ringHeader (kind len name gen : Nat) : Word := pack [(kind, 60), (len, 48), (name, 24), (gen, 16)]

/-- An entry is appended: header, body, zeros, and TAIL as a release to class C (06 R133). DESIGN CHOICE (log 111): the body
words past LEN, all of them in a report, are zero like the words after word 32. What the interface reads is logged where
it meets an error (24 R373). -/
def State.appendEntry (s : State) (c : Nat) (header : Word) (body : List Word) : State :=
  let tail := s.read64 (ringMsgKey c 0)
  let s := s.noteRead [(ringMsgKey c 0, 16)]
  let words := (header :: body) ++ List.replicate (63 - body.length) 0
  let s := s.write (ringMsgKey c (ringEntry tail.toNat)) ((words.map fun w => leBytes 8 w.toNat).flatten)
  let s := s.write (ringMsgKey c 0x10) (List.replicate 0x1F0 0)
  s.write64 (ringMsgKey c 0) (tail + 1)

/-! ### Arrival (22 R353) -/

/-- The location after `t` among a name's locations, newest first: the next newer one, or the oldest known. -/
def nextLocation (locs : List Nat) (t : Nat) : Option Nat :=
  match locs.findIdx? (· == t) with
  | some 0 => none
  | some i => locs[i - 1]?
  | none => locs.getLast?

/-- A message or report whose cycle has come, by its place: one that an earlier message of the same sender to the same
name precedes waits, so that they are appended in send order. -/
def State.arrivalDue (s : State) : Option Nat :=
  (s.net.zipIdx.find? fun m =>
    m.1.due ≤ s.ccyc && !((s.net.take m.2).any fun q =>
      m.1.kind == 0 && q.kind == 0 && q.sender == m.1.sender && q.name == m.1.name)).map (·.2)

/-- A message or report replaced, or gone. -/
def State.putNet (s : State) (i : Nat) (m : Option NetMsg) : State :=
  match m with
  | some m => { s with net := s.net.set i m }
  | none => { s with net := s.net.eraseIdx i }

/-- A report is appended to its sender's own ring; a full ring or one without an endpoint loses it (06 R134). -/
def State.arriveReport (s : State) (i : Nat) (m : NetMsg) : State :=
  let s := s.putNet i none
  if s.endpoint m.target none ∧ s.ringRoom m.target then
    s.appendEntry m.target (ringHeader m.kind 0 m.name m.gen) []
  else s

/-- A message at a location: forwarded, dropped with its report, or appended (22 R353). DESIGN CHOICE (log 69): a name
that is live at a core of an evicted domain takes no message, and the message is lost. -/
def State.arriveMessage (s : State) (i : Nat) (m : NetMsg) : State :=
  match tfind (s.partAt m.part).directory m.name with
  | none => s.putNet i (some (m.fate (s.partAt m.part) 3 s.ccyc))
  | some e =>
    let back (kind : Nat) : State := s.putNet i (some (m.fate (s.partAt m.part) kind s.ccyc))
    match nextLocation e.locs m.target with
    | some t =>
      if 4 ≤ m.hops then back 3
      else s.putNet i (some { m with target := t, hops := m.hops + 1, due := s.ccyc + revolution })
    | none =>
      if e.live ≠ some m.target then back 1
      else if e.gen ≠ m.gen then back 2
      else if !s.endpoint m.target (some m.name) then back 3
      else if !s.ringRoom m.target then back 4
      else
        (s.putNet i none).appendEntry m.target
          (ringHeader 0 (m.body.length - 1) (m.own.toNat / 256) (m.own.toNat % 256)) m.body

/-- The message or report that is due first arrives. -/
def State.arrive (s : State) : State :=
  match s.arrivalDue with
  | none => s
  | some i =>
    match s.net[i]? with
    | none => s
    | some m => if m.kind = 0 then s.arriveMessage i m else s.arriveReport i m

/-- A message arrives at a location, or a report at its sender (22 R353). -/
def execMessageArrival (s : State) : Host.Outcome State Fault Refusal := .next s.arrive

end Sys2Proof.Machine
end

