-- ==== Sys2Proof/Machine/Domain.lean ====
section
/-!
DEFINITION. The events of a domain: marks (13 R241), pre-emption and contexts (22 R341-R346), holds and stops (13 R243,
09 R192), and its end (01 R14, 21 R334, R336; 22 R348). With them the memory of a partition as firmware reaches it.
-/

namespace Sys2Proof.Machine

/-! ### F-space through a partition's map (21 R329, R334) -/

/-- The page of a partition's map that holds an F-space address. -/
def Part.pageAt (p : Part) (a : Nat) : Option (Word × Word) := p.pages.find? fun e => pageHit e a

/-- A byte that firmware reads at an F-space address of a partition. -/
def State.fwByte (s : State) (part a : Nat) : Option Byte :=
  let p := s.partAt part
  match p.pageAt a with
  | none => none
  | some e =>
    if e.1.getLsbD 60 then some (s.mem.read (hostKey (pagePhys e a)))
    else some (s.hbmByte (p.key (wfld e.1 51 48)) (pagePhys e a))

/-- `n` bytes that firmware reads, if all are mapped. -/
def State.fwRead (s : State) (part a n : Nat) : Option (List Byte) := (rangeFrom a n).mapM (s.fwByte part)

/-- `n` 64-bit words that firmware reads, if all are mapped. -/
def State.fwWords (s : State) (part a n : Nat) : Option (List Word) :=
  (s.fwRead part a (8 * n)).map fun l => (chunks 8 n l).map fun b => BitVec.ofNat 64 (ofBytes b)

/-- The HBM words of `n` bytes from an F-space address that firmware reads, by key. -/
def State.fwKeys (s : State) (part a n : Nat) : List (Nat × Nat) :=
  (List.range ((a % 8 + n + 7) / 8)).filterMap fun i =>
    let w := a / 8 * 8 + 8 * i
    ((s.partAt part).pageAt w).bind fun e =>
      if n = 0 ∨ e.1.getLsbD 60 then none else some (hbmKey (pagePhys e w), 8)

/-- Firmware writes bytes of one 64-bit word; an address that is not mapped takes nothing. -/
def State.fwStore (s : State) (part a : Nat) (bs : List Byte) : State :=
  let p := s.partAt part
  match p.pageAt a with
  | none => s
  | some e =>
    if e.1.getLsbD 60 then { s with mem := s.mem.write (hostKey (pagePhys e a)) bs }
    else s.hbmWrite (p.key (wfld e.1 51 48)) (pagePhys e a) bs

/-- Firmware writes a byte. -/
def State.fwPut (s : State) (part a : Nat) (v : Byte) : State := s.fwStore part a [v]

/-- Firmware writes a 64-bit word, as one write where it is aligned (06 R122). -/
def State.fwWrite (s : State) (part a : Nat) (v : Word) : State :=
  if a % 8 = 0 then s.fwStore part a (leBytes 8 v.toNat)
  else ((leBytes 8 v.toNat).zipIdx).foldl (fun s b => s.fwPut part (a + b.2) b.1) s

/-- The address part of an F-space pointer of a record. -/
def fAddr (w : Word) : Nat := w.toNat % 2 ^ 48

/-! ### End-status words and the end of an entry (21 R334, R336; 22 R348) -/

/-- The end-status word. -/
def statusWord (res fc task : Nat) : Word := pack [(res, 60), (fc, 56), (task, 16)]

/-- The end-status word of a record is written, and reported for the host; a record without one asks for none. -/
def State.writeStatus (s : State) (part : Nat) (stw : Word) (v : Word) : State :=
  let s := s.report (.endStatus part v)
  if stw = 0 then s else s.fwWrite part (fAddr stw) v

/-- What a core keeps when its domain is gone: its endpoint's name is retired (22 R352). -/
def Core.retire (k : Core) : Core := { k with ctl := { k.ctl with epSt := 0, epMove := false, epName := 0, epGen := 0 } }

/-- An agenda without the save and restore schedules of a core. -/
def Ev.isCtx (c : Nat) : Ev → Bool
  | .ctxLine k _ | .ctxFill k _ | .ctxSave k _ | .ctxLand k _ _ _ | .ctxLoad k _ | .ctxSet k _ _ _ => k == c
  | _ => false

/-- The index that stands for no bind entry: a collective whose entry is freed goes on without one. -/
def goneBind : Nat := 2 ^ 16

/-- The collectives of an entry keep the places of their sources in memory, which stay locked without it (18 R316). -/
def State.keepLocks (s : State) (b : Nat) : State :=
  { s with colls := s.colls.map fun k => if k.cmd.bind = b then { k with lock := some (s.sourceSpans k) } else k }

/-- The cores whose names end with a domain: those it holds, or those of its copy in the eviction area (22 R346, R352). -/
def State.namedCores (s : State) (b : Nat) : List Nat :=
  s.heldCores b ++ ((s.partAt (s.bindAt b).part).eviction.filter (·.index == b)).flatMap fun e => e.cores.map (·.1)

/-- A bind entry is freed: names are retired, what the cores hold is given back, the copy of an evicted domain goes, and a
task with an interval that is not merged leaves its private writes behind (16 R291). -/
def State.freeEntry (s : State) (b : Nat) : State :=
  let k := s.bindAt b
  let cores := s.heldCores b
  let s : State := { s with agenda := s.agenda.filter fun e => !(cores.any fun c => e.ev.isCtx c) }
  let s := s.modPart k.part fun p =>
    { p with directory := (s.namedCores b).foldl (fun d c => dirRetire d c k.task) p.directory,
             eviction := p.eviction.filter (·.index != b),
             leavers := if k.view.isEmpty then p.leavers else p.leavers ++ [{ k with st := .ended }] }
  let s := cores.foldl (fun s c => s.modCore c Core.retire) s
  let s := ((s.keepLocks b).giveBack b).moveColls b goneBind
  { s with xfers := s.xfers.filter fun x => !(x.bind == b && x.stalled.isSome) }.modBind b fun _ => Bind.init

/-- Whether the end-status word of an entry can be written: its counters read zero, and its kernel has ended, or firmware
ends it and this is a chip mark. DEDUCED (log 72): firmware frees the entry of an ended kernel, too, only once its
counters read zero. -/
def State.endDue (s : State) (b : Nat) : Bool :=
  let k := s.bindAt b
  (k.st == .ended || (k.ending.isSome && s.ccyc % 2 ^ Config.cmlog == 0)) && s.drained b

/-- Firmware writes the end-status word and frees the entry: RES 5, or RES 6 with its fault code. -/
def State.finishEntry (s : State) (b : Nat) : State :=
  if s.endDue b then
    let k := s.bindAt b
    let v := match k.ending with
      | some fc => statusWord 6 fc k.task
      | none => statusWord 5 0 k.task
    (s.writeStatus k.part (k.rec_ 15) v).freeEntry b
  else s

/-! ### The events -/

/-- A domain mark (13 R241) of the domain that `cur` names. -/
def execDomainMark (s : State) : Host.Outcome State Fault Refusal :=
  .next (if s.domainMarkDue s.cur.bind then s.domainMark s.cur.bind else s)

/-- The kernel ends in the first cycle in which its streams have ended and no tile sweeps (01 R14); it sends fault for
each of its collectives that have not voted (18 R317). -/
def execKernelEnd (s : State) : Host.Outcome State Fault Refusal :=
  .next (if s.kernelOver s.cur.bind then
      (s.modBind s.cur.bind fun k => { k with ended := true }).collsFault s.cur.bind
    else s)

/-- Firmware asks for a pre-emption (22 R341). -/
def execPreemptionRequest (s : State) : Host.Outcome State Fault Refusal := .next (s.requestPreempt s.cur.bind)

/-- A request that has met no clean mark for 2^24 cycles is withdrawn (22 R341). -/
def execPreemptionWithdraw (s : State) : Host.Outcome State Fault Refusal :=
  .next (if s.withdrawDue s.cur.bind then s.withdrawPreempt s.cur.bind else s)

/-- The drain cycle: the save schedule begins (22 R342, R345). -/
def execDrainComplete (s : State) : Host.Outcome State Fault Refusal := .next (s.beginSave s.cur.bind)

/-- Firmware evicts a frozen domain whose image is complete (22 R346). -/
def execEviction (s : State) : Host.Outcome State Fault Refusal := .next (s.evict s.cur.bind)

/-- A resume is asked for, and the restore schedule begins once the image is complete (22 R345). -/
def execResumeRequest (s : State) : Host.Outcome State Fault Refusal :=
  .next ((s.requestResume s.cur.bind).beginRestore s.cur.bind)

/-- Whether a task waits at its mark for a merge (16 R291): a region's merge for that mark is not applied. -/
def Bind.waits (k : Bind) (mark : Nat) : Bool :=
  mark != 0 && k.merges.any fun r => mark % 2 ^ r.qlog == 0 && r.next ≤ mark / 2 ^ r.qlog

/-- Whether a domain's timetable restarts in this cycle: it waits for no merge of its mark. -/
def State.restartNow (s : State) (b : Nat) : Bool :=
  s.restartDue b && !(s.bindAt b).waits (((s.bindAt b).freeze.map (·.mark)).getD 0)

/-- The timetable restarts (13 R242). -/
def execTimetableRestart (s : State) : Host.Outcome State Fault Refusal :=
  .next (if s.restartNow s.cur.bind then s.restart s.cur.bind else s)

/-- The holder resumes a held domain (13 R243). -/
def execHostDomainResume (s : State) : Host.Outcome State Fault Refusal := .next (s.releaseHeld s.cur.bind)

/-- The host releases a domain that `brk` stopped; it resumes at a mark (09 R192). -/
def execBrkRelease (s : State) : Host.Outcome State Fault Refusal :=
  .next (if ((s.bindAt s.cur.bind).freeze.map (·.why)) = some .brk then
      (s.requestResume s.cur.bind).beginRestore s.cur.bind
    else s)

/-- Firmware or the host ends a domain (22 R348). -/
def execDomainEnd (fc : Nat) (s : State) : Host.Outcome State Fault Refusal := .next (s.endDomain s.cur.bind fc)

/-- The end-status word is written, and the entry is freed (22 R348, 21 R336). -/
def execEndStatusWrite (s : State) : Host.Outcome State Fault Refusal := .next (s.finishEntry s.cur.bind)

end Sys2Proof.Machine
end

