-- ==== Sys2Proof/Machine/Merge.lean ====
section
/-!
DEFINITION. Merges of private views (16 R288-R292): when merge k of a region is applied, what it does to each byte or
element, conflicts, and how its tasks go on.
-/

namespace Sys2Proof.Machine

/-! ### Groups (16 R288, R291) -/

/-- A domain's region with a base. -/
def Bind.region (k : Bind) (base : BitVec 32) : Option MergeReg := k.merges.find? (·.base == base)

/-- The entries of a partition whose domains have started and name a region's base: bound, evicted or ended. -/
def State.groupEntries (s : State) (part : Nat) (base : BitVec 32) : List (Nat × Bind) :=
  s.binds.filter fun k => k.2.part == part && k.2.st != .free && k.2.st != .pending && (k.2.region base).isSome

/-- The number of the next merge of a region's group (16 R291). -/
def State.nextMerge (s : State) (part : Nat) (base : BitVec 32) : Nat := tget 0 (s.partAt part).mergeCount base.toNat + 1

/-- Whether a domain takes part in merge `n` of a region. -/
def Bind.joins (k : Bind) (base : BitVec 32) (n : Nat) : Bool := (k.region base).any fun r => decide (r.join ≤ n)

/-- The entries that take part in a region's next merge. -/
def State.mergeEntries (s : State) (part : Nat) (base : BitVec 32) : List (Nat × Bind) :=
  (s.groupEntries part base).filter fun k => k.2.joins base (s.nextMerge part base)

/-- Whether a replayed task that takes part in the next merge is bound and has not started (21 R339). -/
def State.replayAwaited (s : State) (part : Nat) (base : BitVec 32) : Bool :=
  s.binds.any fun k => k.2.part == part && k.2.st == .pending && (k.2.rec_ 0).getLsbD 50 &&
    k.2.joins base (s.nextMerge part base)

/-- The tasks of a region's next merge by increasing task identifier, with those that have left before their last
interval was merged. -/
def State.mergeTasks (s : State) (part : Nat) (base : BitVec 32) : List Bind :=
  let l := (s.mergeEntries part base).map (·.2) ++ (s.partAt part).leavers.filter fun k => (k.region base).isSome
  l.mergeSort fun a b => a.task ≤ b.task

/-- Whether a task has ended. -/
def Bind.over_ (k : Bind) : Bool := k.st == .ended || k.ended || k.ending.isSome

/-- Whether a task is frozen at a merge mark of a region whose merge is not applied. -/
def Bind.atMerge (k : Bind) (r : MergeReg) : Bool :=
  match k.freeze with
  | some f => f.mark != 0 && f.mark % 2 ^ r.qlog == 0 && r.next ≤ f.mark / 2 ^ r.qlog
  | none => false

/-- The private writes of a task in a region. -/
def Bind.writesIn (k : Bind) (r : MergeReg) : List ViewWrite :=
  k.view.filter fun w => within (r.base.toNat * 2 ^ 16) (r.pages * 2 ^ 16) w.addr

/-- Whether a transfer writes into a region, where the published buffers of its domain lead its beats (14 R269). -/
def Xfer.writesRegion (x : Xfer) (pubs : List Pub) (r : MergeReg) : Bool :=
  x.kind != .slot && ptrTag x.dst.toNat == 3 && (routedSpans pubs true (fAddr x.dst) x.bytes).any fun g =>
    g.1 < (r.base.toNat + r.pages) * 2 ^ 16 && r.base.toNat * 2 ^ 16 < g.1 + g.2

/-- Whether a merge of a region can be applied now (16 R291): every task has frozen at its merge mark or has ended, its
transfers into the region have landed, and there is something to do. -/
def State.mergeReady (s : State) (part : Nat) (base : BitVec 32) : Bool :=
  let l := s.mergeEntries part base
  let tasks := s.mergeTasks part base
  let reg (k : Bind) : MergeReg := (k.region base).getD ⟨base, false, 0, 0, 0, 0, 0, 0⟩
  !s.replayAwaited part base && l.all (fun k => k.2.over_ || k.2.atMerge (reg k.2)) &&
    l.all (fun k => !(s.xfers.any fun x => x.bind == k.1 && x.writesRegion k.2.pubs (reg k.2))) &&
    (l.any (fun k => !k.2.over_ && k.2.atMerge (reg k.2)) ||
      tasks.any fun k => k.over_ && !(k.writesIn (reg k)).isEmpty)

/-- A region of a partition whose merge is due. -/
def State.mergeDue (s : State) : Option (Nat × BitVec 32) :=
  s.parts.findSome? fun p =>
    let bases := ((s.binds.filter fun k => k.2.part == p.1).flatMap (·.2.merges) ++
      p.2.leavers.flatMap (·.merges)).map (·.base)
    (bases.dedup.find? fun b => s.mergeReady p.1 b).map fun b => (p.1, b)

/-! ### Bytes and elements (16 R292) -/

/-- A value of a task for a byte or element of a region: its bits, its poison, and where translation led its last write. -/
structure Merged where
  val : Nat
  bad : Bool
  hit : FHit
  deriving DecidableEq, Repr

/-- The last value that a task wrote of each byte of a region. -/
def lastBytes (l : List ViewWrite) : Tab Merged :=
  l.foldl (fun t w => w.bytes.zipIdx.foldl
    (fun t b => tset t (w.addr + b.2) ⟨b.1.toNat, w.bad.contains (b.2 / 8 * 8), w.hit.shift b.2⟩) t) []

/-- The value that a task's writes of each element of a reduce region combine to, in landing order. -/
def combined (r : MergeReg) (l : List ViewWrite) : Tab Merged :=
  let w := redWidth r.et
  l.foldl (fun t v => (List.range (v.bytes.length / w)).foldl (fun t i =>
    let a := v.addr + w * i
    let x := ofBytes ((v.bytes.drop (w * i)).take w)
    let bad := v.bad.contains (w * i / 8 * 8)
    match tfind t a with
    | some q => tset t a ⟨redStep r.et r.op q.val x, q.bad || bad, v.hit.shift (w * i)⟩
    | none => tset t a ⟨x, bad, v.hit.shift (w * i)⟩) t) []

/-- Bytes of a region are written, and poisoned where the write was. -/
def State.mergePut (s : State) (hit : FHit) (bs : List Byte) (bad : Bool) : State :=
  s.physWrite hit bs (if bad then [0] else [])

/-- The bytes that one task of the list alone wrote. -/
def soleBytes (tasks : List (Bind × Tab Merged)) : Tab Merged :=
  tasks.flatMap fun k => k.2.filter fun b => (tasks.filter fun q => (tfind q.2 b.1).isSome).length == 1

/-- The bytes of the aligned 64-bit word of F-space with index `w` that one task alone wrote: a word that is written whole
has a fresh code (06 R122), and one written in part keeps its poison (06 R121). -/
def State.mergeWord (s : State) (l : Tab Merged) (w : Nat) : State :=
  let bs := (List.range 8).filterMap fun i => tfind l (8 * w + i)
  let hit := (bs.head?.map (·.hit)).getD .miss
  if bs.length = 8 ∧ (bs.zipIdx.all fun b => b.1.hit == hit.shift b.2) then
    s.mergePut hit (bs.map fun b => BitVec.ofNat 8 b.val) (bs.any (·.bad))
  else bs.foldl (fun s b => s.mergePut b.hit [BitVec.ofNat 8 b.val] b.bad) s

/-- Each task's bytes that no other task of the list wrote. -/
def State.mergeBytes (s : State) (tasks : List (Bind × Tab Merged)) : State :=
  let l := soleBytes tasks
  ((l.map (·.1 / 8)).dedup).foldl (fun s w => s.mergeWord l w) s

/-- The bytes that two or more tasks wrote, in rising order, with the writers' identifiers in rising order. -/
def conflicts (tasks : List (Bind × Tab Merged)) : List (Nat × List Nat) :=
  let all := (tasks.flatMap fun k => k.2.map (·.1)).dedup.mergeSort (· ≤ ·)
  all.filterMap fun a =>
    let ws := (tasks.filter fun k => (tfind k.2 a).isSome).map (·.1.task)
    if 2 ≤ ws.length then some (a, ws) else none

/-- A reduce region takes each task's combined values in turn. -/
def State.mergeElems (s : State) (r : MergeReg) (tasks : List (Bind × Tab Merged)) : State :=
  let w := redWidth r.et
  tasks.foldl (fun s k =>
    k.2.foldl (fun s e =>
      let old := (List.range w).map fun i => s.physByte (e.2.hit.shift i)
      s.mergePut e.2.hit (leBytes w (redStep r.et r.op (ofBytes (old.map (·.1))) e.2.val)) (e.2.bad || old.any (·.2)))
      s) s

/-! ### A merge -/

/-- A task after a merge of a region: its writes are merged, and its next merge is the one after. -/
def Bind.merged (k : Bind) (base : BitVec 32) : Bind :=
  match k.region base with
  | none => k
  | some r =>
    { k with
      view := k.view.filter fun w => !within (r.base.toNat * 2 ^ 16) (r.pages * 2 ^ 16) w.addr
      merges := k.merges.map fun q =>
        if q.base = base then { q with next := (k.freeze.map fun f => f.mark / 2 ^ r.qlog + 1).getD (r.next + 1) }
        else q }

/-- The group goes on after a merge: a frozen task that waits for no other merge is asked to resume; one that a conflict
holds is not. -/
def State.mergeResume (s : State) (b : Nat) : State :=
  let k := s.bindAt b
  match k.freeze with
  | some f =>
    if f.why = .merge ∧ k.waits f.mark = false ∧ (k.fault.map (·.fc)) ≠ some 3 then (s.requestResume b).beginRestore b else s
  | none => s

/-- A merge conflict holds every task of the group frozen, with its report (16 R292). -/
def State.mergeConflict (s : State) (part : Nat) (entries : List Nat) (l : List (Nat × List Nat)) : State :=
  match l with
  | [] => s
  | q :: _ =>
    let s := s.report (.mergeConflict part q.1 (q.2.getD 0 0) (q.2.getD 1 0) l.length)
    entries.foldl (fun s b =>
      let m := s.mcycOf b
      s.modBind b fun k =>
        if k.over_ then k
        else
          { k with freeze := k.freeze.map fun f => { f with heldFor := k.fault },
                   fault := some { fc := 3, core := k.layer * 1024 + k.unit, half := .x, code := 0, cause := 0, mcyc := m } })
      s

/-- Merge of a region (16 R291, R292). -/
def State.applyMerge (s : State) (part : Nat) (base : BitVec 32) : State :=
  if s.mergeReady part base then
    let tasks := s.mergeTasks part base
    let entries := (s.mergeEntries part base).map (·.1)
    let r := (tasks.findSome? (·.region base)).getD ⟨base, false, 0, 0, 0, 0, 0, 0⟩
    -- each task's writes in the region as its own record gives its length (16 R289)
    let writes (k : Bind) := k.writesIn ((k.region base).getD r)
    let s' :=
      if r.reduce then s.mergeElems r (tasks.map fun k => (k, combined r (writes k)))
      else
        let l := tasks.map fun k => (k, lastBytes (writes k))
        (s.mergeBytes l).mergeConflict part entries (conflicts l)
    let s' := entries.foldl (fun s b => s.modBind b (·.merged base)) s'
    let s' := s'.modPart part fun p =>
      { p with leavers := (p.leavers.map (·.merged base)).filter fun k => !k.view.isEmpty,
               mergeCount := tset p.mergeCount base.toNat (tget 0 p.mergeCount base.toNat + 1) }
    entries.foldl (fun s b => s.mergeResume b) s'
  else s

/-- Merge k of the region that `cur` names is applied (16 R291). -/
def execMergeApply (s : State) : Host.Outcome State Fault Refusal := .next (s.applyMerge s.cur.part s.cur.region)

/-- The host decides on a merge conflict in host-assisted mode (16 R292): the group of the region that `cur` names goes
on with the merged region, or it ends. -/
def execHostMergeDecision (goOn : Bool) (s : State) : Host.Outcome State Fault Refusal :=
  .next ((s.groupEntries s.cur.part s.cur.region).foldl (fun s k =>
    if k.2.mode 7 && (k.2.fault.map (·.fc)) == some 3 then
      if goOn then (s.modBind k.1 fun q => { q with fault := q.freeze.bind (·.heldFor) }).mergeResume k.1 else s.endDomain k.1 5
    else s) s)

end Sys2Proof.Machine
end

