-- ==== Sys2Proof/Machine/Reserve.lean ====
section
/-!
DEFINITION. What a bound timetable reserves, beat by beat (13 R229-R236): bank ports, token slots, HBM commands and die
commands, and when two timetables, or a timetable and a refresh window, claim one resource in one cycle.
-/

namespace Sys2Proof.Machine

/-- A reservation: its cycle from the start of the period, and the resource. -/
abbrev Reservation := Nat × Nat

/-- A resource of a kind, as one number. -/
def resource (kind r : Nat) : Nat := kind * 2 ^ 32 + r

/-- Beats of a subordinate entry's run (13 R229). -/
def slotRun (w : Word) : Nat := wfld w 37 22 + 1

/-- The `caddy` entry that lists entry `i` as subordinate, and the beat of its transfer at which the entry's run begins:
the entries of one kind cover the beats in order (13 R230). -/
def Bind.parentSlot (b : Bind) (i : Nat) : Option (Nat × Nat) :=
  (List.range b.nslot).findSome? fun c =>
    let e := b.slot c
    let first := wfld e 18 8
    if slotValid b.period e && slotKind e == kindCaddy && within first (wfld e 23 19) i then
      some (c, ((rangeFrom first (i - first)).filter fun k => slotKind (b.slot k) == slotKind (b.slot i)).foldl
        (fun n k => n + slotRun (b.slot k)) 0)
    else none

/-- The pointers between which beat `j` of a transfer moves, as the published buffers stand: of its first byte read, and
of its destination. -/
def Bind.xferPtrs (b : Bind) (x : Xfer) (j : Nat) : List Nat :=
  let a := b.beatFrom x j
  let d := (x.span j).2.2
  (if ptrTag x.src.toNat = 3 then 3 * 2 ^ 60 + a else (pubRoute b.pubs false a).getD a) ::
    if x.kind = .slot then [] else [(pubRoute b.pubs true d).getD d]

/-- The pointers between which a schedule entry moves beat `j` (14 R266), with either half of its published buffers. -/
def Bind.beatPtrs (b : Bind) (e : SchedEnt) (j : Nat) : List Nat :=
  let x := b.entryXfer 0 (wfld e.w0 39 38 * 1024 + wfld e.w0 37 28) .a 0 0 e
  b.xferPtrs x j ++ ({ b with pubs := b.pubs.map fun p => { p with map := !p.map } } : Bind).xferPtrs x j

/-- The bank or the HBM slice of a pointer, as a slot entry's low bits name it: a bank by bank, column and layer, a slice
by bits [14:8] of the physical address that the page windows give (13 R229, 14 R257). DESIGN CHOICE (log 118): a home
channel of a `cirrus` entry whose parent is an entry of the copy schedule is found by the same bits. -/
def Bind.ptrResource (b : Bind) (kind p : Nat) : Option Nat :=
  if kind = 2 then
    if ptrTag p = 2 then some (lOff p / 0x10000 * 4096 + lCol p % 1024 * 4 + lCol p / 1024) else none
  else if ptrTag p = 3 then
    (b.pages.find? fun e => pageHit e (p % 2 ^ 48) && !e.1.getLsbD 60).map fun e => fld (pagePhys e (p % 2 ^ 48)) 14 8
  else none

/-- The resource that a slot entry names for its run's first beat. -/
def slotResource (w : Word) : Nat := match slotKind w with | 2 => wfld w 15 0 | 3 => wfld w 6 0 | 4 => wfld w 6 0 | _ => wfld w 2 0

/-- The resource of a later beat of a run whose addresses the bind does not hold: consecutive beats go to consecutive
slices (14 R257), and stay in their bank. DESIGN CHOICE (log 73): they stay on their home channel. -/
def laterResource (w : Word) (j : Nat) : Nat := if slotKind w = 4 then (slotResource w + j) % 128 else slotResource w

/-- The resource that beat `j` of a run uses: what the beat's own address names, where the parent is an entry of the
copy schedule. -/
def Bind.beatResource (b : Bind) (w : Word) (at_ : Nat × Option SchedEnt) (j : Nat) : Nat :=
  match at_.2 with
  | none => laterResource w j
  | some e =>
    match (b.beatPtrs e at_.1).findIdx? fun p => b.ptrResource (slotKind w) p == some (slotResource w) with
    | none => laterResource w j
    | some k => ((b.ptrResource (slotKind w) ((b.beatPtrs e (at_.1 + j)).getD k 0))).getD (laterResource w j)

/-- What entry `i` reserves (13 R230): a die's command cycle, or the resource of each beat of its run; a token slot is
two cycles long (13 R232). -/
def Bind.reserves (b : Bind) (i : Nat) : List Reservation :=
  let w := b.slot i
  let k := slotKind w
  if !slotValid b.period w || k < 2 then []
  else if k = kindStratus then [(slotCyc w, resource k (slotResource w))]
  else
    let p := b.parentSlot i
    let start := (p.map (·.2)).getD 0
    let users := b.sched.filter fun e => (p.map (·.1)) == some (wfld e.w0 10 0)
    ((if users.isEmpty then [none] else users.map some).flatMap fun e =>
      (List.range (slotRun w)).map fun j =>
        let c := slotCyc w + j
        (if k = 3 then c / 2 * 2 else c, resource k (b.beatResource w (start, e) j)))

/-- What a timetable reserves. DESIGN CHOICE (log 110): the halos of fields (17 R304) reserve nothing here. -/
def Bind.reservations (b : Bind) : List Reservation := (List.range b.nslot).flatMap b.reserves

/-- Whether two domains' timetables claim one resource in one cycle (13 R236). Their phases agree modulo the chip mark
interval (13 R226). DESIGN CHOICE (log 102): refresh reservations of one slice in one cycle collide like any others. -/
def timetablesMeet (a b : Bind) : Bool :=
  let n := min (min a.period b.period) (2 ^ Config.cmlog)
  let rb := b.reservations
  a.reservations.any fun x => rb.any fun y => x.2 == y.2 && x.1 % n == y.1 % n

/-- Whether an HBM command of a timetable falls in a refresh window: a cycle whose MCYC mod 2,048 lies in 1,984 to 2,047
(13 R234). -/
def Bind.meetsRefresh (b : Bind) : Bool :=
  (List.range b.nslot).any fun i =>
    slotKind (b.slot i) == 4 && !(b.slot i).getLsbD 7 && (b.reserves i).any fun x =>
      let n := min b.period 2048
      decide (n ≤ x.1 % n + 64)

/-- The token slots of its home channel that a `cirrus` entry's run takes (13 R232). DESIGN CHOICE (log 119): they go by TOK
also where CYC lies in no token slot that TOK names; the reservation of the channel goes by CYC. -/
def tokensOf (w : Word) : List Nat :=
  (List.range (min (slotRun w) 64)).map fun j => (2 * wfld w 11 7 + slotCyc w % 2 + j) / 2 % 32

/-- Whether two entries of one list give one die two commands in one cycle (13 R235). -/
def sameCommand (p : Nat) (a b : Word) : Bool :=
  slotValid p a && slotValid p b && slotKind a == kindStratus && slotKind b == kindStratus &&
    slotCyc a == slotCyc b && wfld a 2 0 == wfld b 2 0

end Sys2Proof.Machine
end

