-- ==== Sys2Proof/Machine/Launch.lean ====
section
/-!
DEFINITION. Launches (21): queues and notify windows, the launch record and its checks, signatures and traces,
placement by firmware, and the start of domains by dispatch at chip marks.
-/

namespace Sys2Proof.Machine

/-! ### Queues and notify windows (21 R332) -/

/-- A launch queue of a partition. -/
def State.queueAt (s : State) (part qid : Nat) : Option LQueue := tfind (s.partAt part).queues qid

/-- The state with a queue changed. -/
def State.modQueue (s : State) (part qid : Nat) (f : LQueue → LQueue) : State :=
  s.modPart part fun p => { p with queues := p.queues.map fun q => if q.1 = qid then (q.1, f q.2) else q }

/-- The host creates a queue, and firmware registers it with its notify word: up to 16 queues of 2 to 4,096 records. -/
def State.createQueue (s : State) (part qid : Nat) (base : Word) (log : Nat) : State :=
  if (s.partAt part).present ∧ qid < 16 ∧ 1 ≤ log ∧ log ≤ 12 ∧ (s.queueAt part qid).isNone then
    s.modPart part fun p =>
      { p with queues := tset p.queues qid { base := base, log := log, head := 0, tail := 0, notify := 0, taken := 0 } }
  else s

/-- Whether a queue is mapped to a window. -/
def State.mapped (s : State) (part qid : Nat) : Bool := s.dev.windows.any fun w => w.2 == (part, qid)

/-- Firmware maps a queue to a window: the tail comes from the notify word. -/
def State.mapWindow (s : State) (part qid win : Nat) : State :=
  if win < 32 ∧ (s.queueAt part qid).isSome ∧ (tfind s.dev.windows win).isNone ∧ s.mapped part qid = false then
    (s.modQueue part qid fun q => { q with tail := q.notify }).modDev fun d =>
      { d with windows := tset d.windows win (part, qid) }
  else s

/-- Firmware unmaps a window. -/
def State.unmapWindow (s : State) (win : Nat) : State := s.modDev fun d => { d with windows := tdel d.windows win }

/-- A notify value reaches a window (21 R332): the mapped queue's tail, a queue's notify word, or nothing but a count. The
notify word, which gives the tail when the queue is mapped again, holds the last TAIL of either way, so that no write is
lost. A partition that is not there, as after its reset, has no window to write. -/
def State.notify (s : State) (part win : Nat) (v : Word) : State :=
  let qid := wfld v 63 48
  let tail := wfld v 31 0
  if !(s.partAt part).present then s
  else if wfld v 47 32 ≠ 0 ∨ (s.queueAt part qid).isNone then s.modPart part fun p => { p with discarded := p.discarded + 1 }
  else if tfind s.dev.windows win = some (part, qid) then
    s.modQueue part qid fun q => { q with tail := tail, notify := tail }
  else s.modQueue part qid fun q => { q with notify := tail }

/-! ### Records (21 R329) -/

/-- Word `i` of a record. -/
def rw (r : List Word) (i : Nat) : Word := r.getD i 0

/-- Counts of word 6: schedule, pages, published buffers, overflow items, fields, merged regions. -/
def nCsch (r : List Word) : Nat := wfld (rw r 6) 63 51
/-- Page-window entries. -/
def nPwin (r : List Word) : Nat := wfld (rw r 6) 50 40
/-- Published buffers. -/
def nPub (r : List Word) : Nat := wfld (rw r 6) 39 33
/-- Overflow items. -/
def nOvf (r : List Word) : Nat := wfld (rw r 6) 32 20
/-- Field entries. -/
def nFld (r : List Word) : Nat := wfld (rw r 6) 19 16
/-- Merged regions. -/
def nMrg (r : List Word) : Nat := wfld (rw r 6) 15 8

/-- Whether a record's version, zero fields or limits are wrong (21 R329, R340; 22 R343). -/
def recordBad (r : List Word) : Bool :=
  let w := rw r
  wfld (w 0) 63 56 != 1 || wfld (w 0) 48 0 != 0 || 5 < wfld (w 1) 63 61 || wfld (w 1) 30 16 != 0 ||
    wfld (w 3) 63 32 != 0 || wfld (w 6) 7 0 != 0 || (w 13).getLsbD 63 || wfld (w 14) 63 8 != 0 ||
    wfld (w 24) 31 16 != 0 || wfld (w 27) 63 32 != 0 || (List.range 4).any (fun i => w (28 + i) != 0) ||
    4096 < nCsch r || 1024 < nPwin r || 64 < nPub r || 4095 < nOvf r || 8 < nFld r ||
    [(7, nCsch r), (8, nPwin r), (9, nOvf r), (10, nPub r), (11, nMrg r), (12, nFld r)].any
      (fun q => w q.1 == 0 && q.2 != 0) ||
    wfld (w 4) 31 0 % 256 != 0 || wfld (w 4) 63 32 % 256 != 0 ||
    wfld (w 13) 62 48 < 4 || 16384 < wfld (w 13) 62 48 || wfld (w 13) 39 20 % 32 != 0 ||
    0x100000 < wfld (w 13) 39 20 + 32 * wfld (w 13) 62 48 || (w 15).toNat % 8 != 0 ||
    (bitAt (w 14).toNat 1 && !bitAt (w 14).toNat 2) || bitAt (w 14).toNat 6

/-- Whether two spans share a byte. -/
def spansMeet (a n b m : Nat) : Bool := a < b + m && b < a + n

/-- Whether two entries of a list meet. -/
def anyMeet {α : Type} (f : α → α → Bool) : List α → Bool
  | [] => false
  | x :: r => r.any (f x) || anyMeet f r

/-- Whether a slot-table image is refused: its header, its wheel map, a token slot of another partition, or two commands
for one die in one cycle (13 R228, R231, R232, R235). -/
def slotsBad (tokens : List Nat) (l : List Word) : Bool :=
  let h := (rw l 0)
  let plog := wfld h 4 0
  let mlog := wfld h 12 8
  let map := rw l 1
  wfld h 63 52 != 0 || wfld h 23 13 != 0 || wfld h 7 5 != 0 || wfld h 51 40 < 1 || 2048 < wfld h 51 40 ||
    plog < 10 || 22 < plog || mlog < 8 || 16 < mlog || plog < mlog || 2 ^ (plog - mlog) < wfld h 39 24 ||
    (List.range 16).any (fun i => 8 < wfld map (4 * i + 3) (4 * i)) ||
    ((l.drop 2).any fun e => slotValid (2 ^ plog) e && slotKind e == 3 && !(tokensOf e).all tokens.contains) ||
    anyMeet (sameCommand (2 ^ plog)) (l.drop 2)

/-- Whether a page-window list is refused (14 R254, R257, R259). -/
def pageBad (e : Word × Word) : Bool :=
  let low := match wfld e.1 62 61 with | 0 => 0 | 1 => 5 | _ => 14
  wfld e.1 62 61 == 3 || wfld e.1 53 52 != 0 || wfld e.1 15 0 != 0 || (e.1.getLsbD 60 && wfld e.1 51 48 != 0) ||
    wfld e.1 47 16 % 2 ^ low != 0 || wfld e.2 35 0 % 2 ^ low != 0 || !pfmtOk e.2 ||
    (!e.1.getLsbD 60 && 2 ^ 23 ≤ wfld e.2 35 0)

/-- Whether a page-window list is refused as a whole: an entry's layout, or valid pages that overlap. -/
def pagesBad (l : List (Word × Word)) : Bool :=
  l.any pageBad || anyMeet (fun a b => a.1.getLsbD 63 && b.1.getLsbD 63 &&
    spansMeet (pageBase a.1) (pageSize a.1) (pageBase b.1) (pageSize b.1)) l

/-- The offsets of an S-space window that a published buffer may take (14 R251). -/
def windowSize (wsize kind : Nat) : Nat :=
  match kind with
  | 0 => 0x40000 | 1 => 32 * wsize | 2 => 0x148 | 3 => 0x80000 | 4 => 0x10080 | 6 => 0x10000 | _ => 0

/-- Whether a published buffer's entry is refused by itself (14 R251, R268). -/
def pubBad (part wsize : Nat) (pages : List (Word × Word)) (b : Pub) (w2 : Word) : Bool :=
  let p := b.base.toNat
  let q := b.alt.toNat
  let covered (a : Nat) : Bool := (List.range (b.len / 64)).all fun i =>
    pages.any fun e =>
      pageHit e (a % 2 ^ 48 + 64 * i) && wfld e.1 59 57 == part && (!b.strs || e.1.getLsbD 54)
  wfld w2 62 41 != 0 || b.len == 0 || b.len % 64 != 0 || p % 64 != 0 || q % 64 != 0 || ptrTag p != ptrTag q ||
    !ptrZero p || !ptrZero q || spansMeet p b.len q b.len ||
    (match ptrTag p with
      | 1 => sCore p != sCore q || sKind p != sKind q || b.strs ||
          windowSize wsize (sKind p) < sOff p + b.len || windowSize wsize (sKind p) < sOff q + b.len
      | 2 => lCol p != lCol q || b.strs || 0x100000 < lOff p + b.len || 0x100000 < lOff q + b.len
      | 3 => !covered p || !covered q
      | _ => true)

/-- Whether a list of published buffers is refused: an entry, or halves that overlap another buffer's. -/
def pubsBad (part wsize : Nat) (pages : List (Word × Word)) (l : List (Pub × Word)) : Bool :=
  l.any (fun b => pubBad part wsize pages b.1 b.2) || anyMeet (fun a b =>
    [a.1.base, a.1.alt].any fun p => [b.1.base, b.1.alt].any fun q => spansMeet p.toNat a.1.len q.toNat b.1.len) l

/-- Whether a merged-region list is refused by itself (16 R288, R289), and whether a Stratus destination, or a page that
Stratus may read, meets a region (DEDUCED, log 71); `pages` are those of the page-window and the overflow list. -/
def mergesBad (plog mlog : Nat) (pubs : List Pub) (pages : List (Word × Word)) (l : List (Word × Word)) (rs : List MergeReg) : Bool :=
  (l.any fun e =>
    wfld e.1 63 48 != 0 || wfld e.1 15 0 != 0 || wfld e.2 49 32 != 0 || wfld e.2 62 58 < mlog ||
      plog < wfld e.2 62 58 || wfld e.2 31 0 == 0 ||
      (if e.2.getLsbD 63 then
        !(wfld e.2 57 54 == 0 || wfld e.2 57 54 == 3 || wfld e.2 57 54 == 6 || wfld e.2 57 54 == 7) ||
          2 < wfld e.2 53 50
      else wfld e.2 57 50 != 0)) ||
  anyMeet (fun a b => spansMeet a.base.toNat a.pages b.base.toNat b.pages) rs ||
  (pubs.any fun p => p.strs && rs.any fun r =>
    [p.base, p.alt].any fun q => spansMeet (fAddr q) p.len (r.base.toNat * 2 ^ 16) (r.pages * 2 ^ 16)) ||
  pages.any fun e => e.1.getLsbD 63 && e.1.getLsbD 54 && rs.any fun r =>
    spansMeet (pageBase e.1) (pageSize e.1) (r.base.toNat * 2 ^ 16) (r.pages * 2 ^ 16)

/-- Whether a field entry is refused (17 R301). -/
def fieldBad (w : Word) : Bool :=
  wfld w 55 40 != 0 || wfld w 15 5 != 0 || wfld w 39 16 < 4 || wfld w 4 0 < 1 || 16 < wfld w 4 0

/-- The first index of a unit of a level (13 R225). -/
def unitStart (level layer idx : Nat) : Bool :=
  match level with
  | 0 => idx < 1024
  | 1 => idx < 1024 && idx / 32 % 2 == 0 && idx % 4 == 0
  | 2 => idx < 1024 && idx % 256 == 0
  | 3 => idx == 0
  | _ => idx == 0 && layer == 0

/-- The units of a level in (layer, index) order. -/
def unitsOf (level : Nat) : List (Nat × Nat) :=
  if 4 ≤ level then [(0, 0)]
  else (List.range 4).flatMap fun l => ((List.range 1024).filter fun i => unitStart level l i).map fun i => (l, i)

/-- Whether a partition holds every octet of a unit. -/
def Part.holdsUnit (p : Part) (level layer unit : Nat) : Bool :=
  (unitCores level layer unit).all fun c => p.octets.contains (coreOctet c)

/-- Whether a record's shape fits its partition (13 R225, 21 R333): a pinned unit, or some unit; a device group for level
5; and a contrail along a row or column whose every core, leader and followers, lies in the unit (13 R237). -/
def shapeBad (dev : Nat) (p : Part) (r : List Word) : Bool :=
  let w1 := rw r 1
  let level := wfld w1 63 61
  let pin := w1.getLsbD 60
  let lay := wfld w1 59 58
  let u := wfld w1 57 48
  let unit := if pin then u else 0
  let lead := unit + wfld w1 40 31
  let n := wfld w1 45 41
  let step := if w1.getLsbD 46 then 32 else 1
  let far := lead + step * n
  (if pin then !unitStart level lay u || !p.holdsUnit level lay u
   else !((unitsOf level).any fun q => p.holdsUnit level q.1 q.2)) ||
    (level == 5 && !((tget [] p.groups (wfld w1 15 0)).contains dev)) ||
    (w1.getLsbD 47 && (n == 0 || 1024 ≤ far || (!w1.getLsbD 46 && far / 32 != lead / 32) ||
      (List.range (n + 1)).any fun i =>
        !unitHas level (if pin then lay else 0) unit ((if pin then lay else 0) * 1024 + lead + step * i)))

/-- The core that owns a schedule entry. -/
def SchedEnt.core (e : SchedEnt) : Nat := wfld e.w0 39 38 * 1024 + wfld e.w0 37 28

/-- Whether a schedule entry is refused (14 R266): its fields, its slot, or its descriptor's fields. -/
def schedBad (slots : List Word) (e : SchedEnt) : Bool :=
  let idx := wfld e.w0 10 0
  let s := rw slots (idx + 2)
  wfld e.w0 63 62 == 3 || wfld e.w0 61 40 != 0 || wfld e.w0 26 11 != 0 || wfld (rw slots 0) 51 40 ≤ idx ||
    !slotValid (2 ^ wfld (rw slots 0) 4 0) s || slotKind s != kindCaddy ||
    (match wfld e.w0 63 62 with
      | 0 => copyBad e.w1 e.w2 e.w3
      | 1 => distBad e.w2 e.w3
      | _ => slotDescBad e.w1 e.w2 || e.w3 != 0)

/-! ### Signatures (21 R337) -/

/-- The bytes of words. -/
def wordBytes_ (l : List Word) : List Byte := (l.map fun w => leBytes 8 w.toNat).flatten

/-- The lists that a record points to, read as words and bytes. -/
structure Lists where
  image : List Byte
  slots : List Word
  sched : List Word
  pages : List Word
  overflow : List Word
  pubs : List Word
  merges : List Word
  fields : List Word
  deriving DecidableEq, Repr

/-- The signature of a record (21 R337), with the running replay level. -/
def signature (r : List Word) (l : Lists) (rlvl : BitVec 16) : Word :=
  let fmts := (chunks 2 (l.pages.length / 2) l.pages).map fun e => (rw e 1) &&& ~~~ BitVec.ofNat 64 (2 ^ 36 - 1)
  let m := sha256 l.image ++ sha256 (wordBytes_ l.slots) ++ sha256 (wordBytes_ l.sched) ++ wordBytes_ fmts ++
    wordBytes_ (l.merges ++ l.fields) ++ wordBytes_ ((r.drop 16).take 9) ++
    leBytes 1 (wfld (rw r 0) 49 49) ++ leBytes 2 rlvl.toNat
  BitVec.ofNat 64 (ofBytes ((sha256 m).take 8))

/-- The lists of a record, if all of them can be read. -/
def State.readLists (s : State) (part : Nat) (r : List Word) : Option Lists := do
  let list (i n : Nat) : Option (List Word) := if n = 0 then some [] else s.fwWords part (fAddr (rw r i)) n
  let image ← s.fwRead part (fAddr (rw r 2)) (2 * wfld (rw r 3) 31 0)
  let head ← s.fwWords part (fAddr (rw r 5)) 1
  let slots ← s.fwWords part (fAddr (rw r 5)) (2 + min 2048 (wfld (rw head 0) 51 40))
  let sched ← list 7 (4 * nCsch r)
  let pages ← list 8 (2 * nPwin r)
  let overflow ← list 9 (3 * nOvf r)
  let pubs ← list 10 (3 * nPub r)
  let merges ← list 11 (2 * nMrg r)
  let fields ← list 12 (nFld r)
  some { image := image, slots := slots, sched := sched, pages := pages, overflow := overflow, pubs := pubs,
         merges := merges, fields := fields }

/-- Pairs of a list of words. -/
def pairs (l : List Word) : List (Word × Word) := (chunks 2 (l.length / 2) l).map fun e => (rw e 0, rw e 1)

/-- The bind entry's contents that a record gives. -/
def bindOfRecord (part : Nat) (src : LaunchSrc) (r : List Word) (l : Lists) : Bind :=
  { Bind.init with
    part := part, level := wfld (rw r 1) 63 61, record := r, origin := src, slots := l.slots,
    sched := (chunks 4 (l.sched.length / 4) l.sched).map fun e => ⟨rw e 0, rw e 1, rw e 2, rw e 3⟩,
    pubs := (chunks 3 (l.pubs.length / 3) l.pubs).map fun e =>
      { base := rw e 0, alt := rw e 1, strs := (rw e 2).getLsbD 63, map := false, len := wfld (rw e 2) 39 0 },
    pages := pairs l.pages,
    overflow := (chunks 3 (l.overflow.length / 3) l.overflow).map fun e =>
      { w0 := rw e 0, w1 := rw e 1, entry := (rw e 2).setWidth 10 },
    merges := (pairs l.merges).map fun e =>
      { base := e.1.extractLsb' 16 32, reduce := e.2.getLsbD 63, qlog := wfld e.2 62 58, et := wfld e.2 57 54,
        op := wfld e.2 53 50, pages := wfld e.2 31 0, next := 1, join := 1 },
    fields := l.fields.map fun w =>
      { fkey := wfld w 63 56, win := wfld w 39 16, rnum := wfld w 4 0, startReq := false, start := none, n0 := 0,
        faulting := false, lastHalo := 0, lastBoundary := 0 },
    viewPages := wfld (rw r 13) 19 0 }

/-- Whether a pointer of a schedule entry breaks R199 for `n` bytes, as far as the bind can tell: the lines of a register
image and the accumulator slots that are held are known only when the entry runs. -/
def State.schedPtrBad (s : State) (b part : Nat) (src : Bool) (p n : Nat) : Bool :=
  if ptrTag p = 1 ∧ (sKind p = 1 ∨ sKind p = 3) then
    !ptrZero p || p % 64 != 0 || altHit (s.pubs b) p n || s.partOfCore (sCore p) != some part ||
      windowSize 16384 (sKind p) < sOff p + n
  else s.ptrBad b part src p n

/-- Whether a schedule is refused (14 R266); `b` stands for the entry that is to hold the domain. -/
def State.schedListBad (s : State) (part : Nat) (b : Bind) : Bool :=
  let i := s.freeIndex s.binds.length 64
  let s := s.modBind i fun _ => b
  b.sched.any fun e => schedBad b.slots e || s.descBad (s.schedPtrBad i part) i part e.core e

/-- The domains of a partition whose records name a region's base: bound, evicted, ended or accepted (16 R288). -/
def State.regionUsers (s : State) (part : Nat) (base : BitVec 32) : List Bind :=
  let p := s.partAt part
  (((s.binds.filter fun k => k.2.part == part && k.2.st != .free).map (·.2)) ++ p.leavers ++
    p.waiting.map (·.bind)).filter fun k => (k.region base).isSome

/-- Whether an image or list of a record is refused (13 R228, 14 R254-R268, 16 R289, 17 R301). -/
def State.listsBad (s : State) (part : Nat) (l : Lists) (b : Bind) : Bool :=
  slotsBad (s.partAt part).tokens l.slots || s.schedListBad part b || pagesBad b.pages ||
    (b.overflow.any fun i => pageBad (i.w0, i.w1)) ||
    pubsBad part (wfld (b.rec_ 13) 62 48) b.pages (b.pubs.zip ((chunks 3 (l.pubs.length / 3) l.pubs).map fun e => rw e 2)) ||
    mergesBad b.plog b.mlog b.pubs (b.pages ++ b.overflow.map fun i => (i.w0, i.w1)) (pairs l.merges) b.merges ||
    (b.merges.any fun r => (s.regionUsers part r.base).any fun k =>
      match k.region r.base with
      | some q => q.reduce != r.reduce || q.qlog != r.qlog || q.et != r.et || q.op != r.op
      | none => false) ||
    l.fields.any fieldBad

/-! ### Acceptance (21 R333, R339) -/

/-- The queue number that stands for the child queue, which takes its turn last. -/
def childQ : Nat := 16

/-- A trace as it stands in memory at TRC (21 R338, R339): its entries, if its header's TRID and SIG are the record's.
DESIGN CHOICE (log 95): every record of the replay, a child's too, is held to the header's SIG. -/
def State.traceRead (s : State) (part : Nat) (r : List Word) : Option (List (Word × Word)) :=
  let a := fAddr (rw r 26)
  if rw r 26 = 0 then none
  else
    match s.fwWords part a 4 with
    | none => none
    | some h =>
      if wfld (rw h 0) 63 32 = wfld (rw r 24) 63 32 ∧ rw h 1 = rw r 25 then
        (s.fwWords part (a + 32) (2 * wfld (rw h 0) 31 0)).map pairs
      else none

/-- The origin of a record as a trace entry holds it (21 R338): QID or the parent's task, the child bit, and SEQ. -/
def originWord (q parent seq : Nat) : Nat := if q = childQ then parent * 2 ^ 32 + 2 ^ 31 + seq else q * 2 ^ 32 + seq

/-- The origin of a trace entry. -/
def entryOrigin (e : Word × Word) : Nat := e.1.toNat % 2 ^ 48

/-- A replay as a record of an origin finds it: one that brings the trace's first entry again starts the replay over
(24 R381). -/
def Replay.from (p : Replay) (l : List (Word × Word)) (origin : Nat) : Replay :=
  if (l.head?.map entryOrigin) = some origin ∧ p.taken.contains 0 then Replay.init else p

/-- The trace's next entry for a record's origin, with its place: the first that no record has taken, if it holds the
record's SEQ (21 R333, R339). -/
def Replay.next (p : Replay) (l : List (Word × Word)) (origin : Nat) : Option (Nat × Word × Word) :=
  match l.zipIdx.find? fun e => entryOrigin e.1 / 2 ^ 31 == origin / 2 ^ 31 && !p.taken.contains e.2 with
  | some e => if entryOrigin e.1 = origin then some (e.2, e.1) else none
  | none => none

/-- The replay of a trace identifier. -/
def State.replayAt (s : State) (part id : Nat) : Replay := tget Replay.init (s.partAt part).replays id

/-- The outcome of the checks of a record: RES of a refusal (6 for a record of a replay that has ended, 21 R339), or its
accepted form. `sent` is the record as it was sent,
which its signature covers; `r` has what a child launch inherits. -/
def State.checkRecord (s : State) (part q : Nat) (src : LaunchSrc) (sent r : List Word) (parent seq : Nat)
    (status : Option Word) (core : Nat) : Nat ⊕ Accepted :=
  match s.readLists part r with
  | none => .inl 3
  | some l =>
    let b := bindOfRecord part src r l
    let rpl := (rw r 0).getLsbD 50
    let tr := s.traceRead part r
    let origin := originWord q parent seq
    let entry := tr.bind fun t => ((s.replayAt part (wfld (rw r 24) 63 32)).from t origin).next t origin
    if signature sent l s.dev.boot.rlvl ≠ rw r 25 ∨ (rpl ∧ tr.isNone) then .inl 2
    else if recordBad r || s.listsBad part l b || wfld (rw r 0) 55 53 != part || shapeBad s.dev.id (s.partAt part) r then
      .inl 3
    else if q = childQ ∧ 64 ≤ ((s.partAt part).waiting.filter (·.queue == childQ)).length then .inl 4
    else if rpl ∧ entry.isNone then .inl 7
    else if rpl ∧ ((s.replayAt part (wfld (rw r 24) 63 32)).from (tr.getD []) origin).stopped then .inl 6
    else
      .inr { bind := b, image := l.image, prio := wfld (rw r 0) 52 51, queue := q, status := status,
             statusCore := core, seq := seq, parent := parent, passed := 0, entry := if rpl then entry else none }

/-- A launch's status word in a core's scratchpad is written as a release (09 R194). -/
def State.childStatus (s : State) (core : Nat) (p v : Word) : State := s.write64 (s.visKey (s.bindOf core) p.toNat) v

/-- A record that is not bound: its outcome goes to its status word, of a child launch too; where its replay has ended, it
goes with FC 6 to the end-status word that the record names, which alone tells of an end (09 R194; 21 R334, R339). -/
def State.refuseRecord (s : State) (part : Nat) (r : List Word) (status : Option Word) (core res : Nat) : State :=
  if res = 6 then s.writeStatus part (rw r 15) (statusWord 6 6 0)
  else
    match status with
    | some p => s.childStatus core p (statusWord res 0 0)
    | none => s.writeStatus part (rw r 15) (statusWord res 0 0)

/-- An accepted record joins firmware's placement lists, and a replayed one takes its trace entry. -/
def Part.accept (p : Part) (a : Accepted) : Part :=
  let id := wfld (rw a.bind.record 24) 63 32
  { p with
    waiting := p.waiting ++ [a]
    replays := match a.entry with
      | none => p.replays
      | some e =>
        let q := tget Replay.init p.replays id
        let q := if q.taken.contains e.1 then Replay.init else q
        tset p.replays id { q with taken := q.taken ++ [e.1] } }

/-- The HBM words that firmware reads for a record's lists and, of a replayed one, its trace, by key. -/
def State.recordKeys (s : State) (part : Nat) (r : List Word) : List (Nat × Nat) :=
  let at_ (i n : Nat) : List (Nat × Nat) := s.fwKeys part (fAddr (rw r i)) n
  let slots := 16 + 8 * min 2048 (wfld (rw ((s.fwWords part (fAddr (rw r 5)) 1).getD []) 0) 51 40)
  at_ 2 (2 * wfld (rw r 3) 31 0) ++ at_ 5 slots ++ at_ 7 (32 * nCsch r) ++ at_ 8 (16 * nPwin r) ++ at_ 9 (24 * nOvf r) ++
    at_ 10 (24 * nPub r) ++ at_ 11 (16 * nMrg r) ++ at_ 12 (8 * nFld r) ++
    (if (rw r 0).getLsbD 50 then at_ 26 (32 + 16 * ((s.traceRead part r).getD []).length) else [])

/-- A record is checked, and joins firmware's placement lists or is refused. -/
def State.takeRecord (s : State) (part q : Nat) (src : LaunchSrc) (sent r : List Word) (parent seq : Nat)
    (status : Option Word) (core : Nat) : State :=
  match s.checkRecord part q src sent r parent seq status core with
  | .inl res => s.refuseRecord part r status core res
  | .inr a => s.modPart part fun p => p.accept a

/-- A child launch's record, with TRID, TRC and RPL of its parent (21 R338). -/
def HeldLaunch.record (h : HeldLaunch) : List Word :=
  ((h.words.modify 0 fun w => (w &&& ~~~ ((1 : Word) <<< 50)) ||| (boolWord h.rpl <<< 50)).modify 24 fun w =>
    pack [(h.trid, 32), (wfld w 31 0, 0)]).modify 26 fun _ => h.trc

/-- Whether a queue holds a record before its tail, counted modulo 2^32: one beyond the tail is never read (21 R332). -/
def LQueue.waits (q : LQueue) : Bool :=
  let n := (q.tail + 2 ^ 32 - q.head) % 2 ^ 32
  0 < n && n < 2 ^ 31

/-- Whether a partition's records are accepted: only in RUN (22 R358), and not in a reset. -/
def Part.accepts (p : Part) : Bool := p.tdisp == .run && p.reset.isNone

/-- Firmware reads the record at a mapped queue's head, or the one that a core's interface holds (21 R332, R333; 09
R194). Records are accepted only in RUN (22 R358). DESIGN CHOICE (log 98): a launch frees its place in the interface when
firmware reads its record. -/
def State.acceptRecord (s : State) (part : Nat) (src : LaunchSrc) : State :=
  match src with
  | .queue qid =>
    match s.queueAt part qid with
    | none => s
    | some q =>
      if (s.partAt part).accepts = false ∨ s.mapped part qid = false ∨ q.waits = false then s
      else
        match s.fwWords part (fAddr q.base + 256 * (q.head % 2 ^ q.log)) 32 with
        | none => s
        | some r =>
          let s := s.noteRead (s.fwKeys part (fAddr q.base + 256 * (q.head % 2 ^ q.log)) 256 ++ s.recordKeys part r)
          let s := s.modQueue part qid fun q => { q with head := (q.head + 1) % 2 ^ 32, taken := q.taken + 1 }
          s.takeRecord part qid src r r 0 q.taken none 0
  | .child c =>
    match (s.core c).launches with
    | [] => s
    | h :: rest =>
      let p := (s.partOfCore c).getD 0
      if (s.partAt p).accepts = false then s
      else
        let n := tget 0 (s.partAt p).childCount h.parent
        let s := (s.noteRead (s.recordKeys p h.record)).modCore c fun k => { k with launches := rest }
        let s := s.modPart p fun q => { q with childCount := tset q.childCount h.parent (n + 1) }
        s.takeRecord p childQ src h.words h.record h.parent n (some h.status) c

/-! ### Placement (21 R335, R336) -/

/-- Wheel positions that a map gives owners. -/
def wheelUse (b : Bind) : List Nat := (List.range 16).filter fun i => wfld b.wheelMap (4 * i + 3) (4 * i) != 8

/-- Whether a domain at a unit collides with one that is bound (13 R236, 21 R335 rule 4): cores, wheel positions or
accumulator slots of an octet, or reservations. -/
def bindsMeet (a b : Bind) : Bool :=
  let ca := a.cores
  let cb := b.cores
  let oa := (ca.map coreOctet).dedup
  let share := oa.any fun o => cb.any fun c => coreOctet c == o
  (ca.any cb.contains) ||
    (share && ((wheelUse a).any (wheelUse b).contains ||
      wfld (a.rec_ 13) 47 40 &&& wfld (b.rec_ 13) 47 40 != 0)) || timetablesMeet a b

/-- The entries that are bound: all but the free ones and those of evicted domains. -/
def State.boundEntries (s : State) : List (Nat × Bind) := s.binds.filter fun k => k.1 < 64 && k.2.st != .free

/-- Whether a record can be placed at a unit: the partition holds it, and it collides with nothing bound and no refresh
window (13 R236). -/
def State.placeOk (s : State) (b : Bind) (layer unit : Nat) : Bool :=
  let k := { b with layer := layer, unit := unit }
  (s.partAt b.part).holdsUnit b.level layer unit && !b.meetsRefresh && !(s.boundEntries.any fun q => bindsMeet k q.2)


/-- The unit at which a record would be placed: its pin, or its replay's entry, or the lowest free one. -/
def State.unitFor (s : State) (a : Accepted) : Option (Nat × Nat) :=
  let r := a.bind.record
  let w1 := rw r 1
  if (rw r 0).getLsbD 50 then
    match a.entry with
    | none => none
    | some e =>
      if e.1 = (s.replayAt a.bind.part (wfld (rw r 24) 63 32)).pos ∧
          s.placeOk a.bind (wfld e.2.2 60 59) (wfld e.2.2 58 49) then
        some (wfld e.2.2 60 59, wfld e.2.2 58 49)
      else none
  else if w1.getLsbD 60 then
    if s.placeOk a.bind (wfld w1 59 58) (wfld w1 57 48) then some (wfld w1 59 58, wfld w1 57 48) else none
  else (unitsOf a.bind.level).find? fun u => s.placeOk a.bind u.1 u.2

/-- A turn order: from `next` on, then around. -/
def turnKey (next i : Nat) : Nat := if next ≤ i then i else i + 1000

/-- What firmware considers for a place: the head record of a queue, or an evicted domain that is asked to resume, which is
rebound under 21 R335 (22 R346). -/
inductive Candidate
  | record (a : Accepted)
  | evicted (e : Evicted)
  deriving DecidableEq, Repr

/-- A candidate's bind record: that of the record, or the one under which an evicted domain waits. -/
def State.candBind (s : State) : Candidate → Bind
  | .record a => a.bind
  | .evicted e => s.bindAt e.index

/-- The priority a candidate's record was written with. -/
def State.candPrio (s : State) : Candidate → Nat
  | .record a => a.prio
  | .evicted e => wfld ((s.bindAt e.index).rec_ 0) 52 51

/-- The turns in which a candidate was passed over. -/
def Candidate.passed : Candidate → Nat
  | .record a => a.passed
  | .evicted e => e.passed

/-- The priority at which a candidate is considered: 3 once it was passed over in 256 turns (21 R335 rule 5). -/
def State.candRank (s : State) (c : Candidate) : Nat := if 256 ≤ c.passed then 3 else s.candPrio c

/-- A candidate's turn within its partition: the queues in turn with the child queue last (21 R335 rule 3). DEDUCED (log 53):
a partition's evicted domains come before its queues, in the order of their eviction. -/
def State.candTurn (s : State) : Candidate → Nat
  | .record a => turnKey (s.partAt a.bind.part).turn a.queue + 1
  | .evicted _ => 0

/-- Whether firmware considers one candidate no later than another: priority, then partitions in turn, then the turn within
a partition (21 R335 rules 1-3). -/
def State.candBefore (s : State) (x y : Candidate) : Bool :=
  s.candRank x > s.candRank y || (s.candRank x == s.candRank y &&
    let px := turnKey s.dev.nextPart (s.candBind x).part
    let py := turnKey s.dev.nextPart (s.candBind y).part
    px < py || (px == py && s.candTurn x ≤ s.candTurn y))

/-- A partition's head records: the first of each mapped queue and of the child queue. -/
def State.heads (s : State) (n : Nat) (p : Part) : List Accepted :=
  ((p.waiting.zipIdx.filter fun a => !((p.waiting.take a.2).any fun b => b.queue == a.1.queue)).map (·.1)).filter
    fun a => a.queue == childQ || s.mapped n a.queue

/-- A partition's evicted domains that are asked to resume. -/
def State.resumers (s : State) (p : Part) : List Evicted :=
  p.eviction.filter fun e => ((s.bindAt e.index).freeze.map (·.resumeReq)).getD false

/-- All candidates in the order in which firmware considers them (21 R335, 22 R346). -/
def State.candidates (s : State) : List Candidate :=
  (s.parts.flatMap fun p => (s.resumers p.2).map .evicted ++ (s.heads p.1 p.2).map .record).mergeSort s.candBefore

/-- The next task identifier of a partition: its counter from 1, without 0 and without those still bound. -/
def nextTask (busy : List Nat) : Nat → Nat → Nat
  | 0, t => t
  | n + 1, t =>
    let t := (t + 1) % 65536
    if t = 0 ∨ busy.contains t then nextTask busy n t else t

/-- The merge that a domain takes part in first: the next of its regions' groups (16 R291). -/
def State.mjoin (s : State) (b : Bind) : Nat :=
  (b.merges.map fun r => tget 0 (s.partAt b.part).mergeCount r.base.toNat + 1).foldl max 1

/-- A trace entry of a bind (21 R338). -/
def traceEntry (task origin level layer unit mjoin : Nat) : Word × Word :=
  (pack [(task, 48), (origin, 0)], pack [(level, 61), (layer, 59), (unit, 49), (mjoin % 2 ^ 32, 0)])

/-- The merges at which a domain joins the groups of its regions, in the order of its list. -/
def Bind.joinList (k : Bind) : List Nat := k.merges.map (·.join)

/-- A trace is opened or extended by a bind (21 R338), in memory: the header's TRID, count and SIG and its two zero words,
and the entry. Firmware keeps the merges at which the bound domain joins its groups (log 91). -/
def State.traceBind (s : State) (part : Nat) (r : List Word) (e : Word × Word) (joins : List Nat) : State × Option Nat :=
  let trc := rw r 26
  let id := wfld (rw r 24) 63 32
  if trc = 0 ∨ (rw r 0).getLsbD 50 then (s, none)
  else
    let t := (tfind (s.partAt part).traces id).getD { sig := rw r 25, cap := wfld (rw r 27) 31 0, ptr := trc, count := 0 }
    if t.cap ≤ t.count then (s.modPart part fun p => { p with traces := tset p.traces id t }, none)
    else
      let a := fAddr t.ptr
      let at_ := a + 32 + 16 * t.count
      let s := s.fwWrite part a (pack [(id, 32), (t.count + 1, 0)])
      let s := s.fwWrite part (a + 8) t.sig
      let s := s.fwWrite part (a + 16) 0
      let s := s.fwWrite part (a + 24) 0
      let s := s.fwWrite part at_ e.1
      let s := s.fwWrite part (at_ + 8) e.2
      (s.modPart part fun p =>
        { p with traces := tset p.traces id { t with count := t.count + 1 }, joins := tset p.joins at_ joins }, some at_)

/-- The octets' wheel tables take a domain's map (13 R231). -/
def State.loadWheel (s : State) (b : Bind) : State :=
  (b.cores.map coreOctet).dedup.foldl (fun s o => s.modOctet o fun k =>
    { k with wheel := Vector.ofFn fun i =>
        let w := wfld b.wheelMap (4 * i.val + 3) (4 * i.val)
        if w ≠ 8 then w else vget 8 k.wheel i.val }) s

/-- The merges at which a replayed record joins its regions' groups: MJOIN of its entry. DESIGN CHOICE (log 91): a task of
several groups joins each where it did in the traced run, as far as firmware still knows that; MJOIN is the greatest. -/
def State.replayJoins (s : State) (a : Accepted) (e : Nat × Word × Word) : List Nat :=
  let l := tget [] (s.partAt a.bind.part).joins (fAddr (rw a.bind.record 26) + 32 + 16 * e.1)
  let mj := wfld e.2.2 31 0
  if l.length = a.bind.merges.length ∧ l.foldl max 1 = mj then l else a.bind.merges.map fun _ => mj

/-- A replayed record ends its replay where its group has already applied the merge it would join at (21 R339). -/
def State.replayLate (s : State) (a : Accepted) : Bool :=
  a.entry.any fun e => ((a.bind.merges.zip (s.replayJoins a e)).any fun r =>
    decide (r.2 < s.nextMerge a.bind.part r.1.base))

/-- A replay ends (21 R339): its records that wait are not bound, and their status says so. -/
def State.endReplay (s : State) (part id : Nat) : State :=
  let mine (a : Accepted) : Bool := a.entry.isSome && wfld (rw a.bind.record 24) 63 32 == id
  let l := (s.partAt part).waiting.filter mine
  let s := s.modPart part fun p =>
    { p with waiting := p.waiting.filter fun a => !mine a
             replays := tset p.replays id { tget Replay.init p.replays id with stopped := true } }
  l.foldl (fun s a => s.refuseRecord part a.bind.record a.status a.statusCore 6) s

/-- The bind record of an accepted record at a unit, with its task: a replayed one has its entry's, and joins its groups at
the entry's merge (21 R336, R339). -/
def State.bindOf_ (s : State) (a : Accepted) (layer unit : Nat) : Bind :=
  let b := a.bind
  let busy := (s.binds.filter fun k => k.2.part == b.part && k.2.st != .free).map (·.2.task)
  let mj := (a.entry.map fun e => wfld e.2.2 31 0).getD (s.mjoin b)
  { b with
    st := BindSt.pending, layer := layer, unit := unit, mjoin := mj, boundAt := s.ccyc,
    task := (a.entry.map fun e => wfld e.2.1 63 48).getD (nextTask busy 65536 (s.partAt b.part).taskCtr),
    merges := match a.entry with
      | some e => (b.merges.zip (s.replayJoins a e)).map fun r => { r.1 with join := r.2 }
      | none => b.merges.map fun r => { r with join := s.nextMerge b.part r.base } }

/-- A partition after a bind: the record waits no longer, the task counter and the turn advance, the task has launched
no child (21 R338), and a replay has bound one more entry (21 R335, R339). -/
def Part.bound (p : Part) (a : Accepted) (task : Nat) : Part :=
  let id := wfld (rw a.bind.record 24) 63 32
  { p with
    waiting := p.waiting.erase a
    taskCtr := if a.entry.isSome then p.taskCtr else task
    childCount := tdel p.childCount task
    turn := a.queue + 1
    replays := if a.entry.isSome then p.replays.map fun t => if t.1 = id then (t.1, { t.2 with pos := t.2.pos + 1 }) else t
      else p.replays }

/-- The state with a domain bound under entry `i` as its start will leave it for the checks of R199: the record's register
image lines, and the accumulator slots of ACCM (08 R165, 21 R329). -/
def State.asBound (s : State) (i : Nat) (k : Bind) : State :=
  let accm := wfld (k.rec_ 13) 47 40
  let s := s.modBind i fun _ => k
  let s := k.cores.foldl (fun s c => s.modCore c fun q => { q with ctl := { q.ctl with wsize := wfld (k.rec_ 13) 62 48 } }) s
  (k.cores.map coreOctet).dedup.foldl (fun s o => s.modOctet o fun q =>
    { q with accs := Vector.ofFn fun a =>
        let p := vget Acc.init q.accs a.val
        if bitAt accm a.val then { p with owner := some i } else p }) s

/-- Whether a descriptor of a domain's schedule breaks R199 to R202 as the domain is bound (14 R266). -/
def State.schedMisfit (s : State) (k : Bind) : Bool :=
  if k.sched.isEmpty then false
  else
    let i := s.freeIndex 64 0
    let t := s.asBound i k
    k.sched.any fun e => t.descBad (t.ptrBad i k.part) i k.part e.core e

/-- Whether dispatch refuses a domain at the unit it would be bound to: a schedule's stream lies outside it or a descriptor
breaks R199 to R202 there (14 R266), or the map of a domain of one core names another position (13 R231). -/
def State.misfit (s : State) (a : Accepted) (layer unit : Nat) : Bool :=
  let b := a.bind
  (b.sched.any fun e => !unitHas b.level layer unit e.core) ||
    (b.level == 0 && (wheelUse b).any fun i => wfld b.wheelMap (4 * i + 3) (4 * i) != coreOpos unit) ||
    s.schedMisfit (s.bindOf_ a layer unit)

/-- An accepted record is bound at a unit: a pending bind record, its image, its wheel positions, its trace entry and its
status (21 R334-R338). -/
def State.bindRecord (s : State) (a : Accepted) (layer unit : Nat) : State :=
  let b := a.bind
  let i := s.freeIndex 64 0
  let k := s.bindOf_ a layer unit
  let s := (s.modPart b.part fun p => p.bound a k.task).modDev fun d => { d with nextPart := b.part + 1 }
  let r := s.traceBind b.part b.record
    (traceEntry k.task (originWord a.queue a.parent a.seq) b.level layer unit k.mjoin) k.joinList
  let s := r.1.modBind i fun _ => { k with traceAt := r.2 }
  let s : State := { s with mem := s.mem.write (imgKey i 0) a.image }
  let s := s.loadWheel k
  match a.status with
  | some w => s.childStatus a.statusCore w (statusWord 1 0 k.task)
  | none => s.writeStatus b.part (rw b.record 15) (statusWord 1 0 k.task)

/-- Whether a core is free to be bound: no domain holds it, and the counters of its previous entry are zero (22 R356). -/
def State.coreFree (s : State) (c : Nat) : Bool :=
  let k := s.core c
  k.bound.isNone && match k.last with
    | some i => s.caddyCount i == 0 && s.cirrusCount i == 0
    | none => true

/-- The unit at which a candidate can be placed: an evicted domain resumes only on the unit it left (22 R346). -/
def State.seatOf (s : State) : Candidate → Option (Nat × Nat)
  | .record a => s.unitFor a
  | .evicted e =>
    let k := s.bindAt e.index
    if s.placeOk k k.layer k.unit && k.cores.all s.coreFree then some (k.layer, k.unit) else none

/-- The units at which a record could be placed if nothing collided: its pin, or its replay's entry while no earlier entry
waits (21 R339), or every one of its level. -/
def State.recordUnits (s : State) (a : Accepted) : List (Nat × Nat) :=
  let r := a.bind.record
  let w1 := rw r 1
  if (rw r 0).getLsbD 50 then
    match a.entry with
    | some e => if e.1 = (s.replayAt a.bind.part (wfld (rw r 24) 63 32)).pos then [(wfld e.2.2 60 59, wfld e.2.2 58 49)] else []
    | none => []
  else if w1.getLsbD 60 then [(wfld w1 59 58, wfld w1 57 48)]
  else unitsOf a.bind.level

/-- The units of a candidate that its partition holds. -/
def State.seatsOf (s : State) (c : Candidate) : List (Nat × Nat) :=
  let k := s.candBind c
  (match c with
    | .record a => s.recordUnits a
    | .evicted _ => [(k.layer, k.unit)]).filter fun u => (s.partAt k.part).holdsUnit k.level u.1 u.2

/-- The domains that a candidate of PRIO 3 displaces (22 R341): those that it collides with at a unit of its partition, if
all are of PRIO 0 or 1, in increasing PRIO and then decreasing task identifier. -/
def State.victims (s : State) (c : Candidate) : List Nat :=
  let prioOf (k : Bind) : Nat := wfld (k.rec_ 0) 52 51
  let meet (u : Nat × Nat) : List (Nat × Bind) :=
    s.boundEntries.filter fun q => bindsMeet { s.candBind c with layer := u.1, unit := u.2 } q.2
  match (s.seatsOf c).find? fun u => (meet u).all fun q => prioOf q.2 ≤ 1 with
  | none => []
  | some u =>
    ((meet u).mergeSort fun x y =>
      prioOf x.2 < prioOf y.2 || (prioOf x.2 == prioOf y.2 && y.2.task ≤ x.2.task)).map (·.1)

/-- A candidate that firmware considered and did not place counts one more turn (21 R335 rules 4, 5). -/
def State.countPass (s : State) (c : Candidate) : State :=
  s.modPart (s.candBind c).part fun p =>
    match c with
    | .record a => { p with waiting := p.waiting.map fun b => if b = a then { b with passed := b.passed + 1 } else b }
    | .evicted e => { p with eviction := p.eviction.map fun b => if b.index = e.index then { b with passed := b.passed + 1 } else b }

/-- A candidate is passed over; one written with PRIO 3 that collides at every unit asks for pre-emptions (22 R341). -/
def State.passOver (s : State) (c : Candidate) : State :=
  let vs := if s.candPrio c = 3 ∧ s.seatOf c = none then s.victims c else []
  vs.foldl (fun s b => s.requestPreempt b) (s.countPass c)

/-- A record is bound at a unit, or refused there, or ends its replay (21 R336, R339). -/
def State.seatRecord (s : State) (a : Accepted) (u : Nat × Nat) : State :=
  if s.replayLate a then s.endReplay a.bind.part (wfld (rw a.bind.record 24) 63 32)
  else if s.misfit a u.1 u.2 then
    (s.modPart a.bind.part fun p => { p with waiting := p.waiting.erase a }).refuseRecord
      a.bind.part a.bind.record a.status a.statusCore 3
  else s.bindRecord a u.1 u.2

/-- A candidate takes its place; an evicted domain takes its partition's turn as a record does. -/
def State.seat (s : State) (c : Candidate) (u : Nat × Nat) : State :=
  match c with
  | .record a => s.seatRecord a u
  | .evicted e => (s.rebind e (s.freeIndex 64 0)).modDev fun d => { d with nextPart := (s.bindAt e.index).part + 1 }

/-- Firmware places the first candidate that can be placed, and passes over those before it; where no entry is free, none
can be (21 R335, 22 R346). -/
def State.place (s : State) : State :=
  let l := s.candidates
  let first := if 64 ≤ s.freeIndex 64 0 then none else l.findIdx? fun c => (s.seatOf c).isSome
  match first with
  | none => l.foldl (fun s c => s.passOver c) s
  | some i =>
    match l[i]?.bind fun c => (s.seatOf c).map fun u => (c, u) with
    | none => s
    | some q => (l.take i).foldl (fun s c => s.passOver c) (s.seat q.1 q.2)

/-! ### Dispatch (13 R226, 21 R336; 01 R14; 08 R165; 13 R237) -/

/-- A stream of a kernel at m:0. -/
def startStream (image : List Byte) (x : Bool) (tvec : BitVec 32) (dbg follows : Bool) : Stream :=
  { Stream.init with
    run := .due, pc := Config.startPc image x, traps := { TrapRegs.init with tvec := tvec, dbg := dbg },
    follows := follows }

/-- The hop of a core in a record's contrail: 0 for its leader, none outside it (13 R237). -/
def contrailHop (k : Bind) (c : Nat) : Option Nat :=
  let w1 := k.rec_ 1
  let lead := k.layer * 1024 + k.unit + wfld w1 40 31
  let n := wfld w1 45 41
  if !w1.getLsbD 47 then none
  else
    let step := if w1.getLsbD 46 then 32 else 1
    if c < lead ∨ (c - lead) % step ≠ 0 ∨ n < (c - lead) / step then none else some ((c - lead) / step)

/-- The control registers of a core at the start of a kernel (21 R329). -/
def startCtl (k : Bind) (c : Nat) : Ctl :=
  let hop := contrailHop k c
  { Ctl.init with
    wsize := wfld (k.rec_ 13) 62 48, wbase := BitVec.ofNat 32 (c * 2 ^ 20 + wfld (k.rec_ 13) 39 20),
    gseed := k.rec_ 23, gstrm := (k.rec_ 24).setWidth 16,
    role := match hop with | none => 0 | some 0 => 1 | some _ => 2,
    dir := match hop with | some (_ + 1) => (if (k.rec_ 1).getLsbD 46 then 2 else 0) | _ => 0,
    hop := hop.getD 0 }

/-- A core as its domain starts on it: registers zero but for parameters and the pointers of 01 R14; its network
interface keeps what it holds. -/
def Core.begin_ (q : Core) (k : Bind) (b c : Nat) (image : List Byte) : Core :=
  let dbg := (k.rec_ 0).getLsbD 49
  let f := 1 ≤ (contrailHop k c).getD 0
  { Core.init with
    regs := { Regs.init with
      g := Vector.ofFn fun i => if i.val = 0 then 0 else k.rec_ (15 + i.val)
      a := Vector.ofFn fun i =>
        if i.val = 0 then BitVec.ofNat 64 (sPtr c 0 0) else if i.val = 1 then BitVec.ofNat 64 (lPtr c 0) else 0 },
    sa := startStream image false ((k.rec_ 4).setWidth 32) dbg f,
    sx := startStream image true ((k.rec_ 4).extractLsb' 32 32) dbg f,
    ctl := startCtl k c, sendBuf := q.sendBuf, launches := q.launches, bound := some b, last := some b }

/-- An octet as a domain starts: its cores' claims go, and its accumulator slots are zero and given to it (08 R165). -/
def State.giveAccs (s : State) (k : Bind) (b o : Nat) : State :=
  let cores := k.cores
  let accm := wfld (k.rec_ 13) 47 40
  let s := s.modOctet o fun q => q.dropClaims cores
  ((List.range 8).filter (bitAt accm)).foldl (fun s a =>
    (s.zeroAcc o a).modOctet o fun q => { q with accs := vput q.accs a { Acc.init with owner := some b } }) s

/-- What a kernel start clears of a core's memory: its arrival tags (06 R123) and its stage window (06 R130). -/
def startRanges (c : Nat) : List (Nat × Nat) := [(tagKey c 0, 2 ^ 12), (ringKey c 0, 0x10080)]

/-- Memory ranges become zero, with fresh checks. -/
def State.zeroRanges (s : State) (rs : List (Nat × Nat)) : State :=
  { s with mem := s.mem.filter fun c => !inRanges rs c.1, ecc := s.ecc.filter fun q => !inRanges rs (8 * q.1) }

/-- A domain's merged regions as it starts: it joins each group at the next merge, unless it is replayed (16 R291). -/
def State.joinMerges (s : State) (k : Bind) : Bind :=
  if (k.rec_ 0).getLsbD 50 then k
  else
    { k with mjoin := s.mjoin k, merges := k.merges.map fun r => { r with join := s.nextMerge k.part r.base } }

/-- The trace entry of a domain takes the merge it joins at, where that has changed since the bind (21 R338); `j` is the
domain as it starts. -/
def State.traceJoin (s : State) (k j : Bind) : State :=
  match k.traceAt with
  | some a =>
    let s := s.modPart k.part fun p => { p with joins := tset p.joins a j.joinList }
    if j.mjoin = k.mjoin then s else s.fwWrite k.part (a + 8) (traceEntry 0 0 k.level k.layer k.unit j.mjoin).2
  | none => s

/-- Dispatch starts a pending entry at this chip mark, if it was pending by the end of the cycle before, unless its cores
collide with a domain's (21 R336) or work of their previous entry is in flight (22 R356). -/
def State.startDomain (s : State) (b : Nat) : State :=
  let k := s.bindAt b
  let cores := k.cores
  if k.st ≠ .pending ∨ s.ccyc ≤ k.boundAt ∨ cores.any (fun c => !s.coreFree c) then s
  else
    let image := s.mem.block (imgKey b 0) (2 * k.klen)
    let s := cores.foldl (fun s c => s.modCore c fun q => q.begin_ k b c image) s
    let s := s.zeroRanges (cores.flatMap startRanges)
    let s := (cores.map coreOctet).dedup.foldl (fun s o => s.giveAccs k b o) s
    let j := s.joinMerges k
    (s.traceJoin k j).modBind b fun _ => { j with st := .running, base := s.ccyc, lastMark := 0 }

/-! ### Chip marks (13 R226, R245; 24 R375) -/

/-- A wavelength is removed from a channel (24 R375). -/
def State.removeWave (s : State) (q : Nat × Nat) : State :=
  s.modDev fun d => { d with wavelengths := tset d.wavelengths q.1 ((tget [] d.wavelengths q.1).insert q.2) }

/-- Whether a channel is left with fewer than 24 live wavelengths. -/
def State.channelFails (s : State) : Bool := s.dev.wavelengths.any fun w => channelWaves < w.2.length + 24

/-- The clock takes its requested count, and a request made in the mark's own cycle waits for the next mark (13 R245). -/
def Clock.take (k : Clock) : Clock :=
  let next := k.late.getD k.next
  if k.next = k.n then { k with next := next, late := none }
  else { n := k.next, next := next, steps := (k.steps + 1) % 2 ^ 32, late := none }

/-- Whether a chip mark has not been taken in this cycle. -/
def State.chipMarkDue (s : State) : Bool := s.ccyc % 2 ^ Config.cmlog == 0 && s.dev.lastChip != s.ccyc + 1

/-- Whether the clock step of a chip mark of this cycle has not been made: it comes after the words of the cycle (13
R245). -/
def State.clockDue (s : State) : Bool := s.ccyc % 2 ^ Config.cmlog == 0 && s.dev.lastClock != s.ccyc + 1

end Sys2Proof.Machine
end

