-- ==== Sys2Proof/Machine/Tenancy.lean ====
section
/-!
DEFINITION. Partitions and their interfaces (22 R354-R360): creation and reset, the TDISP states, keys, and what the
virtual machine is told.
-/

namespace Sys2Proof.Machine

/-- Whether the module serves requests: firmware runs, and neither has boot failed nor is the module leaving service (24
R365, R367, R379). -/
def State.ready (s : State) : Bool := s.dev.boot.phase == 5 && s.dev.boot.leaving.isNone

/-! ### Creation (22 R354) -/

/-- The physical bytes of a page of HBM. -/
def hbmSpan (e : Word × Word) : Nat × Nat := (wfld e.2 35 0 * 2 ^ 16, pageSize e.1)

/-- Whether two maps share a byte of HBM. -/
def mapsMeet (a b : List (Word × Word)) : Bool :=
  let hbm (l : List (Word × Word)) : List (Nat × Nat) := (l.filter fun e => e.1.getLsbD 63 && !e.1.getLsbD 60).map hbmSpan
  (hbm a).any fun x => (hbm b).any fun y => spansMeet x.1 x.2 y.1 y.2

/-- The token slots of a configuration, of all four classes (22 R355). -/
def cfgSlots (c : PartCfg) : List Nat := c.msgToken :: c.ctlToken :: c.reportToken :: c.tokens

/-- The token slots of a partition. -/
def Part.slots (p : Part) : List Nat := p.msgToken :: p.ctlToken :: p.reportToken :: p.tokens

/-- Whether a configuration reserves what every class needs: a token slot of its own, of the 32 of a revolution, and four
buffer slots at every router (13 R232, 22 R355). -/
def cfgReserves (c : PartCfg) : Bool :=
  !c.tokens.isEmpty && (cfgSlots c).all (· < 32) && (cfgSlots c).dedup.length == (cfgSlots c).length && 4 ≤ c.buffers

/-- Whether a partition can be created with a configuration: its octets exist, its classes have their slots, and no other
partition owns one of its octets, a byte of its pages or one of its token slots. -/
def State.cfgOk (s : State) (part : Nat) (c : PartCfg) : Bool :=
  part < 8 && !(s.partAt part).present && c.octets.all (· < 512) && cfgReserves c && !pagesBad c.pages &&
    c.pages.all (fun e => wfld e.1 59 57 == part) &&
    s.parts.all fun p => p.1 == part || !p.2.present ||
      (!(p.2.octets.any c.octets.contains) && !(p.2.slots.any (cfgSlots c).contains) && !mapsMeet p.2.pages c.pages)

/-- Firmware creates a partition. -/
def State.createPart (s : State) (part : Nat) (c : PartCfg) : State :=
  if s.ready && s.cfgOk part c then
    s.modPart part fun _ =>
      { Part.init with
        present := true, octets := c.octets, pages := c.pages, tokens := c.tokens, msgToken := c.msgToken,
        ctlToken := c.ctlToken, reportToken := c.reportToken, buffers := c.buffers, groups := c.groups,
        modes := c.modes }
  else s

/-- Firmware creates the partition that `cur` names (22 R354). -/
def execPartitionCreate (cfg : PartCfg) (s : State) : Host.Outcome State Fault Refusal :=
  if s.cur.part < 8 then .next (s.createPart s.cur.part cfg) else .fault .noSuchUnit

/-! ### Reset (22 R357) -/

/-- The cores of an octet. -/
def octetCores (o : Nat) : List Nat := (List.range 8).map (octetCore o)

/-- What a reset takes away: cores, octets, bind entries, transfers, memory ranges and the partition. -/
structure Doomed where
  part : Nat
  cores : List Nat
  octets : List Nat
  binds : List Nat
  xfers : List Nat
  ranges : List (Nat × Nat)
  deriving DecidableEq, Repr

/-- What a partition's reset takes away. -/
def State.doomed (s : State) (part : Nat) : Doomed :=
  let octets := (s.partAt part).octets
  let cores := octets.flatMap octetCores
  { part := part, cores := cores, octets := octets,
    binds := (s.binds.filter fun k => k.2.part == part && k.2.st != .free).map (·.1),
    xfers := (s.xfers.filter (·.part == part)).map (·.id),
    ranges := cores.flatMap (fun c => [(spKey c 0, 0x100000), (tagKey c 0, 4096), (ringKey c 0, 0x100000), (colKey c 0, 0x100000)]) ++
      octets.flatMap fun o => [(accKey o 0, 2 ^ 19), (slotKey o 0 0, 2 ^ 21)] }

/-- Whether an event of the agenda belongs to what a reset takes away. -/
def Ev.lost (d : Doomed) : Ev → Bool
  | .reg c _ _ _ | .vec c _ _ _ _ _ | .ctl c _ _ | .win c _ | .store c _ _ | .atomic c _ _ _ _ _ _ _ _ | .rcvp c _
  | .epnt c _ | .epntSt c _ | .snapFlip c _ _ | .fset c _ _ | .sitePut c _ | .tileStatus c | .ctxLine c _
  | .ctxFill c _ | .ctxSave c _ | .ctxLand c _ _ _ | .ctxLoad c _ | .ctxSet c _ _ _ => d.cores.contains c
  | .claim o _ _ | .tag o _ _ | .accCfg o _ _ _ _ _ | .accZero o _ _ | .fillRead o _ _ _ _ | .fillDone o _
  | .mtrRead o _ _ _ _ | .mtrDone o _ | .blockStep o _ _ | .mmaRead o _ | .mmaWrite o _ | .mwbSnap o _ _ _ _ _ _ _ _ _
  | .mwbLand o _ _ _ => d.octets.contains o
  | .beatRead x _ | .lateRead x _ | .beatLand x _ _ _ _ => d.xfers.contains x
  | .flip b _ => d.binds.contains b
  | .mirror p _ _ => p == d.part
  | .stratus k => k.part == d.part
  | .release key _ => inRanges d.ranges key

/-- A partition's reset is asked for: its steps follow in the next cycles. -/
def State.askReset (s : State) (part : Nat) : State :=
  if (s.partAt part).present && (s.partAt part).reset.isNone then
    s.modPart part fun p => { p with reset := some (s.ccyc, false) }
  else s

/-- A core stops: it is no domain's, and what its network interface holds is discarded. -/
def Core.halted (k : Core) : Core := { k with bound := none, sendBuf := [], launches := [] }

/-- Steps 1 to 3 of a reset (22 R357), in the cycle after the request: its domains, sequencers and fields stop, its
packets are discarded and its transfers abandoned, its running collectives send fault, and its keys are erased. Other
partitions are untouched. -/
def State.stopPart (s : State) (part : Nat) : State :=
  let s := (s.runningColls part).foldl (fun s k => s.quitColl k) s
  let d := s.doomed part
  let s : State := { s with
    cores := s.cores.map fun k => if d.cores.contains k.1 then (k.1, k.2.halted) else k
    binds := s.binds.filter fun k => k.2.part != part
    xfers := s.xfers.filter (·.part != part)
    colls := s.colls.filter fun k => k.cmd.part != part
    net := s.net.filter (·.part != part)
    agenda := s.agenda.filter fun e => !e.ev.lost d }
  s.modPart part fun p =>
    { p with reset := some (s.ccyc, true), keys := [], gcm := 0, groupKeys := [], waiting := [], eviction := [],
             leavers := [] }

/-- A failure for which the module leaves service shows once no partition is left (24 R375, R379). -/
def State.leave (s : State) : State :=
  match s.dev.boot.leaving with
  | some code =>
    if !s.parts.any (·.2.present) then
      s.modDev fun d => { d with boot := { d.boot with phase := 15, fail := code, leaving := none } }
    else s
  | none => s

/-- Steps 4 and 5 (22 R357): nothing of the partition is under way any more; its cores, columns, accumulators, operand
slots, registry and directory are zero, and its interface is in CONFIG_UNLOCKED. -/
def State.clearPart (s : State) (part : Nat) : State :=
  let d := s.doomed part
  let s : State := { s with
    mem := s.mem.filter fun c => !inRanges d.ranges c.1
    ecc := s.ecc.filter fun q => !inRanges d.ranges (8 * q.1)
    cores := s.cores.filter fun k => !d.cores.contains k.1
    octets := s.octets.filter fun k => !d.octets.contains k.1
    parts := tdel s.parts part
    dev := { s.dev with windows := s.dev.windows.filter fun w => w.2.1 != part,
                        early := s.dev.early.filter fun e => e.2.part.toNat != part } }
  s.leave

/-- A partition whose reset has a step to take in this cycle. -/
def State.resetDue (s : State) : Option Nat :=
  (s.parts.find? fun p => match p.2.reset with
    | some r => decide (r.1 < s.ccyc)
    | none => false).map (·.1)

/-- The next step of a partition's reset that is due in this cycle, else a request for one. -/
def State.resetStep (s : State) (part : Nat) : State :=
  match (s.partAt part).reset with
  | none => s.askReset part
  | some r => if s.ccyc ≤ r.1 then s else if r.2 then s.clearPart part else s.stopPart part

/-- Every partition is reset, and then the module leaves service (24 R375, R379). -/
def State.leaveService (s : State) (code : Nat) : State :=
  (((s.parts.map (·.1)).foldl (fun s p => s.askReset p) s).modDev fun d =>
    { d with boot := { d.boot with leaving := some code } }).leave

/-- The partition that `cur` names is reset, step by step (22 R357). -/
def execPartitionReset (s : State) : Host.Outcome State Fault Refusal := .next (s.resetStep s.cur.part)

/-- `STOP_INTERFACE` resets the partition (22 R358). -/
def execStopInterface (s : State) : Host.Outcome State Fault Refusal := .next (s.askReset s.cur.part)

/-- An error of the host link that PCIe replay does not correct fails the partition's IDE stream, and the partition is
reset (24 R370). -/
def execIdeStreamFailure (s : State) : Host.Outcome State Fault Refusal :=
  .next ((s.noteErr .host false s.cur.part).askReset s.cur.part)

/-! ### TDISP (22 R358, R359) -/

/-- The keys of a partition's device groups, as firmware has agreed on them so often (22 R359). -/
def Part.agreed (p : Part) (gen : Nat) : Tab Nat := p.groups.map fun g => (g.1, Config.groupKey g.1 gen)

/-- `LOCK_INTERFACE` fixes the configuration; the crypto engines generate a key for each of the 16 slots and a GCM key,
and firmware agrees on the keys of the partition's device groups. -/
def State.lockPart (s : State) (part : Nat) : State :=
  let p := s.partAt part
  if s.ready && p.present && p.reset.isNone && p.tdisp == .configUnlocked then
    (s.modPart part fun p =>
      { p with tdisp := .configLocked, keys := rangeFrom s.dev.nextKey 16, gcm := s.dev.nextKey + 16,
               groupKeys := p.agreed s.dev.keyGen }).modDev fun d => { d with nextKey := d.nextKey + 17 }
  else s

/-- `LOCK_INTERFACE` (22 R358, R359). -/
def execLockInterface (s : State) : Host.Outcome State Fault Refusal := .next (s.lockPart s.cur.part)

/-- `START_INTERFACE` enters RUN (22 R358). -/
def execStartInterface (s : State) : Host.Outcome State Fault Refusal :=
  .next (if s.ready && (s.partAt s.cur.part).present && (s.partAt s.cur.part).reset.isNone &&
        (s.partAt s.cur.part).tdisp == .configLocked then
      s.modPart s.cur.part fun p => { p with tdisp := .run }
    else s)

/-- Whether the configuration of a partition is fixed. -/
def Part.locked (p : Part) : Bool := p.tdisp == .configLocked || p.tdisp == .run

/-- A configuration change while the interface is locked puts it in ERROR and resets the partition (22 R358). -/
def execInterfaceConfigurationChange (s : State) : Host.Outcome State Fault Refusal :=
  .next (if (s.partAt s.cur.part).locked then
      (s.modPart s.cur.part fun p => { p with tdisp := .error }).askReset s.cur.part
    else s)

/-- `GET_DEVICE_INTERFACE_REPORT`: the partition's notify windows and launch queues (22 R358). -/
def execGetDeviceInterfaceReport (s : State) : Host.Outcome State Fault Refusal :=
  .next (if s.ready && (s.partAt s.cur.part).present then
      s.report (.interfaceReport s.cur.part ((s.dev.windows.filter fun w => w.2.1 == s.cur.part).map (·.1))
        ((s.partAt s.cur.part).queues.map (·.1)))
    else s)

/-- IDE_KM over SPDM sets the key of the partition's IDE stream (22 R358). -/
def execIdeKm (key : Nat) (s : State) : Host.Outcome State Fault Refusal :=
  .next (if s.ready && (s.partAt s.cur.part).present then s.modPart s.cur.part fun p => { p with ide := some key } else s)

/-- SPDM attestation: certificate chain and measurements (22 R360). -/
def execSpdmAttestation (s : State) : Host.Outcome State Fault Refusal :=
  .next (if s.ready && (s.partAt s.cur.part).present then
      let p := s.partAt s.cur.part
      s.report (.attestation s.cur.part Config.romVersion s.dev.boot.digest
        (Config.configDigest p.octets p.pages p.slots p.modes) (Config.attestation s.cur.part))
    else s)

/-! ### Launch events -/

/-- A write to the notify window that `cur` names, by the partition that `cur` names (21 R332). -/
def execNotifyWrite (val : Word) (s : State) : Host.Outcome State Fault Refusal :=
  if s.cur.window < 32 then .next (s.notify s.cur.part s.cur.window val) else .fault .noSuchUnit

/-- Firmware maps a queue of `cur`'s partition to `cur`'s window (21 R332). -/
def execNotifyWindowMap (qid : Nat) (s : State) : Host.Outcome State Fault Refusal :=
  if s.cur.window < 32 then .next (s.mapWindow s.cur.part qid s.cur.window) else .fault .noSuchUnit

/-- Firmware unmaps `cur`'s window (21 R332). -/
def execNotifyWindowUnmap (s : State) : Host.Outcome State Fault Refusal :=
  if s.cur.window < 32 then .next (s.unmapWindow s.cur.window) else .fault .noSuchUnit

/-- The host creates a launch queue in `cur`'s partition (21 R332). -/
def execLaunchQueueCreate (qid : Nat) (base : Word) (log : Nat) (s : State) : Host.Outcome State Fault Refusal :=
  .next (s.createQueue s.cur.part qid base log)

/-- Firmware reads and checks a launch record (21 R333). -/
def execLaunchRecordAccept (src : LaunchSrc) (s : State) : Host.Outcome State Fault Refusal :=
  .next (s.acceptRecord s.cur.part src)

/-- Firmware places an accepted record (21 R335, R336). -/
def execLaunchPlacement (s : State) : Host.Outcome State Fault Refusal := .next s.place

end Sys2Proof.Machine
end

