-- ==== Sys2Proof/Machine/Hours.lean ====
section
/-!
DEFINITION. Over hours (24, 13 R245): boot, fuses and repairs, chip marks and clock steps, wavelengths and heaters,
thermal figures, soft errors and scrubbing, and recovery of a fabric.
-/

namespace Sys2Proof.Machine

/-! ### Boot (24 R365-R367) -/

/-- A step of boot fails: only the boot status register is left (R367). -/
def State.bootFail (s : State) (code : Nat) : State := s.modBoot fun b => { b with phase := 15, fail := code }

/-- The boot status register (24 R367). -/
def State.bootWord (s : State) : Word :=
  let b := s.dev.boot
  pack [(b.phase, 60), (b.fail, 52), (b.rlvl.toNat, 32), (Config.romVersion.toNat, 16), (b.svn.toNat, 0)]

/-- Stratus links of the module: eight fibres of eight dies (18 R310). -/
def linkCount : Nat := 64

/-- The state of a link that has been trained. -/
def Link.trained (now : Nat) : Link := { Link.init with up := true, lastAck := now }

/-- A list of routes, each of a stratum die, a destination and a link, as a table (18 R310). -/
def routeTable (l : List (Nat × Nat × Nat)) : Tab Nat :=
  l.foldl (fun (t : Tab Nat) (q : Nat × Nat × Nat) => tset t (routeKey q.1 q.2.1) q.2.2) []

/-- A host reset (R367): the machine is as after reset, with the host's memory, the fuses that field repairs have blown and the
cores found failing (R369), the device's identifier (R381), and what is still to come from outside. -/
def State.hostReset (s : State) : State :=
  { State.reset with
    mem := s.mem.filter fun c => regionOf c.1 == 5
    dev := { State.reset.dev with
      id := s.dev.id
      fuses := s.dev.fuseNext.foldl (fun t f => tset t f.1 f.2) s.dev.fuses, fuseMapOk := s.dev.fuseMapOk
      failing := s.dev.failing }
    inputs := s.inputs.map fun i => (i.1 - s.ccyc, i.2)
    reports := s.reports }

/-- Step 1: Alarad checks the fuse map. -/
def State.bootRom (s : State) : State :=
  if s.dev.fuseMapOk then s.modBoot fun b => { b with phase := 1 } else s.bootFail 1

/-- Step 3: the image's signature, its key and its security version. -/
def State.bootVerify (s : State) (i : BootImage) : State :=
  if keyDigestOf i.modulus i.exponent ≠ Config.keyDigest ∨
      pssVerify i.modulus i.exponent (sha256 i.bytes) i.signature = false then s.bootFail 3
  else if i.svn.toNat < Config.minVersion.toNat then s.bootFail 4
  else s.modBoot fun b => { b with phase := 3 }

/-- Step 4: the measurements are recorded, and the firmware starts. -/
def State.bootStart (s : State) (i : BootImage) : State :=
  s.modBoot fun b =>
    { b with phase := 4, rlvl := i.rlvl, svn := i.svn, digest := digest256 i.bytes,
             keyDigest := keyDigestOf i.modulus i.exponent, running := i.bytes }

/-- Whether a memory key belongs to the compute assembly (01 R2): everything but HBM and the host's memory. -/
def assemblyKey (k : Nat) : Bool := regionOf k != 4 && regionOf k != 5

/-- A row's place in the fuse map (R368). -/
def fuseRow (layer row : Nat) : Nat := layer * 32 + row

/-- A failing core, by layer, physical row and physical column, is noted, and firmware blows a repair entry in a row that
skips no column; it takes effect at the next boot (R369). -/
def State.repair (s : State) (c : Nat × Nat × Nat) : State :=
  let r := fuseRow c.1 c.2.1
  s.modDev fun d =>
    { d with
      failing := if d.failing.contains c then d.failing else d.failing ++ [c]
      fuseNext := if (tget Fuse.init d.fuses r).skip || (tget Fuse.init d.fuseNext r).skip then d.fuseNext
        else tset d.fuseNext r { skip := true, repair := true, pcol := c.2.2 } }

/-- Whether a failing core leaves its layer unable to present 1,024 cores: its row skips another column (R369). -/
def State.unrepairable (s : State) (c : Nat × Nat × Nat) : Bool :=
  let f := tget Fuse.init s.dev.fuses (fuseRow c.1 c.2.1)
  f.skip && f.pcol != c.2.2

/-- The header word of a core of layer 0 as the flood leaves it (25 R384): its row and column, and V. -/
def floodHeader (i : Nat) : Nat := 2 ^ 32 + i / 32 * 2 ^ 16 + i % 32

/-- The sum modulo 2^32 of the 32-bit words of an image that are summed: whole groups of 128 bytes (25 R383, R384). -/
def floodSum (code : List Byte) : Nat :=
  ((chunks 4 (code.length / 128 * 32) code).foldl (fun n w => n + ofBytes w) 0) % 2 ^ 32

/-- The record of a core (25 R384). -/
def State.floodRecord (s : State) (code : List Byte) (i : Nat) : List Byte :=
  leBytes 8 (floodHeader i) ++ leBytes 8 (s.coreId i).toNat ++ leBytes 8 (floodSum code) ++ List.replicate 40 0

/-- What `flood` leaves in a core's scratchpad from its start on (25 R384): the header's line, the record, the lines in
which the headers of the west and north neighbours arrived, and the image. -/
def State.floodLines (s : State) (code : List Byte) (i : Nat) : List Byte :=
  let line (v : Nat) : List Byte := leBytes 8 v ++ List.replicate 56 0
  line (floodHeader i) ++ s.floodRecord code i ++
    line (if i < 32 ∧ i ≠ 0 then floodHeader (i - 1) else 0) ++
    line (if i < 32 then 0xFFFF0000 else floodHeader (i - 32)) ++ code

/-- Code is delivered to the cores of layer 0 (24 R365 step 5, 25 R383): each core holds the image and its record, and the
corner a copy of every record. DESIGN CHOICE (log 85): boot's steps take no cycles, so the flood's result is there at once;
`flood` runs for the lengths of R383 only. -/
def State.deliverCode (s : State) (code : List Byte) : State :=
  if code.isEmpty ∨ code.length % 64 ≠ 0 ∨ 16512 < code.length then s
  else (List.range 1024).foldl (fun s i =>
    (s.write (spKey i 0) (s.floodLines code i)).write (spKey 0 (0x10000 + 64 * i)) (s.floodRecord code i)) s

/-- Step 5: HBM, Cirrus and Stratus are trained; a core that fails its self-test, or has failed before, is repaired or
leaves the module unrepairable (R369); every memory of the compute assembly is zeroed; and code is delivered. -/
def State.bootTrain (s : State) (i : BootImage) : State :=
  let bad := i.badCores ++ s.dev.failing
  if !i.trains then s.bootFail 5
  else if bad.any s.unrepairable then s.bootFail 7
  else
    let s := i.badCores.foldl State.repair s
    let s : State :=
      { s with mem := s.mem.filter fun c => !assemblyKey c.1, ecc := s.ecc.filter fun e => !assemblyKey (8 * e.1) }
    (s.deliverCode i.code).modDev fun d =>
        { d with boot := { d.boot with phase := 5, image := none }, wavelengths := [], lastScrub := s.ccyc,
                 links := (List.range linkCount).map fun l => (l, Link.trained s.ccyc),
                 wiring := i.wiring.foldl (fun t (q : Nat × Nat × Nat) => tset t q.1 q.2) [], routes := routeTable i.routes }

/-- An image as its beats carry it: padded with zeros to whole beats of 256 bytes. -/
def padBeats (bs : List Byte) : List Byte := bs ++ List.replicate ((256 - bs.length % 256) % 256) 0

/-- Whether an image has been fetched (24 R365, R366): at most 16 MiB, over the host link, or over fibre 0 once that was
asked, where it is what the beats brought. DEDUCED (log 76): a longer one is no image. -/
def State.imageCame (s : State) (i : BootImage) : Bool :=
  i.bytes.length ≤ 2 ^ 24 && (s.dev.boot.fibre.isNone || s.dev.boot.fetched == padBeats i.bytes)

/-- Boot: an image arrives in phase 1, the steps follow one another, and a reset by the host starts again. -/
def State.bootStep (s : State) (image : Option BootImage) : State :=
  match s.dev.boot.phase, image with
  | 1, some i => if s.imageCame i then s.modBoot fun b => { b with phase := 2, image := some i } else s
  | _, some _ => s
  | 0, none => s.bootRom
  | 2, none => match s.dev.boot.image with | some i => s.bootVerify i | none => s.bootFail 2
  | 3, none => match s.dev.boot.image with | some i => s.bootStart i | none => s.bootFail 2
  | 4, none => match s.dev.boot.image with | some i => s.bootTrain i | none => s.bootFail 2
  | _, none => s.hostReset.bootRom

/-- A step of boot (24 R365). -/
def execBoot (image : Option BootImage) (s : State) : Host.Outcome State Fault Refusal := .next (s.bootStep image)

/-- The cycle by which an image must have come: ten seconds after the fetch began (R365, R366). -/
def State.fetchLate (s : State) : Bool :=
  s.dev.boot.phase == 1 && s.dev.boot.fetched.isEmpty && s.dev.boot.fibre.getD 0 + s.tenths 100 ≤ s.ccyc

/-- The request for an image: the ROM version and the fused key digest (log 24). -/
def State.bootRequest (s : State) : FlitGroup :=
  bootGroup s.dev.id 0 (Config.romVersion.toNat + Config.keyDigest.toNat * 2 ^ 16)

/-- Heaters take settings. -/
def State.setHeaters (s : State) (l : List (Nat × Nat)) : State :=
  s.modDev fun d => { d with heaters := l.foldl (fun t q => tset t q.1 q.2) d.heaters }

/-- The number of the ring of a fibre's wavelength. The spec numbers no ring: DESIGN CHOICE (log 109). -/
def fibreRing (fibre wavelength : Nat) : Nat := 8 * fibre + wavelength

/-- Alarad brings up the boot link, wavelength 0 of fibre 0 of stratum die 0, at its fused heater setpoint, and asks for an
image (24 R366). -/
def State.askFibre (s : State) : State :=
  let s := (s.setHeaters [(fibreRing 0 0, Config.bootHeater)]).modBoot fun b => { b with fibre := some s.ccyc }
  (s.modLink 0 fun _ => Link.trained s.ccyc).sendOn 14 0 s.bootRequest

/-- No image in ten seconds over the host link: Alarad asks over fibre 0 with a KIND 14 group; none there either: FAIL 2
(24 R365, R366). -/
def execBootFetchTimeout (s : State) : Host.Outcome State Fault Refusal :=
  .next (if s.fetchLate then
      if s.dev.boot.fibre.isSome then s.bootFail 2
      else s.askFibre
    else s)

/-- A KIND 14 group that is accepted: this device answers a request if it is in phase 5, its host allows it, and its image
has the key digest asked for (log 24). A device that fetches over fibre 0 takes the beats of an image, in order; that the
image is whole is the event of `boot` (log 76). -/
def State.bootServe (s : State) (l : Nat) (g : FlitGroup) : State :=
  if s.ready && s.dev.bootService && g.data.extractLsb' 16 256 == s.dev.boot.keyDigest then
    (s.modBoot fun b => { b with serving := some (l, 0) }).serveMore
  else if s.dev.boot.phase == 1 && s.dev.boot.fibre.isSome && l == 0 &&
      256 * g.beat.toNat == s.dev.boot.fetched.length && g.beat.toNat < 2 ^ 16 then
    s.modBoot fun b => { b with fetched := b.fetched ++ leBytes 256 g.data.toNat }
  else s

/-- A boot service group arrives on the link that `cur` names (24 R366, 18 R312). -/
def execBootService (g : FlitGroup) (s : State) : Host.Outcome State Fault Refusal :=
  let r := s.receiveOn s.cur.link g.seq.toNat
  .next (if r.2 then r.1.bootServe s.cur.link g else r.1)

/-! ### Fuses (24 R368, R369) -/

/-- A core fails: firmware blows a repair entry where its row allows one. -/
def execFuseRepair (layer row pcol : Nat) (s : State) : Host.Outcome State Fault Refusal :=
  if layer < 4 ∧ row < 32 ∧ pcol < 33 then .next (s.repair (layer, row, pcol)) else .fault .noSuchUnit

/-! ### Chip marks and clock steps (13 R226, R245; 21 R336; 24 R375) -/

/-- Kernels that have ended are marked so for firmware (21 R336), whatever freeze finds them. -/
def State.noteEnds (s : State) : State :=
  { s with binds := s.binds.map fun k =>
      if k.1 < 64 && k.2.ended && k.2.ending.isNone &&
          (k.2.st == .running || k.2.st == .held || k.2.st == .frozen) then
        (k.1, { k.2 with st := .ended, freeze := none })
      else k }

/-- A chip mark: removed wavelengths, and a channel that is left with too few; kernels that have ended; dispatch in
increasing entry index. -/
def State.chipMark (s : State) : State :=
  let s := s.dev.removals.foldl (fun s q => s.removeWave q) s
  let s := s.modDev fun d => { d with removals := [], lastChip := s.ccyc + 1 }
  if s.channelFails && s.ready then s.leaveService 8
  else
    let s := s.noteEnds
    ((s.binds.filter fun k => k.1 < 64 && k.2.st == .pending).map (·.1)).foldl (fun s b => s.startDomain b) s

/-- The clock step of a chip mark (13 R245). -/
def State.clockStep (s : State) : State :=
  s.modDev fun d => { d with clock := d.clock.take, lastClock := s.ccyc + 1 }

/-- A chip mark (13 R226): wavelength removals and dispatch, and after the words of the cycle the clock step (R245). -/
def execChipMark (s : State) : Host.Outcome State Fault Refusal :=
  .next (if s.chipMarkDue then s.chipMark else if s.clockDue then s.clockStep else s)

/-- A request for N sixteenths replaces a pending one (13 R245); one in a chip mark's own cycle is for the next mark. No
other count can be requested. -/
def State.requestClock (s : State) (n : Nat) : State :=
  if 8 ≤ n ∧ n ≤ 16 then
    s.modDev fun d => { d with clock := if s.clockDue then { d.clock with late := some n } else { d.clock with next := n } }
  else s

/-- Sensors or firmware request a clock count (13 R245). -/
def execClockStepRequest (n : Nat) (s : State) : Host.Outcome State Fault Refusal := .next (s.requestClock n)

/-! ### Wavelengths and heaters (24 R374, R375) -/

/-- Firmware removes a wavelength of a home channel; the removal takes effect at the next chip mark (24 R375). -/
def execWavelengthRemoval (channel wavelength : Nat) (s : State) : Host.Outcome State Fault Refusal :=
  if channel < homeChannels ∧ wavelength < channelWaves then
    .next (s.modDev fun d => { d with removals := d.removals ++ [(channel, wavelength)] })
  else .fault .noSuchUnit

/-- Firmware reads the monitor taps and sets the heaters, or sends the readings to the host (24 R374). -/
def execHeaterTuning (taps : List (Nat × Nat)) (s : State) : Host.Outcome State Fault Refusal :=
  .next (if s.dev.heaterHost then s.report (.taps taps)
    else s.setHeaters (taps.map fun q => (q.1, Config.heaterSetting q.1 q.2)))

/-- The host's heater settings, in host-assisted tuning (24 R374). -/
def execHostHeaterSettings (settings : List (Nat × Nat)) (s : State) : Host.Outcome State Fault Refusal :=
  .next (if s.dev.heaterHost then s.setHeaters settings else s)

/-! ### Thermal figures (24 R377-R379) -/

/-- Whether a step-down condition holds: hotspot and HBM in degrees Celsius, the module's 1 ms average in watts. -/
def stepDown (hot hbm power : Nat) : Bool := 100 < hot || 95 < hbm || 3600 < power

/-- Whether the figures of every step-up condition hold. -/
def stepUp (hot power : Nat) : Bool := hot < 92 && power < 3400

/-- Whether a trip point is reached. -/
def trips (hot hbm : Nat) : Bool := 110 ≤ hot || 105 ≤ hbm

/-- An evaluation, made every 100 microseconds: 10 ms are 100 intervals between evaluations, and 100 ms are 1,000. -/
def State.thermal (s : State) (hot hbm power : Nat) : State :=
  let down := stepDown hot hbm power
  let t := s.dev.thermal
  let up' := if stepUp hot power then t.upFor + 1 else 0
  let down' := if down && s.dev.clock.n == 8 then t.downFor + 1 else 0
  let s := s.modDev fun d => { d with thermal := { upFor := up', downFor := down' } }
  if trips hot hbm || 1000 < down' then s.leaveService 6
  else if down then s.requestClock (max 8 (s.dev.clock.n - 1))
  else if 100 < up' then s.requestClock (min 16 (s.dev.clock.n + 1))
  else s

/-- Firmware evaluates the thermal and power conditions (24 R378, R379). -/
def execThermalEvaluation (hot hbm power : Nat) (s : State) : Host.Outcome State Fault Refusal :=
  .next (if s.ready then s.thermal hot hbm power else s)

/-! ### Soft errors and scrubbing (24 R370-R373) -/

/-- Whether the scrub of HBM is due: 24 hours after the last, in a refresh window (24 R373, 13 R234). -/
def State.scrubDue (s : State) : Bool :=
  s.ready && s.dev.lastScrub + s.tenths 864000 ≤ s.ccyc && 1984 ≤ s.ccyc % 2048

/-- The stratum dies scrub every HBM word (24 R373). -/
def execHbmScrub (s : State) : Host.Outcome State Fault Refusal :=
  .next ((s.scrub fun k => regionOf k == 4).modDev fun d => { d with lastScrub := s.ccyc })

/-- Whether an entry of the error log concerns a partition's own resources (24 R373): its cores, columns and octets, its
pages of HBM, its packets or its host link. -/
def State.concerns (s : State) (part : Nat) (e : LogEnt) : Bool :=
  let off := e.key % 2 ^ 60
  match e.place with
  | .memory =>
    match regionOf e.key with
    | 1 | 2 | 3 => s.partOfCore (off / 2 ^ 20) == some part
    | 4 => (s.partAt part).pages.any fun p =>
        p.1.getLsbD 63 && !p.1.getLsbD 60 && within (wfld p.2 35 0 * 2 ^ 16) (pageSize p.1) off
    | 6 => (s.partAt part).octets.contains (off / 2 ^ 19)
    | 7 => (s.partAt part).octets.contains (off / 2 ^ 21)
    | _ => false
  | .register | .window => s.partOfCore (e.key / 64) == some part
  | .array => (s.partAt part).octets.contains e.key
  | .slot => (s.partAt part).octets.contains (off / 2 ^ 21)
  | .packet p => p == part
  | .host => e.key == part
  | .link => false

/-- The host's management interface reads the error log, or a partition reads its part of it (24 R373). -/
def State.readLog (s : State) (part : Option Nat) : State :=
  if !s.ready then s
  else match part with
    | none => s.report (.errorLog s.dev.log)
    | some p => if (s.partAt p).present then s.report (.partLog p (s.dev.log.filter (s.concerns p))) else s

/-- An error in a word of a memory with SECDED: a second one in a word is uncorrectable. -/
def State.wordError (s : State) (key : Nat) (correctable : Bool) : State :=
  if !hasEcc key then s
  else if correctable && (tfind s.ecc (key / 8)).isNone then { s with ecc := tset s.ecc (key / 8) .flipped }
  else s.markPoison key

/-- A bit of what a landing beat holds changes in Caddy staging, unseen (24 R372). -/
def Ev.staged (x bit : Nat) : Ev → Ev
  | .beatLand y j data p d =>
    if y = x then
      .beatLand y j (data.map fun b => if b.1 = bit / 8 then (b.1, b.2 ^^^ BitVec.ofNat 8 (2 ^ (bit % 8))) else b) p d
    else .beatLand y j data p d
  | e => e

/-- The first entry of the agenda that holds a beat of a transfer, changed by an error in Caddy staging. -/
def strikeStaging (x bit : Nat) : List AEnt → List AEnt
  | [] => []
  | e :: r =>
    match e.ev with
    | .beatLand y _ _ _ _ => if y = x then { e with ev := e.ev.staged x bit } :: r else e :: strikeStaging x bit r
    | _ => e :: strikeStaging x bit r

/-- The key to which a collective's completion word goes. -/
def State.wordKey (s : State) (k : Coll) : Nat :=
  let p := k.cmd.cw.toNat
  ptrKey ((pubRoute (s.pubs k.cmd.bind) false p).getD p)

/-- A soft error strikes. -/
def State.softError (s : State) (e : SoftError) : State :=
  match e with
  | .window c r => s.modCore c fun k => k.spoilWin r
  | .sweepWindow c r => s.modCore c fun k => { k with regs := { k.regs with swBad := setBit k.regs.swBad (r % 16) true } }
  | .queue c q i => s.modCore c fun k => k.setQueue q ((k.queue q).modify i fun e => { e with bad := true })
  | .word key ok => s.wordError key ok
  | .slot o slot off => s.modOctet o fun k => { k with badParity := k.badParity ++ [(slot, off / 8)] }
  | .array o => s.modOctet o fun k => { k with arrayErr := true }
  | .packet x channel wave => s.modXfer x fun t => { t with packetErr := some (channel, wave) }
  | .vector c v bit =>
    s.modCore c fun k =>
      let new := vget 0 k.regs.v v ^^^ BitVec.ofNat 1024 (2 ^ (bit % 1024))
      { k with regs := { k.regs with v := vput k.regs.v v new } }
  | .staging x bit => { s with agenda := strikeStaging x bit s.agenda }
  | .reduction part nid src beat bit =>
    s.modColl (fun k => k.cmd.part == part && k.cmd.nid == nid) fun k => { k with struck := k.struck ++ [(src, beat, bit)] }
  | .crossing key bit =>
    s.modColl (fun k => s.wordKey k == key) fun k => { k with crossed := k.crossed ^^^ BitVec.ofNat 64 (2 ^ bit) }
  | .unchecked key bit => { s with mem := s.mem.write key [s.mem.read key ^^^ BitVec.ofNat 8 (2 ^ (bit % 8))] }

/-- A soft error (24 R370-R372). -/
def execSoftError (err : SoftError) (s : State) : Host.Outcome State Fault Refusal := .next (s.softError err)

/-! ### Fabric (24 R380, R381) -/

/-- The state with the fabric changed. -/
def State.modFabric (s : State) (f : Fabric → Fabric) : State := s.modDev fun d => { d with fabric := f d.fabric }

/-- The dead devices that no spare has replaced yet. -/
def Fabric.lost (f : Fabric) : List Nat := f.dead.filter fun d => !f.replaced.contains d

/-- The live members; a spare lives under the identifier that it took. -/
def Fabric.live (f : Fabric) : List Nat := f.members.filter fun d => !f.lost.contains d

/-- Whether this device runs the fabric manager: the lowest live identifier. -/
def Fabric.manages (f : Fabric) (dev : Nat) : Bool := f.live.all fun d => dev ≤ d

/-- A device is declared dead: recovery starts, again if one was under way. -/
def Fabric.declare (f : Fabric) (d : Nat) : Fabric :=
  if f.lost.contains d then f
  else
    { f with dead := if f.dead.contains d then f.dead else f.dead ++ [d], replaced := f.replaced.filter (· != d),
             missed := tdel f.missed d, links := tdel f.links d, phase := 1 }

/-- The fabric manager sends every other live device a heartbeat each 100 ms (24 R380). -/
def State.beat (s : State) : State :=
  if s.ready && s.dev.fabric.manages s.dev.id && decide (s.dev.fabric.lastBeat + s.tenths 1 ≤ s.ccyc) then
    (s.dev.fabric.live.filter fun d => d != s.dev.id).foldl
      (fun s d => s.report (.heartbeat d)) (s.modFabric fun f => { f with lastBeat := s.ccyc })
  else s

/-- Whether every link of a device is marked failed, as this device sees its own links and as every other live device last
told of its own (24 R380). DESIGN CHOICE (log 58): a device tells of its links when it answers a heartbeat. -/
def State.cutOff (s : State) (d : Nat) : Bool :=
  let f := s.dev.fabric
  let own := s.dev.wiring.map fun w => (w.2.1, !(s.link w.1).failed)
  let others := f.live.filter fun m => m != d && m != s.dev.id
  let told := (own ++ others.flatMap fun m => tget [] f.links m).filter fun e => e.1 == d
  (others.all fun m => (tfind f.links m).isSome) && !told.isEmpty && told.all fun e => !e.2

/-- The fabric manager declares the devices dead that are cut off, but for those of a list. -/
def State.linkDeathsBut (s : State) (heard : List Nat) : State :=
  if s.dev.fabric.manages s.dev.id then
    let gone := s.dev.fabric.live.filter fun d => d != s.dev.id && !heard.contains d && s.cutOff d
    s.modFabric fun f => gone.foldl Fabric.declare f
  else s

/-- A device every one of whose links is marked failed is declared dead by the fabric manager (24 R380). -/
def State.linkDeaths (s : State) : State := s.linkDeathsBut []

/-- A heartbeat of 100 ms: who answered, and how each sees its links; three missed in a row declare a device dead, and so
do links that are all marked failed (24 R380); one that answered has a link. -/
def State.heartbeat (s : State) (heard : List (Nat × List (Nat × Bool))) : State :=
  if !s.dev.fabric.manages s.dev.id then s
  else
    let who := heard.map (·.1)
    let s := s.modFabric fun f =>
      let f := (f.live.filter fun d => d != s.dev.id).foldl (fun f d =>
        let n := if who.contains d then 0 else tget 0 f.missed d + 1
        if 3 ≤ n then f.declare d else { f with missed := tset f.missed d n }) f
      { f with links := heard.foldl (fun t q => tset t q.1 q.2) f.links }
    s.linkDeathsBut who

/-- The fabric manager's heartbeat (24 R380). -/
def execFabricHeartbeat (heard : List (Nat × List (Nat × Bool))) (s : State) : Host.Outcome State Fault Refusal :=
  .next (s.heartbeat heard)

/-- Whether a device group of a partition includes a dead device. -/
def State.groupHurt (s : State) (part grp : Nat) : Bool :=
  (tget [] (s.partAt part).groups grp).any s.dev.fabric.dead.contains

/-- Entries with level-5 domains whose group includes a dead device. -/
def State.hurtDomains (s : State) : List Nat :=
  (s.binds.filter fun k => k.2.st != .free && k.2.level == 5 &&
    s.groupHurt k.2.part (wfld (k.2.rec_ 1) 15 0)).map (·.1)

/-- Containment: such domains are held at their next marks, and their groups' collectives fail with status 5. -/
def State.contain (s : State) : State :=
  let s := s.hurtDomains.foldl (fun s b =>
    let k := s.bindAt b
    s.domainFault b { fc := 0, core := k.layer * 1024 + k.unit, half := .x, code := 0, cause := 0, mcyc := s.mcycOf b }) s
  s.modColl (fun k => k.entered.isNone && s.groupHurt k.cmd.part k.cmd.ent.grp) fun k =>
    { k with decided := some 5, entered := some s.ccyc }

/-- The links to the dead device are no links to a member any more, and those to the spare lead to its identifier (24 R380,
R381), which the GCM tags of the spare's groups use (18 R311). -/
def State.renameWires (s : State) (old spare : Nat) : State :=
  s.modDev fun d =>
    { d with wiring := (d.wiring.filter fun w => w.2.1 != old).map fun w =>
        if w.2.1 = spare then (w.1, old, w.2.2) else w }

/-- A spare takes a dead device's identifier, and its partitions are created and locked (24 R380). -/
def State.takeOver (s : State) (dead i : Nat) (parts : List (Nat × PartCfg)) : State :=
  let s := s.renameWires dead i
  if s.dev.id = i then
    parts.foldl (fun s p => (s.createPart p.1 p.2).lockPart p.1) (s.modDev fun d =>
      { d with id := dead, fabric := { d.fabric with spare := true } })
  else s

/-- A dead device is replaced by a spare, whose own identifier is no member's any more; the phase ends when every dead
device is replaced. How the links stand is told anew. -/
def Fabric.replace (f : Fabric) (dead i : Nat) : Fabric :=
  { f with members := f.members.erase i, replaced := f.replaced ++ [dead], links := [],
           phase := if (f.lost.drop 1).isEmpty then 4 else 3 }

/-- The keys of the device groups are agreed again (24 R380). -/
def State.rekey (s : State) : State :=
  let s := s.modDev fun d => { d with keyGen := d.keyGen + 1 }
  { s with parts := s.parts.map fun p =>
      (p.1, if p.2.locked then { p.2 with groupKeys := p.2.agreed s.dev.keyGen } else p.2) }

/-- The job's checkpoint is loaded into the spare's HBM (24 R380). -/
def State.loadState (s : State) (blocks : List (Nat × Nat × List Byte)) : State :=
  if s.dev.fabric.spare then
    blocks.foldl (fun s b => b.2.2.zipIdx.foldl (fun s v => s.fwPut b.1 (b.2.1 + v.2) v.1) s) s
  else s

/-- The held domains are released at their next marks, and the spare's domains are bound (24 R380). -/
def State.resumeAll (s : State) : State :=
  let s := s.hurtDomains.foldl (fun s b => s.releaseHeld b) s
  if s.dev.fabric.spare then
    (List.range ((s.parts.map fun p => p.2.waiting.length).foldl (· + ·) 0)).foldl (fun s _ => s.place) s
  else s

/-- A phase of recovery; each follows the one before it, and detection starts it. A spare goes on under the identifier of the
first dead device that has none yet (24 R380, R381). -/
def State.recover (s : State) (p : RecoveryPhase) : State :=
  let n := s.dev.fabric.phase
  match p with
  | .detection d => s.modFabric fun f => f.declare d
  | .containment => if n = 1 then s.contain.modFabric fun f => { f with phase := 2 } else s
  | .routes l =>
    if n = 2 then (s.modDev fun d => { d with routes := routeTable l }).modFabric
        fun f => { f with phase := 3 }
    else s
  | .spare i parts =>
    let dead := s.dev.fabric.lost.headD i
    if n = 3 then (s.takeOver dead i parts).modFabric fun f => f.replace dead i else s
  | .keys => if n = 4 then s.rekey.modFabric fun f => { f with phase := 5 } else s
  | .state l => if n = 5 then (s.loadState l).modFabric fun f => { f with phase := 6 } else s
  | .resume => if n = 6 then s.resumeAll.modFabric fun f => { f with phase := 0, dead := [], replaced := [], spare := false } else s

/-- A phase of fabric recovery (24 R380). -/
def execFabricRecovery (phase : RecoveryPhase) (s : State) : Host.Outcome State Fault Refusal := .next (s.recover phase)

end Sys2Proof.Machine
end

