-- ==== Sys2Proof/Machine/Peers.lean ====
section
/-!
DEFINITION. Groups of the Stratus links as events (18 R311, R312, R316-R320), the collectives' own deadlines and
outcomes, and page items from the host (14 R258).
-/

namespace Sys2Proof.Machine

/-- A group that the receiver accepts acts; one that it discards only changes its link. -/
def State.onGroup (s : State) (g : FlitGroup) (f : State → State) : State :=
  let r := s.receive g
  if r.2 then f r.1 else r.1

/-- A contribution or partial (KIND 0): recorded and folded once (18 R316). -/
def execContribution (g : FlitGroup) (s : State) : Host.Outcome State Fault Refusal :=
  .next (s.onGroup g fun s => s.takeGroup 0 g)

/-- A result (KIND 1) is written into the destination's invisible half (18 R314, R319). -/
def execResult (g : FlitGroup) (s : State) : Host.Outcome State Fault Refusal := .next (s.onGroup g fun s => s.takeGroup 1 g)

/-- A vote (KIND 2), or one of this device's dies votes (18 R317). -/
def execVote (g : FlitGroup) (s : State) : Host.Outcome State Fault Refusal := .next (s.onGroup g fun s => s.takeGroup 2 g)

/-- Commit (KIND 3): status 1 (18 R317). -/
def execCommit (g : FlitGroup) (s : State) : Host.Outcome State Fault Refusal :=
  .next (s.onGroup g fun s => s.takeGroup 3 g)

/-- Abort (KIND 4), with its status (18 R317). -/
def execAbort (g : FlitGroup) (s : State) : Host.Outcome State Fault Refusal :=
  .next (s.onGroup g fun s => s.takeGroup 4 g)

/-- Expired (KIND 5): the coordinator aborts with status 3 (18 R317). -/
def execExpired (g : FlitGroup) (s : State) : Host.Outcome State Fault Refusal := .next (s.onGroup g fun s => s.takeGroup 5 g)

/-- Owner (KIND 6): the coordinator aborts with status 4 (18 R319). -/
def execOwner (g : FlitGroup) (s : State) : Host.Outcome State Fault Refusal := .next (s.onGroup g fun s => s.takeGroup 6 g)

/-- Fault (KIND 7): the coordinator aborts with status 5 (18 R317). -/
def execFault (g : FlitGroup) (s : State) : Host.Outcome State Fault Refusal := .next (s.onGroup g fun s => s.takeGroup 7 g)

/-- Abort request (KIND 8): the coordinator aborts with status 2 (18 R320). -/
def execAbortRequest (g : FlitGroup) (s : State) : Host.Outcome State Fault Refusal :=
  .next (s.onGroup g fun s => s.takeGroup 8 g)

/-- An acknowledgement on the link that `cur` names frees groups (18 R312). -/
def execLinkAck (seq : BitVec 32) (s : State) : Host.Outcome State Fault Refusal :=
  .next (s.ackLink s.cur.link seq).serveMore

/-- A NAK: the sender resends from its SEQ (18 R312). -/
def execLinkNak (seq : BitVec 32) (s : State) : Host.Outcome State Fault Refusal :=
  .next (s.resendFrom s.cur.link seq.toNat)

/-- Two microseconds without an acknowledgement: the sender resends from its oldest group (18 R312). -/
def State.replayTimeout (s : State) : State :=
  match s.replayDue with
  | some l => (s.modLink l fun k => { k with lastAck := s.ccyc }).resendFrom l (s.link l).oldest
  | none => s

/-- A sender's replay timeout (18 R312). -/
def execReplayTimeout (s : State) : Host.Outcome State Fault Refusal := .next s.replayTimeout

/-- A group fails a check, has a SEQ above the expected one, a reserved KIND or a nonzero zero field (18 R311, R312). -/
def execFlitGroupRejected (seq : BitVec 32) (why : FlitReject) (s : State) : Host.Outcome State Fault Refusal :=
  .next (s.rejectGroup s.cur.link seq why)

/-- Firmware's retraining of the link that `cur` names ends (24 R376). -/
def execLinkRetrain (ok : Bool) (s : State) : Host.Outcome State Fault Refusal := .next (s.retrain s.cur.link ok).linkDeaths

/-- A collective's deadline passes on this device (18 R318). -/
def execStratusDeadline (s : State) : Host.Outcome State Fault Refusal :=
  .next (match s.deadlineDue with | some k => s.deadlinePass k | none => s)

/-- The host lets an expired deadline go on, or extends it once (18 R318). -/
def execHostDeadlineExtend (extend : Bool) (s : State) : Host.Outcome State Fault Refusal :=
  .next (s.hostDeadline s.cur.part s.cur.nid extend)

/-- A die that voted has waited 2 x DLN x 1,024 cycles for a decision (18 R317). -/
def execDecisionTimeout (s : State) : Host.Outcome State Fault Refusal :=
  .next (match s.timeoutDue with | some k => s.timeoutPass k | none => s)

/-- An outcome enters the mirror in the cycle before a chip mark (10 R211). -/
def execCollectiveOutcome (s : State) : Host.Outcome State Fault Refusal :=
  .next (match s.outcomeDue with | some k => s.outcome k | none => s)

/-- Whether the translation fault of a transfer is the host's: host-assisted mode, or no item of the overflow list
(14 R258). -/
def State.hostMiss (s : State) (x : Xfer) : Bool :=
  match s.missAddr x with
  | none => false
  | some a =>
    let b := s.bindAt x.bind
    !x.installed && b.ending.isNone && (b.mode 3 || !(b.overflow.any fun it => pageHit (it.w0, it.w1) a))

/-- The host supplies an item for the transfer that `cur` names, or ends its domain (14 R258). -/
def execHostPageItem (item : Option PageItem) (s : State) : Host.Outcome State Fault Refusal :=
  .next (match s.xfer s.cur.xfer with
    | none => s
    | some x =>
      if s.hostMiss x then
        match item with
        | some it => s.installPage x it
        | none => s.endDomain x.bind 5
      else s)

/-! ### Fields (17) -/

/-- The last reserved cycle of a colour window, or the end of its update cycles, of the field that `cur` names (17 R303,
R304). -/
def execHaloExchange (s : State) : Host.Outcome State Fault Refusal :=
  .next (match s.fieldOf s.cur.bind s.cur.fkey with
    | some f => if s.haloDue s.cur.bind f then s.haloStep s.cur.bind f else s
    | none => s)

/-- A sweep boundary of the field that `cur` names (17 R303). -/
def execSweepBoundary (s : State) : Host.Outcome State Fault Refusal :=
  .next (match s.fieldOf s.cur.bind s.cur.fkey with
    | some f => if s.boundaryDue s.cur.bind f then s.boundary s.cur.bind f else s
    | none => s)

/-- The built-in rule updates four sites of the tile of the core that `cur` names (17 R306). -/
def execBuiltinSiteUpdate (s : State) : Host.Outcome State Fault Refusal :=
  .next (if s.builtinDue s.cur.core then s.builtinUpdate s.cur.core else s)

end Sys2Proof.Machine
end

