-- ==== Sys2Proof/Machine/Flit.lean ====
section
/-!
DEFINITION. A flit group as it stands on a link (18 R311): its header, its 320 bytes, and what the receiver's checks make
of them. The spec gives the order of the fields, not that of the bits on the fibre, of the IV's parts or of a KIND 15
group: those are the model's choices (log 75).
-/

namespace Sys2Proof.Machine

/-! ### The header -/

/-- Word 0 of a group's header. -/
def headWord0 (kind : Nat) (g : FlitGroup) : Word := pack [(g.seq.toNat, 32), (kind, 28), (g.part.toNat, 25)]

/-- Word 1 of a group's header. -/
def headWord1 (g : FlitGroup) : Word := pack [(g.beat.toNat, 32), (g.src.toNat, 16), (g.nid.toNat, 8), (g.ep.toNat, 0)]

/-- The KIND in a header. -/
def headKind (w0 : Word) : Nat := wfld w0 31 28

/-- The group that a header and eight flits give. -/
def headGroup (w0 w1 : Word) (data : BitVec 2048) : FlitGroup :=
  { seq := w0.extractLsb' 32 32, part := w0.extractLsb' 25 3, beat := w1.extractLsb' 32 32, src := w1.extractLsb' 16 16,
    nid := w1.extractLsb' 8 8, ep := w1.extractLsb' 0 8, data := data }

/-! ### The bytes of a group -/

/-- The IV of a group: the sending device's identifier, its die and the SEQ, four bytes each, highest first (log 75). -/
def flitIv (dev die seq : Nat) : List Nat := (beBytes 4 dev ++ beBytes 4 die ++ beBytes 4 seq).map (·.toNat)

/-- The 10-bit symbols of a number, lowest first. -/
def symbols (n v : Nat) : List Nat := (List.range n).map fun i => v / 2 ^ (10 * i) % 1024

/-- The number that 10-bit symbols make, lowest first. -/
def ofSymbols (l : List Nat) : Nat := l.foldr (fun s v => s + 1024 * v) 0

/-- Whether a group carries no tag: boot service, before any key exists (24 R366), and link control, which names no buffer
of a partition (log 75). -/
def untagged (kind : Nat) : Bool := kind == 14 || kind == 15

/-- The 272 bytes of header and flits, and the tag: the flits are encrypted under the key where the group is tagged. -/
def flitBody (key : BitVec 256) (iv : List Nat) (kind : Nat) (g : FlitGroup) : List Nat × List Nat :=
  let head := leNats 8 (headWord0 kind g).toNat ++ leNats 8 (headWord1 g).toNat
  let text := leNats 256 g.data.toNat
  if untagged kind then (head ++ text, List.replicate 16 0)
  else
    let ks := aesKeys (leNats 32 key.toNat)
    let c := gcmCrypt ks iv text
    (head ++ c, gcmTag ks iv head c)

/-- The 320 bytes of a group on a link: header, flits, tag, CRC, 64 zero bits and the FEC's parity. -/
def flitBytes (key : BitVec 256) (iv : List Nat) (kind : Nat) (g : FlitGroup) : List Byte :=
  let b := flitBody key iv kind g
  let msg := symbols 240 (ofNats (b.1 ++ b.2 ++ leNats 4 (crc32 b.1) ++ List.replicate 8 0))
  leBytes 320 (ofSymbols (msg ++ rsParity msg))

/-! ### Keys and senders -/

/-- The key of a group (18 R311, 22 R359): its partition's key for the device group of the registry entry that it names, or
the partition's own. -/
def State.flitKey (s : State) (part nid : Nat) : BitVec 256 :=
  let p := s.partAt part
  Config.gcmKey (tget p.gcm p.groupKeys (s.mirror part nid).grp)

/-- The bytes of a group that this device sends on a link: die `l / 8` drives it (18 R310). -/
def State.wireOf (s : State) (kind l : Nat) (g : FlitGroup) : List Byte :=
  flitBytes (s.flitKey g.part.toNat g.nid.toNat) (flitIv s.dev.id (l / 8) g.seq.toNat) kind g

/-! ### Receiving -/

/-- What the event of an accepted group is, by KIND (18 R311); link control names its SEQ in the first 32 bits of its first
flit and a NAK in the next bit (log 75). -/
def kindEvent (kind : Nat) (g : FlitGroup) : Instr :=
  match kind with
  | 0 => .contribution g
  | 1 => .result g
  | 2 => .vote g
  | 3 => .commit g
  | 4 => .abort g
  | 5 => .expired g
  | 6 => .owner g
  | 7 => .fault g
  | 8 => .abortRequest g
  | 14 => .bootService g
  | 15 => if g.data.getLsbD 32 then .linkNak (g.data.extractLsb' 0 32) else .linkAck (g.data.extractLsb' 0 32)
  | _ => .flitGroupRejected g.seq .kind

/-- What 240 message symbols make, after the FEC: CRC, tag, KIND and zero fields are checked in turn. -/
def State.checkFlits (s : State) (l : Nat) (msg : List Nat) : Instr :=
  let bs := leNats 300 (ofSymbols msg)
  let head := bs.take 16
  let w0 : Word := BitVec.ofNat 64 (ofNats (head.take 8))
  let text := (bs.drop 16).take 256
  let g := headGroup w0 (BitVec.ofNat 64 (ofNats (head.drop 8))) (BitVec.ofNat 2048 (ofNats text))
  let kind := headKind w0
  let ks := aesKeys (leNats 32 (s.flitKey g.part.toNat g.nid.toNat).toNat)
  let from_ := tget (0, 0) s.dev.wiring l
  let iv := flitIv from_.1 from_.2 g.seq.toNat
  if ofNats ((bs.drop 288).take 4) ≠ crc32 (bs.take 272) then .flitGroupRejected g.seq .crc
  else if !untagged kind && (bs.drop 272).take 16 != gcmTag ks iv head text then .flitGroupRejected g.seq .gcm
  else if 9 ≤ kind ∧ kind ≤ 13 then .flitGroupRejected g.seq .kind
  else if wfld w0 24 0 ≠ 0 ∨ ofNats (bs.drop 292) ≠ 0 then .flitGroupRejected g.seq .zeroField
  else
    kindEvent kind (if untagged kind then g else { g with data := BitVec.ofNat 2048 (ofNats (gcmCrypt ks iv text)) })

/-- What 320 bytes on a link come to: the event of the group, or of its rejection, and whether the FEC corrected it. -/
def State.takeWire (s : State) (l : Nat) (bs : List Byte) : Instr × Bool :=
  let sy := symbols 256 (ofBytes bs)
  match rsCorrect sy with
  | none => (.flitGroupRejected (BitVec.ofNat 32 (ofSymbols (sy.take 7) / 2 ^ 32)) .fec, false)
  | some v => (s.checkFlits l (v.take 240), v != sy)

end Sys2Proof.Machine
end

