-- ==== Sys2Proof/Machine/Streams.lean ====
section
/-!
DEFINITION. What a stream does besides issuing its own next word: the end of a `hold` and of a `resync` (09 R175, R181),
asynchronous traps (02 R37, 09 R178, R188, R189), and a contrail follower's words (13 R237-R239).
-/

namespace Sys2Proof.Machine

/-! ### Waits that end -/

/-- Whether a stream's wait of a kind is over. -/
def State.waitOver (s : State) (c : Nat) (h : Half) (r : Run) : Bool :=
  let t := s.stream c h
  t.run == r && t.wake ≤ s.mcyc c

/-- The idle cycles of a `hold`, or the sixteen of a spill, fill, `wsave` or `wrest`, are over: the stream is due. -/
def State.holdExpire (s : State) (c : Nat) (h : Half) : State :=
  if s.waitOver c h .hold || s.waitOver c h .window then s.modStream c h fun t => { t with run := .due } else s

/-- The next word after a `hold` is due (09 R175). -/
def execHoldExpire (s : State) : Host.Outcome State Fault Refusal := .next (s.holdExpire s.cur.core s.cur.half)

/-- The restart cycle of a `resync`: the word at RSTPC is due (09 R181). -/
def State.resyncResume (s : State) (c : Nat) (h : Half) : State :=
  if s.waitOver c h .resync then s.modStream c h fun t => { t with run := .due, pc := t.traps.rstPc } else s

/-- A stream restarts at its restart point (09 R181). -/
def execResyncResume (s : State) : Host.Outcome State Fault Refusal := .next (s.resyncResume s.cur.core s.cur.half)

/-! ### Asynchronous traps -/

/-- Whether a core's domain runs (13 R242, R243). -/
def State.live (s : State) (c : Nat) : Bool := (s.core c).bound.isSome && (s.bindAt (s.bindOf c)).st == .running

/-- Whether a stream of a core may issue in this cycle: its domain runs, and its X-half is not reserved (02 R21). DESIGN
CHOICE (log 64): an asynchronous trap that falls on a reserved cycle, away from a mark, waits for the next other cycle. -/
def State.mayIssue (s : State) (c : Nat) (h : Half) : Bool :=
  s.live c && !(h == .x && (s.core c).reserved (s.mcyc c))

/-- Whether the stream's next word is due in this cycle: it runs, and a follower has its leader's word, or resumes from a
park of its own with a fault or a trap. -/
def State.wordDue (s : State) (c : Nat) (h : Half) : Bool :=
  let t := s.stream c h
  t.run == .due && t.wake ≤ s.mcyc c && (!t.follows || t.taken.isSome || t.parkTrap (s.mcyc c) s.ccyc)

/-- Whether an asynchronous trap is taken in this cycle: at a mark that ends a park (09 R178), a cycle of which the sweep
stream may own, or instead of a stop-flagged word that is due (02 R37). DESIGN CHOICE (log 63): a trap is taken before a
stop-flagged word that follows a `mod` too, and drops the `mod`. -/
def State.asyncDue (s : State) (c : Nat) (h : Half) : Bool :=
  let t := s.stream c h
  h != .w && t.skip == 0 && t.trapReady s.ccyc && s.live c &&
    ((t.run == .due && t.afterPark && t.wake == s.mcyc c) ||
      (s.mayIssue c h && s.wordDue c h && (t.afterPark || s.flagDue c t)))

/-- Whether a pending fault is precise: that of a schedule entry that ran as the stream's word (22 R347, R349). -/
def PTrap.precise (p : PTrap) : Bool := p.code < 0x11 || (p.code == 0x13 && 2 ≤ p.sub && p.sub ≤ 6)

/-- Whether a stream takes the precise fault of a schedule entry in this cycle: instead of its next word, flagged or not.
DEDUCED (log 20). -/
def State.preciseDue (s : State) (c : Nat) (h : Half) : Bool :=
  let t := s.stream c h
  h != .w && t.skip == 0 && t.pend.any (·.precise) && s.live c &&
    ((t.run == .due && t.afterPark && t.wake == s.mcyc c) || (s.mayIssue c h && s.wordDue c h))

/-- A stream takes the precise fault of a schedule entry, as the word that is due then would raise it (09 R188, R189). -/
def State.preciseEntry (s : State) (c : Nat) (h : Half) : State :=
  match (s.stream c h).pend.find? (·.precise) with
  | none => s
  | some p =>
    let x := s.ctxAt c h
    (s.modStream c h fun t => { t with pend := t.pend.erase p }).raise x p.code p.sub p.tval x.addr (s.stream c h).scnt

/-- The pending trap with the lowest code, and of those the oldest, among those that may be taken (09 R189). -/
def Stream.nextTrap (t : Stream) (now : Nat) : Option PTrap :=
  (t.pend.filter (·.since < now)).foldl (fun r p =>
    match r with
    | some q => if p.code < q.code then some p else some q
    | none => some p) none

/-- Entry of an asynchronous trap: this cycle is the entry cycle, and the handler's first word issues in the next (09
R188). A follower leaves its contrail (13 R239). -/
def State.asyncEntry (s : State) (c : Nat) (h : Half) : State :=
  if s.asyncDue c h then
    match (s.stream c h).nextTrap s.ccyc with
    | none => s
    | some p =>
      let m := s.mcyc c
      (s.detach c h).modStream c h fun t =>
        { t with pend := t.pend.erase p }.enter true p.code p.sub p.tval t.pc m (m + 1) t.scnt
  else s

/-- An asynchronous trap is taken instead of the word due (02 R37, 09 R188). -/
def execAsyncTrapEntry (s : State) : Host.Outcome State Fault Refusal :=
  .next (if s.preciseDue s.cur.core s.cur.half then s.preciseEntry s.cur.core s.cur.half
    else s.asyncEntry s.cur.core s.cur.half)

/-! ### Contrails (13 R237-R239) -/

/-- The leader of a core's contrail. -/
def Bind.leader (k : Bind) : Nat := k.layer * 1024 + k.unit + wfld (k.rec_ 1) 40 31

/-- The word that reaches a follower in this cycle: the one that its leader issued HOP cycles ago. -/
def State.arriving (s : State) (c : Nat) (h : Half) : Option Issued :=
  let k := s.core c
  let b := s.bindOf c
  if k.ctl.role ≠ 2 then none
  else (s.stream (s.bindAt b).leader h).issued.find? fun i => i.mcyc + k.ctl.hop == s.mcycOf b

/-- Whether a follower has something to do with the word that reaches it in this cycle. DESIGN CHOICE (log 103): a word
that reaches a follower inside its own `hold` or window operation is missed, as by a parked one (13 R238). -/
def State.followDue (s : State) (c : Nat) (h : Half) : Bool :=
  let t := s.stream c h
  h != .w && s.live c && t.taken.isNone &&
    match s.arriving c h with
    | none => false
    | some i =>
      if t.follows then
        match t.run with
        | .due => i.ends || (t.wake ≤ s.mcyc c && !t.parkTrap (s.mcyc c) s.ccyc)
        | .ended | .absent | .stopped => false
        | _ => true
      else
        s.mayIssue c h && t.run == .due && t.wake ≤ s.mcyc c && t.skip == 0 && !t.traps.priv && !t.trapReady s.ccyc &&
          i.addr == t.pc && i.flag && !i.ends && s.flagDue c t

/-- The leader's word reaches a follower: its `trap 0` ends the follower, a due follower takes the word, a parked one
misses it and leaves the contrail; a detached one that issues the same word takes its leader's words again. DESIGN CHOICE
(log 22): a word that reaches an X-half whose cycle is the sweep stream's is missed too, and issues next. -/
def State.follow (s : State) (c : Nat) (h : Half) : State :=
  match s.arriving c h with
  | none => s
  | some i =>
    let free := s.mayIssue c h
    s.modStream c h fun t =>
      if t.follows && i.ends then { t with run := .ended, pend := [], pending := none, skip := 0 }
      else if t.run == .due && free then { t with follows := true, taken := some (i.addr, i.bits), pc := i.addr }
      else if t.run == .due then { t with follows := false, pc := i.addr }
      else { t with follows := false }

/-- A follower and the word of its leader that reaches it (13 R238, R239). -/
def execContrailFollowerIssue (s : State) : Host.Outcome State Fault Refusal :=
  .next (if s.followDue s.cur.core s.cur.half then s.follow s.cur.core s.cur.half else s)

end Sys2Proof.Machine
end

