-- ==== Sys2Proof/Machine/Sched.lean ====
section
/-!
DEFINITION. What happens next (02 R20-R22, R33-R37; 13 R241): within a cycle, what comes from outside, what was fixed for
the cycle, marks, engines and firmware's timed actions, and then the words of the streams, cores in increasing number;
when nothing is left, the next cycle begins (log 6).
-/

namespace Sys2Proof.Machine

/-- An action: an event or word, with the unit it concerns. -/
abbrev Act := Focus × Instr

/-- The unit of a stream. -/
def ofStream (c : Nat) (h : Half) : Focus := { Focus.init with core := c, half := h }
/-- The unit of a bind entry. -/
def ofBind (b : Nat) : Focus := { Focus.init with bind := b }
/-- The unit of a partition. -/
def ofPart (p : Nat) : Focus := { Focus.init with part := p }
/-- The unit of a field. -/
def ofField (b fkey : Nat) : Focus := { Focus.init with bind := b, fkey := fkey }

/-! ### What comes from outside -/

/-- Where the coordinator takes an event among those that arrive in one cycle (18 R317), where its device has not started
the epoch; others come first, decisions among them. -/
def eventRank : Instr → Nat
  | .abortRequest _ => 1
  | .expired _ => 2
  | .owner _ => 3
  | .fault _ => 4
  | .vote _ => 5
  | _ => 0

/-- The same of an input, which may be a group's bytes. -/
def State.inputRank (s : State) : Input → Nat
  | .event _ e => eventRank e
  | .wire l bs => eventRank (s.takeWire l bs).1
  | _ => 0

/-- The input that is next among those due, by its place. -/
def State.nextInput (s : State) : Option (Nat × Input) :=
  (s.inputs.zipIdx.filter fun i => i.1.1 ≤ s.ccyc).foldl (fun r i =>
    match r with
    | some q => if s.inputRank i.1.2 < s.inputRank q.2 then some (i.2, i.1.2) else some q
    | none => some (i.2, i.1.2)) none

/-- Whether an instruction is a word, which only a stream issues. -/
def isWord : Instr → Bool
  | .unassignedEncoding _ => true
  | i => encode i != 0

/-- What the host writes (14 R254-R257): host memory, or HBM through a partition's map, under the key of the page; and a
scratchpad or a column, where a launch's regions have initial bytes (01 R385; DESIGN CHOICE, log 85). -/
def State.hostWrite (s : State) (key : Nat) (bs : List Byte) : State :=
  if regionOf key = 1 ∨ regionOf key = 3 then s.write key bs
  else if regionOf key = 5 then { s with mem := s.mem.write key bs }
  else if regionOf key = 4 then
    -- a locked source byte of a collective keeps its value (18 R316); host memory is the host's own (log 107)
    let pa := key - region 4
    let k := s.parts.findSome? fun p =>
      (p.2.pages.find? fun e =>
        e.1.getLsbD 63 && !e.1.getLsbD 60 && within (wfld e.2 35 0 * 2 ^ 16) (pageSize e.1) pa).map fun e =>
        p.2.key (wfld e.1 51 48)
    bs.zipIdx.foldl (fun s b => if s.locked false (pa + b.2) then s else s.hbmWrite (k.getD 0) (pa + b.2) [b.1]) s
  else s

/-- Settings from outside. -/
def State.settings (s : State) (device : Nat) (service heater : Bool) (members : List Nat) :
    State :=
  s.modDev fun d =>
    { d with id := device, bootService := service, heaterHost := heater, fabric := { d.fabric with members := members } }

/-! ### What the device does by itself -/

/-- The first of a list that has an answer. -/
def firstOf {α : Type} : List (Unit → Option α) → Option α
  | [] => none
  | f :: r => match f () with
    | some x => some x
    | none => firstOf r

/-- An action if its condition holds. -/
def when' (p : Bool) (f : Focus) (i : Instr) : Option Act := if p then some (f, i) else none

/-- Boot's own steps (24 R365). -/
def State.bootAct (s : State) : Option Act :=
  let ph := s.dev.boot.phase
  if ph = 0 ∨ ph = 2 ∨ ph = 3 ∨ ph = 4 then some (Focus.init, .boot none)
  else when' s.fetchLate Focus.init .bootFetchTimeout

/-- The streams of the cores that domains hold, in the order in which they issue. -/
def State.heldStreams (s : State) : List (Nat × Half) :=
  s.cores.flatMap fun k => if k.2.bound.isSome then [(k.1, .a), (k.1, .x), (k.1, .w)] else []

/-- Idle counts and window operations that end in this cycle. -/
def State.waitAct (s : State) : Option Act :=
  s.heldStreams.findSome? fun q =>
    when' (s.waitOver q.1 q.2 .hold || s.waitOver q.1 q.2 .window) (ofStream q.1 q.2) .holdExpire

/-- Streams that `resync` resumes in this cycle: a mark finds them parked to resume at it (13 R240). -/
def State.resyncAct (s : State) : Option Act :=
  s.heldStreams.findSome? fun q => when' (s.waitOver q.1 q.2 .resync) (ofStream q.1 q.2) .resyncResume

/-- Followers whose next word reaches them; `parked` asks for those that do not run. -/
def State.followAct (s : State) (parked : Bool) : Option Act :=
  s.heldStreams.findSome? fun q =>
    when' (((s.stream q.1 q.2).run != .due) == parked && s.followDue q.1 q.2) (ofStream q.1 q.2) .contrailFollowerIssue

/-- Marks: each domain's, and then the chip's. -/
def State.markAct (s : State) : Option Act :=
  match s.binds.find? fun k => k.2.st != .free && s.domainMarkDue k.1 with
  | some k => some (ofBind k.1, .domainMark)
  | none => when' s.chipMarkDue Focus.init .chipMark

/-- Whether a domain's fields go on: it runs or is held (13 R243, 17 R308). -/
def Bind.sweeps (k : Bind) : Bool := k.st == .running || k.st == .held

/-- Sweep boundaries, with their flips. -/
def State.boundaryAct (s : State) : Option Act :=
  s.binds.findSome? fun k =>
    if !k.2.sweeps then none
    else k.2.fields.findSome? fun f => when' (s.boundaryDue k.1 f) (ofField k.1 f.fkey) .sweepBoundary

/-- Fields: halo exchanges and built-in updates. -/
def State.fieldAct (s : State) : Option Act :=
  s.binds.findSome? fun k =>
    if !k.2.sweeps then none
    else
      match k.2.fields.findSome? (fun f => when' (s.haloDue k.1 f) (ofField k.1 f.fkey) Instr.haloExchange) with
      | some a => some a
      | none => (s.heldCores k.1).findSome? fun c => when' (s.builtinDue c) (ofStream c .w) .builtinSiteUpdate

/-- Domains: ends, drains, restores, restarts and withdrawals. -/
def State.domainAct (s : State) : Option Act :=
  s.binds.findSome? fun k =>
    if k.2.st == .free then none
    else if s.kernelOver k.1 then some (ofBind k.1, .kernelEnd)
    else if s.endNow k.1 then some (ofBind k.1, .domainEnd 0)
    else if s.withdrawDue k.1 then some (ofBind k.1, .preemptionWithdraw)
    else if s.drainDue k.1 then some (ofBind k.1, .drainComplete)
    else if s.restoreDue k.1 then some (ofBind k.1, .resumeRequest)
    else when' (s.restartNow k.1) (ofBind k.1) .timetableRestart

/-- Merges of private views that are due. -/
def State.mergeAct (s : State) : Option Act :=
  s.mergeDue.map fun q => ({ Focus.init with part := q.1, region := q.2 }, .mergeApply)

/-- Outcomes of collectives, with their flips. -/
def State.outcomeAct (s : State) : Option Act := when' s.outcomeDue.isSome Focus.init .collectiveOutcome

/-- Messages and reports that arrive. -/
def State.arrivalAct (s : State) : Option Act := when' s.arrivalDue.isSome Focus.init .messageArrival

/-- End-status words that can be written, and their entries freed. -/
def State.endAct (s : State) : Option Act :=
  s.binds.findSome? fun k =>
    when' (k.2.st != .free && k.2.ending.isSome && s.endDue k.1) (ofBind k.1) .endStatusWrite

/-- Messages that leave, deadlines and links. -/
def State.netAct (s : State) : Option Act :=
  match s.parts.find? fun p => s.tokenDue p.1 with
    | some p => some (ofPart p.1, .messageTokenSend)
    | none =>
      if s.deadlineDue.isSome then some (Focus.init, .stratusDeadline)
      else if s.timeoutDue.isSome then some (Focus.init, .decisionTimeout)
      else when' s.replayDue.isSome Focus.init .replayTimeout

/-- Released schedule entries whose slot cycle has come. -/
def State.schedAct (s : State) : Option Act :=
  s.heldStreams.findSome? fun q => when' (s.entryDue q.1 q.2).isSome (ofStream q.1 q.2) .staticCopyEntryRun

/-! ### Words -/

/-- Whether the sweep stream issues in this cycle: its domain runs or is held, a site is in update, and its word is due. -/
def State.sweepDue (s : State) (c : Nat) : Bool :=
  let k := s.core c
  k.bound.isSome && (s.bindAt (s.bindOf c)).sweeps && k.sw.run == .due && k.sw.wake ≤ s.mcyc c && (s.siteNow c).isSome

/-- Whether a stream issues a word in this cycle. -/
def State.issueDue (s : State) (c : Nat) (h : Half) : Bool :=
  if h = .w then s.sweepDue c else s.mayIssue c h && s.wordDue c h

/-- The word that a stream issues: the one at the address that its leader sent, or at its own (04 R71). -/
def State.nextWord (s : State) (c : Nat) (h : Half) : Nat × Bool :=
  s.fetch2 (s.bindOf c) (((s.stream c h).taken.map (·.1)).getD (s.stream c h).pc)

/-- What a stream does in this cycle. -/
def State.streamAct (s : State) (c : Nat) (h : Half) : Option Act :=
  if s.preciseDue c h || s.asyncDue c h then some (ofStream c h, .asyncTrapEntry)
  else if s.issueDue c h then
    let w := (if h = .w then s.beginUpdate c else s).nextWord c h
    some ({ ofStream c h with bits := w.1 }, fetched w)
  else none

/-- The first stream with something to do. -/
def State.issueAct (s : State) : Option Act := s.heldStreams.findSome? fun q => s.streamAct q.1 q.2

/-- The agenda's next entry, if its place in the cycle is one of those asked for. -/
def State.headAct (s : State) (p : Nat → Bool) : Option Act :=
  match s.headDue with
  | some e => when' (p e.prio) Focus.init e.ev.instr
  | none => none

/-- A step of a partition's reset, before anything else of its cycle (22 R357). -/
def State.resetAct (s : State) : Option Act := s.resetDue.map fun p => (ofPart p, .partitionReset)

/-- What comes first in a cycle, also before what comes from outside: the flips of published buffers, with what else takes
effect as the cycle begins (16 R293, R297). -/
def State.flipAct (s : State) : Option Act :=
  firstOf [fun _ => s.resetAct, fun _ => s.boundaryAct, fun _ => s.outcomeAct, fun _ => s.headAct (· == 0)]

/-- What happens next in this cycle, apart from what comes from outside: flips come before what lands in the cycle, what
engines and interfaces write before the atomics (06 R126), and everything that writes memory at a fixed cycle before the
engines' reads (15 R271, 16 R297); then waits, marks, what the units do by themselves, the words, and a clock step. -/
def State.nextAct (s : State) : Option Act :=
  firstOf
    [fun _ => s.flipAct, fun _ => s.headAct (decide <| · < 7), fun _ => s.arrivalAct, fun _ => s.headAct (decide <| · < 10),
     fun _ => s.mergeAct, fun _ => s.endAct, fun _ => s.headAct fun _ => true, fun _ => s.bootAct, fun _ => s.waitAct,
     fun _ => s.followAct false, fun _ => s.markAct, fun _ => s.resyncAct, fun _ => s.followAct true, fun _ => s.fieldAct,
     fun _ => s.domainAct, fun _ => when' s.scrubDue Focus.init .hbmScrub, fun _ => s.netAct, fun _ => s.schedAct, fun _ => s.issueAct,
     fun _ => when' s.clockDue Focus.init .chipMark]

/-- The state in which an action is executed: `cur` names its unit, and a sweep stream's update has begun. -/
def State.focus (s : State) (a : Act) : State :=
  let s' := if a.1.half = .w ∧ isWord a.2 then s.beginUpdate a.1.core else s
  { s' with cur := a.1 }

/-! ### The next cycle -/

/-- Streams parked by `rejoin` or `cwait` are sampled in the cycle before a mark (09 R177, 10 R203). -/
def Core.sample (k : Core) (f : Stream → Sample) : Core :=
  { k with sa := { k.sa with sample := f k.sa }, sx := { k.sx with sample := f k.sx }, sw := { k.sw with sample := f k.sw } }

/-- The samples of a domain that runs or is held, if the next cycle is a mark of it (a held one may be released there). -/
def State.sampleDomain (s : State) (b : Nat) : State :=
  let k := s.bindAt b
  if (k.st == .running || k.st == .held) && (s.mcycOf b + 1) % k.interval == 0 then
    (s.heldCores b).foldl (fun t c => t.modCore c fun q => q.sample (s.sampleOf c))
      (s.noteRead ((s.heldCores b).flatMap s.watchKeys))
  else s

/-- What an entry notes at the end of a cycle: whether its counters read zero where the next cycle may freeze it, and the
drain cycle of a freeze (22 R342). -/
def State.noteDrain (s : State) (b : Nat) : State :=
  let k := s.bindAt b
  let d := s.drained b
  let w := s.matrixOfPart b
  let next := k.st == .held || (k.st == .running && (s.mcycOf b + 1) % k.interval == 0)
  s.modBind b fun k =>
    { k with quiet := next && d && w.isEmpty,
             freeze := k.freeze.map fun f =>
               if f.drain.isNone && d && !(f.waits.any w.contains) then { f with drain := some (s.ccyc + 1) } else f }

/-- The next cycle begins. -/
def State.tick (s : State) : State :=
  let l := (s.binds.filter fun k => k.2.st != .free).map (·.1)
  let s := s.closeColls
  let s := l.foldl (fun s b => s.sampleDomain b) s
  let s := l.foldl (fun s b => s.noteDrain b) s
  let s := s.beat
  { s with ccyc := s.ccyc + 1 }

/-! ### A step -/

/-- What a step does: it executes an instruction in a state, or it only changes the state. -/
inductive Choice where
  | run (i : Instr) (s : State)
  | next (s : State)
  deriving DecidableEq, Repr

/-- What an input that is due does; a word is no input, and has no effect. -/
def State.takeInput_ (s : State) (i : Input) : Choice :=
  match i with
  | .event f .caddyBeatLand => .next (({ s with cur := f } : State).lateBeat f.xfer)
  | .event f e => if isWord e then .next s else .run e { s with cur := f }
  | .wire l bs =>
    let r := s.takeWire l bs
    let s := if r.2 then s.noteErr .link true l else s
    .run r.1 { s with cur := { Focus.init with link := l } }
  | .lockLost c w => .next (s.ringFault c w true)
  | .readStatus => .next (s.report (.bootStatus s.bootWord))
  | .getVersion => .next (s.report (.version Config.spdmVersion))
  | .readLog => .next (s.readLog none)
  | .readPartLog p => .next (s.readLog (some p))
  | .hostWrite k bs => .next (s.hostWrite k bs)
  | .settings i b h m => .next (s.settings i b h m)

/-- What the machine does next: a flip that is due, an input that is due, what else is due in this cycle, or the next
cycle. -/
def State.choose (s : State) : Choice :=
  match s.flipAct with
  | some a => .run a.2 (s.focus a)
  | none =>
    match s.nextInput with
    | some q => { s with inputs := s.inputs.eraseIdx q.1 }.takeInput_ q.2
    | none =>
      match s.nextAct with
      | some a => .run a.2 (s.focus a)
      | none => .next s.tick

end Sys2Proof.Machine
end

