-- ==== Sys2Proof/Machine/Vector.lean ====
section
/-!
DEFINITION. The vector unit (07): element-wise arithmetic, logic, compares, lane moves, reduction, conversions, the dot
product, random bits and the transcendental functions.
-/

namespace Sys2Proof.Machine

/-! ### Masks, sources and results -/

/-- The mask registers as sources: 16 names no mask (04 R78). -/
def maskSrc (m : BitVec 5) : List Nat := if m = 16 then [] else [m.toNat]

/-- The checks of a vector word: reserved codes, then the uses of its scalar and mask registers (07 R138, R155). -/
def vecPre (bad : Bool) (m : BitVec 5) (lat : Nat) (srcs dsts : List Nat) (s : State) (x : Ctx) : Pre :=
  let p := usePre lat srcs dsts s x
  { p with reserved := p.reserved || bad || 24 ≤ m.toNat }

/-- A vector register. -/
def State.vreg (s : State) (x : Ctx) (n : Nat) : Vec := vget 0 (s.core x.core).regs.v n

/-- Read the scalar sources and the mask (07 R138; 02 R27): `k` gets the state, the sources' values and the mask. -/
def withMask (m : BitVec 5) (srcs : List Nat) (k : State → List Word → BitVec 32 → Res) (s : State) (x : Ctx) : Res :=
  match s.sources x 0 (srcs ++ maskSrc m) with
  | .fault s' code sub tv => .trap s' code sub tv
  | .vals s' l => k s' l (if m = 16 then BitVec.allOnes 32 else (arg l srcs.length).setWidth 32)

/-- The register whose active elements of width `w` are `f e`, for the first `n` elements. -/
def elems (w n : Nat) (m : BitVec 32) (f : Nat → Nat) : Vec :=
  vecOf w ((List.range n).map fun e => if active m w e then f e else 0)

/-- A vector result whose active elements are `f e` (07 R137). -/
def vecRes (lat : Nat) (d : BitVec 4) (w : Nat) (m : BitVec 32) (s : State) (x : Ctx) (f : Nat → Nat) : Res :=
  .ok (s.landVec x.core x.half false lat d.toNat (laneMask m) (elems w (1024 / w) m f)) .seq

/-- The stream's rounding mode (02 R44). -/
def State.rnd (s : State) (x : Ctx) : Rnd := Rnd.ofRm (x.stream s).rm

/-- The latency of an arithmetic word: 2 for integers, 4 for floating point (02 R33). -/
def arithLat (t : Nat) : Nat := if fmtInt t then 2 else 4

/-- An integer element as an arithmetic word reads it: as its code says where the word compares (`ord`) or a `mod` limits
the result to the code's range, and signed otherwise, so that the codes of a width differ nowhere else (07 R139).
DEDUCED (log 94). -/
def elemInt (md : Option ModWord) (ord : Bool) (t v : Nat) : Int :=
  if ord || (md.map fun m => m.sat || m.clamp).getD false then intOf t v else sval v (fmtWidth t)

/-- An element-wise arithmetic result: integer or floating point, finished under a `mod` (07 R139). -/
def arith (md : Option ModWord) (rnd : Rnd) (ovf ord : Bool) (t : Nat) (fi : List Int → Int) (ff : List FVal → FVal)
    (l : List Nat) : Nat :=
  if fmtInt t then finishInt md (fmtSigned t) (fmtWidth t) (fi (l.map (elemInt md ord t)))
  else finishF md t rnd ovf (ff (l.map (valOf t)))

/-- An element-wise word over the registers `srcs` (07 R139, R140). -/
def elemOp (sf bad ord : Bool) (d : BitVec 4) (srcs : List Nat) (m : BitVec 5) (t : Nat) (fi : List Int → Int)
    (ff : Rnd → List FVal → FVal) (s : State) : Host.Outcome State Fault Refusal :=
  issueWord sf .x true (vecPre bad m 1 [] [])
    (fun s x =>
      let md := (x.stream s).pending
      let ovf := (x.stream s).ovf
      let rnd := s.rnd x
      let vs := srcs.map (s.vreg x)
      withMask m [] (fun s' _ mk =>
        vecRes (arithLat t) d (fmtWidth t) mk s' x fun e =>
          arith md rnd ovf ord t fi (ff rnd) (vs.map fun v => velem v (fmtWidth t) e)) s x) s

/-- Operand `i` of an element. -/
def iarg (l : List Int) (i : Nat) : Int := l.getD i 0
/-- Operand `i` of a floating-point element. -/
def farg (l : List FVal) (i : Nat) : FVal := l.getD i .nan

/-- `vadd.t vd, va, vb, m`: va + vb (07 R139). -/
def execVadd (sf : Bool) (d a : BitVec 4) (b m : BitVec 5) (t : BitVec 3) (s : State) :
    Host.Outcome State Fault Refusal :=
  elemOp sf (16 ≤ b.toNat) false d [a.toNat, b.toNat] m t.toNat (fun l => iarg l 0 + iarg l 1) (fun r l => (farg l 0).add r (farg l 1)) s

/-- `vsub.t vd, va, vb, m`: va - vb (07 R139). -/
def execVsub (sf : Bool) (d a : BitVec 4) (b m : BitVec 5) (t : BitVec 3) (s : State) :
    Host.Outcome State Fault Refusal :=
  elemOp sf (16 ≤ b.toNat) false d [a.toNat, b.toNat] m t.toNat (fun l => iarg l 0 - iarg l 1) (fun r l => (farg l 0).add r (farg l 1).neg) s

/-- `vmul.t vd, va, vb, m`: va * vb (07 R139). -/
def execVmul (sf : Bool) (d a : BitVec 4) (b m : BitVec 5) (t : BitVec 3) (s : State) :
    Host.Outcome State Fault Refusal :=
  elemOp sf (16 ≤ b.toNat) false d [a.toNat, b.toNat] m t.toNat (fun l => iarg l 0 * iarg l 1) (fun _ l => (farg l 0).mul (farg l 1)) s

/-- `vmin.t vd, va, vb, m`: minimum (07 R139). -/
def execVmin (sf : Bool) (d a : BitVec 4) (b m : BitVec 5) (t : BitVec 3) (s : State) :
    Host.Outcome State Fault Refusal :=
  elemOp sf (16 ≤ b.toNat) true d [a.toNat, b.toNat] m t.toNat (fun l => min (iarg l 0) (iarg l 1)) (fun _ l => (farg l 0).min (farg l 1)) s

/-- `vmax.t vd, va, vb, m`: maximum (07 R139). -/
def execVmax (sf : Bool) (d a : BitVec 4) (b m : BitVec 5) (t : BitVec 3) (s : State) :
    Host.Outcome State Fault Refusal :=
  elemOp sf (16 ≤ b.toNat) true d [a.toNat, b.toNat] m t.toNat (fun l => max (iarg l 0) (iarg l 1)) (fun _ l => (farg l 0).max (farg l 1)) s

/-- The magnitude of an integer element, read as signed for the signed and the unsigned codes alike (07 R139; log 26). -/
def absElem (t : Nat) (v : Int) : Int := (sval (wrapBits (fmtWidth t) v) (fmtWidth t)).natAbs

/-- `vabs.t vd, va, m`: |va| (07 R139). -/
def execVabs (sf : Bool) (d a : BitVec 4) (m : BitVec 5) (t : BitVec 3) (s : State) :
    Host.Outcome State Fault Refusal :=
  elemOp sf false false d [a.toNat] m t.toNat (fun l => absElem t.toNat (iarg l 0)) (fun _ l => (farg l 0).abs) s

/-- `vneg.t vd, va, m`: -va (07 R139). -/
def execVneg (sf : Bool) (d a : BitVec 4) (m : BitVec 5) (t : BitVec 3) (s : State) :
    Host.Outcome State Fault Refusal :=
  elemOp sf false false d [a.toNat] m t.toNat (fun l => -(iarg l 0)) (fun _ l => (farg l 0).neg) s

/-- `vfma.t vd, va, vb, m`: va * vb + vd, rounded once; only `.f32` and `.bf16` (07 R140). -/
def execVfma (sf : Bool) (d a : BitVec 4) (b m : BitVec 5) (t : BitVec 3) (s : State) :
    Host.Outcome State Fault Refusal :=
  elemOp sf (16 ≤ b.toNat || t.toNat < 6) false d [a.toNat, b.toNat, d.toNat] m t.toNat (fun _ => 0) (fun r l => FVal.fma r (farg l 0) (farg l 1) (farg l 2)) s

/-- `vfms.t vd, va, vb, m`: va * vb - vd, rounded once; only `.f32` and `.bf16` (07 R140). -/
def execVfms (sf : Bool) (d a : BitVec 4) (b m : BitVec 5) (t : BitVec 3) (s : State) :
    Host.Outcome State Fault Refusal :=
  elemOp sf (16 ≤ b.toNat || t.toNat < 6) false d [a.toNat, b.toNat, d.toNat] m t.toNat (fun _ => 0) (fun r l => FVal.fma r (farg l 0) (farg l 1) (farg l 2).neg) s

/-- `vfnma.t vd, va, vb, m`: -(va * vb) + vd, rounded once; only `.f32` and `.bf16` (07 R140). -/
def execVfnma (sf : Bool) (d a : BitVec 4) (b m : BitVec 5) (t : BitVec 3) (s : State) :
    Host.Outcome State Fault Refusal :=
  elemOp sf (16 ≤ b.toNat || t.toNat < 6) false d [a.toNat, b.toNat, d.toNat] m t.toNat (fun _ => 0) (fun r l => FVal.fma r (farg l 0).neg (farg l 1) (farg l 2)) s

/-! ### Logic, shifts and compares (07 R141-R144) -/

/-- An element-wise word without a numeric result: `f` takes the elements' bits. -/
def bitOp (sf : Bool) (bad : Bool) (d a : BitVec 4) (b m : BitVec 5) (t : BitVec 3) (f : Nat → Nat → Nat → Nat)
    (s : State) : Host.Outcome State Fault Refusal :=
  issueWord sf .x false (vecPre (bad || 16 ≤ b.toNat) m 1 [] [])
    (fun s x =>
      let w := fmtWidth t.toNat
      let va := s.vreg x a.toNat
      let vb := s.vreg x b.toNat
      withMask m [] (fun s' _ mk => vecRes 2 d w mk s' x fun e => f w (velem va w e) (velem vb w e)) s x) s

/-- Bits of `w` as a bit vector. -/
def bv (w v : Nat) : BitVec w := BitVec.ofNat w v

/-- `vand.t vd, va, vb, m`: va AND vb; integer formats (07 R141). -/
def execVand (sf : Bool) (d a : BitVec 4) (b m : BitVec 5) (t : BitVec 3) (s : State) :
    Host.Outcome State Fault Refusal :=
  bitOp sf (6 ≤ t.toNat) d a b m t (fun w p q => (bv w p &&& bv w q).toNat) s

/-- `vor.t vd, va, vb, m`: va OR vb; integer formats (07 R141). -/
def execVor (sf : Bool) (d a : BitVec 4) (b m : BitVec 5) (t : BitVec 3) (s : State) :
    Host.Outcome State Fault Refusal :=
  bitOp sf (6 ≤ t.toNat) d a b m t (fun w p q => (bv w p ||| bv w q).toNat) s

/-- `vxor.t vd, va, vb, m`: va XOR vb; integer formats (07 R141). -/
def execVxor (sf : Bool) (d a : BitVec 4) (b m : BitVec 5) (t : BitVec 3) (s : State) :
    Host.Outcome State Fault Refusal :=
  bitOp sf (6 ≤ t.toNat) d a b m t (fun w p q => (bv w p ^^^ bv w q).toNat) s

/-- `vandn.t vd, va, vb, m`: va AND NOT vb; integer formats (07 R141). -/
def execVandn (sf : Bool) (d a : BitVec 4) (b m : BitVec 5) (t : BitVec 3) (s : State) :
    Host.Outcome State Fault Refusal :=
  bitOp sf (6 ≤ t.toNat) d a b m t (fun w p q => (bv w p &&& ~~~(bv w q)).toNat) s

/-- `vshl.t vd, va, vb, m`: va shifted left by the whole element of vb; integer formats (07 R141). -/
def execVshl (sf : Bool) (d a : BitVec 4) (b m : BitVec 5) (t : BitVec 3) (s : State) :
    Host.Outcome State Fault Refusal :=
  bitOp sf (6 ≤ t.toNat) d a b m t (fun w p q => if w ≤ q then 0 else p * 2 ^ q % 2 ^ w) s

/-- `vshr.t vd, va, vb, m`: va shifted right, zeros in; integer formats (07 R141). -/
def execVshr (sf : Bool) (d a : BitVec 4) (b m : BitVec 5) (t : BitVec 3) (s : State) :
    Host.Outcome State Fault Refusal :=
  bitOp sf (6 ≤ t.toNat) d a b m t (fun w p q => if w ≤ q then 0 else p / 2 ^ q) s

/-- `vsra.t vd, va, vb, m`: va shifted right, sign bits in; integer formats (07 R141). -/
def execVsra (sf : Bool) (d a : BitVec 4) (b m : BitVec 5) (t : BitVec 3) (s : State) :
    Host.Outcome State Fault Refusal :=
  bitOp sf (6 ≤ t.toNat) d a b m t (fun w p q => wrapBits w (sval p w / (2 ^ min q w : Nat))) s

/-- A compare as a mask of the element (07 R142). -/
def cmpOp (sf : Bool) (d a : BitVec 4) (b m : BitVec 5) (t : BitVec 3) (fi : Int → Int → Bool) (ff : FVal → FVal → Bool)
    (s : State) : Host.Outcome State Fault Refusal :=
  bitOp sf false d a b m t (fun w p q =>
    let c := if fmtInt t.toNat then fi (intOf t.toNat p) (intOf t.toNat q) else ff (valOf t.toNat p) (valOf t.toNat q)
    if c then 2 ^ w - 1 else 0) s

/-- `vcmp.eq.t`: equal (07 R142). -/
def execVcmpEq (sf : Bool) (d a : BitVec 4) (b m : BitVec 5) (t : BitVec 3) (s : State) :
    Host.Outcome State Fault Refusal :=
  cmpOp sf d a b m t (fun p q => p == q) (fun p q => FVal.eq p q) s

/-- `vcmp.ne.t`: not equal, true with a NaN (07 R142). -/
def execVcmpNe (sf : Bool) (d a : BitVec 4) (b m : BitVec 5) (t : BitVec 3) (s : State) :
    Host.Outcome State Fault Refusal :=
  cmpOp sf d a b m t (fun p q => p != q) (fun p q => !(FVal.eq p q)) s

/-- `vcmp.lt.t`: less (07 R142). -/
def execVcmpLt (sf : Bool) (d a : BitVec 4) (b m : BitVec 5) (t : BitVec 3) (s : State) :
    Host.Outcome State Fault Refusal :=
  cmpOp sf d a b m t (fun p q => p < q) (fun p q => FVal.lt p q) s

/-- `vcmp.le.t`: less or equal (07 R142). -/
def execVcmpLe (sf : Bool) (d a : BitVec 4) (b m : BitVec 5) (t : BitVec 3) (s : State) :
    Host.Outcome State Fault Refusal :=
  cmpOp sf d a b m t (fun p q => p ≤ q) (fun p q => FVal.lt p q || FVal.eq p q) s

/-- `vsel vd, va, vb, m`: every lane is written, from va where the mask bit is set (07 R143). -/
def execVsel (sf : Bool) (d a : BitVec 4) (b m : BitVec 5) (s : State) : Host.Outcome State Fault Refusal :=
  issueWord sf .x false (vecPre (16 ≤ b.toNat) m 1 [] [])
    (fun s x =>
      let va := s.vreg x a.toNat
      let vb := s.vreg x b.toNat
      withMask m [] (fun s' _ mk =>
        let k := laneMask mk
        .ok (s'.landVec x.core x.half false 2 d.toNat (BitVec.allOnes 1024) ((va &&& k) ||| (vb &&& ~~~k))) .seq) s x) s

/-- A scalar result of a vector word: sources and mask are read, and `f` gives the value (07 R138). -/
def scalarOut (lat : Nat) (d m : BitVec 5) (f : BitVec 32 → Word) (s : State) (x : Ctx) : Res :=
  match s.sources x d.toNat (maskSrc m) with
  | .fault s' code sub tv => .trap s' code sub tv
  | .vals s' l => deliver s s' x lat d.toNat (f (if m = 16 then BitVec.allOnes 32 else (arg l 0).setWidth 32))

/-- `vmsk.t d, va, m`: one bit for each active nonzero element; 32-bit and 16-bit integer codes (07 R144). -/
def execVmsk (sf : Bool) (a : BitVec 4) (b m : BitVec 5) (t : BitVec 3) (s : State) :
    Host.Outcome State Fault Refusal :=
  issueWord sf .x false (vecPre (!(t == 0 || t == 1 || t == 3 || t == 4)) m 2 [] [b.toNat])
    (fun s x =>
      let w := fmtWidth t.toNat
      let va := s.vreg x a.toNat
      scalarOut 2 b m (fun mk => BitVec.ofNat 64 ((List.range (1024 / w)).foldl (fun acc e =>
        acc + (if active mk w e && velem va w e != 0 then 2 ^ e else 0)) 0)) s x) s

/-! ### Lane moves (07 R145) -/

/-- `vperm.t vd, va, vb, m` (07 R145). -/
def execVperm (sf : Bool) (d a : BitVec 4) (b m : BitVec 5) (t : BitVec 3) (s : State) :
    Host.Outcome State Fault Refusal :=
  issueWord sf .x false (vecPre (16 ≤ b.toNat) m 1 [] [])
    (fun s x =>
      let w := fmtWidth t.toNat
      let va := s.vreg x a.toNat
      let vb := s.vreg x b.toNat
      withMask m [] (fun s' _ mk => vecRes 2 d w mk s' x fun e => velem va w (velem vb w e % (1024 / w))) s x) s

/-- A lane move with a scalar operand: `f` gives element e from va and the scalar (07 R145). -/
def laneOp (sf : Bool) (d a : BitVec 4) (b m : BitVec 5) (t : BitVec 3) (f : Nat → Vec → Word → Nat → Nat) (s : State) :
    Host.Outcome State Fault Refusal :=
  issueWord sf .x false (vecPre false m 1 [b.toNat] [])
    (fun s x =>
      let w := fmtWidth t.toNat
      let va := s.vreg x a.toNat
      withMask m [b.toNat] (fun s' l mk => vecRes 2 d w mk s' x (f w va (arg l 0))) s x) s

/-- `vbcast.t vd, va, r, m` (07 R145). -/
def execVbcast (sf : Bool) (d a : BitVec 4) (b m : BitVec 5) (t : BitVec 3) (s : State) :
    Host.Outcome State Fault Refusal :=
  laneOp sf d a b m t (fun w va r _ => velem va w (r.toNat % (1024 / w))) s

/-- `vslide.t vd, va, r, m`: element e takes va[e + r], or zero beyond the register (07 R145). -/
def execVslide (sf : Bool) (d a : BitVec 4) (b m : BitVec 5) (t : BitVec 3) (s : State) :
    Host.Outcome State Fault Refusal :=
  laneOp sf d a b m t (fun w va r e =>
    let i := (e : Int) + r.toInt
    if 0 ≤ i ∧ i < (1024 / w : Nat) then velem va w i.toNat else 0) s

/-- `vsplat.t vd, r, m` (07 R145). -/
def execVsplat (sf : Bool) (d : BitVec 4) (b m : BitVec 5) (t : BitVec 3) (s : State) :
    Host.Outcome State Fault Refusal :=
  laneOp sf d 0 b m t (fun _ _ r _ => r.toNat) s

/-- The bits of an element as a scalar: sign-extended for signed codes, else zero-extended (07 R145, R146). -/
def scalarBits (t v : Nat) : Word := if fmtSigned t then toWord (sval v (fmtWidth t)) else BitVec.ofNat 64 v

/-- `vext.t d, va, x`: M5 names the index register, and 16 gives index 0 (07 R145). -/
def execVext (sf : Bool) (a : BitVec 4) (b i : BitVec 5) (t : BitVec 3) (s : State) :
    Host.Outcome State Fault Refusal :=
  issueWord sf .x false (vecPre false i 2 [] [b.toNat])
    (fun s x =>
      let w := fmtWidth t.toNat
      let va := s.vreg x a.toNat
      regOp 2 b.toNat (maskSrc i) (fun l => scalarBits t.toNat (velem va w ((arg l 0).toNat % (1024 / w)))) s x) s

/-- `vins.t vd, r, x`: one element is written (07 R145). -/
def execVins (sf : Bool) (d : BitVec 4) (b i : BitVec 5) (t : BitVec 3) (s : State) :
    Host.Outcome State Fault Refusal :=
  issueWord sf .x false (vecPre false i 1 [b.toNat] [])
    (fun s x =>
      let w := fmtWidth t.toNat
      match s.sources x 0 (b.toNat :: maskSrc i) with
      | .fault s' code sub tv => .trap s' code sub tv
      | .vals s' l =>
        let e := (arg l 1).toNat % (1024 / w)
        let mask := BitVec.ofNat 1024 ((2 ^ w - 1) * 2 ^ (w * e))
        let v := BitVec.ofNat 1024 ((arg l 0).toNat % 2 ^ w * 2 ^ (w * e))
        .ok (s'.landVec x.core x.half false 2 d.toNat mask v) .seq) s

/-! ### Reduction (07 R146) -/

/-- One level of the fixed tree. -/
def redLevel {α : Type} (op : α → α → α) : List α → List α
  | a :: b :: r => op a b :: redLevel op r
  | l => l

/-- The levels of the tree until at most two values are left, with fuel. -/
def redTree {α : Type} (op : α → α → α) : Nat → List α → List α
  | 0, l => l
  | n + 1, l => if l.length ≤ 2 then l else redTree op n (redLevel op l)

/-- A single active element under a `mod` (07 R146, 05 R99): its value is finished; a NaN passes through as it is, but
under SAT. -/
def reduceOne (m : ModWord) (rnd : Rnd) (ovf : Bool) (t v : Nat) : Nat :=
  if fmtInt t then finishInt (some m) (fmtSigned t) (fmtWidth t) (intOf t v)
  else if valOf t v = .nan ∧ m.sat = false then v
  else finishF (some m) t rnd ovf (valOf t v)

/-- The bits of a reduction of width `w` over the active elements: `fi` and `ff` are the operation, exact (07 R146). DESIGN
CHOICE (log 81): a single active element passes unchanged under `min` and `max` even where it is a NaN that is not the
canonical one. -/
def reduce (md : Option ModWord) (rnd : Rnd) (ovf : Bool) (t : Nat) (fi : Int → Int → Int) (ff : FVal → FVal → FVal)
    (l : List Nat) : Nat :=
  match l with
  | [] => 0
  | [v] =>
    match md with
    | none => v
    | some m => reduceOne m rnd ovf t v
  | l =>
    if fmtInt t then
      match redTree fi 8 (l.map (intOf t)) with
      | [a, b] => finishInt md (fmtSigned t) (fmtWidth t) (fi a b)
      | _ => 0
    else
      match redTree (fun a b => valOf t (finishF none t rnd ovf (ff a b))) 8 (l.map (valOf t)) with
      | [a, b] => finishF md t rnd ovf (ff a b)
      | _ => 0

/-- A reduction to a scalar, landing at c+8 (07 R146). -/
def redOp (sf : Bool) (a : BitVec 4) (b m : BitVec 5) (t : BitVec 3) (fi : Int → Int → Int)
    (ff : Rnd → FVal → FVal → FVal) (s : State) : Host.Outcome State Fault Refusal :=
  issueWord sf .x true (vecPre false m 8 [] [b.toNat])
    (fun s x =>
      let w := fmtWidth t.toNat
      let va := s.vreg x a.toNat
      let md := (x.stream s).pending
      let ovf := (x.stream s).ovf
      let rnd := s.rnd x
      scalarOut 8 b m (fun mk =>
        let l := ((List.range (1024 / w)).filter fun e => active mk w e).map fun e => velem va w e
        scalarBits t.toNat (reduce md rnd ovf t.toNat fi (ff rnd) l)) s x) s

/-- `vred.sum.t d, va, m`: sum (07 R146). -/
def execVredSum (sf : Bool) (a : BitVec 4) (b m : BitVec 5) (t : BitVec 3) (s : State) :
    Host.Outcome State Fault Refusal :=
  redOp sf a b m t ((· + ·)) (fun r p q => p.add r q) s

/-- `vred.min.t d, va, m`: minimum (07 R146). -/
def execVredMin (sf : Bool) (a : BitVec 4) (b m : BitVec 5) (t : BitVec 3) (s : State) :
    Host.Outcome State Fault Refusal :=
  redOp sf a b m t (min) (fun _ p q => p.min q) s

/-- `vred.max.t d, va, m`: maximum (07 R146). -/
def execVredMax (sf : Bool) (a : BitVec 4) (b m : BitVec 5) (t : BitVec 3) (s : State) :
    Host.Outcome State Fault Refusal :=
  redOp sf a b m t (max) (fun _ p q => p.max q) s

/-! ### Random bits and conversions (07 R147-R151, R153) -/

/-- B of R149: the low 48 bits of ox7 of the X-half's bank. -/
def State.rngBase (s : State) (x : Ctx) : Nat := wfld (s.ox x 7) 47 0
/-- Whether ox7 holds reserved bits (07 R149). -/
def State.rngBad (s : State) (x : Ctx) : Bool := wfld (s.ox x 7) 63 48 != 0

/-- The draw of destination element `e` (07 R149). -/
def State.draw (s : State) (x : Ctx) (e : Nat) : Nat :=
  let k := (s.core x.core).ctl
  (gen k.gseed k.gstrm.toNat ((s.rngBase x + e) % 2 ^ 48)).toNat

/-- `vrng.n32 vd, m` (07 R153). -/
def execVrng (sf : Bool) (d : BitVec 4) (m : BitVec 5) (s : State) : Host.Outcome State Fault Refusal :=
  issueWord sf .x false (fun s x => vecPre (s.rngBad x) m 1 [] [] s x)
    (fun s x => withMask m [] (fun s' _ mk => vecRes 4 d 32 mk s' x (s.draw x)) s x) s

/-- The converted bits of an element (07 R148; 03 R56). Into an integer format a `mod` acts on the exact value with no
floor, and the result is rounded and limited whatever SAT and CLAMP hold; between integer formats the value wraps where no
`mod` acts. DEDUCED (log 82): a `mod` with no flags and scale 0 leaves that wrap as it is (05 R99). DESIGN CHOICE (log
108): an integer 0 negated on its way into a floating-point format is -0. -/
def convert (md : Option ModWord) (rnd : Rnd) (ovf : Bool) (src dst v : Nat) : Nat :=
  if fmtInt dst then
    let round (f : FVal) := wrapBits (fmtWidth dst) (f.toInt rnd (intRange dst).1 (intRange dst).2)
    let plain := if fmtInt src then wrapBits (fmtWidth dst) (intOf src v) else round (valOf src v)
    match md with
    | none => plain
    | some k => if k.idle then plain else round (k.scaleF (valOf src v))
  else finishF md dst rnd ovf (valOf src v)

/-- The formats that `vcvt` refuses (07 R147). -/
def vcvtBad (y x : BitVec 4) (r : BitVec 1) : Bool :=
  8 < y.toNat || 8 < x.toNat || y == x || (r == 1 && x.toNat < 6)

/-- `vcvt.D.S[.sr] vd, va, m` (07 R148). -/
def execVcvt (sf : Bool) (d a y : BitVec 4) (r : BitVec 1) (m : BitVec 5) (f : BitVec 4) (s : State) :
    Host.Outcome State Fault Refusal :=
  issueWord sf .x true (fun s x => vecPre (vcvtBad y f r || (r == 1 && s.rngBad x)) m 1 [] [] s x)
    (fun s x =>
      let ws := fmtWidth y.toNat
      let wd := fmtWidth f.toNat
      let n := 1024 / max ws wd
      let va := s.vreg x a.toNat
      let md := (x.stream s).pending
      let ovf := (x.stream s).ovf
      let rnd (e : Nat) := if r = 1 then Rnd.sto (s.draw x e) else s.rnd x
      withMask m [] (fun s' _ mk => vecRes 3 d wd mk s' x fun e =>
        if e < n then convert md (rnd e) ovf y.toNat f.toNat (velem va ws e) else 0) s x) s

/-- `vscl.D.S[.sr] vd, va, m`: blocks of 16 with their scale codes (07 R150). -/
def execVscl (sf : Bool) (d a y : BitVec 4) (r : BitVec 1) (m : BitVec 5) (f : BitVec 4) (s : State) :
    Host.Outcome State Fault Refusal :=
  issueWord sf .x false
    (fun s x =>
      let bad := !(y == 6 || y == 7) || !(f == 8 || f == 9)
      vecPre (bad || (r == 1 && s.rngBad x)) m 1 [] [] s x)
    (fun s x =>
      let ws := fmtWidth y.toNat
      let n := 1024 / ws
      let va := s.vreg x a.toNat
      let ovf := (x.stream s).ovf
      let rnd (e : Nat) := if r = 1 then Rnd.sto (s.draw x e) else s.rnd x
      let blocks := (List.range (n / 16)).map fun b =>
        scaleBlock (f == 9) ovf (fun i => rnd (16 * b + i))
          ((List.range 16).map fun i => valOf y.toNat (velem va ws (16 * b + i)))
      let bytes := (blocks.map (·.2)).flatten ++ blocks.map (·.1)
      withMask m [] (fun s' _ mk => vecRes 3 d 8 mk s' x fun e => bytes.getD e 0) s x) s

/-- A conversion of the register's 128 bytes by blocks of 16 (07 R151). -/
def planeOp (sf : Bool) (d a : BitVec 4) (m : BitVec 5) (f : Nat → List Byte → List Byte) (s : State) :
    Host.Outcome State Fault Refusal :=
  issueWord sf .x false (vecPre false m 1 [] [])
    (fun s x =>
      let va := s.vreg x a.toNat
      let bs := (List.range 128).map fun e => BitVec.ofNat 8 (velem va 8 e)
      let out := ((chunks 16 8 bs).map (f 16)).flatten
      withMask m [] (fun s' _ mk => vecRes 3 d 8 mk s' x fun e => (out.getD e 0).toNat) s x) s

/-- `vbpk.bp.i8 vd, va, m` (07 R151). -/
def execVbpk (sf : Bool) (d a : BitVec 4) (m : BitVec 5) (s : State) : Host.Outcome State Fault Refusal :=
  planeOp sf d a m toPlanes s

/-- `vbupk.i8.bp vd, va, m` (07 R151). -/
def execVbupk (sf : Bool) (d a : BitVec 4) (m : BitVec 5) (s : State) : Host.Outcome State Fault Refusal :=
  planeOp sf d a m unplane s

/-! ### The dot product and the transcendental functions (07 R152, R154) -/

/-- An unscaled element of a `vdot16` source (07 R152). -/
def dotElem (f v : Nat) : Elem :=
  match f with
  | 8 => elemE4m3 v
  | 7 => elemBf16 v
  | _ => .fin (sval v 8) 0

/-- The block sum of group `g` (07 R152; 03 R65, R67). -/
def dotSum (f : Nat) (va vb : Vec) (g : Nat) : Nat :=
  let w := if f = 7 then 16 else 8
  blockSum (adderW f) ((List.range 16).map fun i =>
    (dotElem f (velem va w (16 * g + i))).mul (dotElem f (velem vb w (16 * g + i))))

/-- `vdot16.t vd, va, vb, m` (07 R152). -/
def execVdot16 (sf : Bool) (d a : BitVec 4) (b m : BitVec 5) (f : BitVec 4) (s : State) :
    Host.Outcome State Fault Refusal :=
  issueWord sf .x true (vecPre (16 ≤ b.toNat || !(f == 7 || f == 8 || f == 9)) m 1 [] [])
    (fun s x =>
      let va := s.vreg x a.toNat
      let vb := s.vreg x b.toNat
      let vd := s.vreg x d.toNat
      let md := (x.stream s).pending
      let ovf := (x.stream s).ovf
      let g := if f = 7 then 4 else 8
      withMask m [] (fun s' _ mk =>
        let mk := mk &&& BitVec.ofNat 32 (2 ^ g - 1)
        vecRes 6 d 32 mk s' x fun e =>
          finishF md 6 .even ovf
            ((unpackIeee f32 (velem vd 32 e)).add .even (unpackIeee f32 (dotSum f.toNat va vb e)))) s x) s

/-- A transcendental word: `f` gives the value that FP32 rounding ends; `.bf16` rounds that FP32 result again (07 R154;
03 R64). -/
def transOp (sf : Bool) (d a : BitVec 4) (m : BitVec 5) (t : BitVec 3) (f : FVal → FVal) (s : State) :
    Host.Outcome State Fault Refusal :=
  issueWord sf .x true (vecPre (t.toNat < 6) m 1 [] [])
    (fun s x =>
      let w := fmtWidth t.toNat
      let va := s.vreg x a.toNat
      let md := (x.stream s).pending
      let ovf := (x.stream s).ovf
      withMask m [] (fun s' _ mk => vecRes 8 d w mk s' x fun e =>
        let v := f (valOf t.toNat (velem va w e))
        if t = 6 then finishF md 6 .even ovf v
        else finishF md 7 .even ovf (unpackIeee f32 (packIeee f32 .even false v))) s x) s

/-- `vrcp.t vd, va, m`: 1/x (03 R60-R64, 07 R154). -/
def execVrcp (sf : Bool) (d a : BitVec 4) (m : BitVec 5) (t : BitVec 3) (s : State) :
    Host.Outcome State Fault Refusal :=
  transOp sf d a m t FVal.rcp s

/-- `vrsq.t vd, va, m`: 1/sqrt x (03 R60-R64, 07 R154). -/
def execVrsq (sf : Bool) (d a : BitVec 4) (m : BitVec 5) (t : BitVec 3) (s : State) :
    Host.Outcome State Fault Refusal :=
  transOp sf d a m t FVal.rsq s

/-- `vexp2.t vd, va, m`: 2^x (03 R60-R64, 07 R154). -/
def execVexp2 (sf : Bool) (d a : BitVec 4) (m : BitVec 5) (t : BitVec 3) (s : State) :
    Host.Outcome State Fault Refusal :=
  transOp sf d a m t FVal.exp2 s

/-- `vlog2.t vd, va, m`: log2 x (03 R60-R64, 07 R154). -/
def execVlog2 (sf : Bool) (d a : BitVec 4) (m : BitVec 5) (t : BitVec 3) (s : State) :
    Host.Outcome State Fault Refusal :=
  transOp sf d a m t FVal.log2 s

end Sys2Proof.Machine
end

