-- ==== Sys2Proof/Machine/Dispatch.lean ====
section
/-!
DEFINITION. One arm per row of the opcode table: a direct call of its meaning.
-/

namespace Sys2Proof.Machine

/-- What an instruction does: the word that the stream named by `cur` issues, or the event of the unit named by `cur`. -/
def exec (i : Instr) (s : State) : Host.Outcome State Fault Refusal :=
  match i with
  | .nop sf => Sys2Proof.Machine.execNop sf s
  | .nopHint sf n m => Sys2Proof.Machine.execNopHint sf n m s
  | .mod sf b n k t c => Sys2Proof.Machine.execMod sf b n k t c s
  | .movH sf a b => Sys2Proof.Machine.execMovH sf a b s
  | .addH sf a b => Sys2Proof.Machine.execAddH sf a b s
  | .subH sf a b => Sys2Proof.Machine.execSubH sf a b s
  | .andH sf a b => Sys2Proof.Machine.execAndH sf a b s
  | .orH sf a b => Sys2Proof.Machine.execOrH sf a b s
  | .xorH sf a b => Sys2Proof.Machine.execXorH sf a b s
  | .addiH sf a im => Sys2Proof.Machine.execAddiH sf a im s
  | .shliH sf a n => Sys2Proof.Machine.execShliH sf a n s
  | .shriH sf a n => Sys2Proof.Machine.execShriH sf a n s
  | .sraiH sf a n => Sys2Proof.Machine.execSraiH sf a n s
  | .liH sf d im => Sys2Proof.Machine.execLiH sf d im s
  | .skipz sf a n => Sys2Proof.Machine.execSkipz sf a n s
  | .skipnz sf a n => Sys2Proof.Machine.execSkipnz sf a n s
  | .setixH sf a => Sys2Proof.Machine.execSetixH sf a s
  | .addixH sf im => Sys2Proof.Machine.execAddixH sf im s
  | .ret sf => Sys2Proof.Machine.execRet sf s
  | .amovH sf a b => Sys2Proof.Machine.execAmovH sf a b s
  | .aaddiH sf a im => Sys2Proof.Machine.execAaddiH sf a im s
  | .rpt sf => Sys2Proof.Machine.execRpt sf s
  | .resync sf => Sys2Proof.Machine.execResync sf s
  | .rejoin a => Sys2Proof.Machine.execRejoin a s
  | .rtt sf => Sys2Proof.Machine.execRtt sf s
  | .brk sf n => Sys2Proof.Machine.execBrk sf n s
  | .wsave sf => Sys2Proof.Machine.execWsave sf s
  | .wrest sf => Sys2Proof.Machine.execWrest sf s
  | .launch sf n => Sys2Proof.Machine.execLaunch sf n s
  | .addW sf d a b => Sys2Proof.Machine.execAddW sf d a b s
  | .subW sf d a b => Sys2Proof.Machine.execSubW sf d a b s
  | .mul sf d a b => Sys2Proof.Machine.execMul sf d a b s
  | .mulh sf d a b => Sys2Proof.Machine.execMulh sf d a b s
  | .mulhn sf d a b => Sys2Proof.Machine.execMulhn sf d a b s
  | .div sf d a b => Sys2Proof.Machine.execDiv sf d a b s
  | .divn sf d a b => Sys2Proof.Machine.execDivn sf d a b s
  | .rem sf d a b => Sys2Proof.Machine.execRem sf d a b s
  | .remn sf d a b => Sys2Proof.Machine.execRemn sf d a b s
  | .andW sf d a b => Sys2Proof.Machine.execAndW sf d a b s
  | .orW sf d a b => Sys2Proof.Machine.execOrW sf d a b s
  | .xorW sf d a b => Sys2Proof.Machine.execXorW sf d a b s
  | .andn sf d a b => Sys2Proof.Machine.execAndn sf d a b s
  | .shl sf d a b => Sys2Proof.Machine.execShl sf d a b s
  | .shr sf d a b => Sys2Proof.Machine.execShr sf d a b s
  | .sra sf d a b => Sys2Proof.Machine.execSra sf d a b s
  | .cmpeq sf d a b => Sys2Proof.Machine.execCmpeq sf d a b s
  | .cmplt sf d a b => Sys2Proof.Machine.execCmplt sf d a b s
  | .cmpltn sf d a b => Sys2Proof.Machine.execCmpltn sf d a b s
  | .min sf d a b => Sys2Proof.Machine.execMin sf d a b s
  | .max sf d a b => Sys2Proof.Machine.execMax sf d a b s
  | .minn sf d a b => Sys2Proof.Machine.execMinn sf d a b s
  | .maxn sf d a b => Sys2Proof.Machine.execMaxn sf d a b s
  | .abs sf d a => Sys2Proof.Machine.execAbs sf d a s
  | .neg sf d a => Sys2Proof.Machine.execNeg sf d a s
  | .clz sf d a => Sys2Proof.Machine.execClz sf d a s
  | .ctz sf d a => Sys2Proof.Machine.execCtz sf d a s
  | .popc sf d a => Sys2Proof.Machine.execPopc sf d a s
  | .sext sf d a w => Sys2Proof.Machine.execSext sf d a w s
  | .zext sf d a w => Sys2Proof.Machine.execZext sf d a w s
  | .movW sf d a => Sys2Proof.Machine.execMovW sf d a s
  | .sel sf d a b c => Sys2Proof.Machine.execSel sf d a b c s
  | .addiW sf d a im => Sys2Proof.Machine.execAddiW sf d a im s
  | .cmpeqi sf d a im => Sys2Proof.Machine.execCmpeqi sf d a im s
  | .cmplti sf d a im => Sys2Proof.Machine.execCmplti sf d a im s
  | .shliW sf d a n => Sys2Proof.Machine.execShliW sf d a n s
  | .shriW sf d a n => Sys2Proof.Machine.execShriW sf d a n s
  | .sraiW sf d a n => Sys2Proof.Machine.execSraiW sf d a n s
  | .liW sf d im => Sys2Proof.Machine.execLiW sf d im s
  | .lui sf d a im => Sys2Proof.Machine.execLui sf d a im s
  | .bfx sf d a l p => Sys2Proof.Machine.execBfx sf d a l p s
  | .bfi sf d a l p => Sys2Proof.Machine.execBfi sf d a l p s
  | .oxset sf n a => Sys2Proof.Machine.execOxset sf n a s
  | .oxli sf n im => Sys2Proof.Machine.execOxli sf n im s
  | .movx sf d k => Sys2Proof.Machine.execMovx sf d k s
  | .movxw sf a k => Sys2Proof.Machine.execMovxw sf a k s
  | .setixW sf a k => Sys2Proof.Machine.execSetixW sf a k s
  | .addixW sf k => Sys2Proof.Machine.execAddixW sf k s
  | .mfs sf d n => Sys2Proof.Machine.execMfs sf d n s
  | .mts sf a n => Sys2Proof.Machine.execMts sf a n s
  | .trap sf n => Sys2Proof.Machine.execTrap sf n s
  | .br sf im => Sys2Proof.Machine.execBr sf im s
  | .call4 sf im => Sys2Proof.Machine.execCall4 sf im s
  | .call8 sf im => Sys2Proof.Machine.execCall8 sf im s
  | .call12 sf im => Sys2Proof.Machine.execCall12 sf im s
  | .brz sf a im => Sys2Proof.Machine.execBrz sf a im s
  | .brnz sf a im => Sys2Proof.Machine.execBrnz sf a im s
  | .loop sf d im => Sys2Proof.Machine.execLoop sf d im s
  | .jr sf a => Sys2Proof.Machine.execJr sf a s
  | .callr4 sf a => Sys2Proof.Machine.execCallr4 sf a s
  | .callr8 sf a => Sys2Proof.Machine.execCallr8 sf a s
  | .callr12 sf a => Sys2Proof.Machine.execCallr12 sf a s
  | .hold sf a im => Sys2Proof.Machine.execHold sf a im s
  | .aadd sf d a b => Sys2Proof.Machine.execAadd sf d a b s
  | .aaddiW sf d a im => Sys2Proof.Machine.execAaddiW sf d a im s
  | .amovW sf d a => Sys2Proof.Machine.execAmovW sf d a s
  | .kset sf d a => Sys2Proof.Machine.execKset sf d a s
  | .kloop sf d im => Sys2Proof.Machine.execKloop sf d im s
  | .lds sf q a t d => Sys2Proof.Machine.execLds sf q a t d s
  | .ldl sf q a t d => Sys2Proof.Machine.execLdl sf q a t d s
  | .sts sf q a t d => Sys2Proof.Machine.execSts sf q a t d s
  | .stl sf q a t d => Sys2Proof.Machine.execStl sf q a t d s
  | .vlds sf q a m d => Sys2Proof.Machine.execVlds sf q a m d s
  | .vldl sf q a m d => Sys2Proof.Machine.execVldl sf q a m d s
  | .vsts sf q a m d => Sys2Proof.Machine.execVsts sf q a m d s
  | .vstl sf q a m d => Sys2Proof.Machine.execVstl sf q a m d s
  | .vgath sf p q a m x d => Sys2Proof.Machine.execVgath sf p q a m x d s
  | .vscat sf p q a m x d => Sys2Proof.Machine.execVscat sf p q a m x d s
  | .ldt sf q a y t => Sys2Proof.Machine.execLdt sf q a y t s
  | .amadd sf p q a g z o => Sys2Proof.Machine.execAmadd sf p q a g z o s
  | .amswp sf p q a g z o => Sys2Proof.Machine.execAmswp sf p q a g z o s
  | .amcas sf p q a g z h o => Sys2Proof.Machine.execAmcas sf p q a g z h o s
  | .amand sf p q a g z o => Sys2Proof.Machine.execAmand sf p q a g z o s
  | .amor sf p q a g z o => Sys2Proof.Machine.execAmor sf p q a g z o s
  | .amminI sf p q a g z o => Sys2Proof.Machine.execAmminI sf p q a g z o s
  | .amminN sf p q a g z o => Sys2Proof.Machine.execAmminN sf p q a g z o s
  | .ammaxI sf p q a g z o => Sys2Proof.Machine.execAmmaxI sf p q a g z o s
  | .ammaxN sf p q a g z o => Sys2Proof.Machine.execAmmaxN sf p q a g z o s
  | .ldacq sf p q a z o => Sys2Proof.Machine.execLdacq sf p q a z o s
  | .strel sf p q a z o => Sys2Proof.Machine.execStrel sf p q a z o s
  | .fence sf o => Sys2Proof.Machine.execFence sf o s
  | .stacq sf q a o => Sys2Proof.Machine.execStacq sf q a o s
  | .strls sf q a o => Sys2Proof.Machine.execStrls sf q a o s
  | .send sf x a n => Sys2Proof.Machine.execSend sf x a n s
  | .rcvp sf q a => Sys2Proof.Machine.execRcvp sf q a s
  | .vadd sf d a b m t => Sys2Proof.Machine.execVadd sf d a b m t s
  | .vsub sf d a b m t => Sys2Proof.Machine.execVsub sf d a b m t s
  | .vmul sf d a b m t => Sys2Proof.Machine.execVmul sf d a b m t s
  | .vmin sf d a b m t => Sys2Proof.Machine.execVmin sf d a b m t s
  | .vmax sf d a b m t => Sys2Proof.Machine.execVmax sf d a b m t s
  | .vabs sf d a m t => Sys2Proof.Machine.execVabs sf d a m t s
  | .vneg sf d a m t => Sys2Proof.Machine.execVneg sf d a m t s
  | .vsel sf d a b m => Sys2Proof.Machine.execVsel sf d a b m s
  | .vand sf d a b m t => Sys2Proof.Machine.execVand sf d a b m t s
  | .vor sf d a b m t => Sys2Proof.Machine.execVor sf d a b m t s
  | .vxor sf d a b m t => Sys2Proof.Machine.execVxor sf d a b m t s
  | .vandn sf d a b m t => Sys2Proof.Machine.execVandn sf d a b m t s
  | .vshl sf d a b m t => Sys2Proof.Machine.execVshl sf d a b m t s
  | .vshr sf d a b m t => Sys2Proof.Machine.execVshr sf d a b m t s
  | .vsra sf d a b m t => Sys2Proof.Machine.execVsra sf d a b m t s
  | .vfma sf d a b m t => Sys2Proof.Machine.execVfma sf d a b m t s
  | .vfms sf d a b m t => Sys2Proof.Machine.execVfms sf d a b m t s
  | .vfnma sf d a b m t => Sys2Proof.Machine.execVfnma sf d a b m t s
  | .vredSum sf a b m t => Sys2Proof.Machine.execVredSum sf a b m t s
  | .vredMin sf a b m t => Sys2Proof.Machine.execVredMin sf a b m t s
  | .vredMax sf a b m t => Sys2Proof.Machine.execVredMax sf a b m t s
  | .vrng sf d m => Sys2Proof.Machine.execVrng sf d m s
  | .vmsk sf a b m t => Sys2Proof.Machine.execVmsk sf a b m t s
  | .vcmpEq sf d a b m t => Sys2Proof.Machine.execVcmpEq sf d a b m t s
  | .vcmpNe sf d a b m t => Sys2Proof.Machine.execVcmpNe sf d a b m t s
  | .vcmpLt sf d a b m t => Sys2Proof.Machine.execVcmpLt sf d a b m t s
  | .vcmpLe sf d a b m t => Sys2Proof.Machine.execVcmpLe sf d a b m t s
  | .vperm sf d a b m t => Sys2Proof.Machine.execVperm sf d a b m t s
  | .vbcast sf d a b m t => Sys2Proof.Machine.execVbcast sf d a b m t s
  | .vslide sf d a b m t => Sys2Proof.Machine.execVslide sf d a b m t s
  | .vext sf a b x t => Sys2Proof.Machine.execVext sf a b x t s
  | .vins sf d b x t => Sys2Proof.Machine.execVins sf d b x t s
  | .vsplat sf d b m t => Sys2Proof.Machine.execVsplat sf d b m t s
  | .vrcp sf d a m t => Sys2Proof.Machine.execVrcp sf d a m t s
  | .vrsq sf d a m t => Sys2Proof.Machine.execVrsq sf d a m t s
  | .vexp2 sf d a m t => Sys2Proof.Machine.execVexp2 sf d a m t s
  | .vlog2 sf d a m t => Sys2Proof.Machine.execVlog2 sf d a m t s
  | .vcvt sf d a y r m x => Sys2Proof.Machine.execVcvt sf d a y r m x s
  | .vscl sf d a y r m x => Sys2Proof.Machine.execVscl sf d a y r m x s
  | .vbpk sf d a m => Sys2Proof.Machine.execVbpk sf d a m s
  | .vbupk sf d a m => Sys2Proof.Machine.execVbupk sf d a m s
  | .vdot16 sf d a b m f => Sys2Proof.Machine.execVdot16 sf d a b m f s
  | .mcfg sf c x => Sys2Proof.Machine.execMcfg sf c x s
  | .mcfgDrop sf c x => Sys2Proof.Machine.execMcfgDrop sf c x s
  | .mclaim sf p x => Sys2Proof.Machine.execMclaim sf p x s
  | .mfree sf p x => Sys2Proof.Machine.execMfree sf p x s
  | .mfill sf p x => Sys2Proof.Machine.execMfill sf p x s
  | .mma sf c p b h x => Sys2Proof.Machine.execMma sf c p b h x s
  | .mmaz sf c p b h x => Sys2Proof.Machine.execMmaz sf c p b h x s
  | .mrd sf c x => Sys2Proof.Machine.execMrd sf c x s
  | .mwb sf c x => Sys2Proof.Machine.execMwb sf c x s
  | .mzero sf c x => Sys2Proof.Machine.execMzero sf c x s
  | .mchk sf c x => Sys2Proof.Machine.execMchk sf c x s
  | .mtr sf p b x => Sys2Proof.Machine.execMtr sf p b x s
  | .ccopy sf o im l => Sys2Proof.Machine.execCcopy sf o im l s
  | .cdist sf o im l => Sys2Proof.Machine.execCdist sf o im l s
  | .cslot sf o im l => Sys2Proof.Machine.execCslot sf o im l s
  | .cseal sf o => Sys2Proof.Machine.execCseal sf o s
  | .cchk sf n => Sys2Proof.Machine.execCchk sf n s
  | .cwait n => Sys2Proof.Machine.execCwait n s
  | .cadv sf => Sys2Proof.Machine.execCadv sf s
  | .cpub sf o => Sys2Proof.Machine.execCpub sf o s
  | .cstat sf d => Sys2Proof.Machine.execCstat sf d s
  | .sname sf o im l => Sys2Proof.Machine.execSname sf o im l s
  | .sred sf o im l => Sys2Proof.Machine.execSred sf o im l s
  | .sgath sf o im l => Sys2Proof.Machine.execSgath sf o im l s
  | .sbc sf o im l => Sys2Proof.Machine.execSbc sf o im l s
  | .sstat sf d o => Sys2Proof.Machine.execSstat sf d o s
  | .sabort sf o im l => Sys2Proof.Machine.execSabort sf o im l s
  | .fdecl sf o => Sys2Proof.Machine.execFdecl sf o s
  | .fbind sf o => Sys2Proof.Machine.execFbind sf o s
  | .fcol sf o => Sys2Proof.Machine.execFcol sf o s
  | .frate sf o => Sys2Proof.Machine.execFrate sf o s
  | .fget sf j => Sys2Proof.Machine.execFget sf j s
  | .fset sf a => Sys2Proof.Machine.execFset sf a s
  | .fnext sf => Sys2Proof.Machine.execFnext sf s
  | .fsnap sf o im l => Sys2Proof.Machine.execFsnap sf o im l s
  | .fpub sf => Sys2Proof.Machine.execFpub sf s
  | .fstop sf => Sys2Proof.Machine.execFstop sf s
  | .fgo sf => Sys2Proof.Machine.execFgo sf s
  | .clockStepRequest n => Sys2Proof.Machine.execClockStepRequest n s
  | .hostPageItem item => Sys2Proof.Machine.execHostPageItem item s
  | .forcedRefresh stack slice delay => Sys2Proof.Machine.execForcedRefresh stack slice delay s
  | .contribution g => Sys2Proof.Machine.execContribution g s
  | .result g => Sys2Proof.Machine.execResult g s
  | .vote g => Sys2Proof.Machine.execVote g s
  | .commit g => Sys2Proof.Machine.execCommit g s
  | .abort g => Sys2Proof.Machine.execAbort g s
  | .expired g => Sys2Proof.Machine.execExpired g s
  | .owner g => Sys2Proof.Machine.execOwner g s
  | .fault g => Sys2Proof.Machine.execFault g s
  | .abortRequest g => Sys2Proof.Machine.execAbortRequest g s
  | .linkAck seq => Sys2Proof.Machine.execLinkAck seq s
  | .linkNak seq => Sys2Proof.Machine.execLinkNak seq s
  | .hostDeadlineExtend extend => Sys2Proof.Machine.execHostDeadlineExtend extend s
  | .linkRetrain ok => Sys2Proof.Machine.execLinkRetrain ok s
  | .hostMergeDecision goOn => Sys2Proof.Machine.execHostMergeDecision goOn s
  | .domainEnd fc => Sys2Proof.Machine.execDomainEnd fc s
  | .notifyWrite val => Sys2Proof.Machine.execNotifyWrite val s
  | .notifyWindowMap qid => Sys2Proof.Machine.execNotifyWindowMap qid s
  | .launchRecordAccept src => Sys2Proof.Machine.execLaunchRecordAccept src s
  | .partitionCreate cfg => Sys2Proof.Machine.execPartitionCreate cfg s
  | .boot image => Sys2Proof.Machine.execBoot image s
  | .bootService g => Sys2Proof.Machine.execBootService g s
  | .fuseRepair layer row pcol => Sys2Proof.Machine.execFuseRepair layer row pcol s
  | .heaterTuning taps => Sys2Proof.Machine.execHeaterTuning taps s
  | .hostHeaterSettings settings => Sys2Proof.Machine.execHostHeaterSettings settings s
  | .wavelengthRemoval channel wavelength => Sys2Proof.Machine.execWavelengthRemoval channel wavelength s
  | .thermalEvaluation hot hbm power => Sys2Proof.Machine.execThermalEvaluation hot hbm power s
  | .fabricHeartbeat heard => Sys2Proof.Machine.execFabricHeartbeat heard s
  | .fabricRecovery phase => Sys2Proof.Machine.execFabricRecovery phase s
  | .unassignedEncoding why => Sys2Proof.Machine.execUnassignedEncoding why s
  | .flitGroupRejected seq why => Sys2Proof.Machine.execFlitGroupRejected seq why s
  | .softError err => Sys2Proof.Machine.execSoftError err s
  | .launchQueueCreate qid base log => Sys2Proof.Machine.execLaunchQueueCreate qid base log s
  | .ideKm key => Sys2Proof.Machine.execIdeKm key s
  | .mark => Sys2Proof.Machine.execMark s
  | .await => Sys2Proof.Machine.execAwait s
  | .epntWrite => Sys2Proof.Machine.execEpntWrite s
  | .resultLanding => Sys2Proof.Machine.execResultLanding s
  | .storeLanding => Sys2Proof.Machine.execStoreLanding s
  | .atomicPerform => Sys2Proof.Machine.execAtomicPerform s
  | .holdExpire => Sys2Proof.Machine.execHoldExpire s
  | .asyncTrapEntry => Sys2Proof.Machine.execAsyncTrapEntry s
  | .resyncResume => Sys2Proof.Machine.execResyncResume s
  | .contrailFollowerIssue => Sys2Proof.Machine.execContrailFollowerIssue s
  | .domainMark => Sys2Proof.Machine.execDomainMark s
  | .chipMark => Sys2Proof.Machine.execChipMark s
  | .kernelEnd => Sys2Proof.Machine.execKernelEnd s
  | .mmaBlockStep => Sys2Proof.Machine.execMmaBlockStep s
  | .mmaResultWrite => Sys2Proof.Machine.execMmaResultWrite s
  | .mwbOutputLanding => Sys2Proof.Machine.execMwbOutputLanding s
  | .caddyBeatRead => Sys2Proof.Machine.execCaddyBeatRead s
  | .caddyBeatLand => Sys2Proof.Machine.execCaddyBeatLand s
  | .hostBeatLand => Sys2Proof.Machine.execHostBeatLand s
  | .overflowPageInstall => Sys2Proof.Machine.execOverflowPageInstall s
  | .staticCopyEntryRun => Sys2Proof.Machine.execStaticCopyEntryRun s
  | .stratusWordAccept => Sys2Proof.Machine.execStratusWordAccept s
  | .replayTimeout => Sys2Proof.Machine.execReplayTimeout s
  | .stratusDeadline => Sys2Proof.Machine.execStratusDeadline s
  | .decisionTimeout => Sys2Proof.Machine.execDecisionTimeout s
  | .collectiveOutcome => Sys2Proof.Machine.execCollectiveOutcome s
  | .haloExchange => Sys2Proof.Machine.execHaloExchange s
  | .sweepBoundary => Sys2Proof.Machine.execSweepBoundary s
  | .builtinSiteUpdate => Sys2Proof.Machine.execBuiltinSiteUpdate s
  | .mergeApply => Sys2Proof.Machine.execMergeApply s
  | .preemptionRequest => Sys2Proof.Machine.execPreemptionRequest s
  | .preemptionWithdraw => Sys2Proof.Machine.execPreemptionWithdraw s
  | .drainComplete => Sys2Proof.Machine.execDrainComplete s
  | .eviction => Sys2Proof.Machine.execEviction s
  | .resumeRequest => Sys2Proof.Machine.execResumeRequest s
  | .timetableRestart => Sys2Proof.Machine.execTimetableRestart s
  | .hostDomainResume => Sys2Proof.Machine.execHostDomainResume s
  | .brkRelease => Sys2Proof.Machine.execBrkRelease s
  | .endStatusWrite => Sys2Proof.Machine.execEndStatusWrite s
  | .notifyWindowUnmap => Sys2Proof.Machine.execNotifyWindowUnmap s
  | .launchPlacement => Sys2Proof.Machine.execLaunchPlacement s
  | .messageTokenSend => Sys2Proof.Machine.execMessageTokenSend s
  | .messageArrival => Sys2Proof.Machine.execMessageArrival s
  | .partitionReset => Sys2Proof.Machine.execPartitionReset s
  | .lockInterface => Sys2Proof.Machine.execLockInterface s
  | .getDeviceInterfaceReport => Sys2Proof.Machine.execGetDeviceInterfaceReport s
  | .startInterface => Sys2Proof.Machine.execStartInterface s
  | .stopInterface => Sys2Proof.Machine.execStopInterface s
  | .spdmAttestation => Sys2Proof.Machine.execSpdmAttestation s
  | .ideStreamFailure => Sys2Proof.Machine.execIdeStreamFailure s
  | .bootFetchTimeout => Sys2Proof.Machine.execBootFetchTimeout s
  | .hbmScrub => Sys2Proof.Machine.execHbmScrub s
  | .mfillContentsInPlace => Sys2Proof.Machine.execMfillContentsInPlace s
  | .mtrTransposeInPlace => Sys2Proof.Machine.execMtrTransposeInPlace s
  | .interfaceConfigurationChange => Sys2Proof.Machine.execInterfaceConfigurationChange s

end Sys2Proof.Machine
end

