-- ==== Sys2Proof/Machine/Place.lean ====
section
/-!
DEFINITION. A domain of one core set up by hand, so that one word is the next thing that happens (log 25): what the
launch of a kernel leaves, with the word at address 0 of its image.
-/

namespace Sys2Proof.Machine

/-- The stream that may issue a word: A-words the A-stream, the site words of a sweep routine the sweep stream, and the
rest the X-stream (04 R81-R88, R91). -/
def streamFor (w : Nat) : Half :=
  let op5 := w / 4 % 32
  let op6 := w / 4 % 64
  if w % 2 = 0 then (if op5 = 19 ∨ op5 = 20 then .a else .x)
  else if 26 ≤ op6 ∧ op6 ≤ 42 then .a
  else match decode w with
    | .fget .. | .fset .. | .fnext .. => .w
    | _ => .x

/-- A stream that is due at address 0. -/
def Stream.ready : Stream := { Stream.init with run := .due }

/-- A tile in a sweep, of a lattice of two by two sites, with a site routine at address 0. -/
def Tile.placed : Tile :=
  { Tile.init with
    st := .running, th := 2, tw := 2, lh := 2, lw := 2, ncat := 1, nb := 0, colours := 2, rate := 16,
    routine := .code 0, updating := true }

/-- The field of that tile, at the start of a sweep. -/
def FieldRun.placed : FieldRun :=
  { fkey := 0, win := 16, rnum := 16, startReq := false, start := some 0, n0 := 0, faulting := false, lastHalo := 1,
    lastBoundary := 1 }

/-- A core with one stream due and its registers as they are. -/
def Core.placed (k : Core) (h : Half) : Core :=
  { k with
    sa := if h = .a then Stream.ready else Stream.init
    sx := if h = .x then Stream.ready else Stream.init
    sw := if h = .w then Stream.ready else Stream.init
    tile := if h = .w then Tile.placed else Tile.init
    bound := some 0 }

/-- The bind entry of a running domain of core 0, with an image of two halfwords. -/
def Bind.placed (now : Nat) (h : Half) : Bind :=
  { Bind.init with
    st := .running, task := 1, record := [0, 0, 0, 2], slots := [BitVec.ofNat 64 (8 * 256 + 10), 0],
    fields := if h = .w then [FieldRun.placed] else [], base := now, lastMark := 1 }

/-- A partition that owns octet 0 and runs. -/
def Part.placed (now : Nat) : Part :=
  { Part.init with present := true, octets := [0], tdisp := .run, lastSend := now + 1 }

/-- A state in which the next thing that happens is that the word `w` issues. -/
def State.placeWord (s : State) (w : Nat) : State :=
  let h := streamFor w
  { s with
    cur := { ofStream 0 h with bits := if w % 2 = 0 then w % 2 ^ 16 else w % 2 ^ 32 }
    mem := s.mem.write (imgKey 0 0) (wordBytes 4 w)
    cores := tset (s.cores.map fun k => (k.1, { k.2 with bound := none })) 0 ((s.core 0).placed h)
    binds := [(0, Bind.placed s.ccyc h)]
    parts := [(0, Part.placed s.ccyc)]
    xfers := [], colls := [], net := [], agenda := [], inputs := []
    dev := { s.dev with boot := { s.dev.boot with phase := 5 }, links := [], lastChip := s.ccyc + 1, lastClock := s.ccyc + 1 } }

end Sys2Proof.Machine
end

