-- ==== Sys2Proof/Machine/Step.lean ====
section
/-!
DEFINITION. One step of the machine, and the state in which a given word is the next to issue.
-/

namespace Sys2Proof.Machine

/-- One step: what is chosen is executed. -/
def step (s : State) : Host.Outcome State Fault Refusal :=
  match s.choose with
  | .run i t => exec i t
  | .next t => .next t

/-- `s` with the instruction whose bits are `w` as the next to issue, on core 0 (log 25). -/
def State.withFetchWord (s : State) (nbits w : Nat) : State := s.placeWord (w % 2 ^ nbits)

end Sys2Proof.Machine
end

