-- ==== Sys2Proof/Safety.lean ====
section
/-!
DEFINITION. What counts as a safe run, and the terms in which claims are stated: when a word issues with none of the
faults of the issue itself, which registers a word may name, what its sources give, and where its stream goes next.
-/

namespace Sys2Proof.Machine

/-- Memory is in its canonical form, which every step keeps: claims about memory rest on it. -/
def State.memOk (s : State) : Prop := s.mem.wf = true

/-- The stream whose word issues. -/
abbrev State.me (s : State) : Stream := s.stream s.cur.core s.cur.half
/-- The core whose word issues. -/
abbrev State.my (s : State) : Core := s.core s.cur.core

/-- The state in which the word's checks and effect are made: a contrail leader's word is kept for its followers, which
take it HOP cycles later (13 R238); for every other core it is the state itself. -/
def State.noted (s : State) (sf : Bool) : State := s.noteIssue s.ctx sf

/-- No fault of the issue itself (04 R93): the word is not skipped, no `mod` waits for it, and it keeps the stop-flag
rule (02 R35, 09 R178) and the stop-spacing rule (02 R36). -/
def State.clear (s : State) (sf : Bool) : Prop :=
  s.me.skip = 0 ∧ s.me.pending = none ∧
    if sf then s.inFlight s.cur.core s.cur.half = false
    else s.me.scnt + 1 < s.my.ctl.stopmax ∧ s.me.afterPark = false

/-- A register that may be a source in the map of the X-half or the sweep stream (02 R23, R32): the X map has no source
at 28 and 29 (`qs0`, `qs1`), `ql2` is the routine's while one is bound, and a routine has no source at 25 and 26. -/
def srcOkX (h : Half) (bound : Bool) (r : Nat) : Prop :=
  r < 32 ∧ r ≠ 28 ∧ r ≠ 29 ∧ (h = .x → bound = true → r ≠ 27) ∧ (h = .w → r ≠ 25 ∧ r ≠ 26)

/-- A register that may be a destination in that map: no `ql0` to `ql2`, no `cy`; a routine writes no global
register and no store-data queue. -/
def dstOkX (h : Half) (r : Nat) : Prop :=
  r < 32 ∧ r ≠ 25 ∧ r ≠ 26 ∧ r ≠ 27 ∧ r ≠ 30 ∧ (h = .w → ¬ (16 ≤ r ∧ r < 24) ∧ r ≠ 28 ∧ r ≠ 29)

/-- A register that may be a source in the A map (02 R24): a0 to a7, k0 to k3, g0 to g7 and `cy`. -/
def srcOkA (r : Nat) : Prop := r < 12 ∨ (16 ≤ r ∧ r < 24) ∨ r = 30
/-- A register that may be a destination in the A map: a0 to a7 and k0 to k3. -/
def dstOkA (r : Nat) : Prop := r < 12

/-- The registers of a word of the X map with a result of latency `lat` are allowed (02 R23, 05 R112), and the half is
the X-half or the sweep stream. -/
def State.legalX (s : State) (lat : Nat) (srcs dsts : List Nat) : Prop :=
  s.cur.half ≠ .a ∧ (∀ r ∈ srcs, srcOkX s.cur.half s.my.routineBound r) ∧ (∀ r ∈ dsts, dstOkX s.cur.half r) ∧
    (1 < lat → 24 ∉ dsts)

/-- The registers of a word of the A map are allowed, and the half is the A-half. -/
def State.legalA (s : State) (srcs dsts : List Nat) : Prop :=
  s.cur.half = .a ∧ (∀ r ∈ srcs, srcOkA r) ∧ ∀ r ∈ dsts, dstOkA r

/-- The registers of a word of class E are allowed in the map of the half that issues. -/
def State.legalE (s : State) (srcs dsts : List Nat) : Prop := s.legalX 1 srcs dsts ∨ s.legalA srcs dsts

/-- The word's sources can be read (02 R28: every popped entry is there, landed and of good parity, and a store-data
queue that is the destination has room): their values are `l`, and `s'` is the state without the popped entries. -/
def State.gives (s : State) (sf : Bool) (d : Nat) (srcs : List Nat) (s' : State) (l : List Word) : Prop :=
  (s.noted sf).sources s.ctx d srcs = .vals s' l

/-- A value that the destination takes: `ix` takes only an index in bounds (05 R112). -/
def State.takes (s : State) (d : Nat) (v : Word) : Prop :=
  s.cur.half ≠ .a → d = 24 → 0 ≤ v.toInt ∧ v.toInt ≤ (s.me.wlimit : Int) - 1

/-- `s` after its word took effect: the stream goes on to `nx` (02 R20, R36). -/
def State.went (s : State) (x : Ctx) (sf : Bool) (nx : Next) : State :=
  s.modStream x.core x.half (·.advance x sf nx)

end Sys2Proof.Machine
end

