-- ==== Sys2Proof/WellFormed.lean ====
section
/-!
DEFINITION. Which terms of `Instr` stand for a word or an event of the device: a hint has a hint code (04 R82), and an
event's arguments name units the device has. Every other word of the table is well formed: its reserved codes are
faults of the running machine (04 R92), not of the syntax.
-/

namespace Sys2Proof

/-- The units a soft error may name. -/
def SoftError.wf : SoftError → Bool
  | .window c r => c < 4096 && r < 65536
  | .sweepWindow c r => c < 4096 && r < 16
  | .queue c q p => c < 4096 && q < 5 && p < 8
  | .word k _ => k % 8 == 0
  | .slot o s b => o < 512 && s < 64 && b < 17408
  | .array o => o < 512
  | .packet _ c w => c < 128 && w < 32
  | .vector c r b => c < 4096 && r < 16 && b < 1024
  | .unchecked _ b => b < 8
  | .staging _ b => b < 2048
  | .reduction _ _ _ _ b => b < 2048
  | .crossing _ b => b < 64

/-- A well-formed term: the word decodes back to it, or the event is one the device can have. -/
def Instr.wf : Instr → Bool
  | .nopHint _ n _ => 1 ≤ n.toNat && n.toNat ≤ 7
  | .clockStepRequest n => 8 ≤ n && n ≤ 16
  | .forcedRefresh stack slice _ => stack < 8 && slice < 16
  | .notifyWindowMap qid => qid < 16
  | .domainEnd fc => 1 ≤ fc && fc ≤ 6
  | .fuseRepair layer row pcol => layer < 4 && row < 32 && pcol ≤ 32
  | .wavelengthRemoval ch wl => ch < 128 && wl < 32
  | .launchQueueCreate qid _ log => qid < 16 && 1 ≤ log && log ≤ 12
  | .launchRecordAccept (.queue q) => q < 16
  | .launchRecordAccept (.child c) => c < 4096
  | .partitionCreate cfg => cfg.octets.all (· < 512) && cfg.tokens.all (· < 32) && cfg.msgToken < 32 &&
      cfg.ctlToken < 32 && cfg.reportToken < 32
  | .softError e => e.wf
  | .unassignedEncoding _ => false
  | _ => true

end Sys2Proof
end

