-- ==== Sys2Proof/Certificates/Slice0/Obligations.lean ====
section
/-!
DEFINITION. The statements about the machine, for the provers. Each docstring says which rule of the spec the statement
formalises; a statement that rests on a choice of the model says so and names the log entry.

A word's statement has this shape: for every state whose stream may issue it (`State.clear`) and whose registers and
operands are in order, `exec` answers the next state that the rule gives. `State.noted`, `State.gives`, `State.takes` and
`State.went` are the terms of `Sys2Proof/Safety.lean`.
-/

namespace Sys2Proof.Spec

open Sys2Proof.Machine

/-! ### Results of the scalar words, as 05 R96 writes them -/

/-- A word that reads registers and delivers one result: its stop flag, its latency (02 R33), its destination and its
sources as register numbers, and the result from the values of the sources in order. -/
structure Scalar where
  sf : Bool
  lat : Nat
  dst : Nat
  srcs : List Nat
  val : List Word → Word

/-- The first source's value. -/
def x (l : List Word) : Word := l.getD 0 0
/-- The second source's value. -/
def y (l : List Word) : Word := l.getD 1 0

/-- x.i / y.i truncated toward zero; y = 0 gives 0. -/
def quot (p q : Word) : Word := if q = 0 then 0 else BitVec.ofInt 64 (p.toInt.tdiv q.toInt)
/-- x.n / y.n truncated; y = 0 gives 0. -/
def quotn (p q : Word) : Word := if q = 0 then 0 else BitVec.ofNat 64 (p.toNat / q.toNat)

/-- The integer arithmetic words of three registers (05 R96), with their latencies. -/
def arithmetic : Instr → Option Scalar
  | .addW s d a b => some ⟨s, 1, d.toNat, [a.toNat, b.toNat], fun l => x l + y l⟩
  | .subW s d a b => some ⟨s, 1, d.toNat, [a.toNat, b.toNat], fun l => x l - y l⟩
  | .mul s d a b => some ⟨s, 3, d.toNat, [a.toNat, b.toNat], fun l => x l * y l⟩
  | .mulh s d a b => some ⟨s, 3, d.toNat, [a.toNat, b.toNat],
      fun l => BitVec.ofInt 64 ((x l).toInt * (y l).toInt / 2 ^ 64)⟩
  | .mulhn s d a b => some ⟨s, 3, d.toNat, [a.toNat, b.toNat],
      fun l => BitVec.ofNat 64 ((x l).toNat * (y l).toNat / 2 ^ 64)⟩
  | .div s d a b => some ⟨s, 12, d.toNat, [a.toNat, b.toNat], fun l => quot (x l) (y l)⟩
  | .divn s d a b => some ⟨s, 12, d.toNat, [a.toNat, b.toNat], fun l => quotn (x l) (y l)⟩
  | .rem s d a b => some ⟨s, 12, d.toNat, [a.toNat, b.toNat], fun l => x l - y l * quot (x l) (y l)⟩
  | .remn s d a b => some ⟨s, 12, d.toNat, [a.toNat, b.toNat], fun l => x l - y l * quotn (x l) (y l)⟩
  | .min s d a b => some ⟨s, 1, d.toNat, [a.toNat, b.toNat], fun l => if (x l).sle (y l) then x l else y l⟩
  | .max s d a b => some ⟨s, 1, d.toNat, [a.toNat, b.toNat], fun l => if (x l).sle (y l) then y l else x l⟩
  | .minn s d a b => some ⟨s, 1, d.toNat, [a.toNat, b.toNat], fun l => if (x l).ule (y l) then x l else y l⟩
  | .maxn s d a b => some ⟨s, 1, d.toNat, [a.toNat, b.toNat], fun l => if (x l).ule (y l) then y l else x l⟩
  | .abs s d a => some ⟨s, 1, d.toNat, [a.toNat], fun l => if (x l).msb then -x l else x l⟩
  | .neg s d a => some ⟨s, 1, d.toNat, [a.toNat], fun l => -x l⟩
  | .addiW s d a i => some ⟨s, 1, d.toNat, [a.toNat], fun l => x l + i.signExtend 64⟩
  | .addH s a b => some ⟨s, 1, a.toNat, [a.toNat, b.toNat], fun l => x l + y l⟩
  | .subH s a b => some ⟨s, 1, a.toNat, [a.toNat, b.toNat], fun l => x l - y l⟩
  | .addiH s a i => some ⟨s, 1, a.toNat, [a.toNat], fun l => x l + i.signExtend 64⟩
  | _ => none

/-- The logic, shift, compare and move words (05 R96, R109), all of latency 1. -/
def logic : Instr → Option Scalar
  | .andW s d a b => some ⟨s, 1, d.toNat, [a.toNat, b.toNat], fun l => x l &&& y l⟩
  | .orW s d a b => some ⟨s, 1, d.toNat, [a.toNat, b.toNat], fun l => x l ||| y l⟩
  | .xorW s d a b => some ⟨s, 1, d.toNat, [a.toNat, b.toNat], fun l => x l ^^^ y l⟩
  | .andn s d a b => some ⟨s, 1, d.toNat, [a.toNat, b.toNat], fun l => x l &&& ~~~ y l⟩
  | .shl s d a b => some ⟨s, 1, d.toNat, [a.toNat, b.toNat], fun l => x l <<< ((y l).setWidth 6).toNat⟩
  | .shr s d a b => some ⟨s, 1, d.toNat, [a.toNat, b.toNat], fun l => x l >>> ((y l).setWidth 6).toNat⟩
  | .sra s d a b => some ⟨s, 1, d.toNat, [a.toNat, b.toNat], fun l => (x l).sshiftRight ((y l).setWidth 6).toNat⟩
  | .cmpeq s d a b => some ⟨s, 1, d.toNat, [a.toNat, b.toNat], fun l => if x l = y l then 1 else 0⟩
  | .cmplt s d a b => some ⟨s, 1, d.toNat, [a.toNat, b.toNat], fun l => if (x l).toInt < (y l).toInt then 1 else 0⟩
  | .cmpltn s d a b => some ⟨s, 1, d.toNat, [a.toNat, b.toNat], fun l => if (x l).toNat < (y l).toNat then 1 else 0⟩
  | .movW s d a => some ⟨s, 1, d.toNat, [a.toNat], x⟩
  | .sel s d a b c => some ⟨s, 1, d.toNat, [a.toNat, b.toNat, c.toNat], fun l => if l.getD 2 0 ≠ 0 then x l else y l⟩
  | .cmpeqi s d a i => some ⟨s, 1, d.toNat, [a.toNat], fun l => if x l = i.signExtend 64 then 1 else 0⟩
  | .cmplti s d a i => some ⟨s, 1, d.toNat, [a.toNat], fun l => if (x l).toInt < i.toInt then 1 else 0⟩
  | .shliW s d a n => some ⟨s, 1, d.toNat, [a.toNat], fun l => x l <<< n.toNat⟩
  | .shriW s d a n => some ⟨s, 1, d.toNat, [a.toNat], fun l => x l >>> n.toNat⟩
  | .sraiW s d a n => some ⟨s, 1, d.toNat, [a.toNat], fun l => (x l).sshiftRight n.toNat⟩
  | .liW s d i => some ⟨s, 1, d.toNat, [], fun _ => i.signExtend 64⟩
  | .lui s d a i => some ⟨s, 1, d.toNat, [a.toNat], fun l => x l <<< 14 ||| i.setWidth 64⟩
  | .andH s a b => some ⟨s, 1, a.toNat, [a.toNat, b.toNat], fun l => x l &&& y l⟩
  | .orH s a b => some ⟨s, 1, a.toNat, [a.toNat, b.toNat], fun l => x l ||| y l⟩
  | .xorH s a b => some ⟨s, 1, a.toNat, [a.toNat, b.toNat], fun l => x l ^^^ y l⟩
  | .movH s a b => some ⟨s, 1, a.toNat, [b.toNat], x⟩
  | .shliH s a n => some ⟨s, 1, a.toNat, [a.toNat], fun l => x l <<< n.toNat⟩
  | .shriH s a n => some ⟨s, 1, a.toNat, [a.toNat], fun l => x l >>> n.toNat⟩
  | .sraiH s a n => some ⟨s, 1, a.toNat, [a.toNat], fun l => (x l).sshiftRight n.toNat⟩
  | .liH s d i => some ⟨s, 1, d.toNat, [], fun _ => i.signExtend 64⟩
  | _ => none

/-- The address words of the A-half (06 R114), all of latency 1. -/
def address : Instr → Option Scalar
  | .aadd s d a b => some ⟨s, 1, d.toNat, [a.toNat, b.toNat], fun l => x l + y l⟩
  | .aaddiW s d a i => some ⟨s, 1, d.toNat, [a.toNat], fun l => x l + i.signExtend 64⟩
  | .aaddiH s a i => some ⟨s, 1, a.toNat, [a.toNat], fun l => x l + i.signExtend 64⟩
  | .amovW s d a => some ⟨s, 1, d.toNat, [a.toNat], x⟩
  | .amovH s a b => some ⟨s, 1, a.toNat, [b.toNat], x⟩
  | .kset s d a => if 8 ≤ d.toNat ∧ d.toNat < 12 then some ⟨s, 1, d.toNat, [a.toNat], x⟩ else none
  | _ => none

/-- The words with a width or a bit field, whose fields the spec restricts (04 R84, R85; 05 R96): `sext` and `zext` with
width codes 0 to 2, `bfx` and `bfi` with pos + len at most 64 (`l` holds len - 1). -/
def fields : Instr → Option Scalar
  | .sext s d a w =>
    match w.toNat with
    | 0 => some ⟨s, 1, d.toNat, [a.toNat], fun l => ((x l).setWidth 8).signExtend 64⟩
    | 1 => some ⟨s, 1, d.toNat, [a.toNat], fun l => ((x l).setWidth 16).signExtend 64⟩
    | 2 => some ⟨s, 1, d.toNat, [a.toNat], fun l => ((x l).setWidth 32).signExtend 64⟩
    | _ => none
  | .zext s d a w =>
    match w.toNat with
    | 0 => some ⟨s, 1, d.toNat, [a.toNat], fun l => ((x l).setWidth 8).setWidth 64⟩
    | 1 => some ⟨s, 1, d.toNat, [a.toNat], fun l => ((x l).setWidth 16).setWidth 64⟩
    | 2 => some ⟨s, 1, d.toNat, [a.toNat], fun l => ((x l).setWidth 32).setWidth 64⟩
    | _ => none
  | .bfx s d a l p =>
    if p.toNat + l.toNat + 1 ≤ 64 then
      some ⟨s, 1, d.toNat, [a.toNat], fun v => ((x v).extractLsb' p.toNat (l.toNat + 1)).setWidth 64⟩
    else none
  | .bfi s d a l p =>
    if p.toNat + l.toNat + 1 ≤ 64 then
      some ⟨s, 1, d.toNat, [a.toNat, d.toNat], fun v => BitVec.ofFnLE fun i : Fin 64 =>
        if p.toNat ≤ i.val ∧ i.val ≤ p.toNat + l.toNat then (x v).getLsbD (i.val - p.toNat) else (y v).getLsbD i.val⟩
    else none
  | _ => none

end Sys2Proof.Spec

section

open Sys2Proof Sys2Proof.Machine

/-- 05 R96 (and R95 for the H forms): the integer arithmetic words. Each reads its sources at issue, and its result goes to
the destination at the word's latency; the stream goes on to the next word. -/
def Sys2Proof.Spec.arithmeticResults : Prop :=
  ∀ (i : Instr) (w : Spec.Scalar) (s s' : State) (l : List Word), Spec.arithmetic i = some w →
    s.clear w.sf → s.legalX w.lat w.srcs [w.dst] → s.gives w.sf w.dst w.srcs s' l → s.takes w.dst (w.val l) →
    exec i s = .next ((s'.put s.ctx w.lat w.dst (w.val l)).went s.ctx w.sf .seq)

/-- 05 R96, R109: the logic, shift, compare, move and constant words, and `sel`. -/
def Sys2Proof.Spec.logicResults : Prop :=
  ∀ (i : Instr) (w : Spec.Scalar) (s s' : State) (l : List Word), Spec.logic i = some w →
    s.clear w.sf → s.legalX w.lat w.srcs [w.dst] → s.gives w.sf w.dst w.srcs s' l → s.takes w.dst (w.val l) →
    exec i s = .next ((s'.put s.ctx w.lat w.dst (w.val l)).went s.ctx w.sf .seq)

/-- 05 R96, R97; 04 R84, R85: `sext`, `zext`, `bfx` and `bfi` bit by bit. -/
def Sys2Proof.Spec.fieldResults : Prop :=
  ∀ (i : Instr) (w : Spec.Scalar) (s s' : State) (l : List Word), Spec.fields i = some w →
    s.clear w.sf → s.legalX w.lat w.srcs [w.dst] → s.gives w.sf w.dst w.srcs s' l → s.takes w.dst (w.val l) →
    exec i s = .next ((s'.put s.ctx w.lat w.dst (w.val l)).went s.ctx w.sf .seq)

/-- 05 R96: `clz` and `ctz` count the zero bits above the highest or below the lowest set bit, 64 for zero; `popc` counts
the set bits. -/
def Sys2Proof.Spec.countResults : Prop :=
  ∀ (sf : Bool) (d a : BitVec 5) (s s' : State) (v : Word) (n : Nat),
    s.clear sf → s.legalX 1 [a.toNat] [d.toNat] → s.gives sf d.toNat [a.toNat] s' [v] → s.takes d.toNat (BitVec.ofNat 64 n) →
    ((n ≤ 64 ∧ (∀ k < n, v.getLsbD (63 - k) = false) ∧ (n < 64 → v.getLsbD (63 - n) = true)) →
      exec (.clz sf d a) s = .next ((s'.put s.ctx 1 d.toNat (BitVec.ofNat 64 n)).went s.ctx sf .seq)) ∧
    ((n ≤ 64 ∧ (∀ k < n, v.getLsbD k = false) ∧ (n < 64 → v.getLsbD n = true)) →
      exec (.ctz sf d a) s = .next ((s'.put s.ctx 1 d.toNat (BitVec.ofNat 64 n)).went s.ctx sf .seq)) ∧
    (n = ((List.range 64).filter fun k => v.getLsbD k).length →
      exec (.popc sf d a) s = .next ((s'.put s.ctx 1 d.toNat (BitVec.ofNat 64 n)).went s.ctx sf .seq))

/-- 06 R114: address arithmetic and counter words of the A-half. -/
def Sys2Proof.Spec.addressResults : Prop :=
  ∀ (i : Instr) (w : Spec.Scalar) (s s' : State) (l : List Word), Spec.address i = some w →
    s.clear w.sf → s.legalA w.srcs [w.dst] → s.gives w.sf w.dst w.srcs s' l →
    exec i s = .next ((s'.put s.ctx w.lat w.dst (w.val l)).went s.ctx w.sf .seq)

/-- 05 R95 to R97, R109; 06 R114: the integer, logic, shift, compare, move, constant, field and count words of the
X-half and the address words of the A-half: each reads its sources at issue, its result goes to the destination at the
word's latency, and the stream goes on to the next word. -/
def Obligations.ScalarResults : Prop :=
  Spec.arithmeticResults ∧ Spec.logicResults ∧ Spec.fieldResults ∧ Spec.countResults ∧ Spec.addressResults

end

namespace Sys2Proof.Spec

open Sys2Proof.Machine

/-! ### The modifier, as 05 R99 and R100 write it -/

/-- The exact integer result of a word that a `mod` may precede, before it wraps, and whether its type is unsigned (05 R96,
R99, R100). -/
def exact : Instr → Option (Bool × (List Word → Int))
  | .addW .. | .addH .. => some (false, fun l => (x l).toInt + (y l).toInt)
  | .subW .. | .subH .. => some (false, fun l => (x l).toInt - (y l).toInt)
  | .addiW _ _ _ i => some (false, fun l => (x l).toInt + i.toInt)
  | .addiH _ _ i => some (false, fun l => (x l).toInt + i.toInt)
  | .mul .. => some (false, fun l => (x l).toInt * (y l).toInt)
  | .mulh .. => some (false, fun l => (x l).toInt * (y l).toInt / 2 ^ 64)
  | .mulhn .. => some (true, fun l => (x l).toNat * (y l).toNat / 2 ^ 64)
  | .div .. => some (false, fun l => if y l = 0 then 0 else (x l).toInt.tdiv (y l).toInt)
  | .divn .. => some (true, fun l => if y l = 0 then 0 else (x l).toNat / (y l).toNat)
  | .rem .. => some (false, fun l =>
      (x l).toInt - (y l).toInt * (if y l = 0 then 0 else (x l).toInt.tdiv (y l).toInt))
  | .remn .. => some (true, fun l =>
      (x l).toNat - (y l).toNat * (if y l = 0 then 0 else ((x l).toNat : Int) / (y l).toNat))
  | .min .. => some (false, fun l => if (x l).toInt ≤ (y l).toInt then (x l).toInt else (y l).toInt)
  | .max .. => some (false, fun l => if (x l).toInt ≤ (y l).toInt then (y l).toInt else (x l).toInt)
  | .minn .. => some (true, fun l => if (x l).toNat ≤ (y l).toNat then (x l).toNat else (y l).toNat)
  | .maxn .. => some (true, fun l => if (x l).toNat ≤ (y l).toNat then (y l).toNat else (x l).toNat)
  | .abs .. => some (false, fun l => |(x l).toInt|)
  | .neg .. => some (false, fun l => -(x l).toInt)
  | _ => none

/-- 05 R99: an exact integer result finished under a `mod`: ABS, NEG, the scale with its floor, and then SAT or CLAMP
limit it to the word's type, or it wraps. -/
def finished (m : ModWord) (unsigned : Bool) (v : Int) : Word :=
  let v := if m.abs then |v| else v
  let v := if m.neg then -v else v
  let v := if 0 ≤ m.sc.toInt then v * 2 ^ m.sc.toInt.toNat else v / 2 ^ (-m.sc.toInt).toNat
  let least : Int := if unsigned then 0 else -2 ^ 63
  let greatest : Int := if unsigned then 2 ^ 64 - 1 else 2 ^ 63 - 1
  if m.sat ∨ m.clamp then BitVec.ofInt 64 (if v < least then least else if greatest < v then greatest else v)
  else BitVec.ofInt 64 v

/-- A word without a stop flag that a `mod` waits for is clear of the issue's other faults. -/
def clearUnder (s : State) (m : ModWord) : Prop :=
  s.me.skip = 0 ∧ s.me.pending = some m ∧ s.me.scnt + 1 < s.my.ctl.stopmax ∧ s.me.afterPark = false

/-! ### Where results land -/

/-- The register that a destination of the X map or of a routine names (02 R23, R32), for those that are registers: a
window register is bound at issue to stack register WPTR + d (05 R105). The sweep stream's `ix` and `lk` are its own (log
38). -/
def destX (s : State) (c : Nat) (h : Half) (d : Nat) : Option Dst :=
  if d < 16 then some (if h = .w then .sweep d else .stack ((s.core c).sx.wptr + d))
  else if 17 ≤ d ∧ d < 24 then some (.g (d - 16))
  else if d = 24 then some (if h = .w then .sweepIx else .ix)
  else if d = 31 then some (if h = .w then .sweepLk else .lk)
  else none

/-- The register that a destination of the A map names (02 R24). -/
def destA (d : Nat) : Option Dst := if d < 8 then some (.a d) else if d < 12 then some (.k (d - 8)) else none

/-- The registers after a result lands (02 R33, R34; 24 R371 for the parity of a written window register). -/
def landed (r : Regs) (d : Dst) (v : Word) : Regs :=
  match d with
  | .stack n => { r with win := r.win.setIfInBounds (n % 64) v, winBad := r.winBad &&& ~~~ BitVec.ofNat 64 (2 ^ (n % 64)) }
  | .sweep n => { r with sw := r.sw.setIfInBounds n v, swBad := setBit r.swBad n false }
  | .g n => { r with g := r.g.setIfInBounds n v }
  | .ix => { r with ix := v }
  | .lk => { r with lk := v }
  | .sweepIx => { r with swIx := v }
  | .sweepLk => { r with swLk := v }
  | .a n => { r with a := r.a.setIfInBounds n v }
  | .k n => { r with k := r.k.setIfInBounds n (v.setWidth 32) }
  | .oxA n => { r with oxA := r.oxA.setIfInBounds n v }
  | .oxX n => { r with oxX := r.oxX.setIfInBounds n v }

end Sys2Proof.Spec

section

open Sys2Proof Sys2Proof.Machine

/-- 05 R99, R100; 04 R89: a numeric word after a `mod` delivers its exact result finished under the `mod`. -/
def Sys2Proof.Spec.modifiedResults : Prop :=
  ∀ (i : Instr) (w : Spec.Scalar) (u : Bool) (f : List Word → Int) (m : ModWord) (s s' : State) (l : List Word),
    Spec.arithmetic i = some w → Spec.exact i = some (u, f) → w.sf = false → Spec.clearUnder s m →
    s.legalX w.lat w.srcs [w.dst] → s.gives w.sf w.dst w.srcs s' l → s.takes w.dst (Spec.finished m u (f l)) →
    exec i s = .next ((s'.put s.ctx w.lat w.dst (Spec.finished m u (f l))).went s.ctx w.sf .seq)

/-- 04 R88, 05 R99: a `mod` keeps its flags, its scale and its address for the next word of its stream. -/
def Sys2Proof.Spec.modWaits : Prop :=
  ∀ (sf : Bool) (b n k t : BitVec 1) (c : BitVec 4) (s : State), s.clear sf →
    exec (.mod sf b n k t c) s = .next ((s.noted sf).went s.ctx sf (.modify
      { abs := b == 1, neg := n == 1, clamp := k == 1, sat := t == 1, sc := c, addr := s.me.pc }))

/-- 02 R23, R24, R28, R33: where a result goes. A register takes it `lat` cycles after the issue; `g0` discards it; a
store-data queue takes it as an entry that lands then. -/
def Sys2Proof.Spec.resultDelivery : Prop :=
  (∀ (s : State) (x : Ctx) (lat d : Nat) (v : Word) (r : Dst), x.half ≠ .a → Spec.destX s x.core x.half d = some r →
    s.put x lat d v = { s with
      agenda := agendaInsert { due := s.ccyc + lat, prio := 1, tie := s.seq, ev := .reg x.core x.half r v } s.agenda,
      seq := s.seq + 1 }) ∧
  (∀ (s : State) (x : Ctx) (lat : Nat) (v : Word), x.half ≠ .a → s.put x lat 16 v = s) ∧
  (∀ (s : State) (x : Ctx) (lat q : Nat) (v : Word), x.half ≠ .a → q < 2 →
    ((s.put x lat (28 + q) v).core x.core).queue (3 + q) =
        (s.core x.core).queue (3 + q) ++ [⟨v, s.ccyc, x.now + lat, false, x.half, s.seq⟩] ∧
      (s.put x lat (28 + q) v).mem = s.mem ∧ (s.put x lat (28 + q) v).agenda = s.agenda ∧
      ((s.put x lat (28 + q) v).core x.core).regs = (s.core x.core).regs) ∧
  (∀ (s : State) (x : Ctx) (lat d : Nat) (v : Word) (r : Dst), x.half = .a → Spec.destA d = some r →
    s.put x lat d v = { s with
      agenda := agendaInsert { due := s.ccyc + lat, prio := 1, tie := s.seq, ev := .reg x.core .a r v } s.agenda,
      seq := s.seq + 1 })

/-- 02 R33, R34: a register result in its landing cycle. The register takes the value, and nothing else changes: no other
register, no flag, no control register, no other core, no byte of memory. -/
def Sys2Proof.Spec.registerLanding : Prop :=
  ∀ (s : State) (e : AEnt) (rest : List AEnt) (c : Nat) (h : Half) (d : Dst) (v : Word),
    s.agenda = e :: rest → e.due ≤ s.ccyc → e.ev = .reg c h d v →
    ∃ t, exec .resultLanding s = .next t ∧ t = { s with agenda := rest, cores := t.cores } ∧
      t.core c = { s.core c with regs := Spec.landed (s.core c).regs d v } ∧ ∀ c', c' ≠ c → t.core c' = s.core c'

/-- 02 R27, R34: vector lanes in their landing cycle. The bits that the mask names take the result, the others keep their
contents, and no other register and no memory changes. -/
def Sys2Proof.Spec.vectorLanding : Prop :=
  ∀ (s : State) (e : AEnt) (rest : List AEnt) (c : Nat) (h : Half) (mat : Bool) (vd : Nat) (mask v : Vec),
    s.agenda = e :: rest → e.due ≤ s.ccyc → e.ev = .vec c h mat vd mask v → vd < 16 →
    ∃ t, exec .resultLanding s = .next t ∧ t = { s with agenda := rest, cores := t.cores } ∧
      (∀ k, (vget 0 (t.core c).regs.v vd).getLsbD k =
        if mask.getLsbD k then v.getLsbD k else (vget 0 (s.core c).regs.v vd).getLsbD k) ∧
      (∀ n, n ≠ vd → vget 0 (t.core c).regs.v n = vget 0 (s.core c).regs.v n) ∧
      t.core c = { s.core c with regs := { (s.core c).regs with v := (t.core c).regs.v } } ∧
      ∀ c', c' ≠ c → t.core c' = s.core c'

/-- The shared control registers after an `mts` lands (02 R42, R43; 22 R351): STOPMAX, SLIP.MAX, WBASE and RWIN, each
field at its place. -/
def Sys2Proof.Spec.landedCtl (k : Ctl) (n : Nat) (v : Word) : Ctl :=
  match n with
  | 0x04 => { k with stopmax := (v.extractLsb' 0 7).toNat }
  | 0x05 => { k with slipMax := (v.extractLsb' 0 16).toNat }
  | 0x07 => { k with wsize := (v.extractLsb' 48 16).toNat, wbase := v.extractLsb' 0 32 }
  | 0x0D => { k with rwin := v.extractLsb' 0 4 }
  | _ => k

/-- 02 R42, R43, R45; 22 R351: a write of a control register that the core's streams share, in its landing cycle: the
register takes its fields, and nothing else changes. -/
def Sys2Proof.Spec.controlLanding : Prop :=
  ∀ (s : State) (e : AEnt) (rest : List AEnt) (c n : Nat) (v : Word),
    s.agenda = e :: rest → e.due ≤ s.ccyc → e.ev = .ctl c n v →
    ∃ t, exec .resultLanding s = .next t ∧ t = { s with agenda := rest, cores := t.cores } ∧
      t.core c = { s.core c with ctl := Spec.landedCtl (s.core c).ctl n v } ∧ ∀ c', c' ≠ c → t.core c' = s.core c'

/-! ### Where a stream goes -/

/-- 02 R20, R36; 05 R101, R108; 09 R175: where a stream goes after a word: the next word in address order issues in the
next cycle, a stop-flagged word resets the stop-spacing count and any other adds one, a taken transfer goes to its target,
a skip word's condition skips n words, a `hold` waits, and a `mod` waits for the next word. Nothing but the issuing
stream changes. -/
def Obligations.StreamAdvance : Prop :=
  ∀ (s : State) (x : Ctx) (sf : Bool) (nx : Next),
    let t := s.stream x.core x.half
    let u := (s.went x sf nx).stream x.core x.half
    (s.went x sf nx = { s with cores := (s.went x sf nx).cores } ∧
      (∀ c, c ≠ x.core → (s.went x sf nx).core c = s.core c) ∧
      (s.went x sf nx).core x.core = (s.core x.core).setStream x.half u) ∧
    (nx = .seq → u = { t with pending := none, afterPark := false, taken := none, scnt := if sf then 0 else t.scnt + 1,
                              pc := x.addr + BitVec.ofNat 32 x.len, wake := x.m + 1 }) ∧
    (∀ pc, nx = .jump pc → t.follows = false →
      u.pc = pc ∧ u.wake = x.m + 1 ∧ u.scnt = (if sf then 0 else t.scnt + 1) ∧ u.run = t.run) ∧
    (∀ n, nx = .skip n → u.skip = n ∧ u.pc = x.nextAddr ∧ u.wake = x.m + 1) ∧
    (∀ n, nx = .hold n → u.pc = x.nextAddr ∧ u.wake = x.m + n + 1 ∧ (0 < n → u.run = .hold)) ∧
    ∀ m, nx = .modify m → u.pending = some m ∧ u.pc = x.nextAddr ∧ u.wake = x.m + 1

/-- 05 R110, 04 R82: `nop` is the H-word 0x0004, or 0x0006 with a stop flag; it and the hint forms take one issue cycle and
no effect. -/
def Sys2Proof.Spec.nopResults : Prop :=
  decodeTableWord 16 0x0004 = some (.nop false) ∧ decodeTableWord 16 0x0006 = some (.nop true) ∧
  ∀ (sf : Bool) (n : BitVec 5) (k : BitVec 4) (s : State), s.clear sf →
    exec (.nop sf) s = .next ((s.noted sf).went s.ctx sf .seq) ∧
    (1 ≤ n.toNat ∧ n.toNat < 8 → exec (.nopHint sf n k) s = .next ((s.noted sf).went s.ctx sf .seq))

/-- 05 R108: a skipped word takes one issue cycle and no effect, whichever word it is, and counts toward stop spacing: it
writes no register, pops nothing, checks nothing. (A word outside the kernel image is the one exception.) -/
def Sys2Proof.Spec.skippedWord : Prop :=
  ∀ (i : Instr) (s : State), isWord i = true → i ≠ .unassignedEncoding .outside → 0 < s.me.skip →
    ∃ sf, exec i s = .next ((s.noted sf).modStream s.cur.core s.cur.half fun t =>
      { t with skip := t.skip - 1, scnt := t.scnt + 1, pc := s.ctx.nextAddr, wake := s.ctx.m + 1, taken := none })

/-- 05 R108: `skipz` and `skipnz` skip the next n words, for n from 1 to 7, when the register is zero or nonzero. -/
def Sys2Proof.Spec.skipResults : Prop :=
  ∀ (sf : Bool) (a : BitVec 5) (n : BitVec 4) (s s' : State) (v : Word), s.clear sf → s.legalE [a.toNat] [] →
    1 ≤ n.toNat → n.toNat < 8 → s.gives sf 0 [a.toNat] s' [v] →
    exec (.skipz sf a n) s = .next (s'.went s.ctx sf (if v = 0 then .skip n.toNat else .seq)) ∧
    exec (.skipnz sf a n) s = .next (s'.went s.ctx sf (if v = 0 then .seq else .skip n.toNat))

/-- 05 R102, R101; 06 R115: the branch and loop words. A taken branch goes to the word's address plus its offset in
halfwords, `jr` to the low 32 bits of its register; `loop` and `kloop` write their decremented counters. -/
def Obligations.BranchResults : Prop :=
  ∀ (sf : Bool) (s s' : State) (v : Word) (a : BitVec 5), s.clear sf →
    (∀ i : BitVec 24, exec (.br sf i) s =
      .next ((s.noted sf).went s.ctx sf (.jump (s.me.pc + i.signExtend 32)))) ∧
    (s.legalE [a.toNat] [] → s.gives sf 0 [a.toNat] s' [v] →
      (∀ i : BitVec 14, exec (.brz sf a i) s =
        .next (s'.went s.ctx sf (if v = 0 then .jump (s.me.pc + i.signExtend 32) else .seq))) ∧
      (∀ i : BitVec 14, exec (.brnz sf a i) s =
        .next (s'.went s.ctx sf (if v = 0 then .seq else .jump (s.me.pc + i.signExtend 32)))) ∧
      exec (.jr sf a) s = .next (s'.went s.ctx sf (.jump (v.setWidth 32)))) ∧
    (s.legalX 1 [a.toNat] [a.toNat] → a ≠ 16 → ¬ (25 ≤ a.toNat ∧ a.toNat ≤ 30) → s.gives sf 0 [a.toNat] s' [v] →
      s.takes a.toNat (v - 1) →
      ∀ i : BitVec 14, exec (.loop sf a i) s = .next ((s'.put s.ctx 1 a.toNat (v - 1)).went s.ctx sf
        (if 0 < (v - 1).toInt then .jump (s.me.pc + i.signExtend 32) else .seq))) ∧
    (s.cur.half = .a → 8 ≤ a.toNat → a.toNat < 12 → ∀ i : BitVec 14,
      let k := vget 0 s.my.regs.k (a.toNat - 8)
      exec (.kloop sf a i) s = .next (if k = 0 then (s.noted sf).went s.ctx sf .seq
        else ((s.noted sf).put s.ctx 1 a.toNat ((k - 1).setWidth 64)).went s.ctx sf
          (if k = 1 then .seq else .jump (s.me.pc + i.signExtend 32))))

/-! ### Index and operand-extension registers -/

/-- 05 R111: the relative words read and write window register `ix` + k, in bounds, and `setix` and `addix` write an index
in bounds; out of bounds each of the six raises a register-bounds fault with the index that failed, and takes no other
effect. -/
def Sys2Proof.Spec.indexWords : Prop :=
  ∀ (sf : Bool) (s s' : State) (l : List Word), s.clear sf → s.cur.half = .x →
    let out := fun v : Word => Host.Outcome.next ((s.noted sf).raise s.ctx 0x07 0 v s.me.pc s.me.scnt)
    (∀ (d : BitVec 5) (k : BitVec 7), dstOkX .x d.toNat →
      let i := s.my.regs.ix.toInt + k.toInt
      ((0 ≤ i ∧ i ≤ (s.me.wlimit : Int) - 1) → s.gives sf d.toNat [i.toNat] s' l → s.takes d.toNat (l.getD 0 0) →
        exec (.movx sf d k) s = .next ((s'.put s.ctx 1 d.toNat (l.getD 0 0)).went s.ctx sf .seq)) ∧
      (¬ (0 ≤ i ∧ i ≤ (s.me.wlimit : Int) - 1) →
        exec (.movx sf d k) s = out (BitVec.ofInt 64 i))) ∧
    (∀ (a : BitVec 5) (k : BitVec 7), srcOkX .x s.my.routineBound a.toNat →
      let i := s.my.regs.ix.toInt + k.toInt
      ((0 ≤ i ∧ i ≤ (s.me.wlimit : Int) - 1) → i < 16 → s.gives sf i.toNat [a.toNat] s' l →
        exec (.movxw sf a k) s = .next ((s'.put s.ctx 1 i.toNat (l.getD 0 0)).went s.ctx sf .seq)) ∧
      (¬ (0 ≤ i ∧ i ≤ (s.me.wlimit : Int) - 1) → exec (.movxw sf a k) s = out (BitVec.ofInt 64 i))) ∧
    (∀ (a : BitVec 5) (k : BitVec 7), srcOkX .x s.my.routineBound a.toNat → s.gives sf 24 [a.toNat] s' l →
      (s.takes 24 (l.getD 0 0) →
        exec (.setixH sf a) s = .next ((s'.put s.ctx 1 24 (l.getD 0 0)).went s.ctx sf .seq)) ∧
      (s.takes 24 (l.getD 0 0 + k.signExtend 64) →
        exec (.setixW sf a k) s = .next ((s'.put s.ctx 1 24 (l.getD 0 0 + k.signExtend 64)).went s.ctx sf .seq)) ∧
      (¬ s.takes 24 (l.getD 0 0) → exec (.setixH sf a) s = out (l.getD 0 0)) ∧
      (¬ s.takes 24 (l.getD 0 0 + k.signExtend 64) → exec (.setixW sf a k) s = out (l.getD 0 0 + k.signExtend 64))) ∧
    (∀ (k : BitVec 7) (j : BitVec 4),
      (s.takes 24 (s.my.regs.ix + j.signExtend 64) → exec (.addixH sf j) s =
        .next (((s.noted sf).put s.ctx 1 24 (s.my.regs.ix + j.signExtend 64)).went s.ctx sf .seq)) ∧
      (¬ s.takes 24 (s.my.regs.ix + j.signExtend 64) → exec (.addixH sf j) s = out (s.my.regs.ix + j.signExtend 64)) ∧
      (s.takes 24 (s.my.regs.ix + k.signExtend 64) → exec (.addixW sf k) s =
        .next (((s.noted sf).put s.ctx 1 24 (s.my.regs.ix + k.signExtend 64)).went s.ctx sf .seq)) ∧
      (¬ s.takes 24 (s.my.regs.ix + k.signExtend 64) → exec (.addixW sf k) s = out (s.my.regs.ix + k.signExtend 64)))

/-- 05 R98, 02 R26: `oxset` and `oxli` write the bank of the half that issues, readable one cycle later. -/
def Sys2Proof.Spec.oxResults : Prop :=
  ∀ (sf : Bool) (n : BitVec 3) (s : State), s.clear sf → s.cur.half ≠ .w →
    (∀ (a : BitVec 5) (s' : State) (v : Word), s.legalE [a.toNat] [] → s.gives sf 0 [a.toNat] s' [v] →
      exec (.oxset sf n a) s = .next ((s'.land s.cur.core s.cur.half 1
        (if s.cur.half = .a then .oxA n.toNat else .oxX n.toNat) v).went s.ctx sf .seq)) ∧
    ∀ i : BitVec 14, exec (.oxli sf n i) s = .next (((s.noted sf).land s.cur.core s.cur.half 1
        (if s.cur.half = .a then .oxA n.toNat else .oxX n.toNat) (i.signExtend 64)).went s.ctx sf .seq)

/-- 05 R99, R100; 04 R88, R89: a numeric word after a `mod` delivers its exact result finished under it, and a `mod`
waits, with its flags, scale and address, for the next word of its stream. -/
def Obligations.ModResults : Prop :=
  Spec.modifiedResults ∧ Spec.modWaits

/-- 02 R23, R24, R27, R28, R33, R34, R42, R43, R45; 22 R351: where a scalar result goes at issue, and what a register, a
vector register or a control register that an `mts` wrote takes in the landing cycle; nothing else changes then. -/
def Obligations.ResultLandings : Prop :=
  Spec.resultDelivery ∧ Spec.registerLanding ∧ Spec.vectorLanding ∧ Spec.controlLanding

/-- 05 R108, R110; 04 R82: `nop` and the hints take one issue cycle and no effect, and so does a skipped word, whichever
it is; `skipz` and `skipnz` skip the next n words. -/
def Obligations.NopsAndSkips : Prop :=
  Spec.nopResults ∧ Spec.skippedWord ∧ Spec.skipResults

/-- 05 R98, R111; 02 R26: relative registers, with their bounds fault, and the words that write the OX bank of the half
that issues. -/
def Obligations.IndexAndOxWords : Prop :=
  Spec.indexWords ∧ Spec.oxResults

end

namespace Sys2Proof.Spec

open Sys2Proof.Machine

/-- 05 R105: the stack lines that the window file holds. -/
def capacity (k : Core) : Nat := if k.routineBound then 12 else 16

/-- 05 R104: the return record of a call that slides by n: q = n / 4 in bits [61:60], the next word's address below. -/
def record (n : Nat) (next : BitVec 32) : Word := BitVec.ofNat 64 (n / 4 * 2 ^ 60 + next.toNat)

/-- The direct calls with their slides (05 R103). -/
def calls : List ((Bool → BitVec 24 → Instr) × Nat) := [(.call4, 4), (.call8, 8), (.call12, 12)]
/-- The register calls with their slides. -/
def callRs : List ((Bool → BitVec 5 → Instr) × Nat) := [(.callr4, 4), (.callr8, 8), (.callr12, 12)]

/-- 05 R105 to R107: what a call to `target` that slides by n comes to; `s` is the state before its own effect and `s0`
the one before its sources were popped. -/
def called (s0 s : State) (x : Ctx) (sf : Bool) (target : BitVec 32) (n : Nat) : State :=
  let k := s.core x.core
  let e := k.sx.rcnt + n / 4 - capacity k
  if k.ctl.wsize - 1 < (k.sx.wptr + n) / 4 + 3 then s0.raise x 0x0D 0 (BitVec.ofNat 64 k.sx.wptr) x.addr (x.stream s0).scnt
  else if e = 0 then (((s.modCore x.core (·.callSlide 0 n)).put x 1 31 (record n x.nextAddr)).went x sf (.jump target))
  else if (s.bindAt x.bind).mode 0 then
    s0.raise x 0x0E 0 (BitVec.ofNat 64 (e % 16 * 2 ^ 32 + k.sx.rbot % 2 ^ 32)) x.addr (x.stream s0).scnt
  else ((s.post (x.now + 16) 0 (.win x.core (.spill e n))).put x 1 31 (record n x.nextAddr)).went x sf (.window target)

/-- 05 R105 to R107: what a `ret` comes to. -/
def returned (s : State) (x : Ctx) (sf : Bool) : State :=
  let k := s.core x.core
  let q := (k.regs.lk.extractLsb' 60 2).toNat
  let n := 4 * q
  let target := k.regs.lk.setWidth 32
  let f := k.sx.rbot - (k.sx.wptr - n) / 4
  let s' := s.dropLines x.core (k.sx.wptr / 4 + 4 - q) q
  if k.sx.wptr < n then s.raise x 0x0D 0 (BitVec.ofNat 64 k.sx.wptr) x.addr (x.stream s).scnt
  else if f = 0 then ((s'.modCore x.core (·.retSlide 0 n)).went x sf (.jump target))
  else if (s.bindAt x.bind).mode 0 then
    s.raise x 0x0F 0 (BitVec.ofNat 64 (f % 16 * 2 ^ 32 + (k.sx.rbot - f) % 2 ^ 32)) x.addr (x.stream s).scnt
  else (s'.post (x.now + 16) 0 (.win x.core (.fill f n))).went x sf (.window target)

/-- 09 R181: the cycle in which a stream that issued `resync` in MCYC c issues the word at RSTPC: the first cycle from the
first mark after c on that is RSTCY modulo the period. -/
def restartsAt (interval period rstcy c m : Nat) : Prop :=
  ∃ mk, c < mk ∧ mk % interval = 0 ∧ (∀ k, c < k → k < mk → k % interval ≠ 0) ∧
    mk ≤ m ∧ m % period = rstcy % period ∧ ∀ k, mk ≤ k → k < m → k % period ≠ rstcy % period

/-- The value of a control register (02 R39 to R45; 09 R186; 13 R246; 22 R351, R352), field by field at its place; `none`
for an unassigned number. -/
def control (s : State) (n : Nat) : Option Word :=
  let c := s.cur.core
  let k := s.my
  let t := s.me
  let b := s.bindAt (s.bindOf c)
  let w (v : Nat) : Option Word := some (BitVec.ofNat 64 v)
  match n with
  | 0x00 => w (c / 1024 * 2 ^ 30 + c % 1024 * 2 ^ 20 + s.pcol c * 2 ^ 14 +
      (c % 1024 / 32 / 2 * 8 + c % 32 / 4) * 2 ^ 7 + (c % 1024 / 32 % 2 * 4 + c % 32 % 4) * 2 ^ 4)
  | 0x01 => some (s.domainReg c)
  | 0x02 => w (s.mcyc c)
  | 0x03 => w (b.mlog * 2 ^ 8 + b.plog)
  | 0x04 => w k.ctl.stopmax
  | 0x05 => w (k.ctl.slipCnt * 2 ^ 32 + k.ctl.slipMax)
  | 0x06 => w (t.wptr * 2 ^ 48 + t.rbot * 2 ^ 32 + t.rcnt * 2 ^ 24 + t.wlimit * 2 ^ 16)
  | 0x07 => w (k.ctl.wsize * 2 ^ 48 + k.ctl.wbase.toNat)
  | 0x08 => w (t.ovf.toNat * 4 + t.rm.toNat)
  | 0x09 => some k.ctl.gseed
  | 0x0A => w k.ctl.gstrm.toNat
  | 0x0B => w (k.ctl.role.toNat * 2 ^ 14 + k.ctl.dir.toNat * 2 ^ 12 + k.ctl.hop)
  | 0x0C => w (s.dev.clock.steps % 2 ^ 32 * 2 ^ 16 + s.dev.clock.next * 2 ^ 8 + s.dev.clock.n)
  | 0x0D => w k.ctl.rwin.toNat
  | 0x0E => w (k.ctl.epSt.toNat * 2 ^ 62 + k.ctl.epMove.toNat * 2 ^ 61 + k.ctl.epName.toNat * 2 ^ 8 + k.ctl.epGen.toNat)
  | 0x10 => w (t.traps.async.toNat * 2 ^ 63 + t.traps.sub.toNat * 2 ^ 8 + t.traps.code.toNat)
  | 0x11 => w t.traps.tpc.toNat
  | 0x12 => some t.traps.tval
  | 0x13 => w (t.traps.priv.toNat * 2 ^ 8 + t.traps.pPriv.toNat * 2 ^ 7 + t.traps.scnt.toNat)
  | 0x14 => w t.traps.tvec.toNat
  | 0x15 => some t.traps.tscr
  | 0x16 => w t.traps.dbg.toNat
  | 0x17 => some t.traps.tcyc
  | 0x18 => w (t.traps.rstValid.toNat * 2 ^ 63 + t.traps.rstPc.toNat)
  | 0x19 => some t.traps.rstCy
  | n => if 0x20 ≤ n ∧ n ≤ 0x2F then
      let p := vget Posted.init k.psj (n - 0x20)
      w (p.isOpen.toNat * 2 ^ 63 + p.refused.toNat * 2 ^ 62 + p.reason.toNat * 2 ^ 60 +
        (if p.half = .a then 0 else 1) * 2 ^ 59 + p.dst.toNat)
    else none

/-- The control registers that hold a PR field, which only privileged mode reads (09 R186). -/
def readPriv (n : Nat) : Prop := n = 0x10 ∨ n = 0x11 ∨ n = 0x12 ∨ n = 0x13 ∨ n = 0x15
/-- The control registers that hold a PW or PR field, which only privileged mode writes (02 R42, R43; 09 R186). -/
def writePriv (n : Nat) : Prop := n = 0x04 ∨ n = 0x05 ∨ n = 0x07 ∨ (0x10 ≤ n ∧ n ≤ 0x15)

/-- The values that the fields of a control register forbid (02 R39, R42, R43; 09 R186). -/
def forbidden (s : State) (n : Nat) (v : Word) : Prop :=
  let f (hi lo : Nat) : Nat := (v.extractLsb' lo (hi + 1 - lo)).toNat
  match n with
  | 0x04 => f 6 0 < 8 ∨ 64 < f 6 0
  | 0x06 => f 20 16 < 1 ∨ 16 < f 20 16
  | 0x07 => f 63 48 < 4 ∨ 16384 < f 63 48 ∨ f 31 0 % 32 ≠ 0 ∨ f 31 20 ≠ s.cur.core ∨ 2 ^ 20 < f 19 0 + 32 * f 63 48 ∨
      s.my.sx.rcnt ≠ 4
  | 0x13 => 64 ≤ f 6 0
  | 0x14 => f 31 0 % 0x100 ≠ 0
  | _ => False

/-- A stream after a permitted `mts` of one of its own registers: every RW, PW and PR field takes the value and RO fields
stay (02 R39, R43, R44; 09 R186). -/
def written (t : Stream) (n : Nat) (v : Word) : Stream :=
  match n with
  | 0x06 => { t with wlimit := (v.extractLsb' 16 5).toNat }
  | 0x08 => { t with rm := v.extractLsb' 0 2, ovf := v.getLsbD 2 }
  | 0x10 => { t with traps := { t.traps with
      async := v.getLsbD 63, sub := v.extractLsb' 8 8, code := v.extractLsb' 0 8 } }
  | 0x11 => { t with traps := { t.traps with tpc := v.extractLsb' 0 32 } }
  | 0x12 => { t with traps := { t.traps with tval := v } }
  | 0x13 => { t with traps := { t.traps with pPriv := v.getLsbD 7, scnt := v.extractLsb' 0 7 } }
  | 0x14 => { t with traps := { t.traps with tvec := v.extractLsb' 0 32 } }
  | 0x15 => { t with traps := { t.traps with tscr := v } }
  | _ => t

/-- 02 R29, R31; 05 R106; 24 R370, R371: the registers of `k` stack lines from line `l` on are read from the stack image,
one whose image word is poisoned with bad parity (log 43); every other register of the window file, every other core and all of
memory are as before, and nothing changes but these and the error log. -/
def filled (s t : State) (c l k : Nat) : Prop :=
  t = { s with agenda := t.agenda, cores := t.cores, dev := { s.dev with log := t.dev.log } } ∧
  (∀ c', c' ≠ c → t.core c' = s.core c') ∧
  (∀ r, 4 * l ≤ r → r < 4 * (l + k) →
    vget 0 (t.core c).regs.win (r % 64) = s.read64 ((s.core c).imageKey r) ∧
    (t.core c).regs.winBad.getLsbD (r % 64) = poisoned s.ecc ((s.core c).imageKey r) 8) ∧
  ∀ p < 64, (∀ r, 4 * l ≤ r → r < 4 * (l + k) → r % 64 ≠ p) →
    vget 0 (t.core c).regs.win p = vget 0 (s.core c).regs.win p

/-- 02 R29, R31; 05 R106; 24 R370, R371: the registers of `k` stack lines from line `l` on are written to the stack image,
little-endian at byte offset 8n from the base, one of bad parity as poison (log 43); every other byte of memory is as before. -/
def spilled (s t : State) (c l k : Nat) : Prop :=
  (∀ r, 4 * l ≤ r → r < 4 * (l + k) →
    (∀ j < 8, t.mem.read ((s.core c).imageKey r + j) = (vget 0 (s.core c).regs.win (r % 64)).extractLsb' (8 * j) 8) ∧
    ((s.core c).regs.winBad.getLsbD (r % 64) = true → poisoned t.ecc ((s.core c).imageKey r) 8 = true)) ∧
  (∀ key, (key < (s.core c).imageKey (4 * l) ∨ (s.core c).imageKey (4 * (l + k)) ≤ key) →
    t.mem.read key = s.mem.read key) ∧
  ∀ c', c' ≠ c → t.core c' = s.core c'

end Sys2Proof.Spec

section

open Sys2Proof Sys2Proof.Machine

/-! ### Calls, returns and the window file -/

/-- 05 R103 to R107: `call`, `callr` and `ret`: the window-overflow fault, the slide, and a spill or fill in hardware mode
(the stream's next word issues 16 cycles later) or the window trap in host-assisted mode. -/
def Sys2Proof.Spec.callResults : Prop :=
  ∀ (sf : Bool) (s : State), s.clear sf → s.cur.half = .x → 0 < s.my.ctl.wsize →
    (∀ p ∈ Spec.calls, ∀ i : BitVec 24, exec (p.1 sf i) s =
      .next (Spec.called (s.noted sf) (s.noted sf) s.ctx sf (s.me.pc + i.signExtend 32) p.2)) ∧
    (∀ p ∈ Spec.callRs, ∀ (a : BitVec 5) (s' : State) (v : Word), srcOkX .x s.my.routineBound a.toNat →
      s.gives sf 0 [a.toNat] s' [v] →
      exec (p.1 sf a) s = .next (Spec.called (s.noted sf) s' s.ctx sf (v.setWidth 32) p.2)) ∧
    exec (.ret sf) s = .next (Spec.returned (s.noted sf) s.ctx sf)

/-- 05 R105: the window after a call that slides by n: new `w0` to `w`(15-n) are the old `w`n to `w15`, the rest read
zero, and WPTR, RBOT and RCNT move; a return moves them back. -/
def Sys2Proof.Spec.windowSlides : Prop :=
  ∀ (k : Core) (e n : Nat), n ≤ 16 →
    (∀ i < 16, vget 0 (k.callSlide e n).regs.win (((k.callSlide e n).sx.wptr + i) % 64) =
      if i < 16 - n then vget 0 k.regs.win ((k.sx.wptr + (n + i)) % 64) else 0) ∧
    (k.callSlide e n).sx = { k.sx with wptr := k.sx.wptr + n, rbot := k.sx.rbot + e, rcnt := k.sx.rcnt + n / 4 - e } ∧
    (k.callSlide e n).regs = { k.regs with win := (k.callSlide e n).regs.win, winBad := (k.callSlide e n).regs.winBad } ∧
    k.retSlide e n = { k with sx := { k.sx with
      wptr := k.sx.wptr - n, rbot := k.sx.rbot - e, rcnt := k.sx.rcnt - n / 4 + e } }

/-- 05 R106, 09 R193, 02 R29: the end of the sixteen cycles of the window file's port. A spill writes the spilled lines to
the stack image, and then the window slides; a fill slides back and reads the filled lines from the image; `wsave` writes
every resident line, and in a spill handler the lowest `e` leave the file; `wrest` in a fill handler reads the `f` lines
below RBOT, and else every resident line again. TVAL and the other trap registers keep their values. -/
def Sys2Proof.Spec.portEnds : Prop :=
  ∀ (s : State) (a : AEnt) (rest : List AEnt) (c : Nat) (op : WinOp),
    s.agenda = a :: rest → a.due ≤ s.ccyc → a.ev = .win c op →
    let k := s.core c
    ∃ t, exec .resultLanding s = .next t ∧ t.agenda = rest ∧ (t.core c).sx.traps = k.sx.traps ∧
      (∀ e n, op = .spill e n → t.core c = k.callSlide e n ∧ Spec.spilled s t c k.sx.rbot e) ∧
      (∀ f n, op = .fill f n → f ≤ 16 →
        (t.core c).sx = { k.sx with wptr := k.sx.wptr - n, rbot := k.sx.rbot - f, rcnt := k.sx.rcnt - n / 4 + f } ∧
        Spec.filled s t c (k.sx.rbot - f) f) ∧
      (∀ e, op = .wsave e → t.core c = { k with sx := { k.sx with rbot := k.sx.rbot + e, rcnt := k.sx.rcnt - e } } ∧
        Spec.spilled s t c k.sx.rbot k.sx.rcnt) ∧
      (op = .wrest none → k.sx.rcnt ≤ 16 → (t.core c).sx = k.sx ∧ Spec.filled s t c k.sx.rbot k.sx.rcnt) ∧
      ∀ f, op = .wrest (some f) → f ≤ 16 →
        (t.core c).sx = { k.sx with rbot := k.sx.rbot - f, rcnt := k.sx.rcnt + f } ∧
        Spec.filled s t c (k.sx.rbot - f) (min f k.sx.rbot)

/-! ### Waits and restarts -/

/-- 09 R175, R176, R177, R180; 10 R203: `hold`, `await`, `rejoin`, `cwait` and `rpt`. `rejoin` parks on a reachable,
aligned word; `rpt` records its address and MCYC. -/
def Sys2Proof.Spec.waitResults : Prop :=
  ∀ (s : State),
    (∀ (sf : Bool) (a : BitVec 5) (i : BitVec 14) (s' : State) (v : Word), s.clear sf → s.legalE [a.toNat] [] →
      s.gives sf 0 [a.toNat] s' [v] → (v + i.setWidth 64).toNat < 2 ^ 32 →
      exec (.hold sf a i) s = .next (s'.went s.ctx sf (.hold (v + i.setWidth 64).toNat))) ∧
    (s.clear true → s.cur.half ≠ .w → exec .await s = .next ((s.noted true).went s.ctx true .await)) ∧
    (∀ (a : BitVec 5) (s' : State) (v : Word), s.clear true → s.cur.half ≠ .w → s.legalE [a.toNat] [] →
      s.gives true 0 [a.toNat] s' [v] → s.me.sample ≠ .poisoned → (ptrTag v.toNat = 1 ∨ ptrTag v.toNat = 2) →
      (s.noted true).reach s.cur.core (s.bindOf s.cur.core) .load (ptrTag v.toNat) v.toNat 8 ≠ none → v.toNat % 8 = 0 →
      exec (.rejoin a) s = .next (s'.went s.ctx true (.rejoin v))) ∧
    (∀ n : BitVec 5, s.clear true →
      exec (.cwait n) s = .next ((s.noted true).went s.ctx true (.cwait n.toNat))) ∧
    (∀ sf : Bool, s.clear sf → exec (.rpt sf) s = .next (((s.noted sf).modStream s.cur.core s.cur.half fun t =>
      { t with
        traps := { t.traps with
          rstValid := true, rstPc := s.me.pc, rstCy := BitVec.ofNat 64 (s.mcyc s.cur.core) } }).went s.ctx sf .seq))

/-- 09 R176 to R178; 10 R203: what a parking word does to its stream, and what the marks do: a stream parked by `await`
resumes at the mark; one parked by `rejoin` or `cwait` resumes if its sample of the cycle before holds, goes back to its
parking word if the sample met poison or a pending trap cuts the park short, and else parks on. -/
def Sys2Proof.Spec.parkedStreams : Prop :=
  ∀ (t : Stream) (x : Ctx) (sf : Bool) (m now n : Nat) (p : Word),
    ((t.advance x sf .await).run = .await ∧ (t.advance x sf .await).afterPark = true ∧
      (t.advance x sf .await).pc = x.nextAddr) ∧
    ((t.advance x sf (.rejoin p)).run = .rejoin ∧ (t.advance x sf (.rejoin p)).watch = p ∧
      (t.advance x sf (.rejoin p)).afterPark = true) ∧
    ((t.advance x sf (.cwait n)).run = .cwait ∧ (t.advance x sf (.cwait n)).cwaitN = n ∧
      (t.advance x sf (.cwait n)).afterPark = true) ∧
    (t.run = .await → t.atMark m now = { t with run := .due, wake := m }) ∧
    ((t.run = .rejoin ∨ t.run = .cwait) → t.sample = .holds →
      t.atMark m now = { t with run := .due, wake := m, sample := .none }) ∧
    ((t.run = .rejoin ∨ t.run = .cwait) → t.sample = .fails → t.trapReady now = false →
      t.atMark m now = { t with sample := .none }) ∧
    ((t.run = .rejoin ∨ t.run = .cwait) → t.sample = .poisoned →
      t.atMark m now = { t with run := .due, wake := m, pc := t.parkPc }) ∧
    ((t.run = .rejoin ∨ t.run = .cwait) → t.sample = .fails → t.trapReady now = true →
      t.atMark m now = { t with run := .due, wake := m, pc := t.parkPc, sample := .none })

/-- 09 R181: `resync` with a restart point: the stream issues nothing until the restart cycle, its count is cleared and a
pending `mod` is gone, its address, registers, queues and memory are as they were; then the word at RSTPC is due. Without
a restart point it is a domain slip fault, and the stream issues nothing more. -/
def Sys2Proof.Spec.resyncResults : Prop :=
  ∀ (sf : Bool) (s : State), s.clear sf → s.cur.half ≠ .w →
    (s.me.traps.rstValid = true → ∃ m, Spec.restartsAt (s.bindAt (s.bindOf s.cur.core)).interval
        (s.bindAt (s.bindOf s.cur.core)).period s.me.traps.rstCy.toNat (s.mcyc s.cur.core) m ∧
      exec (.resync sf) s = .next ((s.noted sf).modStream s.cur.core s.cur.half fun t =>
        { t with run := .resync, wake := m, scnt := 0, pending := none, skip := 0, afterPark := false, taken := none })) ∧
    (s.me.traps.rstValid = false → ∃ t, exec (.resync sf) s = .next t ∧ t.me.run = .stopped ∧ t.mem = s.mem ∧
      t.agenda = s.agenda ∧ ((s.bindAt (s.bindOf s.cur.core)).fault = none →
        (t.bindAt (s.bindOf s.cur.core)).fault.map (·.fc) = some 1))

/-- 09 R175, R181; 05 R106; 09 R193: the waits that end. A stream whose `hold`, spill, fill, `wsave` or `wrest` is over is
due; one whose restart cycle has come is due at RSTPC. -/
def Sys2Proof.Spec.waitsEnd : Prop :=
  ∀ (s : State), s.me.wake ≤ s.mcyc s.cur.core →
    ((s.me.run = .hold ∨ s.me.run = .window) →
      exec .holdExpire s = .next (s.modStream s.cur.core s.cur.half fun t => { t with run := .due })) ∧
    (s.me.run = .resync → exec .resyncResume s =
      .next (s.modStream s.cur.core s.cur.half fun t => { t with run := .due, pc := t.traps.rstPc }))

/-- 09 R179: `mark !` at a mark cycle with the queues empty has no effect but its stop flag; otherwise it is a slip with
cause 8. -/
def Sys2Proof.Spec.markResults : Prop :=
  ∀ (s : State), s.clear true →
    let k := s.my
    let empty (q : Nat) : Prop := k.occupancy q s.ccyc = 0
    let ok : Prop := s.mcyc s.cur.core % (s.bindAt (s.bindOf s.cur.core)).interval = 0 ∧ empty 0 ∧ empty 1 ∧ empty 3 ∧
      empty 4 ∧ (k.routineBound = false → empty 2)
    (ok → exec .mark s = .next ((s.noted true).went s.ctx true .seq)) ∧
    (¬ ok → exec .mark s = .next ((s.noted true).slip s.ctx 8))

/-! ### Traps -/

/-- 09 R188: a precise fault of a word in user mode. TCAUSE, TVAL, TPC, TCYC and TSTAT are written, the mode becomes
privileged, the handler's first word, at TVEC + 0x20 x CODE, issues two cycles after the faulting word with a count of 0.
Nothing else changes: no register, no queue, no window, no byte of memory, no other stream or core. -/
def Sys2Proof.Spec.trapEntry : Prop :=
  ∀ (s : State) (x : Ctx) (code sub scnt : Nat) (tval : Word) (tpc : BitVec 32), x.half ≠ .w →
    (x.stream s).traps.priv = false →
    let t := s.raise x code sub tval tpc scnt
    let u := t.stream x.core x.half
    let o := s.stream x.core x.half
    t = { s with cores := t.cores } ∧ (∀ c, c ≠ x.core → t.core c = s.core c) ∧
    t.core x.core = (s.core x.core).setStream x.half u ∧
    u.traps = { o.traps with
      async := false, code := BitVec.ofNat 8 code, sub := BitVec.ofNat 8 sub, tval := tval,
      tpc := tpc, tcyc := BitVec.ofNat 64 (x.m + 1), pPriv := false, priv := true, scnt := BitVec.ofNat 7 scnt } ∧
    u.pc = o.traps.tvec + BitVec.ofNat 32 (0x20 * code) ∧ u.run = .due ∧ u.wake = x.m + 2 ∧ u.scnt = 0 ∧
    u.pending = none ∧ u.skip = 0 ∧ u.wptr = o.wptr ∧ u.rbot = o.rbot ∧ u.rcnt = o.rcnt ∧ u.wlimit = o.wlimit

/-- 09 R189: a fault of a word in privileged mode is a handler fault. The stream issues nothing more, the domain fault
waits for the domain's next mark, and no trap register changes. -/
def Sys2Proof.Spec.handlerFault : Prop :=
  ∀ (s : State) (x : Ctx) (code sub scnt : Nat) (tval : Word) (tpc : BitVec 32), x.half ≠ .w →
    (x.stream s).traps.priv = true →
    let t := s.raise x code sub tval tpc scnt
    t = { s with cores := t.cores, binds := t.binds, reports := t.reports } ∧
    (t.stream x.core x.half).run = .stopped ∧ (t.stream x.core x.half).traps = (s.stream x.core x.half).traps ∧
    ((s.bindAt x.bind).fault = none → (t.bindAt x.bind).fault =
      some { fc := 2, core := x.core, half := x.half, code := code, cause := sub, mcyc := x.m }) ∧
    ∀ c, (t.core c).regs = (s.core c).regs

/-- 02 R37; 09 R188, R189: an asynchronous trap is taken instead of the word due: of those pending since an earlier cycle
the lowest code, with the word's address saved; the handler's first word issues in the next cycle. What a schedule entry
brings that the table calls precise, such as a full journal's SUB 2 (22 R347, R349), is taken as the word due would raise it
(log 20). -/
def Sys2Proof.Spec.asyncTrapEntry : Prop :=
  (∀ (s : State) (p : PTrap), s.preciseDue s.cur.core s.cur.half = true → s.me.pend.find? (·.precise) = some p →
    ∃ (u : State) (x : Ctx), exec .asyncTrapEntry s = .next (u.raise x p.code p.sub p.tval x.addr s.me.scnt) ∧
      u = { s with cores := u.cores } ∧ u.me = { s.me with pend := s.me.pend.erase p } ∧ (∀ c, (u.core c).regs = (s.core c).regs) ∧
      x.core = s.cur.core ∧ x.half = s.cur.half ∧ x.now = s.ccyc ∧ x.m = s.mcyc s.cur.core ∧ x.bind = s.bindOf s.cur.core ∧
      x.addr = (match s.me.pending with | some m => m.addr | none => s.me.pc)) ∧
  ∀ (s : State) (p : PTrap), s.preciseDue s.cur.core s.cur.half = false →
    s.asyncDue s.cur.core s.cur.half = true → s.me.nextTrap s.ccyc = some p →
    (p ∈ s.me.pend ∧ p.since < s.ccyc ∧ ∀ q ∈ s.me.pend, q.since < s.ccyc → p.code ≤ q.code) ∧
    ∃ t, exec .asyncTrapEntry s = .next t ∧ t = { s with cores := t.cores } ∧
      t.me.pc = s.me.traps.tvec + BitVec.ofNat 32 (0x20 * p.code) ∧ t.me.wake = s.mcyc s.cur.core + 1 ∧
      t.me.traps = { s.me.traps with
        async := true, code := BitVec.ofNat 8 p.code, sub := BitVec.ofNat 8 p.sub,
        tval := p.tval, tpc := s.me.pc, tcyc := BitVec.ofNat 64 (s.mcyc s.cur.core), pPriv := s.me.traps.priv,
        priv := true, scnt := BitVec.ofNat 7 s.me.scnt } ∧
      t.me.pend = s.me.pend.erase p ∧ t.me.scnt = 0 ∧ ∀ c, (t.core c).regs = (s.core c).regs

/-- 09 R190, R191, R192: `rtt` restores the mode and the count and goes on at TPC; `trap 0` ends the stream and discards its
pending traps; `trap n` raises the software trap past itself; `brk n` does nothing with DBG clear and otherwise TPC takes
the next word's address, and the domain's stop at its next clean mark, with that address, waits behind those asked for
before. -/
def Sys2Proof.Spec.trapWordResults : Prop :=
  ∀ (sf : Bool) (s : State), s.clear sf →
    (s.cur.half ≠ .w → s.me.traps.priv = true → ∃ t, exec (.rtt sf) s = .next t ∧
      t = (s.noted sf).modStream s.cur.core s.cur.half (fun u => { u with
        pending := none, afterPark := false, taken := none, wake := s.mcyc s.cur.core + 1, pc := u.traps.tpc,
        scnt := u.traps.scnt.toNat, traps := { u.traps with priv := u.traps.pPriv } })) ∧
    (s.cur.half ≠ .w → ∃ t, exec (.trap sf 0) s = .next t ∧ t.me.run = .ended ∧ t.me.pend = [] ∧
      (∀ q, t.my.queue q = s.my.queue q) ∧ t.mem = s.mem ∧ t.agenda = s.agenda) ∧
    (∀ n : BitVec 14, n ≠ 0 → exec (.trap sf n) s =
      .next ((s.noted sf).raise s.ctx 0x20 0 (n.setWidth 64) s.ctx.nextAddr s.me.scnt)) ∧
    (∀ n : BitVec 4,
      (s.me.traps.dbg = false → exec (.brk sf n) s = .next ((s.noted sf).went s.ctx sf .seq)) ∧
      (s.me.traps.dbg = true → ∃ t, exec (.brk sf n) s = .next t ∧
        t.me.traps = { s.me.traps with tpc := s.ctx.nextAddr } ∧
        (t.bindAt (s.bindOf s.cur.core)).brk =
          (s.bindAt (s.bindOf s.cur.core)).brk ++ [⟨n.toNat, s.cur.core, s.cur.half, s.ctx.nextAddr⟩] ∧ t.mem = s.mem))

/-- 09 R193: `wsave` and `wrest` use the window file's port, and the stream's next word issues 16 cycles later. -/
def Sys2Proof.Spec.windowWords : Prop :=
  ∀ (sf : Bool) (s : State), s.clear sf → s.cur.half = .x →
    let t := s.me.traps
    let count := (t.tval.extractLsb' 32 4).toNat
    exec (.wsave sf) s = .next (((s.noted sf).post (s.ccyc + 16) 0 (.win s.cur.core
      (.wsave (if t.priv = true ∧ t.code = 0x0E then count else 0)))).went s.ctx sf (.window s.ctx.nextAddr)) ∧
    (t.priv = true → exec (.wrest sf) s = .next (((s.noted sf).post (s.ccyc + 16) 0 (.win s.cur.core
      (.wrest (if t.code = 0x0F then some count else none)))).went s.ctx sf (.window s.ctx.nextAddr)))

/-- 09 R184, 04 R93: `rtt` and `wrest` in user mode raise a privilege fault and take no effect. -/
def Sys2Proof.Spec.privilegedWords : Prop :=
  ∀ (sf : Bool) (s : State), s.clear sf → s.me.traps.priv = false →
    (s.cur.half ≠ .w → exec (.rtt sf) s =
      .next ((s.noted sf).raise s.ctx 0x04 0 s.ctx.wordVal s.me.pc s.me.scnt)) ∧
    (s.cur.half = .x → exec (.wrest sf) s =
      .next ((s.noted sf).raise s.ctx 0x04 0 s.ctx.wordVal s.me.pc s.me.scnt))

/-- 02 R35, R36; 04 R89, R91, R93; 09 R178: the faults of the issue itself, for the arithmetic and logic words, in their
order: an A-stream's word of class X is illegal; a `mod` before a word of `Spec.logic` or before a flagged word is illegal
at the `mod`; the stop-spacing count; results in flight at a stop flag; a word without a flag after a park. -/
def Sys2Proof.Spec.issueFaults : Prop :=
  ∀ (i : Instr) (w : Spec.Scalar) (s : State), (Spec.arithmetic i = some w ∨ Spec.logic i = some w) → s.me.skip = 0 →
    let fault (code : Nat) (tval : Word) (tpc : BitVec 32) : Host.Outcome State Fault Refusal :=
      .next ((s.noted w.sf).raise s.ctx code 0 tval tpc s.me.scnt)
    (s.cur.half = .a → exec i s = fault 0x01 s.ctx.wordVal s.me.pc) ∧
    (s.legalX w.lat w.srcs [w.dst] →
      (∀ m, s.me.pending = some m → (Spec.logic i = some w ∨ w.sf = true) →
        exec i s = fault 0x03 s.ctx.wordVal m.addr) ∧
      (s.me.pending = none →
        (w.sf = false → s.my.ctl.stopmax - 1 ≤ s.me.scnt → 0 < s.my.ctl.stopmax →
          exec i s = fault 0x05 (BitVec.ofNat 64 s.me.scnt) s.me.pc) ∧
        (w.sf = true → s.inFlight s.cur.core s.cur.half = true → exec i s = fault 0x06 0 s.me.pc) ∧
        (w.sf = false → s.me.scnt + 1 < s.my.ctl.stopmax → s.me.afterPark = true →
          exec i s = fault 0x06 0 s.me.pc)))

/-- 04 R71, R92, R93; 02 R21: a word that no row of the map assigns raises an illegal-instruction fault; one that breaks
only a reserved field raises a reserved-field fault where its half may issue its class and its register fields name
registers of the map, and an illegal-instruction fault where one does not; a word outside the kernel image raises an
illegal-instruction fault, even where it would be skipped. 02 R21 comes first for a `loop` too: one that names a queue or a
global register that its half may not use is illegal, and one that names `g0`, a queue or `cy` otherwise (05 R102), or that
breaks a reserved field, raises a reserved-field fault. -/
def Sys2Proof.Spec.unassignedWords : Prop :=
  (∀ (s : State) (sf : Bool) (d : BitVec 5) (i : BitVec 14), s.clear sf → s.cur.half ≠ .a →
    let fault (sf : Bool) (code : Nat) : Host.Outcome State Fault Refusal :=
      .next ((s.noted sf).raise s.ctx code 0 s.ctx.wordVal s.me.pc s.me.scnt)
    let r := d.toNat
    let barred : Prop := (s.cur.half = .x ∧ r = 27 ∧ s.my.routineBound = true) ∨
      (s.cur.half = .w ∧ ((16 ≤ r ∧ r < 24) ∨ r = 25 ∨ r = 26 ∨ r = 28 ∨ r = 29))
    (barred → exec (.loop sf d i) s = fault sf 0x01 ∧
      exec (.unassignedEncoding (.reservedLoop d)) s = fault (bitAt s.cur.bits 1) 0x01) ∧
    (¬ barred → (r = 16 ∨ (25 ≤ r ∧ r ≤ 30)) → exec (.loop sf d i) s = fault sf 0x02 ∧
      exec (.unassignedEncoding (.reservedLoop d)) s = fault (bitAt s.cur.bits 1) 0x02)) ∧
  ∀ (s : State),
    let sf := bitAt s.cur.bits 1
    let fault (code : Nat) : Host.Outcome State Fault Refusal :=
      .next ((s.noted sf).raise s.ctx code 0 s.ctx.wordVal s.me.pc s.me.scnt)
    (s.me.skip = 0 → exec (.unassignedEncoding .illegal) s = fault 0x01) ∧
    (∀ srcs dsts : List (BitVec 5), s.me.skip = 0 →
      (s.legalX 1 (srcs.map (·.toNat)) (dsts.map (·.toNat)) →
        exec (.unassignedEncoding (.reserved .e srcs dsts)) s = fault 0x02) ∧
      (s.cur.half ≠ .a → (∃ r ∈ srcs, ¬ srcOkX s.cur.half s.my.routineBound r.toNat) →
        exec (.unassignedEncoding (.reserved .e srcs dsts)) s = fault 0x01)) ∧
    exec (.unassignedEncoding .outside) s = fault 0x01

/-! ### Control registers -/

/-- 02 R39 to R45; 09 R183 to R186; 13 R246; 22 R351, R352: `mfs` delivers the control register's fields; without privilege
a register that holds a PR field raises a privilege fault, and an unassigned number a reserved-field fault. -/
def Obligations.MfsResults : Prop :=
  ∀ (sf : Bool) (d : BitVec 5) (n : BitVec 14) (s : State), s.clear sf → s.legalE [] [d.toNat] →
    (∀ (v : Word) (s' : State), Spec.control s n.toNat = some v → (Spec.readPriv n.toNat → s.me.traps.priv = true) →
      s.gives sf d.toNat [] s' [] → s.takes d.toNat v →
      exec (.mfs sf d n) s = .next ((s'.put s.ctx 1 d.toNat v).went s.ctx sf .seq)) ∧
    (Spec.readPriv n.toNat → s.me.traps.priv = false →
      exec (.mfs sf d n) s = .next ((s.noted sf).raise s.ctx 0x04 0 s.ctx.wordVal s.me.pc s.me.scnt)) ∧
    (Spec.control s n.toNat = none →
      exec (.mfs sf d n) s = .next ((s.noted sf).raise s.ctx 0x02 0 s.ctx.wordVal s.me.pc s.me.scnt))

/-- 02 R39, R42, R43, R45; 09 R183, R186; 22 R351, R352: `mts` completes, for every assigned number and every value that
its fields allow, in privileged mode or where the register has no PW and no PR field. A stream's own register serves its
next word; STOPMAX, SLIP, WBASE and RWIN take the value one cycle later for every stream of the core, and EPNT goes to the
directory then; a read-only register ignores the write. -/
def Sys2Proof.Spec.mtsResults : Prop :=
  ∀ (sf : Bool) (a : BitVec 5) (n : BitVec 14) (s s' : State) (v : Word), s.clear sf → s.legalE [a.toNat] [] →
    s.gives sf 0 [a.toNat] s' [v] → Spec.control s n.toNat ≠ none → ¬ Spec.forbidden s n.toNat v →
    (Spec.writePriv n.toNat → s.me.traps.priv = true) →
    ((n = 0x04 ∨ n = 0x05 ∨ n = 0x07 ∨ n = 0x0D) → exec (.mts sf a n) s =
      .next ((s'.post (s.ccyc + 1) 1 (.ctl s.cur.core n.toNat v)).went s.ctx sf .seq)) ∧
    (n = 0x0E → exec (.mts sf a n) s = .next ((s'.post (s.ccyc + 1) 1 (.epnt s.cur.core v)).went s.ctx sf .seq)) ∧
    (¬ (n = 0x04 ∨ n = 0x05 ∨ n = 0x07 ∨ n = 0x0D ∨ n = 0x0E) → exec (.mts sf a n) s =
      .next ((s'.modStream s.cur.core s.cur.half fun t => Spec.written t n.toNat v).went s.ctx sf .seq))

/-- 02 R39, R42, R43; 09 R183, R184, R186: `mts` that is refused: a value that a field forbids and an unassigned number
raise a reserved-field fault, and a permitted value without privilege a privilege fault. The register keeps its value: no
shared control register and no register of the stream's own changes, but for the trap registers that a trap entry
writes. -/
def Sys2Proof.Spec.mtsRefusals : Prop :=
  ∀ (sf : Bool) (a : BitVec 5) (n : BitVec 14) (s s' : State) (v : Word), s.clear sf → s.legalE [a.toNat] [] →
    s.gives sf 0 [a.toNat] s' [v] →
    let stays (code : Nat) : Prop :=
      ∃ t, exec (.mts sf a n) s = .next t ∧ t = (s.noted sf).raise s.ctx code 0 s.ctx.wordVal s.me.pc s.me.scnt ∧
        t.my.ctl = s.my.ctl ∧ t.agenda = s.agenda ∧ t.me.wlimit = s.me.wlimit ∧ t.me.rm = s.me.rm ∧ t.me.ovf = s.me.ovf ∧
        t.me.traps.tvec = s.me.traps.tvec ∧ t.me.traps.tscr = s.me.traps.tscr ∧
        (s.me.traps.priv = true → t.me.traps = s.me.traps)
    (Spec.control s n.toNat ≠ none → Spec.forbidden s n.toNat v → stays 0x02) ∧
    (Spec.control s n.toNat = none → stays 0x02) ∧
    (Spec.control s n.toNat ≠ none → ¬ Spec.forbidden s n.toNat v → Spec.writePriv n.toNat → s.me.traps.priv = false →
      stays 0x04)

/-- 05 R103 to R107; 09 R193; 02 R29: calls and returns with their spills, fills and window traps; the window after the
slide; `wsave` and `wrest`; and what a spill, a fill, `wsave` and `wrest` leave in the registers, the stack image and TVAL
at the end of their sixteen cycles. -/
def Obligations.WindowResults : Prop :=
  Spec.callResults ∧ Spec.windowSlides ∧ Spec.portEnds ∧ Spec.windowWords

/-- 09 R175 to R181; 10 R203; 05 R106: the words that wait or park, what marks do to parked streams, `resync` and its
restart, the waits that end, and `mark`. -/
def Obligations.ParksAndMarks : Prop :=
  Spec.waitResults ∧ Spec.parkedStreams ∧ Spec.resyncResults ∧ Spec.waitsEnd ∧ Spec.markResults

/-- 02 R37; 09 R188, R189: what taking a trap saves and where it goes, precise and asynchronous, and the handler fault
of a word in privileged mode. -/
def Obligations.TrapEntries : Prop :=
  Spec.trapEntry ∧ Spec.handlerFault ∧ Spec.asyncTrapEntry

/-- 09 R184, R190 to R192; 04 R93: `rtt`, `trap` and `brk`, and the privilege faults of `rtt` and `wrest` in user mode.
Readings of the model: the count that `trap n` saves leaves the trap word itself out, and `brk` with DBG set writes TPC
(log 40); `trap n` and `trap 0` in a routine fault it, by the register and trap state that the sweep stream has of its own
(log 38). -/
def Obligations.TrapWords : Prop :=
  Spec.trapWordResults ∧ Spec.privilegedWords

/-- 02 R35, R36; 04 R71, R89, R91 to R93; 09 R178: the faults of the issue itself, in their order, and the faults of
words that no row of the map assigns. Readings of the model: the order of two faults of a `loop` (log 42), and `g0` as a
routine's destination (log 38). -/
def Obligations.WordFaults : Prop :=
  Spec.issueFaults ∧ Spec.unassignedWords

/-- 02 R39, R42, R43, R45; 09 R183, R184, R186; 22 R351, R352: `mts` of values that the fields allow; the reserved-field
faults of a value that a field forbids and of an unassigned number; and the privilege fault. That a refused value is a reserved
field in user mode too, before the privilege, is read from 04 R93 (log 42). -/
def Obligations.MtsWords : Prop :=
  Spec.mtsResults ∧ Spec.mtsRefusals

end

namespace Sys2Proof.Spec

open Sys2Proof.Machine

/-! ### What an access leaves alone -/

/-- Nothing but cores, the agenda and the error log changes. -/
def kept (s t : State) : Prop :=
  t = { s with cores := t.cores, agenda := t.agenda, seq := t.seq, dev := { s.dev with log := t.dev.log } }

/-- The issuing stream goes on to the next word; no register, no control register, no tile and no other stream of its core
changes, and no other core. -/
def onward (s t : State) (sf : Bool) : Prop :=
  (∀ c, c ≠ s.cur.core → t.core c = s.core c) ∧ (∀ h, h ≠ s.cur.half → t.stream s.cur.core h = s.stream s.cur.core h) ∧
  (∃ l, t.me = { s.me.advance s.ctx sf .seq with issued := l }) ∧ t.my.regs = s.my.regs ∧ t.my.ctl = s.my.ctl ∧
  t.my.tile = s.my.tile ∧ t.my.psj = s.my.psj

/-- The queues of the issuing core but `q` are as they were. -/
def queuesBut (s t : State) (q : Nat) : Prop := ∀ q' < 5, q' ≠ q → t.my.queue q' = s.my.queue q'

/-! ### The A-half's accesses, as 06 R116 to R127 write them -/

/-- A scalar access of the A-half: stop flag, the word as the reach rule names it, space, queue, bytes, alignment, and its
address: the register plus the displacement. -/
structure Access where
  sf : Bool
  kind : AccKind
  space : Nat
  q : Nat
  size : Nat
  align : Nat
  a : Nat
  disp : Int
  /-- sign-extended (the `.i` types, 06 R120) -/
  signed : Bool := false
  /-- the tag that `ldt` expects -/
  tag : Option (BitVec 8) := none
  /-- latency in the scratchpad, the near and the far column (02 R33) -/
  lat : Nat × Nat × Nat
  /-- the observer mask (06 R86) -/
  obs : BitVec 5 := 0

/-- Bytes of a type code: n8, n16, n32, n64, i8, i16, i32 (04 R77). -/
def size (t : BitVec 3) : Nat := [1, 2, 4, 8, 1, 2, 4].getD t.toNat 0
/-- Bytes that the Z bit selects (06 R125). -/
def zsize (z : BitVec 1) : Nat := if z = 1 then 8 else 4

/-- The words that push what they read (06 R120, R123, R127). -/
def loads : Instr → Option Access
  | .lds s q a t d => if t = 7 then none else
      some { sf := s, kind := .load, space := 1, q := q.toNat, size := size t, align := 1, a := a.toNat, disp := d.toInt,
             signed := 4 ≤ t.toNat, lat := (2, 3, 5) }
  | .ldl s q a t d => if t = 7 then none else
      some { sf := s, kind := .load, space := 2, q := q.toNat, size := size t, align := 1, a := a.toNat, disp := d.toInt,
             signed := 4 ≤ t.toNat, lat := (2, 3, 5) }
  | .ldt s q a t g => if t = 7 then none else
      some { sf := s, kind := .ldt, space := 1, q := q.toNat, size := size t, align := 1, a := a.toNat, disp := 0,
             signed := 4 ≤ t.toNat, tag := some g, lat := (2, 3, 5) }
  | .ldacq s p q a z o => if o = 0 ∨ p = 0 ∨ p = 3 then none else
      some { sf := s, kind := .ldacq, space := p.toNat, q := q.toNat, size := zsize z, align := zsize z, a := a.toNat,
             disp := 0, lat := (4, 6, 8) }
  | _ => none

/-- The words that drain a store-data queue to memory (06 R120, R127). -/
def stores : Instr → Option Access
  | .sts s q a t d => if t = 7 then none else
      some { sf := s, kind := .store, space := 1, q := q.toNat, size := size t, align := 1, a := a.toNat, disp := d.toInt,
             lat := (1, 2, 3) }
  | .stl s q a t d => if t = 7 then none else
      some { sf := s, kind := .store, space := 2, q := q.toNat, size := size t, align := 1, a := a.toNat, disp := d.toInt,
             lat := (1, 2, 3) }
  | .strel s p q a z o => if o = 0 ∨ p = 0 ∨ p = 3 then none else
      some { sf := s, kind := .strel, space := p.toNat, q := q.toNat, size := zsize z, align := zsize z, a := a.toNat,
             disp := 0, lat := (1, 2, 3), obs := o }
  | _ => none

/-- The atomic words that push an old value (06 R125, R126, R131): the operation and the two operand registers. -/
def atomics : Instr → Option (Access × AtOp × BitVec 3 × BitVec 3)
  | .amadd s p q a g z o => at_ s p q a z o .add g 0
  | .amswp s p q a g z o => at_ s p q a z o .swp g 0
  | .amcas s p q a g z h o => at_ s p q a z o .cas g h
  | .amand s p q a g z o => at_ s p q a z o .and g 0
  | .amor s p q a g z o => at_ s p q a z o .or g 0
  | .amminI s p q a g z o => at_ s p q a z o .minI g 0
  | .amminN s p q a g z o => at_ s p q a z o .minN g 0
  | .ammaxI s p q a g z o => at_ s p q a z o .maxI g 0
  | .ammaxN s p q a g z o => at_ s p q a z o .maxN g 0
  | .stacq s q a o => if o = 0 then none else
      some ({ sf := s, kind := .stage, space := 1, q := q.toNat, size := 8, align := 8, a := a.toNat, disp := 0,
              lat := (1, 2, 3) }, .stacq, 0, 0)
  | _ => none
where
  /-- An `am…` word's fields. -/
  at_ (s : Bool) (p : BitVec 2) (q : BitVec 4) (a : BitVec 3) (z : BitVec 1) (o : BitVec 5) (op : AtOp) (g h : BitVec 3) :
      Option (Access × AtOp × BitVec 3 × BitVec 3) :=
    if o = 0 ∨ p = 0 ∨ p = 3 then none else
      some ({ sf := s, kind := .atomic, space := p.toNat, q := q.toNat, size := zsize z, align := zsize z, a := a.toNat,
              disp := 0, lat := (1, 2, 3), obs := o }, op, g, h)

/-- The latency of a place. -/
def Access.at_ (w : Access) : Place → Nat
  | .scratch => w.lat.1
  | .near => w.lat.2.1
  | .far => w.lat.2.2

/-- The effective address (06 R116): the register plus the displacement, wrapped. -/
def Access.ea (w : Access) (s : State) : Word := vget 0 s.my.regs.a w.a + BitVec.ofInt 64 w.disp

/-- The access may be made (06 R117, R118, R386): it reaches a place, its bank is free in the cycle `delay` from now, it
is aligned and lies in one bank. -/
def allowed (s : State) (kind : AccKind) (space size align p : Nat) (delay : Place → Nat) (pl : Place) : Prop :=
  s.reach s.cur.core (s.bindOf s.cur.core) kind space p size = some pl ∧
  s.bankFails s.ctx (s.ccyc + delay pl) p size = false ∧ p % align = 0 ∧
  (ptrTag p = 2 → p / 0x10000 = (p + size - 1) / 0x10000)

/-- The value of loaded bytes: little-endian, sign-extended for the `.i` types. -/
def loaded (w : Access) (bs : List Byte) : Word :=
  if w.signed then (BitVec.ofNat (8 * w.size) (ofBytes bs)).signExtend 64 else BitVec.ofNat 64 (ofBytes bs)

/-- The bytes that the pieces of a store write, each with its pointer. -/
def bytesOf (segs : List (Nat × List Byte)) : List (Nat × Byte) :=
  segs.flatMap fun g => g.2.zipIdx.map fun b => (g.1 + b.2, b.1)

/-- Byte `j` of a word. -/
def byteOf (v : Word) (j : Nat) : Byte := v.extractLsb' (8 * j) 8

/-- The lanes that a mask field enables (04 R77): all for 0, else the low bits of g1 to g7. -/
def lanesOn (s : State) (m : BitVec 3) (i : Nat) : Bool :=
  m = 0 || (vget 0 s.my.regs.g m.toNat).getLsbD i

/-- Lane `i` of a vector register (02 R27). -/
def lane (v : Vec) (i : Nat) : BitVec 32 := v.extractLsb' (32 * i) 32

/-- The vector accesses of a span of 128 bytes (06 R124): store or load, space, vector register, base, mask, displacement. -/
def spans : Instr → Option (Bool × Bool × Nat × BitVec 4 × BitVec 3 × BitVec 3 × BitVec 12)
  | .vlds s q a m d => some (false, s, 1, q, a, m, d)
  | .vldl s q a m d => some (false, s, 2, q, a, m, d)
  | .vsts s q a m d => some (true, s, 1, q, a, m, d)
  | .vstl s q a m d => some (true, s, 2, q, a, m, d)
  | _ => none

/-- Latency of a vector load (02 R33). -/
def vloadLat : Place → Nat
  | .scratch => 3 | .near => 4 | .far => 6
/-- Latency of a store. -/
def storeLat : Place → Nat
  | .scratch => 1 | .near => 2 | .far => 3
/-- Latency of an atomic's old value. -/
def oldLat : Place → Nat
  | .scratch => 4 | .near => 6 | .far => 8

/-- The agenda with one new entry, the state's next. -/
def posted (s : State) (due prio tie : Nat) (ev : Ev) : List AEnt :=
  agendaInsert { due := due, prio := prio, tie := tie, ev := ev } s.agenda

/-- Lanes 0 to 31 that are enabled. -/
def enabled (s : State) (m : BitVec 3) : List Nat := (List.range 32).filter (lanesOn s m)

/-- An atomic's new value by w, the old value and its operands (06 R126, R131, R132). -/
def newValue (op : AtOp) (w : Nat) (old p q : BitVec w) : BitVec w :=
  match op with
  | .add => old + p
  | .swp => p
  | .cas => if old = p then q else old
  | .and => old &&& p
  | .or => old ||| p
  | .minI => if old.sle p then old else p
  | .minN => if old.ule p then old else p
  | .maxI => if old.sle p then p else old
  | .maxN => if old.ule p then p else old
  | .stacq => old ||| BitVec.ofNat w (2 ^ 63)
  | .strls => p &&& BitVec.ofNat w (2 ^ 63 - 1)

/-- The name that is live at a core for the domain that holds it, with its directory entry: its registered endpoint (06
R133, 22 R352). -/
def heldBy (s : State) (c : Nat) : Option (Nat × DirEnt) :=
  if (s.core c).bound = none then none
  else (s.partAt (s.corePart c)).directory.find? fun e =>
    decide (e.2.live = some c ∧ e.2.task = (s.bindAt (s.bindOf c)).task)

/-- The memory key of the visible byte at a pointer (14 R251 to R253, R269). -/
def keyOf (s : State) (c p : Nat) : Nat := ptrKey ((pubRoute (s.pubs (s.bindOf c)) false p).getD p)

/-- 06 R117, R118, R123, R136, R386: where an access stops before its queue: the reach check with its bank check, for an
access that touches memory `delay` cycles from now, and then alignment. -/
def accessStops (i : Instr) (w : Access) (s : State) (delay : Place → Nat) : Prop :=
  let p := (w.ea s).toNat
  let stops (code : Nat) : Prop := exec i s = .next ((s.noted w.sf).raise s.ctx code 0 (w.ea s) s.me.pc s.me.scnt)
  let reach := s.reach s.cur.core (s.bindOf s.cur.core) w.kind w.space p w.size
  (reach = none → stops 0x08) ∧
  ∀ pl, reach = some pl →
    (s.bankFails s.ctx (s.ccyc + delay pl) p w.size = true → stops 0x08) ∧
    (s.bankFails s.ctx (s.ccyc + delay pl) p w.size = false →
      (p % w.align ≠ 0 ∨ (ptrTag p = 2 ∧ p / 0x10000 ≠ (p + w.size - 1) / 0x10000) ∨
        (w.tag.isSome = true ∧ p / 64 ≠ (p + w.size - 1) / 64)) → stops 0x09)

/-- 02 R28; 06 R129, R136; 24 R371: where a word that drains a store-data queue stops: no entry, or one that has not landed;
an entry of bad parity, which is popped; the order check, which slips. -/
def drainStops (i : Instr) (w : Access) (s : State) : Prop :=
  let q := 3 + w.q
  let empty : Prop := exec i s = .next ((s.noted w.sf).raise s.ctx 0x0B (28 + w.q) 0 s.me.pc s.me.scnt)
  (s.my.queue q = [] → empty) ∧
  ∀ e rest, s.my.queue q = e :: rest →
    (s.ccyc < e.due → empty) ∧
    (e.due ≤ s.ccyc → e.bad = true → exec i s =
      .next ((((s.noted w.sf).modCore s.cur.core (·.pop q s.ccyc)).noteErr .register false (64 * s.cur.core + (28 + w.q))).raise
        s.ctx 0x0C 0 (BitVec.ofNat 64 (2 ^ 63 + (28 + w.q))) s.me.pc s.me.scnt)) ∧
    (e.due ≤ s.ccyc → e.bad = false → s.orderOk s.cur.core w.obs.toNat = false →
      exec i s = .next ((s.noted w.sf).slip s.ctx 6))

/-- 02 R28, 06 R136: a word that fills a load-data queue stops where it is full. -/
def fillStops (i : Instr) (w : Access) (s : State) : Prop :=
  8 ≤ s.my.occupancy w.q s.ccyc →
    exec i s = .next ((s.noted w.sf).raise s.ctx 0x0A (25 + w.q) 0 s.me.pc s.me.scnt)

/-- The access of `strls` (06 R132). -/
def strlsAccess (sf : Bool) (q : BitVec 4) (a : BitVec 3) (o : BitVec 5) : Access :=
  { sf := sf, kind := .stage, space := 1, q := q.toNat, size := 8, align := 8, a := a.toNat, disp := 0, lat := (1, 2, 3),
    obs := o }

end Sys2Proof.Spec

section

open Sys2Proof Sys2Proof.Machine

/-! ### Accesses of the A-half -/

/-- 06 R116 to R120, R123, R127: the load words. The value pushed is that of the bytes as the core reads them at issue,
little-endian, zero- or sign-extended; it lands 2, 3 or 5 cycles later (`ldacq` 4, 6 or 8). `ldt` needs the line's tag to
be the one it names. No memory, no register and no other queue changes. -/
def Obligations.LoadResults : Prop :=
  ∀ (i : Instr) (w : Spec.Access) (s : State) (pl : Place), Spec.loads i = some w → s.clear w.sf → s.cur.half = .a →
    let p := (w.ea s).toNat
    let b := s.bindOf s.cur.core
    w.q < 3 → (w.q = 2 → s.my.routineBound = false) → Spec.allowed s w.kind w.space w.size w.align p (fun _ => 0) pl →
    s.my.occupancy w.q s.ccyc < 8 → s.visPoison b p w.size = none →
    (∀ g, w.tag = some g → p / 64 = (p + w.size - 1) / 64 ∧
      s.mem.read (tagKey s.cur.core (sOff ((pubRoute (s.pubs b) false p).getD p) / 64)) = g) →
    ∃ t, exec i s = .next t ∧ Spec.kept s t ∧ Spec.onward s t w.sf ∧ Spec.queuesBut s t w.q ∧ t.agenda = s.agenda ∧
      t.my.sendBuf = s.my.sendBuf ∧ t.my.launches = s.my.launches ∧
      t.my.queue w.q = s.my.queue w.q ++ [⟨Spec.loaded w (s.visBytes b p w.size), s.ccyc, s.ccyc + w.at_ pl, false, .a, s.seq⟩]

/-- 06 R119, R120, R127 to R129: the store words. The head of the store-data queue is drained at issue, and its low bytes
go to the agenda, little-endian from the address on, to be written 1, 2 or 3 cycles later; `strel` first passes its
order check. No memory changes at issue. -/
def Obligations.StoreResults : Prop :=
  ∀ (i : Instr) (w : Spec.Access) (s : State) (pl : Place) (e : QEnt) (rest : List QEnt), Spec.stores i = some w →
    s.clear w.sf → s.cur.half = .a →
    let p := (w.ea s).toNat
    w.q < 2 → Spec.allowed s w.kind w.space w.size w.align p Spec.storeLat pl →
    s.my.queue (3 + w.q) = e :: rest → e.due ≤ s.ccyc → e.bad = false → s.orderOk s.cur.core w.obs.toNat = true →
    ∃ t segs, exec i s = .next t ∧ Spec.kept s t ∧ Spec.onward s t w.sf ∧ Spec.queuesBut s t (3 + w.q) ∧
      t.my.queue (3 + w.q) = rest ∧
      t.agenda = Spec.posted s (s.ccyc + w.at_ pl) 2 s.seq (.store s.cur.core .a segs) ∧
      Spec.bytesOf segs = (List.range w.size).map fun j => (p + j, Spec.byteOf e.val j)

/-- 02 R28; 06 R117, R118, R122, R123, R129, R136; 24 R371: where a load or a store of the scalar words stops, in this order:
the reach check, alignment, the full or empty queue, poison (of a word that a load needs, or of the entry that a store
drains, which goes with it); then the tag check and the order check, which slip. It writes no memory and pushes nothing. Readings of the model: the address that the error log gives
a poisoned entry (log 93), and that the TVAL of a poisoned read in a published buffer is the address that the word computed
(log 30). -/
def Obligations.AccessFaults : Prop :=
  ∀ (i : Instr) (w : Spec.Access) (s : State) (store : Bool),
    (if store then Spec.stores i = some w else Spec.loads i = some w) → s.clear w.sf → s.cur.half = .a →
    let p := (w.ea s).toNat
    let b := s.bindOf s.cur.core
    let delay : Place → Nat := if store then Spec.storeLat else fun _ => 0
    w.q < (if store then 2 else 3) → (store = false → w.q = 2 → s.my.routineBound = false) →
    Spec.accessStops i w s delay ∧
    (∀ pl, Spec.allowed s w.kind w.space w.size w.align p delay pl →
      (w.tag.isSome = true → p / 64 = (p + w.size - 1) / 64) →
      (store = true → Spec.drainStops i w s) ∧
      (store = false → Spec.fillStops i w s ∧
        (s.my.occupancy w.q s.ccyc < 8 → ∀ a, s.visPoison b p w.size = some a → exec i s =
          .next (((s.noted w.sf).noteRead (s.visKeys b p w.size)).raise s.ctx 0x0C 0 (BitVec.ofNat 64 a) s.me.pc
            s.me.scnt)) ∧
        (s.my.occupancy w.q s.ccyc < 8 → s.visPoison b p w.size = none → ∀ g, w.tag = some g →
          s.mem.read (tagKey s.cur.core (sOff ((pubRoute (s.pubs b) false p).getD p) / 64)) ≠ g →
          exec i s = .next ((s.noted w.sf).slip s.ctx 5))))

/-- 06 R124, 02 R27: the vector loads and stores of a span: active lane i is the 4 bytes at the address plus 4 i. A load's
lanes land 3, 4 or 6 cycles later and leave the other lanes; a store's active lanes are written 1, 2 or 3 cycles
later, and nothing is posted where no lane is active. -/
def Sys2Proof.Spec.spanResults : Prop :=
  ∀ (i : Instr) (st sf : Bool) (sp : Nat) (q : BitVec 4) (a m : BitVec 3) (d : BitVec 12) (s : State) (pl : Place),
    Spec.spans i = some (st, sf, sp, q, a, m, d) → s.clear sf → s.cur.half = .a →
    let p := (vget 0 s.my.regs.a a.toNat + d.signExtend 64).toNat
    let b := s.bindOf s.cur.core
    Spec.allowed s (if st then .vstore else .vload) sp 128 4 p (if st then Spec.storeLat else fun _ => 0) pl →
    (st = false → (∀ j ∈ Spec.enabled s m, s.visPoison b (p + 4 * j) 4 = none) →
      ∃ t mask v, exec i s = .next t ∧ Spec.kept s t ∧ Spec.onward s t sf ∧ Spec.queuesBut s t 5 ∧
        t.agenda = Spec.posted s (s.ccyc + Spec.vloadLat pl) 1 s.seq (.vec s.cur.core .a false q.toNat mask v) ∧
        (∀ k < 1024, mask.getLsbD k = Spec.lanesOn s m (k / 32)) ∧
        ∀ j ∈ Spec.enabled s m, Spec.lane v j = BitVec.ofNat 32 (ofBytes (s.visBytes b (p + 4 * j) 4))) ∧
    (st = true → ∃ t segs, exec i s = .next t ∧ Spec.kept s t ∧ Spec.onward s t sf ∧ Spec.queuesBut s t 5 ∧
      t.agenda = (if Spec.enabled s m = [] then s.agenda
        else Spec.posted s (s.ccyc + Spec.storeLat pl) 2 s.seq (.store s.cur.core .a segs)) ∧
      Spec.bytesOf segs = (Spec.enabled s m).flatMap fun j => (List.range 4).map fun k =>
        (p + 4 * j + k, (Spec.lane (vget 0 s.my.regs.v q.toNat) j).extractLsb' (8 * k) 8))

/-- 06 R124: `vgath` and `vscat`: active lane i is the 4 bytes at the register plus the displacement plus the signed lane i
of the index vector, wrapped to 64 bits; only the active lanes are checked. The lanes land 8 cycles later, the stores 4
cycles later, wherever they are. -/
def Sys2Proof.Spec.indexedResults : Prop :=
  ∀ (sf : Bool) (sp : BitVec 2) (q : BitVec 4) (a m : BitVec 3) (x : BitVec 4) (d : BitVec 8) (s : State), s.clear sf →
    s.cur.half = .a → (sp = 1 ∨ sp = 2) →
    let b := s.bindOf s.cur.core
    let addr (j : Nat) : Nat := (vget 0 s.my.regs.a a.toNat + d.signExtend 64 +
      (Spec.lane (vget 0 s.my.regs.v x.toNat) j).signExtend 64).toNat
    ((∀ j ∈ Spec.enabled s m, ∃ pl, Spec.allowed s .gath sp.toNat 4 4 (addr j) (fun _ => 0) pl) →
      (∀ j ∈ Spec.enabled s m, s.visPoison b (addr j) 4 = none) →
      ∃ t mask v, exec (.vgath sf sp q a m x d) s = .next t ∧ Spec.kept s t ∧ Spec.onward s t sf ∧ Spec.queuesBut s t 5 ∧
        t.agenda = Spec.posted s (s.ccyc + 8) 1 s.seq (.vec s.cur.core .a false q.toNat mask v) ∧
        (∀ k < 1024, mask.getLsbD k = Spec.lanesOn s m (k / 32)) ∧
        ∀ j ∈ Spec.enabled s m, Spec.lane v j = BitVec.ofNat 32 (ofBytes (s.visBytes b (addr j) 4))) ∧
    ((∀ j ∈ Spec.enabled s m, ∃ pl, Spec.allowed s .scat sp.toNat 4 4 (addr j) (fun _ => 4) pl) →
      ∃ t segs, exec (.vscat sf sp q a m x d) s = .next t ∧ Spec.kept s t ∧ Spec.onward s t sf ∧ Spec.queuesBut s t 5 ∧
        t.agenda = (if Spec.enabled s m = [] then s.agenda
          else Spec.posted s (s.ccyc + 4) 2 s.seq (.store s.cur.core .a segs)) ∧
        Spec.bytesOf segs = (Spec.enabled s m).flatMap fun j => (List.range 4).map fun k =>
          (addr j + k, (Spec.lane (vget 0 s.my.regs.v q.toNat) j).extractLsb' (8 * k) 8))

/-- 06 R125 to R132: the atomic words. At issue the entry's place in the queue is taken, to land 4, 6 or 8 cycles later,
and the access is set for the perform cycle with its operands' values of that width; `strls` drains its entry, `fence`
makes its order check alone. -/
def Sys2Proof.Spec.atomicResults : Prop :=
  (∀ (i : Instr) (w : Spec.Access) (op : AtOp) (g h : BitVec 3) (s : State) (pl : Place),
    Spec.atomics i = some (w, op, g, h) → s.clear w.sf → s.cur.half = .a →
    let p := (w.ea s).toNat
    let opnd (r : BitVec 3) : Word := if r = 0 then 0 else
      if w.size = 8 then vget 0 s.my.regs.g r.toNat else ((vget 0 s.my.regs.g r.toNat).setWidth 32).setWidth 64
    w.q < 3 → (w.q = 2 → s.my.routineBound = false) →
    Spec.allowed s w.kind w.space w.size w.align p Spec.storeLat pl → s.my.occupancy w.q s.ccyc < 8 →
    s.orderOk s.cur.core w.obs.toNat = true →
    ∃ t, exec i s = .next t ∧ Spec.kept s t ∧ Spec.onward s t w.sf ∧ Spec.queuesBut s t w.q ∧
      t.my.queue w.q = s.my.queue w.q ++ [⟨0, s.ccyc, s.ccyc + Spec.oldLat pl, false, .a, s.seq⟩] ∧
      t.agenda = Spec.posted s (s.ccyc + w.at_ pl) 7 (s.seq + 1)
        (.atomic s.cur.core .a op (w.size == 8) p (opnd g) (opnd h) w.q s.seq)) ∧
  (∀ (sf : Bool) (q : BitVec 4) (a : BitVec 3) (o : BitVec 5) (s : State) (e : QEnt) (rest : List QEnt), s.clear sf →
    s.cur.half = .a → q.toNat < 2 → o ≠ 0 →
    let p := (vget 0 s.my.regs.a a.toNat).toNat
    Spec.allowed s .stage 1 8 8 p Spec.storeLat .scratch → s.my.queue (3 + q.toNat) = e :: rest → e.due ≤ s.ccyc →
    e.bad = false → s.orderOk s.cur.core o.toNat = true →
    ∃ t, exec (.strls sf q a o) s = .next t ∧ Spec.kept s t ∧ Spec.onward s t sf ∧ Spec.queuesBut s t (3 + q.toNat) ∧
      t.my.queue (3 + q.toNat) = rest ∧
      t.agenda = Spec.posted s (s.ccyc + 1) 2 s.seq (.atomic s.cur.core .a .strls true p e.val 0 3 0)) ∧
  (∀ (sf : Bool) (o : BitVec 5) (s : State), s.clear sf → s.cur.half = .a → o ≠ 0 →
    (s.orderOk s.cur.core o.toNat = true → exec (.fence sf o) s = .next ((s.noted sf).went s.ctx sf .seq)) ∧
    (s.orderOk s.cur.core o.toNat = false → exec (.fence sf o) s = .next ((s.noted sf).slip s.ctx 6)))

/-- 06 R117, R118, R126, R129, R131, R132, R136; 02 R28; 24 R371: where the `am…` words, `stacq` and `strls` stop: the reach
check, alignment, the full queue that the old value goes to or the empty one that `strls` drains, an entry of bad parity,
and the order check, which slips. -/
def Sys2Proof.Spec.atomicStops : Prop :=
  (∀ (i : Instr) (w : Spec.Access) (op : AtOp) (g h : BitVec 3) (s : State), Spec.atomics i = some (w, op, g, h) →
    s.clear w.sf → s.cur.half = .a → w.q < 3 → (w.q = 2 → s.my.routineBound = false) →
    Spec.accessStops i w s Spec.storeLat ∧
    ∀ pl, Spec.allowed s w.kind w.space w.size w.align (w.ea s).toNat Spec.storeLat pl →
      Spec.fillStops i w s ∧
      (s.my.occupancy w.q s.ccyc < 8 → s.orderOk s.cur.core w.obs.toNat = false →
        exec i s = .next ((s.noted w.sf).slip s.ctx 6))) ∧
  ∀ (sf : Bool) (q : BitVec 4) (a : BitVec 3) (o : BitVec 5) (s : State), s.clear sf → s.cur.half = .a → q.toNat < 2 →
    o ≠ 0 →
    let w := Spec.strlsAccess sf q a o
    Spec.accessStops (.strls sf q a o) w s Spec.storeLat ∧
    ∀ pl, Spec.allowed s .stage 1 8 8 (w.ea s).toNat Spec.storeLat pl → Spec.drainStops (.strls sf q a o) w s

/-- 06 R126, R131, R132: an atomic in its perform cycle, on a word that is not poisoned: one read and one write. The word
takes the new value and the entry the old one, zero-extended; every other byte of memory is as it was, and no register.
A poisoned word stays as it was, and its entry lands with bad parity. -/
def Sys2Proof.Spec.atomicPerforms : Prop :=
  ∀ (s : State) (x : AEnt) (rest : List AEnt) (c : Nat) (h : Half) (op : AtOp) (wide : Bool) (p : Nat) (g k : Word)
    (q id : Nat), s.agenda = x :: rest → x.due ≤ s.ccyc → x.ev = .atomic c h op wide p g k q id → q < 5 →
    (wide = false → g.toNat < 2 ^ 32 ∧ k.toNat < 2 ^ 32) →
    let n := if wide then 8 else 4
    let key := Spec.keyOf s c p
    let old := s.mem.readLe key n
    ∃ t, exec .atomicPerform s = .next t ∧ t.agenda = rest ∧ (t.core c).regs = (s.core c).regs ∧
      (∀ a, a < key ∨ key + n ≤ a → t.mem.read a = s.mem.read a) ∧ (∀ c', c' ≠ c → t.core c' = s.core c') ∧
      (op = .strls → wide = true → t.mem.readLe key 8 = (Spec.newValue .strls 64 0 g 0).toNat) ∧
      (op ≠ .strls → poisoned s.ecc key n = false →
        t.mem.readLe key n = (Spec.newValue op (8 * n) (BitVec.ofNat _ old) (BitVec.ofNat _ g.toNat)
          (BitVec.ofNat _ k.toNat)).toNat ∧
        (t.core c).queue q = ((s.core c).queue q).map fun e =>
          if e.id = id then { e with val := BitVec.ofNat 64 old, bad := false } else e) ∧
      (op ≠ .strls → poisoned s.ecc key n = true → t.mem = s.mem ∧
        (t.core c).queue q = ((s.core c).queue q).map fun e => if e.id = id then { e with val := 0, bad := true } else e)

/-- 06 R119, 02 R34, 14 R269: a store in its landing cycle, where no site update lands too (15 R278): each piece is
written where its pointer is visible now; every byte outside the pieces is as it was, and no register changes. -/
def Obligations.StoreLandings : Prop :=
  ∀ (s : State) (x : AEnt) (rest : List AEnt) (c : Nat) (h : Half) (segs : List (Nat × List Byte)),
    s.agenda = x :: rest → x.due ≤ s.ccyc → x.ev = .store c h segs →
    (∀ e ∈ rest, e.due ≤ s.ccyc → (∀ c' i v, e.ev ≠ .fset c' i v) ∧ ∀ c' l, e.ev ≠ .sitePut c' l) →
    let key (g : Nat × List Byte) : Nat := Spec.keyOf s c g.1
    ∃ t, exec .storeLanding s = .next t ∧ t.agenda = rest ∧ (∀ c', (t.core c').regs = (s.core c').regs) ∧
      (∀ a, (∀ g ∈ segs, ¬ (key g ≤ a ∧ a < key g + g.2.length)) → t.mem.read a = s.mem.read a) ∧
      (segs.Pairwise (fun g k => key g + g.2.length ≤ key k ∨ key k + k.2.length ≤ key g) →
        ∀ g ∈ segs, ∀ j < g.2.length, t.mem.read (key g + j) = g.2.getD j 0)

/-- 10 R203, R210, R212; 09 R194; 16 R281: a status or completion word that an engine or interface writes, in its landing
cycle. The eight bytes at its key, which its word's issue or its batch's end has fixed from the word's pointer, are the
word's, little-endian; every other byte, every core and every queue is as before. -/
def Sys2Proof.Spec.releaseLanding : Prop :=
  ∀ (s : State) (e : AEnt) (rest : List AEnt) (key : Nat) (v : Word), s.agenda = e :: rest → e.due ≤ s.ccyc →
    e.ev = .release key v →
    ∃ t, exec .resultLanding s = .next t ∧
      t = { s with agenda := rest, mem := t.mem, ecc := t.ecc, dev := { s.dev with log := t.dev.log } } ∧
      (∀ j < 8, t.mem.read (key + j) = v.extractLsb' (8 * j) 8) ∧
      ∀ a, a < key ∨ key + 8 ≤ a → t.mem.read a = s.mem.read a

/-- 06 R134, R135: the landing of a `rcvp`. The ring's HEAD, the eight bytes at scratchpad address 0x30008 of its core, is the new one, and
every other byte, every core and every queue is as before. -/
def Sys2Proof.Spec.headLanding : Prop :=
  ∀ (s : State) (e : AEnt) (rest : List AEnt) (c : Nat) (v : Word), s.agenda = e :: rest → e.due ≤ s.ccyc →
    e.ev = .rcvp c v →
    ∃ t, exec .storeLanding s = .next t ∧
      t = { s with agenda := rest, mem := t.mem, ecc := t.ecc, dev := { s.dev with log := t.dev.log } } ∧
      (∀ j < 8, t.mem.read (spKey c 0x30008 + j) = v.extractLsb' (8 * j) 8) ∧
      ∀ a, a < spKey c 0x30008 ∨ spKey c 0x30008 + 8 ≤ a → t.mem.read a = s.mem.read a

/-- 06 R133 to R135; 09 R194; 21 R338: `send` copies its body into the send buffer of four messages, with the
name's newest location and the sender's own name and generation; `rcvp` pushes the pointer to
the ring's head entry, or 0 for an empty ring, and HEAD moves on; `launch` copies the record and clears the status word
in the next cycle, and the child is held with its parent's TASK, RPL, TRID and TRC. -/
def Sys2Proof.Spec.messageWordResults : Prop :=
  ∀ (sf : Bool) (s : State), s.clear sf →
    (∀ (o a : BitVec 3) (n : BitVec 5), s.cur.half = .a →
      let p := (vget 0 s.my.regs.a a.toNat).toNat
      let len := 8 * (n.toNat + 1)
      let name := vget 0 s.my.regs.oxA o.toNat
      name.extractLsb' 32 32 = 0 → Spec.allowed s .send 1 len 8 p (fun _ => 0) .scratch →
      s.my.sendBuf.length < 4 → s.visPoison (s.bindOf s.cur.core) p len = none →
      ∃ t m, exec (.send sf o a n) s = .next t ∧ Spec.kept s t ∧ Spec.onward s t sf ∧ Spec.queuesBut s t 5 ∧
        t.agenda = s.agenda ∧ t.my.sendBuf = s.my.sendBuf ++ [m] ∧ m.name = name.extractLsb' 8 24 ∧
        m.gen = name.extractLsb' 0 8 ∧
        m.dest = (tfind (s.partAt (s.corePart s.cur.core)).directory (name.extractLsb' 8 24).toNat).bind (·.locs.head?) ∧
        (Spec.heldBy s s.cur.core = none → m.own = 0) ∧
        (∀ e, Spec.heldBy s s.cur.core = some e → m.own = BitVec.ofNat 32 (e.1 % 2 ^ 24 * 2 ^ 8 + e.2.gen % 2 ^ 8)) ∧
        m.body = (List.range (n.toNat + 1)).map fun k =>
          BitVec.ofNat 64 (ofBytes (s.visBytes (s.bindOf s.cur.core) (p + 8 * k) 8))) ∧
    (∀ (q : BitVec 4) (a : BitVec 3), s.cur.half = .a → q.toNat < 3 → (q.toNat = 2 → s.my.routineBound = false) →
      let p := (vget 0 s.my.regs.a a.toNat).toNat
      let k := spKey s.cur.core 0x30000
      let tail := s.read64 k
      let head := s.read64 (k + 8)
      Spec.allowed s .rcvp 1 8 1 p (fun _ => 0) .scratch → s.my.occupancy q.toNat s.ccyc < 8 →
      poisoned s.ecc k 16 = false →
      ∃ t, exec (.rcvp sf q a) s = .next t ∧ Spec.kept s t ∧ Spec.onward s t sf ∧ Spec.queuesBut s t q.toNat ∧
        (tail = head → t.agenda = s.agenda ∧
          t.my.queue q.toNat = s.my.queue q.toNat ++ [⟨0, s.ccyc, s.ccyc + 2, false, .a, s.seq⟩]) ∧
        (tail ≠ head → t.agenda = Spec.posted s (s.ccyc + 1) 2 s.seq (.rcvp s.cur.core (head + 1)) ∧
          t.my.queue q.toNat = s.my.queue q.toNat ++ [⟨BitVec.ofNat 64 (2 ^ 60 + s.cur.core * 2 ^ 28 + 6 * 2 ^ 24 +
            0x200 + 0x200 * (head.toNat % 127)), s.ccyc, s.ccyc + 2, false, .a, s.seq + 1⟩])) ∧
    (∀ n : BitVec 3, s.cur.half ≠ .w →
      let bank := if s.cur.half = .a then s.my.regs.oxA else s.my.regs.oxX
      let rec_ := vget 0 bank n.toNat
      let st := vget 0 bank ((n.toNat + 1) % 8)
      let b := s.bindOf s.cur.core
      s.reach s.cur.core b .load 1 rec_.toNat 256 ≠ none → s.reach s.cur.core b .load 1 st.toNat 8 ≠ none →
      rec_.toNat % 64 = 0 → st.toNat % 8 = 0 → s.my.launches.length < 2 → s.visPoison b rec_.toNat 256 = none →
      s.orderOk s.cur.core 0b11101 = true →
      ∃ t, exec (.launch sf n) s = .next t ∧ Spec.kept s t ∧ Spec.onward s t sf ∧ Spec.queuesBut s t 5 ∧
        t.agenda = Spec.posted s (s.ccyc + 1) 4 (engineTie s.ccyc 0) (.release (Spec.keyOf s s.cur.core st.toNat) 0) ∧
        t.my.launches = s.my.launches ++ [
          { words := (List.range 32).map fun k => BitVec.ofNat 64 (ofBytes (s.visBytes b (rec_.toNat + 8 * k) 8)),
            status := st, parent := (s.bindAt b).task, rpl := ((s.bindAt b).rec_ 0).getLsbD 50,
            trid := (((s.bindAt b).rec_ 24).extractLsb' 32 32).toNat, trc := (s.bindAt b).rec_ 26 }])

/-- 06 R124; 02 R27: vector loads and stores of a span, and `vgath` and `vscat`. That a load's poison check covers its
active lanes alone is the model's reading (log 46), and so are the banks of a word with every lane disabled (log 80) and the
poison that a lane leaves (log 66). -/
def Obligations.VectorAccessResults : Prop :=
  Spec.spanResults ∧ Spec.indexedResults

/-- 06 R125 to R132, R136: the atomic words, `stacq`, `strls` and `fence` at issue, where each stops, and what each does in
its perform cycle. The address that the error log gives a poisoned entry which `strls` drains is the model's (log 93),
and so is the fault of one that names `ql2` while a routine is bound (log 112). -/
def Obligations.AtomicWords : Prop :=
  Spec.atomicResults ∧ Spec.atomicStops ∧ Spec.atomicPerforms

/-- 06 R133 to R135; 09 R194; 16 R281; 21 R338: the message words and `launch`, and the landings of the ring's HEAD and
of a status word. Readings of the model: what a message carries is fixed at its `send` (log 48), and a launch's status word
in a published buffer goes to the half that is visible then (log 105). -/
def Obligations.MessageWords : Prop :=
  Spec.messageWordResults ∧ Spec.headLanding ∧ Spec.releaseLanding

end

namespace Sys2Proof.Spec

open Sys2Proof.Machine

/-! ### The vector unit, as 07 R137 to R154 write it -/

/-- Element `e` of width `w` of a vector register (07 R137). -/
def el (v : Vec) (w e : Nat) : Nat := (v.extractLsb' (w * e) w).toNat
/-- A vector register of the issuing core. -/
def vr (s : State) (n : Nat) : Vec := vget 0 s.my.regs.v n
/-- The width of a format code (04 R78): i32, i16, i8, n32, n16, n8, f32, bf16, e4m3, bp. -/
def width (t : Nat) : Nat := [32, 16, 8, 32, 16, 8, 32, 16, 8, 8].getD t 0
/-- The integer that an element of an integer code holds: signed for codes 0 to 2. -/
def int (t v : Nat) : Int := if t < 3 then (BitVec.ofNat (width t) v).toInt else v

/-- 05 R99 for an integer result of width `w`: wrapped, or finished under a `mod`. -/
def finInt (md : Option ModWord) (t : Nat) (v : Int) : Nat :=
  let w := width t
  match md with
  | none => (BitVec.ofInt w v).toNat
  | some m =>
    let v := if m.abs then |v| else v
    let v := if m.neg then -v else v
    let v := if 0 ≤ m.sc.toInt then v * 2 ^ m.sc.toInt.toNat else v / 2 ^ (-m.sc.toInt).toNat
    let least : Int := if t < 3 then -2 ^ (w - 1) else 0
    let greatest : Int := if t < 3 then 2 ^ (w - 1) - 1 else 2 ^ w - 1
    let v := if m.sat ∨ m.clamp then (if v < least then least else if greatest < v then greatest else v) else v
    (BitVec.ofInt w v).toNat

/-- A stream may issue a word under `md`: no fault of the issue itself, and a `mod` waits or not. -/
def ready (s : State) (sf : Bool) (md : Option ModWord) : Prop :=
  s.me.skip = 0 ∧ s.me.pending = md ∧ (md ≠ none → sf = false) ∧
    if sf then s.inFlight s.cur.core s.cur.half = false
    else s.me.scnt + 1 < s.my.ctl.stopmax ∧ s.me.afterPark = false

/-- A word that writes a vector register element by element: stop flag, whether a `mod` may precede it, latency,
destination, mask field, element width, scalar sources, whether it draws from `ox7`, and element `e` of the result. -/
structure VecWord where
  sf : Bool
  modable : Bool
  lat : Nat
  d : Nat
  m : BitVec 5
  w : Nat
  scalars : List Nat := []
  base : Bool := false
  val : Option ModWord → State → List Word → Nat → Nat

/-- The stream's rounding mode (02 R44). -/
def rnd (s : State) : Rnd := Rnd.ofRm s.me.rm
/-- The draw of element `e` (07 R149; 03 R57). -/
def draw (s : State) (e : Nat) : Nat :=
  (gen s.my.ctl.gseed s.my.ctl.gstrm.toNat
    ((((vget 0 s.my.regs.oxX 7).extractLsb' 0 48).toNat + e) % 2 ^ 48)).toNat

/-- An arithmetic word (07 R139, R140): exact on integers or on values, finished in its format. The signed and unsigned
codes differ only where the word compares or a `mod` limits the result (log 94, DEDUCED, for CLAMP). -/
def arith (s : Bool) (d : BitVec 4) (m : BitVec 5) (t : BitVec 3) (regs : List Nat) (fi : List Int → Int)
    (ff : Rnd → List FVal → FVal) (compares : Bool := false) : VecWord :=
  { sf := s, modable := true, lat := if t.toNat < 6 then 2 else 4, d := d.toNat, m := m, w := width t.toNat
    val := fun md st _ e =>
      let xs := regs.map fun r => el (vr st r) (width t.toNat) e
      let limits := compares || md.any fun k => k.sat || k.clamp
      if t.toNat < 6 then
        finInt md t.toNat (fi (xs.map fun v => if limits then int t.toNat v else (BitVec.ofNat (width t.toNat) v).toInt))
      else finishF md t.toNat (rnd st) st.me.ovf (ff (rnd st) (xs.map (valOf t.toNat))) }

/-- A word on the elements' bits, latency 2 (07 R141, R142). -/
def bits (s : Bool) (d a : BitVec 4) (b m : BitVec 5) (t : BitVec 3)
    (f : (w : Nat) → BitVec w → BitVec w → BitVec w) : Option VecWord :=
  if b.toNat < 16 then some
    { sf := s, modable := false, lat := 2, d := d.toNat, m := m, w := width t.toNat
      val := fun _ st _ e => (f (width t.toNat) (BitVec.ofNat _ (el (vr st a.toNat) (width t.toNat) e))
        (BitVec.ofNat _ (el (vr st b.toNat) (width t.toNat) e))).toNat }
  else none

/-- A compare of 07 R142: all ones or zero. -/
def cmp (s : Bool) (d a : BitVec 4) (b m : BitVec 5) (t : BitVec 3) (fi : Int → Int → Bool) (ff : FVal → FVal → Bool) :
    Option VecWord :=
  bits s d a b m t fun w p q =>
    if (if t.toNat < 6 then fi (int t.toNat p.toNat) (int t.toNat q.toNat)
      else ff (valOf t.toNat p.toNat) (valOf t.toNat q.toNat)) then BitVec.allOnes w else 0

/-- A lane move with a scalar operand (07 R145). -/
def move (s : Bool) (d : BitVec 4) (b m : BitVec 5) (t : BitVec 3) (f : State → Word → Nat → Nat) : VecWord :=
  { sf := s, modable := false, lat := 2, d := d.toNat, m := m, w := width t.toNat, scalars := [b.toNat]
    val := fun _ st l e => f st (l.getD 0 0) e }

/-- A transcendental word (07 R154): rounded to nearest even, for `.bf16` through FP32. -/
def trans (s : Bool) (d a : BitVec 4) (m : BitVec 5) (t : BitVec 3) (f : FVal → FVal) : Option VecWord :=
  if t = 6 then some
    { sf := s, modable := true, lat := 8, d := d.toNat, m := m, w := 32
      val := fun md st _ e => finishF md 6 .even st.me.ovf (f (unpackIeee f32 (el (vr st a.toNat) 32 e))) }
  else if t = 7 then some
    { sf := s, modable := true, lat := 8, d := d.toNat, m := m, w := 16
      val := fun md st _ e => finishF md 7 .even st.me.ovf
        (unpackIeee f32 (packIeee f32 .even false (f (unpackIeee bf16 (el (vr st a.toNat) 16 e))))) }
  else none

/-- 07 R148: an element converted from code `y` to code `x`. -/
def converted (md : Option ModWord) (r : Rnd) (ovf : Bool) (y x v : Nat) : Nat :=
  if x < 6 then
    let w := width x
    let limited := fun f : FVal =>
      (BitVec.ofInt w (if x < 3 then f.toInt r (-2 ^ (w - 1)) (2 ^ (w - 1) - 1) else f.toInt r 0 (2 ^ w - 1))).toNat
    let plain := if y < 6 then (BitVec.ofInt w (int y v)).toNat else limited (valOf y v)
    match md with
    | none => plain
    | some m =>
      if ¬ m.abs ∧ ¬ m.neg ∧ ¬ m.sat ∧ ¬ m.clamp ∧ m.sc = 0 then plain
      else
        let f := if m.abs then (valOf y v).abs else valOf y v
        let f := if m.neg then f.neg else f
        limited (f.scale m.sc.toInt)
  else finishF md x r ovf (valOf y v)

/-- Bit `p` of a register. -/
def bit (v : Vec) (p : Nat) : Nat := (v.getLsbD p).toNat

/-- The words that write vector elements. -/
def vector : Instr → Option VecWord
  | .vadd s d a b m t => if b.toNat < 16 then some (arith s d m t [a.toNat, b.toNat] (fun l => l.getD 0 0 + l.getD 1 0)
      fun r l => (l.getD 0 .nan).add r (l.getD 1 .nan)) else none
  | .vsub s d a b m t => if b.toNat < 16 then some (arith s d m t [a.toNat, b.toNat] (fun l => l.getD 0 0 - l.getD 1 0)
      fun r l => (l.getD 0 .nan).add r (l.getD 1 .nan).neg) else none
  | .vmul s d a b m t => if b.toNat < 16 then some (arith s d m t [a.toNat, b.toNat] (fun l => l.getD 0 0 * l.getD 1 0)
      fun _ l => (l.getD 0 .nan).mul (l.getD 1 .nan)) else none
  | .vmin s d a b m t => if b.toNat < 16 then some (arith s d m t [a.toNat, b.toNat]
      (fun l => if l.getD 0 0 ≤ l.getD 1 0 then l.getD 0 0 else l.getD 1 0)
      (fun _ l => (l.getD 0 .nan).min (l.getD 1 .nan)) true) else none
  | .vmax s d a b m t => if b.toNat < 16 then some (arith s d m t [a.toNat, b.toNat]
      (fun l => if l.getD 0 0 ≤ l.getD 1 0 then l.getD 1 0 else l.getD 0 0)
      (fun _ l => (l.getD 0 .nan).max (l.getD 1 .nan)) true) else none
  | .vabs s d a m t => some (arith s d m t [a.toNat] (fun l => |(BitVec.ofInt (width t.toNat) (l.getD 0 0)).toInt|)
      fun _ l => (l.getD 0 .nan).abs)
  | .vneg s d a m t => some (arith s d m t [a.toNat] (fun l => -l.getD 0 0) fun _ l => (l.getD 0 .nan).neg)
  | .vfma s d a b m t => if b.toNat < 16 ∧ 6 ≤ t.toNat then some (arith s d m t [a.toNat, b.toNat, d.toNat] (fun _ => 0)
      fun r l => ((l.getD 0 .nan).mul (l.getD 1 .nan)).add r (l.getD 2 .nan)) else none
  | .vfms s d a b m t => if b.toNat < 16 ∧ 6 ≤ t.toNat then some (arith s d m t [a.toNat, b.toNat, d.toNat] (fun _ => 0)
      fun r l => ((l.getD 0 .nan).mul (l.getD 1 .nan)).add r (l.getD 2 .nan).neg) else none
  | .vfnma s d a b m t => if b.toNat < 16 ∧ 6 ≤ t.toNat then some (arith s d m t [a.toNat, b.toNat, d.toNat] (fun _ => 0)
      fun r l => ((l.getD 0 .nan).mul (l.getD 1 .nan)).neg.add r (l.getD 2 .nan)) else none
  | .vand s d a b m t => if 6 ≤ t.toNat then none else bits s d a b m t fun _ p q => p &&& q
  | .vor s d a b m t => if 6 ≤ t.toNat then none else bits s d a b m t fun _ p q => p ||| q
  | .vxor s d a b m t => if 6 ≤ t.toNat then none else bits s d a b m t fun _ p q => p ^^^ q
  | .vandn s d a b m t => if 6 ≤ t.toNat then none else bits s d a b m t fun _ p q => p &&& ~~~ q
  | .vshl s d a b m t => if 6 ≤ t.toNat then none else bits s d a b m t fun _ p q => p <<< q
  | .vshr s d a b m t => if 6 ≤ t.toNat then none else bits s d a b m t fun _ p q => p >>> q
  | .vsra s d a b m t => if 6 ≤ t.toNat then none else bits s d a b m t fun _ p q => p.sshiftRight q.toNat
  | .vcmpEq s d a b m t => cmp s d a b m t (fun p q => p == q) fun p q => p.eq q
  | .vcmpNe s d a b m t => cmp s d a b m t (fun p q => p != q) fun p q => !p.eq q
  | .vcmpLt s d a b m t => cmp s d a b m t (fun p q => p < q) fun p q => p.lt q
  | .vcmpLe s d a b m t => cmp s d a b m t (fun p q => p ≤ q) fun p q => p.lt q || p.eq q
  | .vperm s d a b m t => if b.toNat < 16 then some
      { sf := s, modable := false, lat := 2, d := d.toNat, m := m, w := width t.toNat
        val := fun _ st _ e => let w := width t.toNat
          el (vr st a.toNat) w (el (vr st b.toNat) w e % (1024 / w)) } else none
  | .vbcast s d a b m t => some (move s d b m t fun st r _ =>
      el (vr st a.toNat) (width t.toNat) (r.toNat % (1024 / width t.toNat)))
  | .vslide s d a b m t => some (move s d b m t fun st r e =>
      if 0 ≤ (e : Int) + r.toInt ∧ (e : Int) + r.toInt < (1024 / width t.toNat : Nat) then
        el (vr st a.toNat) (width t.toNat) ((e : Int) + r.toInt).toNat else 0)
  | .vsplat s d b m t => some (move s d b m t fun _ r _ => r.toNat % 2 ^ width t.toNat)
  | .vrcp s d a m t => trans s d a m t FVal.rcp
  | .vrsq s d a m t => trans s d a m t FVal.rsq
  | .vexp2 s d a m t => trans s d a m t FVal.exp2
  | .vlog2 s d a m t => trans s d a m t FVal.log2
  | .vrng s d m => some
      { sf := s, modable := false, lat := 4, d := d.toNat, m := m, w := 32, base := true
        val := fun _ st _ e => draw st e }
  | .vcvt s d a y r m x => if y.toNat ≤ 8 ∧ x.toNat ≤ 8 ∧ y ≠ x ∧ (r = 1 → 6 ≤ x.toNat) then some
      { sf := s, modable := true, lat := 3, d := d.toNat, m := m, w := width x.toNat, base := r == 1
        val := fun md st _ e =>
          if e < 1024 / max (width y.toNat) (width x.toNat) then
            converted md (if r = 1 then .sto (draw st e) else rnd st) st.me.ovf y.toNat x.toNat
              (el (vr st a.toNat) (width y.toNat) e)
          else 0 } else none
  | .vscl s d a y r m x => if (y = 6 ∨ y = 7) ∧ (x = 8 ∨ x = 9) then some
      { sf := s, modable := false, lat := 3, d := d.toNat, m := m, w := 8, base := r == 1
        val := fun _ st _ e =>
          let n := 1024 / width y.toNat
          let block (b : Nat) : Nat × List Nat := scaleBlock (x == 9) st.me.ovf
            (fun i => if r = 1 then .sto (draw st (16 * b + i)) else rnd st)
            ((List.range 16).map fun i => valOf y.toNat (el (vr st a.toNat) (width y.toNat) (16 * b + i)))
          if e < n then (block (e / 16)).2.getD (e % 16) 0
          else if e < n + n / 16 then (block (e - n)).1 else 0 } else none
  | .vbpk s d a m => some
      { sf := s, modable := false, lat := 3, d := d.toNat, m := m, w := 8
        val := fun _ st _ e => ((List.range 8).map fun i =>
          bit (vr st a.toNat) (8 * (16 * (e / 16) + 8 * (e % 2) + i) + 7 - e % 16 / 2) * 2 ^ i).sum }
  | .vbupk s d a m => some
      { sf := s, modable := false, lat := 3, d := d.toNat, m := m, w := 8
        val := fun _ st _ e => ((List.range 8).map fun p =>
          bit (vr st a.toNat) (8 * (16 * (e / 16) + 2 * p + e % 16 / 8) + e % 8) * 2 ^ (7 - p)).sum }
  | _ => none

/-- The bits that a vector result writes: those of the lanes whose mask bit is set (02 R27). -/
def maskBits (m : BitVec 32) (k : Nat) : Bool := m.getLsbD (k / 32)

/-- The vector words with a scalar result (07 R144 to R146): stop flag, whether a `mod` may precede it, latency,
destination, mask or index register, and the result from that register's value (`none` where it names none). -/
structure ScalarVec where
  sf : Bool
  modable : Bool
  lat : Nat
  dst : Nat
  m : BitVec 5
  val : Option ModWord → State → Option Word → Word

/-- A scalar from an element: sign-extended for signed codes, else zero-extended. -/
def scalarOf (t v : Nat) : Word := if t < 3 then (BitVec.ofNat (width t) v).signExtend 64 else BitVec.ofNat 64 v

/-- Whether element `e` lies in an enabled lane; no mask enables all. -/
def isOn (m : Option Word) (w e : Nat) : Bool := (m.map fun v => v.getLsbD (w * e / 32)).getD true

/-- One level of the reduction tree (07 R146): pairs, an unpaired last value passing up. -/
def pairs (f : Nat → Nat → Nat) : List Nat → List Nat
  | p :: q :: r => f p q :: pairs f r
  | l => l

/-- 07 R146 for the floating-point codes: every addition of the tree rounds, and a `mod` finishes the last; a NaN passes
through a `mod` without SAT as it is (05 R99). -/
def tree (md : Option ModWord) (t : Nat) (r : Rnd) (ovf : Bool) (f : FVal → FVal → FVal) : Nat → List Nat → Nat
  | _, [] => 0
  | _, [v] =>
    match md with
    | none => v
    | some m => if valOf t v = .nan ∧ m.sat = false then v else finishF (some m) t r ovf (valOf t v)
  | _, [p, q] => finishF md t r ovf (f (valOf t p) (valOf t q))
  | 0, _ => 0
  | n + 1, l => tree md t r ovf f n (pairs (fun p q => finishF none t r ovf (f (valOf t p) (valOf t q))) l)

/-- A reduction (07 R146): the exact integer result, or the tree. -/
def red (s : Bool) (a : BitVec 4) (b m : BitVec 5) (t : BitVec 3) (fi : Int → Int → Int) (ff : Rnd → FVal → FVal → FVal) :
    ScalarVec :=
  { sf := s, modable := true, lat := 8, dst := b.toNat, m := m
    val := fun md st mk =>
      let w := width t.toNat
      let l := ((List.range (1024 / w)).filter (isOn mk w)).map (el (vr st a.toNat) w)
      scalarOf t.toNat (if t.toNat < 6 then
          match l.map (int t.toNat) with
          | [] => 0
          | v :: r => finInt md t.toNat (r.foldl fi v)
        else tree md t.toNat (rnd st) st.me.ovf (ff (rnd st)) 6 l) }

/-- The vector words with a scalar result. -/
def scalarVec : Instr → Option ScalarVec
  | .vmsk s a b m t => if t = 0 ∨ t = 1 ∨ t = 3 ∨ t = 4 then some
      { sf := s, modable := false, lat := 2, dst := b.toNat, m := m
        val := fun _ st mk => let w := width t.toNat
          (BitVec.ofBoolListLE ((List.range (1024 / w)).map fun e =>
            isOn mk w e && el (vr st a.toNat) w e != 0)).setWidth 64 } else none
  | .vext s a b i t => some
      { sf := s, modable := false, lat := 2, dst := b.toNat, m := i
        val := fun _ st ix => let w := width t.toNat
          scalarOf t.toNat (el (vr st a.toNat) w ((ix.map (·.toNat)).getD 0 % (1024 / w))) }
  | .vredSum s a b m t => some (red s a b m t (· + ·) fun r p q => p.add r q)
  | .vredMin s a b m t => some (red s a b m t (fun p q => if p ≤ q then p else q) fun _ p q => p.min q)
  | .vredMax s a b m t => some (red s a b m t (fun p q => if p ≤ q then q else p) fun _ p q => p.max q)
  | _ => none

/-- The rational number that a finite value is. -/
def rat : FVal → ℚ
  | .fin n m e => (if n then -1 else 1) * (m : ℚ) * (2 : ℚ) ^ e
  | _ => 0

end Sys2Proof.Spec

section

open Sys2Proof Sys2Proof.Machine

/-! ### The vector unit -/

/-- 07 R137 to R142, R145, R147 to R154; 05 R99, R100; 02 R27: every word that writes a vector register element by
element, with or without a `mod` before it: the elements of the active lanes come to what the rule gives, `lat` cycles
later, and the other lanes keep their contents. Readings of the
model: `vabs` of an unsigned code reads its element as signed (log 26), as every word does under a `mod` but for SAT and
CLAMP (log 94); a `vcvt` between integer formats under a `mod` (log 82), and the zero of one that negates 0 (log 108). -/
def Obligations.VectorResults : Prop :=
  ∀ (i : Instr) (w : Spec.VecWord) (md : Option ModWord) (s s' : State) (l : List Word), Spec.vector i = some w →
    Spec.ready s w.sf md → (md ≠ none → w.modable = true) → s.legalX 1 w.scalars [] →
    (w.m.toNat < 24) → (w.base = true → (vget 0 s.my.regs.oxX 7).extractLsb' 48 16 = 0) →
    s.gives w.sf 0 (w.scalars ++ if w.m = 16 then [] else [w.m.toNat]) s' l →
    let on : BitVec 32 := if w.m = 16 then BitVec.allOnes 32 else (l.getD w.scalars.length 0).setWidth 32
    ∃ mask v, (∀ k < 1024, mask.getLsbD k = Spec.maskBits on k) ∧
      (∀ e < 1024 / w.w, on.getLsbD (w.w * e / 32) = true → Spec.el v w.w e = w.val md s l e) ∧
      exec i s = .next ((s'.landVec s.cur.core s.cur.half false w.lat w.d mask v).went s.ctx w.sf .seq)

/-- 07 R144 to R146; 05 R99; 02 R33: the vector words with a scalar result. -/
def Sys2Proof.Spec.vectorScalarResults : Prop :=
  ∀ (i : Instr) (w : Spec.ScalarVec) (md : Option ModWord) (s s' : State) (l : List Word), Spec.scalarVec i = some w →
    Spec.ready s w.sf md → (md ≠ none → w.modable = true) → s.legalX w.lat [] [w.dst] → w.m.toNat < 24 →
    s.gives w.sf w.dst (if w.m = 16 then [] else [w.m.toNat]) s' l →
    let v := w.val md s (if w.m = 16 then none else some (l.getD 0 0))
    exec i s = .next ((s'.put s.ctx w.lat w.dst v).went s.ctx w.sf .seq)

/-- 07 R143, R145, R152: `vsel` writes every lane, `vins` one element, and `vdot16` one lane for each group of sixteen
products: the old lane plus the block sum, rounded to nearest even whatever RND holds. -/
def Sys2Proof.Spec.vectorLaneResults : Prop :=
  ∀ (sf : Bool) (d a : BitVec 4) (b m : BitVec 5) (t : BitVec 3) (f : BitVec 4) (s s' : State) (l : List Word),
    s.cur.half ≠ .a → m.toNat < 24 →
    let on : BitVec 32 := if m = 16 then BitVec.allOnes 32 else (l.getD 0 0).setWidth 32
    (s.clear sf → b.toNat < 16 → s.gives sf 0 (if m = 16 then [] else [m.toNat]) s' l →
      ∃ v, (∀ k < 1024, v.getLsbD k =
          if Spec.maskBits on k then (Spec.vr s a.toNat).getLsbD k else (Spec.vr s b.toNat).getLsbD k) ∧
        exec (.vsel sf d a b m) s =
          .next ((s'.landVec s.cur.core s.cur.half false 2 d.toNat (BitVec.allOnes 1024) v).went s.ctx sf .seq)) ∧
    (s.clear sf → srcOkX s.cur.half s.my.routineBound b.toNat →
      s.gives sf 0 (b.toNat :: if m = 16 then [] else [m.toNat]) s' l →
      let w := Spec.width t.toNat
      let e := (if m = 16 then 0 else (l.getD 1 0).toNat) % (1024 / w)
      ∃ mask v, (∀ k < 1024, mask.getLsbD k = (decide (w * e ≤ k) && decide (k < w * e + w))) ∧
        Spec.el v w e = (l.getD 0 0).toNat % 2 ^ w ∧ exec (.vins sf d b m t) s =
          .next ((s'.landVec s.cur.core s.cur.half false 2 d.toNat mask v).went s.ctx sf .seq)) ∧
    (∀ md, Spec.ready s sf md → b.toNat < 16 → (f = 7 ∨ f = 8 ∨ f = 9) →
      s.gives sf 0 (if m = 16 then [] else [m.toNat]) s' l →
      let groups := if f = 7 then 4 else 8
      ∃ mask v, (∀ k < 1024, mask.getLsbD k = (Spec.maskBits on k && decide (k / 32 < groups))) ∧
        (∀ g < groups, on.getLsbD g = true → Spec.el v 32 g = finishF md 6 .even s.me.ovf
          ((unpackIeee f32 (Spec.el (Spec.vr s d.toNat) 32 g)).add .even
            (unpackIeee f32 (dotSum f.toNat (Spec.vr s a.toNat) (Spec.vr s b.toNat) g)))) ∧
        exec (.vdot16 sf d a b m f) s =
          .next ((s'.landVec s.cur.core s.cur.half false 6 d.toNat mask v).went s.ctx sf .seq))

/-- 03 R47 to R49: rounding into FP32 and BF16. A result that is no infinity is a value of the format nearest to the exact
one; to nearest no value of the format is nearer, and toward zero, up and down it stays on its side with no value
of the format between. -/
def Obligations.RoundingResults : Prop :=
  ∀ (f : Fmt) (n : Bool) (m : Nat) (e : Int) (r : Rnd) (b' : Nat), (f = f32 ∨ f = bf16) → m ≠ 0 →
    let exact := Spec.rat (.fin n m e)
    let inf := 255 * 2 ^ (f.p - 1)
    let sign := 256 * 2 ^ (f.p - 1)
    let b := packIeee f r false (.fin n m e)
    let got := Spec.rat (unpackIeee f b)
    let other := Spec.rat (unpackIeee f b')
    b % sign < inf → b' < 2 * sign → b' % sign < inf →
    (r = .even → |got - exact| ≤ |other - exact|) ∧
    (r = .zero → |got| ≤ |exact| ∧ (|other| ≤ |exact| → |other| ≤ |got|)) ∧
    (r = .up → exact ≤ got ∧ (exact ≤ other → got ≤ other)) ∧
    (r = .down → got ≤ exact ∧ (other ≤ exact → other ≤ got))

/-- 07 R143 to R146, R152; 05 R99; 02 R33: the vector words with a scalar result, and those that write a vector register
in another way. Readings of the model: a single active NaN passes `vred.min` and `vred.max` as it is (log 81), and unsigned
elements under a `mod` (log 94). -/
def Obligations.VectorOtherResults : Prop :=
  Spec.vectorScalarResults ∧ Spec.vectorLaneResults

end

namespace Sys2Proof.Spec

open Sys2Proof.Machine

/-! ### Slots and the matrix unit -/

/-- A word's slot is of the kind and its cycle is the slot's (02 R38; 13 R229; 13 R239 for a follower's hop delay). -/
def onSlot (s : State) (kind idx : Nat) : Prop :=
  let b := s.bindAt (s.bindOf s.cur.core)
  idx < b.nslot ∧ slotValid b.period (b.slot idx) = true ∧ slotKind (b.slot idx) = kind ∧
    s.mcyc s.cur.core % b.period = (slotCyc (b.slot idx) + s.hopOf s.cur.core) % b.period

/-- The wheel position of a slot entry, as the core sees it, is the core's (08 R156; 13 R231). -/
def ownsWheel (s : State) (idx : Nat) : Prop :=
  vget 8 (s.octet (coreOctet s.cur.core)).wheel
    ((slotCyc ((s.bindAt (s.bindOf s.cur.core)).slot idx) + s.hopOf s.cur.core) % 16) = coreOpos s.cur.core

/-- OX register `n` of the issuing half (02 R26): the sweep stream reads the X-half's. -/
def oxOf (s : State) (n : Nat) : Word := vget 0 (if s.cur.half = .a then s.my.regs.oxA else s.my.regs.oxX) (n % 8)

/-- Bits [hi:lo] of a word. -/
def fieldOf (w : Word) (hi lo : Nat) : Nat := (w.extractLsb' lo (hi + 1 - lo)).toNat

/-- The parameter word of a matrix word, its slot index, and that the word is on its slot and wheel. -/
def onWheel (s : State) (w : Word) : Prop := onSlot s 0 (fieldOf w 15 0) ∧ ownsWheel s (fieldOf w 15 0)

/-- The octet of the issuing core, and one of its operand slots and accumulators. -/
abbrev oct (s : State) : Octet := s.octet (coreOctet s.cur.core)
/-- An operand slot. -/
def opSlot (s : State) (p : Nat) : OpSlot := tget OpSlot.init (oct s).slots p
/-- An accumulator slot's state. -/
def accOf (s : State) (a : Nat) : Acc := vget Acc.init (oct s).accs a

/-- The accumulator slot is given to the domain of the issuing core (08 R165). -/
def given (s : State) (a : Nat) : Prop :=
  (accOf s a).owner = s.my.bound ∧ s.my.bound.isSome = true

/-- Bytes of a filled tile (08 R160): 16,384 and the scales of its block length. -/
def tileBytes (bl : Nat) : Nat := 16384 + [0, 1024, 512, 256].getD bl 0

/-- Block length B by its code. -/
def blockOf (bl : Nat) : Nat := [0, 16, 32, 64].getD bl 0

/-- Cycles of a block step under `b16` (08 R163), by the tags' formats and plane counts. -/
def stepCyclesOf (ta tb : BitVec 16) : Nat :=
  if (ta.extractLsb' 0 4).toNat = 8 then 16
  else if (ta.extractLsb' 0 4).toNat = 7 then 64
  else 2 * max (ta.extractLsb' 6 4).toNat (tb.extractLsb' 6 4).toNat

/-- The array time T (08 R163), for K/16 = `kb` block steps. -/
def arrayCycles (shape kb : Nat) (ta tb : BitVec 16) : Nat :=
  let t := kb * stepCyclesOf ta tb
  if shape = 0 then 16 * t else if shape = 1 then t
  else t + 4 * (if kb ≤ 1 then 0 else if kb ≤ 2 then 1 else if kb ≤ 4 then 2 else 3)

/-- The tags of an operand allow a command of K elements (08 R162). -/
def operand (s : State) (p kb : Nat) (ef : Nat) : Prop :=
  ((opSlot s p).tag.extractLsb' 0 4).toNat = ef ∧
    (ef = 7 → 4 < kb → p < 63 ∧ (opSlot s (p + 1)).tag = (opSlot s p).tag)

/-- A tile of `mfill`: format, block length and plane count combine (08 R157). -/
def tile (ef bl pk : Nat) : Prop :=
  ((ef = 1 ∨ ef = 7) ∧ bl = 0 ∧ pk = 0) ∨ (ef = 8 ∧ pk = 0) ∨ (ef = 9 ∧ 1 ≤ bl ∧ 2 ≤ pk ∧ pk ≤ 8)

/-- The key of byte `off` of an accumulator slot (14 R252). -/
def accAt (octet a off : Nat) : Nat := accKey octet (0x10000 * a + off)

end Sys2Proof.Spec

section

open Sys2Proof Sys2Proof.Machine

/-! ### Slots -/

/-- 02 R38; 13 R229: the slot check of a timed word. An entry that is not there or not valid is cause 4, one of another
kind cause 3, one whose cycle has just gone cause 2, one whose cycle comes cause 1; on its cycle the word goes on.
08 R156: a matrix word on its slot needs its wheel position, else cause 7. -/
def Sys2Proof.Spec.slotChecks : Prop :=
  ∀ (s : State) (kind idx : Nat),
    let b := s.bindAt (s.bindOf s.cur.core)
    let e := b.slot idx
    let off := (((s.mcyc s.cur.core : Int) - (slotCyc e + s.hopOf s.cur.core)) % b.period).toNat
    (¬ (idx < b.nslot ∧ slotValid b.period e = true) → s.slotCause s.ctx kind idx = some 4) ∧
    (idx < b.nslot → slotValid b.period e = true →
      (slotKind e ≠ kind → s.slotCause s.ctx kind idx = some 3) ∧
      (slotKind e = kind →
        (0 < off → 2 * off < b.period → s.slotCause s.ctx kind idx = some 2) ∧
        (b.period ≤ 2 * off → s.slotCause s.ctx kind idx = some 1))) ∧
    (Spec.onSlot s kind idx → s.slotCause s.ctx kind idx = none) ∧
    (Spec.onSlot s 0 idx → s.wheelCause s.ctx idx = if vget 8 (Spec.oct s).wheel
      ((slotCyc e + s.hopOf s.cur.core) % 16) = coreOpos s.cur.core then none else some 7)

/-! ### The matrix unit -/

/-- 08 R158, R159: a claim and a tag in their landing cycle: the operand slot's owner, or its format tag, is the new one;
nothing else changes. -/
def Sys2Proof.Spec.slotLandings : Prop :=
  ∀ (s : State) (e : AEnt) (rest : List AEnt) (o p : Nat), s.agenda = e :: rest → e.due ≤ s.ccyc →
    let lands (f : OpSlot → OpSlot) : Prop :=
      ∃ t, exec .resultLanding s = .next t ∧ t = { s with agenda := rest, octets := t.octets } ∧
        (∀ o', o' ≠ o → t.octet o' = s.octet o') ∧ t.octet o = { s.octet o with slots := (t.octet o).slots } ∧
        tget OpSlot.init (t.octet o).slots p = f (tget OpSlot.init (s.octet o).slots p) ∧
        ∀ q, q ≠ p → tget OpSlot.init (t.octet o).slots q = tget OpSlot.init (s.octet o).slots q
    (∀ w, e.ev = .claim o p w → lands fun q => { q with claim := w }) ∧
    ∀ g, e.ev = .tag o p g → lands fun q => { q with tag := g }

/-- 08 R170, R171, R164, R169: a configuration and a clearing in their landing cycle. The accumulator slot has the new format,
block length and SR bit; where it is cleared, by `mcfg.drop`, `mzero` or a releasing `mwb`, all its 65,536 bytes are 0 and LIVE
and POISON are clear. Every other accumulator and every other byte of memory is as before. -/
def Sys2Proof.Spec.accumulatorLandings : Prop :=
  ∀ (s : State) (e : AEnt) (rest : List AEnt) (o a : Nat), s.agenda = e :: rest → e.due ≤ s.ccyc → a < 8 →
    let lands (clears : Bool) (f : Acc → Acc) : Prop :=
      ∃ t, exec .resultLanding s = .next t ∧
        t = { s with agenda := rest, octets := t.octets, mem := t.mem, ecc := t.ecc, dev := { s.dev with log := t.dev.log } } ∧
        (∀ o', o' ≠ o → t.octet o' = s.octet o') ∧ t.octet o = { s.octet o with accs := (t.octet o).accs } ∧
        vget Acc.init (t.octet o).accs a = f (vget Acc.init (s.octet o).accs a) ∧
        (∀ b, b ≠ a → vget Acc.init (t.octet o).accs b = vget Acc.init (s.octet o).accs b) ∧
        ∀ k, t.mem.read k = if clears = true ∧ Spec.accAt o a 0 ≤ k ∧ k < Spec.accAt o a 0x10000 then 0 else s.mem.read k
    (∀ fmt bl sr, e.ev = .accCfg o a fmt bl sr false → lands false fun q => { q with fmt := fmt, bl := bl, sr := sr }) ∧
    (∀ fmt bl sr, e.ev = .accCfg o a fmt bl sr true →
      lands true fun q => { q with fmt := fmt, bl := bl, sr := sr, live := false, poison := false }) ∧
    ∀ c, e.ev = .accZero o a c → lands true fun q => { q with live := false, poison := false }

/-- 08 R156 to R161, R168 to R172: the matrix words but `mma`, each on its slot and its wheel position. Configuration,
claims and tags change one cycle later, an `mzero` two; a fill and a transpose are set for their reads and the cycle
when they are in place; `mrd` reads its 32 values at issue, readable six cycles later; `mwb` takes its snapshot in the
next cycle. (At each of these an `mcfg` needs LIVE clear and `mchk` POISON clear.) -/
def Sys2Proof.Spec.matrixWordResults : Prop :=
  ∀ (sf : Bool) (c n : BitVec 3) (p q : BitVec 6) (s : State), s.clear sf → s.cur.half ≠ .a →
    let w := Spec.oxOf s n.toNat
    let f := Spec.fieldOf w
    let o := coreOctet s.cur.core
    let a := c.toNat
    let u := s.noted sf
    let claim : Option Nat := (Spec.opSlot s p.toNat).claim
    Spec.onWheel s w →
    (f 63 23 = 0 → ((f 19 16 = 6 ∨ f 19 16 = 7) ∧ f 21 20 = 0 ∨ (f 19 16 = 8 ∨ f 19 16 = 9) ∧ 1 ≤ f 21 20) → Spec.given s a →
      ((Spec.accOf s a).live = false → exec (.mcfg sf c n) s =
        .next ((u.post (s.ccyc + 1) 6 (.accCfg o a (f 19 16) (f 21 20) (w.getLsbD 22) false)).went s.ctx sf .seq)) ∧
      exec (.mcfgDrop sf c n) s =
        .next ((u.post (s.ccyc + 1) 6 (.accCfg o a (f 19 16) (f 21 20) (w.getLsbD 22) true)).went s.ctx sf .seq)) ∧
    (f 63 16 = 0 →
      (claim = none → exec (.mclaim sf p n) s =
        .next ((u.post (s.ccyc + 1) 0 (.claim o p.toNat (some s.cur.core))).went s.ctx sf .seq)) ∧
      (claim = some s.cur.core → exec (.mclaim sf p n) s = .next (u.went s.ctx sf .seq) ∧ exec (.mfree sf p n) s =
        .next (((u.post (s.ccyc + 1) 0 (.claim o p.toNat none)).post (s.ccyc + 1) 0 (.tag o p.toNat 0)).went s.ctx sf .seq)) ∧
      (Spec.given s a → exec (.mzero sf c n) s =
          .next ((u.post (s.ccyc + 2) 6 (.accZero o a (some s.cur.core))).went s.ctx sf .seq) ∧
        ((Spec.accOf s a).poison = false → exec (.mchk sf c n) s = .next (u.went s.ctx sf .seq))) ∧
      ((Spec.opSlot s q.toNat).claim = some s.cur.core → ((Spec.opSlot s p.toNat).tag = 1 ∨ (Spec.opSlot s p.toNat).tag = 8) →
        exec (.mtr sf p q n) s = .next ((((u.post (s.ccyc + 1) 10 (.mtrRead o s.seq s.cur.core p.toNat q.toNat)).post (s.ccyc + 1) 0
          (.tag o q.toNat (Spec.opSlot s p.toNat).tag)).post (s.ccyc + 130) 4 (.mtrDone o s.seq)).went s.ctx sf .seq))) ∧
    (f 63 29 = 0 → Spec.given s a → (Spec.accOf s a).poison = false →
      poisoned s.ecc (Spec.accAt o a (512 * f 26 20 + 128 * f 28 27)) 128 = false →
      ∃ t v, exec (.mrd sf c n) s = .next t ∧ Spec.kept s t ∧ Spec.onward s t sf ∧
        t.agenda = Spec.posted s (s.ccyc + 6) 1 s.seq (.vec s.cur.core s.cur.half true (f 19 16) (BitVec.allOnes 1024) v) ∧
        ∀ l < 32, Spec.lane v l =
          BitVec.ofNat 32 (s.mem.readLe (Spec.accAt o a (4 * (128 * f 26 20 + 32 * f 28 27 + l))) 4)) ∧
    (f 63 50 = 0 → f 31 26 = 0 → Spec.tile (f 19 16) (f 21 20) (f 25 22) → f 49 32 % 64 = 0 →
      claim = some s.cur.core →
      let len := Spec.tileBytes (f 21 20)
      let src := sPtr s.cur.core 0 (f 49 32)
      f 49 32 + len ≤ 0x40000 → altHit (s.pubs (s.bindOf s.cur.core)) src len = false →
      ∃ t, exec (.mfill sf p n) s = .next t ∧ t.mem = s.mem ∧ Spec.onward s t sf ∧
        (∀ e ∈ s.agenda, e ∈ t.agenda) ∧
        (∃ k id, (⟨s.ccyc + 1, 0, k, .tag o p.toNat (w.extractLsb' 16 16)⟩ : AEnt) ∈ t.agenda ∧
          (∃ k, (⟨s.ccyc + 1, 10, k, .fillRead o id s.cur.core src (len / 256)⟩ : AEnt) ∈ t.agenda) ∧
          (∃ k, (⟨s.ccyc + len / 256 + 2, 4, k, .fillDone o id⟩ : AEnt) ∈ t.agenda) ∧
          (t.octet o) = { s.octet o with fills := (s.octet o).fills ++ [⟨id, s.cur.core, p.toNat, len - 16384, [], []⟩] })) ∧
    (f 63 49 = 0 → f 47 16 % 32 = 0 →
      ((Spec.accOf s a).sr = true → (Spec.accOf s a).fmt ≠ 6 → (vget 0 s.my.regs.oxX 7).extractLsb' 48 16 = 0) → Spec.given s a →
      s.mwbReach s.ctx (f 47 16) (Spec.accOf s a).outBytes = true →
      exec (.mwb sf c n) s = .next ((u.post (s.ccyc + 1) 10 (.mwbSnap o s.seq s.cur.core s.cur.half a
        (2 * 2 ^ 60 + f 47 16) (w.getLsbD 48) s.my.ctl.gseed s.my.ctl.gstrm
        ((vget 0 s.my.regs.oxX 7).extractLsb' 0 48).toNat)).went s.ctx sf .seq))

/-- 08 R162 to R166: `mma` and `mmaz`. The command enters the sequencer with its tags as they are at issue, LIVE is set,
its block steps run from c+2 on, one step length apart, the accumulator is read at c+T+23+V and written at c+T+24+V.
No memory and no register changes at issue. -/
def Obligations.MatrixCommands : Prop :=
  ∀ (sf zero : Bool) (c n : BitVec 3) (p q : BitVec 6) (h : BitVec 2) (s : State), s.clear sf → s.cur.half ≠ .a →
    let w := Spec.oxOf s n.toNat
    let f := Spec.fieldOf w
    let o := coreOctet s.cur.core
    let kb := f 18 16 + 1
    let v := f 31 24
    let ta := (Spec.opSlot s p.toNat).tag
    let tb := (Spec.opSlot s q.toNat).tag
    let time := Spec.arrayCycles h.toNat kb ta tb
    let step := if h = 0 then 16 * Spec.stepCyclesOf ta tb else Spec.stepCyclesOf ta tb
    let ef := (ta.extractLsb' 0 4).toNat
    Spec.onWheel s w → f 63 32 = 0 → f 23 19 = 0 → h ≠ 3 → Spec.given s c.toNat → (ef = 7 ∨ ef = 8 ∨ ef = 9) →
    Spec.operand s p.toNat kb ef → Spec.operand s q.toNat kb ef →
    ∃ t m, exec (if zero then .mmaz sf c p q h n else .mma sf c p q h n) s = .next t ∧ t.mem = s.mem ∧
      Spec.onward s t sf ∧ (∀ e ∈ s.agenda, e ∈ t.agenda) ∧ (t.octet o).cmds = (s.octet o).cmds ++ [m] ∧
      (vget Acc.init (t.octet o).accs c.toNat).live = true ∧
      (m.zero = zero ∧ m.core = s.cur.core ∧ m.acc = c.toNat ∧ m.opa = p.toNat ∧ m.opb = q.toNat ∧ m.shape = h.toNat ∧
        m.kb = kb ∧ m.tagA = ta ∧ m.tagB = tb ∧ m.slack = v ∧ m.time = time ∧ m.stepLen = step ∧ m.got = []) ∧
      (∀ j < kb, ∃ k, (⟨s.ccyc + 2 + j * step, 10, k, .blockStep o m.id j⟩ : AEnt) ∈ t.agenda) ∧
      (∃ k, (⟨s.ccyc + time + 23 + v, 10, k, .mmaRead o m.id⟩ : AEnt) ∈ t.agenda) ∧
      ∃ k, (⟨s.ccyc + time + 24 + v, 6, k, .mmaWrite o m.id⟩ : AEnt) ∈ t.agenda

/-- 08 R173, R159, R161, R162, R165, R170, R171: the precise faults of the matrix words, each with its cause, before any
slot check; the word takes no effect. -/
def Sys2Proof.Spec.matrixFaults : Prop :=
  ∀ (sf : Bool) (c n : BitVec 3) (p q : BitVec 6) (h : BitVec 2) (s : State), s.clear sf → s.cur.half ≠ .a →
    let w := Spec.oxOf s n.toNat
    let f := Spec.fieldOf w
    let stops (i : Instr) (code cause acc slot : Nat) : Prop := exec i s = .next ((s.noted sf).raise s.ctx code cause
      (BitVec.ofNat 64 (f 15 0 * 2 ^ 16 + acc * 2 ^ 8 + slot)) s.me.pc s.me.scnt)
    (f 63 16 = 0 →
      (∀ o, (Spec.opSlot s p.toNat).claim = some o → o ≠ s.cur.core → stops (.mclaim sf p n) 0x10 1 0 p.toNat) ∧
      ((Spec.opSlot s p.toNat).claim ≠ some s.cur.core → stops (.mfree sf p n) 0x10 2 0 p.toNat) ∧
      ((Spec.opSlot s q.toNat).claim ≠ some s.cur.core → stops (.mtr sf p q n) 0x10 2 0 q.toNat) ∧
      ((Spec.opSlot s q.toNat).claim = some s.cur.core → (Spec.opSlot s p.toNat).tag ≠ 1 →
        (Spec.opSlot s p.toNat).tag ≠ 8 → stops (.mtr sf p q n) 0x10 3 0 p.toNat) ∧
      (¬ Spec.given s c.toNat → stops (.mzero sf c n) 0x10 5 c.toNat 0 ∧ stops (.mchk sf c n) 0x10 5 c.toNat 0) ∧
      (Spec.given s c.toNat → (Spec.accOf s c.toNat).poison = true → stops (.mchk sf c n) 0x11 0 c.toNat 0)) ∧
    (f 63 23 = 0 → (f 19 16 = 6 ∧ f 21 20 = 0) →
      (¬ Spec.given s c.toNat → stops (.mcfg sf c n) 0x10 5 c.toNat 0 ∧ stops (.mcfgDrop sf c n) 0x10 5 c.toNat 0) ∧
      (Spec.given s c.toNat → (Spec.accOf s c.toNat).live = true → stops (.mcfg sf c n) 0x10 4 c.toNat 0)) ∧
    (f 63 32 = 0 → f 23 19 = 0 → h ≠ 3 →
      (¬ Spec.given s c.toNat → stops (.mma sf c p q h n) 0x10 5 c.toNat 0) ∧
      (Spec.given s c.toNat → ((Spec.opSlot s p.toNat).tag.extractLsb' 0 4).toNat < 7 →
        stops (.mma sf c p q h n) 0x10 3 c.toNat p.toNat))

/-- 08 R162, R164, R166, R167: the sequencer's events. A block step reads its columns; a mismatch is run again in the slack
where there is room and no step was before, else the result is poisoned. The write puts every value of the new
accumulator in its place: for output (i, j) the fold, by the command's shape, of its blocks of sixteen products onto the
value read; nothing outside the accumulator slot is written. -/
def Sys2Proof.Spec.matrixSteps : Prop :=
  ∀ (s : State) (e : AEnt) (rest : List AEnt) (o id : Nat) (m : MCmd), s.agenda = e :: rest → e.due ≤ s.ccyc →
    (s.octet o).cmds.find? (·.id == id) = some m →
    (∀ j, e.ev = .blockStep o id j → tfind m.got j = none →
      let bad := (s.octet o).arrayErr || !((s.octet o).stepBad m.opa m.tagA j).isEmpty ||
        !((s.octet o).stepBad m.opb m.tagB j).isEmpty || m.clash.contains j
      ∃ t n, exec .mmaBlockStep s = .next t ∧ t.mem = s.mem ∧ (t.octet o).cmds.find? (·.id == id) = some n ∧
        tfind n.got j = some ⟨s.stepRows o m.opa m.tagA j, s.stepRows o m.opb m.tagB j⟩ ∧ n.time = m.time ∧
        (bad = false → n.bad = m.bad ∧ n.reruns = m.reruns ∧ t.agenda = rest) ∧
        (bad = true → m.reruns = 0 → m.stepLen ≤ m.slack → n.bad = m.bad ∧ n.reruns = 1 ∧
          ∃ k, (⟨m.issue + m.time + 2, 10, k, .blockStep o id j⟩ : AEnt) ∈ t.agenda) ∧
        (bad = true → ¬ (m.reruns = 0 ∧ m.stepLen ≤ m.slack) → n.bad = true ∧ t.agenda = rest)) ∧
    (e.ev = .mmaRead o id → ∃ t n, exec .mmaResultWrite s = .next t ∧ t.mem = s.mem ∧ t.agenda = rest ∧
      (t.octet o).cmds.find? (·.id == id) = some n ∧
      (m.zero = true → n.accIn = List.replicate 16384 0 ∧ n.accBad = m.accBad) ∧
      (m.zero = false → (s.memOk → ∀ k < 16384, n.accIn.getD k 0 = BitVec.ofNat 32 (s.mem.readLe (Spec.accAt o m.acc (4 * k)) 4)) ∧
        n.accBad = ((vget Acc.init (s.octet o).accs m.acc).poison ||
          (m.acc < 8 && poisoned s.ecc (Spec.accAt o m.acc 0) 0x10000)))) ∧
    (e.ev = .mmaWrite o id → m.accIn.length = 16384 → m.acc < 8 →
      (∀ j < m.kb, ∃ k, tfind m.got j = some k ∧ k.a.length = 128 ∧ k.b.length = 128) →
      let rows (j : Nat) : Captured := (tfind m.got j).getD ⟨[], []⟩
      ∃ t, exec .mmaResultWrite s = .next t ∧ t.agenda = rest ∧
        (∀ i < 128, ∀ j < 128, t.mem.readLe (Spec.accAt o m.acc (4 * (128 * i + j))) 4 =
          (BitVec.ofNat 32 (foldShape m.shape (adderW (m.tagA.extractLsb' 0 4).toNat) (m.accIn.getD (128 * i + j) 0).toNat
            ((List.range m.kb).map fun k => (((rows k).a.getD i []).zip ((rows k).b.getD j [])).map fun x =>
              x.1.mul x.2))).toNat) ∧
        (∀ k, (k < Spec.accAt o m.acc 0 ∨ Spec.accAt o m.acc 0x10000 ≤ k) → t.mem.read k = s.mem.read k) ∧
        (vget Acc.init (t.octet o).accs m.acc).live = true ∧
        (vget Acc.init (t.octet o).accs m.acc).poison =
          (m.bad || m.accBad || ((vget Acc.init (s.octet o).accs m.acc).poison && !m.zero)) ∧
        (m.bad = false → t.cores = s.cores) ∧
        (m.bad = true → let u := s.stream m.core .x
          u.run ≠ .ended → u.run ≠ .absent → t.stream m.core .x = { u with pend := u.pend ++ [⟨0x11, 0,
            BitVec.ofNat 64 (m.slotIdx * 2 ^ 16 + m.acc * 2 ^ 8), s.ccyc⟩] }))

/-- 08 R160, R161, R169: what is under way in the octet besides commands: a fill reads 256 bytes a cycle and is then put in
place; a transpose reads its source and is put in place; a write-back puts its snapshot out from 23 cycles after the
snapshot on, 256 bytes a cycle. -/
def Sys2Proof.Spec.matrixTransfers : Prop :=
  ∀ (s : State) (e : AEnt) (rest : List AEnt) (o id : Nat), s.agenda = e :: rest → e.due ≤ s.ccyc →
    (∀ c src left (f : Fill), e.ev = .fillRead o id c src left → (s.octet o).fills = [f] → f.id = id →
      ∃ t g, exec .mfillContentsInPlace s = .next t ∧ t.mem = s.mem ∧ (t.octet o).fills = [g] ∧
        g.bytes = f.bytes ++ (s.engineRead (s.bindOf c) src 256).1 ∧ g.slot = f.slot ∧
        (left ≤ 1 → t.agenda = rest) ∧
        (1 < left → ∃ k, (⟨s.ccyc + 1, 10, k, .fillRead o id c (src + 256) (left - 1)⟩ : AEnt) ∈ t.agenda)) ∧
    (∀ f : Fill, e.ev = .fillDone o id → (s.octet o).fills.find? (·.id == id) = some f →
      ∃ t, exec .mfillContentsInPlace s = .next t ∧ t.agenda = rest ∧
        (∀ j < min f.bytes.length (16384 + f.scaleLen), t.mem.read (slotKey o f.slot j) = f.bytes.getD j 0) ∧
        (∀ k, (k < slotKey o f.slot 0 ∨ slotKey o f.slot f.bytes.length ≤ k) → t.mem.read k = s.mem.read k) ∧
        t.cores = s.cores) ∧
    (∀ c src dst, e.ev = .mtrRead o id c src dst → (s.octet o).paths = [] →
      ∃ t x, exec .mtrTransposeInPlace s = .next t ∧ t.mem = s.mem ∧ t.agenda = rest ∧ (t.octet o).paths = [x] ∧
        x.id = id ∧ x.core = c ∧ x.dst = dst ∧ (s.memOk → ∀ i < 128, ∀ k < 128,
          x.bytes.getD (128 * k + i) 0 = s.mem.read (slotKey o src (128 * i + k)))) ∧
    (∀ x : Transpose, e.ev = .mtrDone o id → (s.octet o).paths.find? (·.id == id) = some x →
      ∃ t, exec .mtrTransposeInPlace s = .next t ∧ t.agenda = rest ∧
        (∀ j < x.bytes.length, t.mem.read (slotKey o x.dst j) = x.bytes.getD j 0) ∧
        (∀ k, (k < slotKey o x.dst 0 ∨ slotKey o x.dst x.bytes.length ≤ k) → t.mem.read k = s.mem.read k) ∧
        t.cores = s.cores) ∧
    (∀ c h a key rel seed strm bx, e.ev = .mwbSnap o id c h a key rel seed strm bx →
      (vget Acc.init (s.octet o).accs a).poison = false → poisoned s.ecc (Spec.accAt o a 0) 0x10000 = false →
      ∃ t b, exec .mwbOutputLanding s = .next t ∧ t.mem = s.mem ∧ (t.octet o).backs = (s.octet o).backs ++ [b] ∧ b.id = id ∧
        b.poisonWords = [] ∧ ((vget Acc.init (s.octet o).accs a).fmt = 6 → s.memOk → ∀ j < 65536,
          b.bytes.getD j 0 = s.mem.read (Spec.accAt o a j)) ∧
        (∃ k, (⟨s.ccyc + 23, 4, k, .mwbLand o id key 0⟩ : AEnt) ∈ t.agenda) ∧
        (rel = true → ∃ k, (⟨s.ccyc + 1, 6, k, .accZero o a none⟩ : AEnt) ∈ t.agenda)) ∧
    (∀ key beat (b : WriteBack), e.ev = .mwbLand o id key beat → (s.octet o).backs = [b] → b.id = id →
      ∃ t, exec .mwbOutputLanding s = .next t ∧
        t.mem = ({ s with agenda := rest }.engineWrite (s.bindOf b.core) (key + 256 * beat) (b.bytes.take 256) b.poisonWords).mem ∧
        (b.bytes.length ≤ 256 → (t.octet o).backs = [] ∧ t.agenda = rest) ∧
        (256 < b.bytes.length → (t.octet o).backs = [{ b with bytes := b.bytes.drop 256 }] ∧
          ∃ k, (⟨s.ccyc + 1, 4, k, .mwbLand o id key (beat + 1)⟩ : AEnt) ∈ t.agenda))

/-- 02 R38; 13 R229; 08 R156, R159, R161, R162, R165, R170, R171, R173: the slot check of a timed word with its slips,
and the precise faults of the matrix words. Readings of the model: which DST and SOFF are reserved (log 97), `ox7` of an FP32
slot (log 27), and the configuration under which an `mwb` is checked (log 113). -/
def Obligations.SlotsAndMatrixFaults : Prop :=
  Spec.slotChecks ∧ Spec.matrixFaults

/-- 08 R160 to R162, R164, R166, R167, R169: block steps and the result write of a command, and the fills, transposes
and write-backs under way. Readings of the model: a slot keeps its contents until a fill puts the new ones in place at once
(log 83), and a write-back goes out under the configuration of its snapshot (log 113). -/
def Obligations.MatrixUnitEvents : Prop :=
  Spec.matrixSteps ∧ Spec.matrixTransfers

/-- 08 R156 to R161, R168 to R172: the matrix words but `mma` at issue, and what their claims, tags, configurations and
clearings leave in the landing cycle. -/
def Obligations.MatrixWords : Prop :=
  Spec.matrixWordResults ∧ Spec.slotLandings ∧ Spec.accumulatorLandings

end

namespace Sys2Proof.Spec

open Sys2Proof.Machine

/-! ### The Caddy, as 10 R198 to R207 write it -/

/-- The slot of a timed engine word (04 R80): the word's own index, or the low bits of an OX register. -/
def slotOf (s : State) (i : BitVec 1) (l : BitVec 11) : Nat :=
  if i = 1 then l.toNat else fieldOf (oxOf s l.toNat) 15 0

/-- The slot fields are legal beside a descriptor of `n` registers from `o` on (04 R80, R90). -/
def slotLegal (o : BitVec 3) (n : Nat) (i : BitVec 1) (l : BitVec 11) : Prop :=
  i = 1 ∨ (l.toNat < 8 ∧ ∀ k < n, (o.toNat + k) % 8 ≠ l.toNat)

/-- The lowest free journal entry (22 R349) of the issuing core. -/
def freeEntry (s : State) (e : Nat) : Prop :=
  e < 16 ∧ (vget Posted.init s.my.psj e).isOpen = false ∧ ∀ k < e, (vget Posted.init s.my.psj k).isOpen = true

/-- A transfer is under way: it joins its stream's unsealed transfers, its first beat is read in the next cycle, and a
posted one, whose first beat goes to `dst0`, holds the lowest free journal entry. Memory, registers and queues are as
they were. -/
def started (s t : State) (sf : Bool) (x : Xfer) (isPosted : Bool) (dst0 : Nat) : Prop :=
  t = { s with cores := t.cores, agenda := t.agenda, seq := t.seq, xfers := s.xfers ++ [x], octets := t.octets } ∧
  (∀ c, c ≠ s.cur.core → t.core c = s.core c) ∧ (∀ h, h ≠ s.cur.half → t.stream s.cur.core h = s.stream s.cur.core h) ∧
  (∃ l, t.me = { s.me.advance s.ctx sf .seq with issued := l, caddy := { s.me.caddy with unsealed := s.me.caddy.unsealed ++ [x.id] } }) ∧
  t.my.regs = s.my.regs ∧ t.my.ctl = s.my.ctl ∧ queuesBut s t 5 ∧
  (∀ e ∈ s.agenda, e ∈ t.agenda) ∧ (∃ k, (⟨s.ccyc + 1, 10, k, .beatRead x.id 0⟩ : AEnt) ∈ t.agenda) ∧
  (isPosted = false → t.my.psj = s.my.psj ∧ x.posted = none) ∧
  (isPosted = true → ∀ e, freeEntry s e → x.posted = some e ∧ t.my.psj = vput s.my.psj e
    { isOpen := true, refused := false, reason := 0, half := s.cur.half, dst := BitVec.ofNat 40 dst0 }) ∧
  x.core = s.cur.core ∧ x.half = s.cur.half ∧ x.bind = s.bindOf s.cur.core ∧ x.issue = s.ccyc

/-- The Caddy status (10 R207): NEXT, OLDEST, UNSEAL, ERR and EBATCH. -/
def caddyStatus (k : CaddyStream) : Word :=
  BitVec.ofNat 64 (k.next * 2 ^ 48 + (match k.batches with | b :: _ => b.num | [] => k.next) * 2 ^ 32 +
    min k.unsealed.length 255 * 2 ^ 24 + k.err * 2 ^ 16 + k.ebatch)

/-- 22 R349: a schedule entry's transfer writes a window of another core: a copy by its destination, a distribution by one of
its cores. -/
def postsAway (s : State) (e : SchedEnt) : Prop :=
  match fieldOf e.w0 63 62 with
  | 0 => ptrTag e.w2.toNat = 1 ∧ sCore e.w2.toNat ≠ s.cur.core
  | 1 => ∃ k < min (fieldOf e.w2 63 48) (fieldOf e.w3 25 20),
      s.cur.core / 1024 * 1024 + (fieldOf e.w3 9 0 + k * fieldOf e.w3 19 10) ≠ s.cur.core
  | _ => False

/-- A transfer of the issuing core from `src` reads a published buffer's second half (14 R268): its bytes, or the places
that its pages' formats give the elements it decodes. -/
def readsAlt (s : State) (k : XKind) (src : Word) (n : Nat) (dec : Bool) : Prop :=
  ∃ x : Xfer, x.core = s.cur.core ∧ x.kind = k ∧ x.src = src ∧ x.bytes = n ∧ x.dec = dec ∧
    (s.bindAt (s.bindOf s.cur.core)).readsAlt x = true

/-- No line of the `n` bytes from an F-space address begins in a published buffer's second half. -/
def offAlt (s : State) (b p n : Nat) : Prop :=
  ∀ k < n, k % 64 = 0 → altHit (s.pubs b) (3 * 2 ^ 60 + (p + k) % 2 ^ 48) 1 = false

/-- No published buffer of the domain touches `n` bytes from pointer `p`. -/
def unpublished (s : State) (b p n : Nat) : Prop :=
  ∀ q ∈ s.pubs b, (p + n ≤ q.base.toNat ∨ q.base.toNat + q.len ≤ p) ∧ (p + n ≤ q.alt.toNat ∨ q.alt.toNat + q.len ≤ p)

end Sys2Proof.Spec

section

open Sys2Proof Sys2Proof.Machine

/-! ### The Caddy -/

/-- 10 R198 to R202, R205; 16 R286; 22 R349 (log 16 for the beats of a `cdist` block): `ccopy`, `cdist` and `cslot` with legal descriptors, spans that the Caddy
reaches and aligned, on their slot; a posted transfer finds a free journal entry and a release transfer passes its order
check. The transfer starts, with the span of its descriptor and the slot's path latency; `cslot` empties the slot's
tag in the next cycle. -/
def Sys2Proof.Spec.transferStarts : Prop :=
  ∀ (sf : Bool) (o : BitVec 3) (i : BitVec 1) (l : BitVec 11) (s : State), s.clear sf →
    let w0 := Spec.oxOf s o.toNat
    let w1 := Spec.oxOf s (o.toNat + 1)
    let w2 := Spec.oxOf s (o.toNat + 2)
    let b := s.bindOf s.cur.core
    let part := (s.bindAt b).part
    let idx := Spec.slotOf s i l
    let lat := Spec.fieldOf ((s.bindAt b).slot idx) 7 0
    Spec.onSlot s 1 idx →
    (Spec.slotLegal o 3 i l →
      let n := Spec.fieldOf w2 24 0
      let dec := w2.getLsbD 48
      let sp := w0.toNat / 2 ^ 60
      let dp := w1.toNat / 2 ^ 60
      let posted := dp == 1 && sCore w1.toNat != s.cur.core
      Spec.fieldOf w2 55 49 = 0 → Spec.fieldOf w2 47 25 = 0 → 64 ≤ n → n ≤ 16777216 → n % 64 = 0 →
      (dec = true → sp = 3 ∧ dp ≠ 3) → s.caddySpan b part true w0.toNat (if dec then 64 else n) = true →
      s.caddySpan b part false w1.toNat n = true → w0.toNat % 64 = 0 → w1.toNat % 64 = 0 →
      (Spec.readsAlt s .copy w0 n dec → exec (.ccopy sf o i l) s =
        .next ((s.noted sf).raise s.ctx 0x08 0 w0 s.me.pc s.me.scnt)) ∧
      (¬ Spec.readsAlt s .copy w0 n dec →
      (posted = true → ∃ e, Spec.freeEntry s e) →
      (posted = true → sKind w1.toNat = 4 → sOff w1.toNat < 0x10080 → 0x10000 < sOff w1.toNat + n →
        s.orderOk s.cur.core 0b01000 = true) →
      ∃ t x, exec (.ccopy sf o i l) s = .next t ∧ Spec.started s t sf x posted w1.toNat ∧ t.octets = s.octets ∧
        x.kind = .copy ∧ x.src = w0 ∧ x.dst = w1 ∧ x.bytes = n ∧ x.dec = dec ∧ x.lat = lat ∧
        x.tag = some (w2.extractLsb' 56 8) ∧ x.todo = (n + 255) / 256)) ∧
    (Spec.slotLegal o 3 i l →
      let nblk := Spec.fieldOf w1 63 48
      let blk := 64 * Spec.fieldOf w1 47 32
      let ccnt := Spec.fieldOf w2 25 20
      let core (k : Nat) : Nat := Spec.fieldOf w2 9 0 + k % ccnt * Spec.fieldOf w2 19 10
      let off (k : Nat) : Nat := Spec.fieldOf w1 17 0 + k / ccnt * Spec.fieldOf w2 43 26
      let layer := s.cur.core / 1024 * 1024
      Spec.fieldOf w1 23 18 = 0 → Spec.fieldOf w2 63 44 = 0 → 1 ≤ nblk → 64 ≤ blk → blk ≤ 262144 →
      Spec.fieldOf w1 17 0 % 64 = 0 → Spec.fieldOf w2 43 26 % 64 = 0 → 1 ≤ ccnt → ccnt ≤ 32 → 1 ≤ Spec.fieldOf w2 19 10 →
      nblk * blk ≤ 16777216 → s.caddySpan b part true w0.toNat (nblk * blk) = true → w0.toNat % 64 = 0 →
      (∀ k < nblk, core k < 1024 ∧ off k + blk ≤ 0x40000 ∧ s.partOfCore (layer + core k) = some part ∧
        altHit (s.pubs b) (sPtr (layer + core k) 0 (off k)) blk = false) →
      let posted := (List.range (min nblk ccnt)).any fun k => layer + core k != s.cur.core
      (posted = true → ∃ e, Spec.freeEntry s e) →
      ∃ t x, exec (.cdist sf o i l) s = .next t ∧
        Spec.started s t sf x posted (sPtr (layer + core 0) 0 (off 0)) ∧ t.octets = s.octets ∧
        x.kind = .dist ∧ x.src = w0 ∧ x.bytes = nblk * blk ∧ x.lat = lat ∧ x.tag = some (w1.extractLsb' 24 8) ∧
        x.todo = nblk * ((blk + 255) / 256) ∧
        ∀ k < nblk, ∀ m < (blk + 255) / 256, x.span (k * ((blk + 255) / 256) + m) =
          (k * blk + 256 * m, min 256 (blk - 256 * m), sPtr (layer + core k) 0 (off k + 256 * m))) ∧
    (Spec.slotLegal o 2 i l →
      let ops := Spec.fieldOf w1 5 0
      let oc := coreOctet s.cur.core
      Spec.fieldOf w1 63 32 = 0 → Spec.fieldOf w1 15 6 = 0 → w0.toNat % 64 = 0 →
      (Spec.opSlot s ops).claim = some s.cur.core → ∀ (len : Nat) (tag : BitVec 16),
      let page := (s.bindAt b).page oc (s.fRoute b false (w0.toNat % 2 ^ 48))
      ((w0.toNat / 2 ^ 60 ≠ 3 ∧ tag = w1.extractLsb' 16 16 ∧ len = Spec.tileBytes (Spec.fieldOf w1 21 20) ∧
          Spec.tile (Spec.fieldOf w1 19 16) (Spec.fieldOf w1 21 20) (Spec.fieldOf w1 25 22) ∧
          Spec.fieldOf w1 31 26 = 0 ∧ s.caddySpan b part true w0.toNat len = true) ∨
        (w0.toNat / 2 ^ 60 = 3 ∧ Spec.fieldOf w1 31 16 = 0 ∧ s.caddySpan b part true w0.toNat 64 = true ∧
          ((page = none ∧ tag = 0 ∧ len = 16384) ∨ ∃ e, page = some e ∧ len = Spec.tileBytes (pfmt e).bl ∧ (pfmt e).bl < 4 ∧
            tag = BitVec.ofNat 16 ((pfmt e).ef + 16 * (pfmt e).bl + 64 * (pfmt e).pk)))) →
      (Spec.readsAlt s .slot w0 len false → exec (.cslot sf o i l) s =
        .next ((s.noted sf).raise s.ctx 0x08 0 w0 s.me.pc s.me.scnt)) ∧
      (¬ Spec.readsAlt s .slot w0 len false → ∃ t x, exec (.cslot sf o i l) s = .next t ∧ Spec.started s t sf x false 0 ∧ x.kind = .slot ∧ x.src = w0 ∧
        x.bytes = len ∧ x.lat = lat ∧ x.aux = BitVec.ofNat 64 ops ∧ x.aux2 = tag.setWidth 64 ∧
        (∃ k, (⟨s.ccyc + 1, 0, k, .tag oc ops 0⟩ : AEnt) ∈ t.agenda) ∧
        (t.octet oc).fills = (s.octet oc).fills ++ [⟨x.id, s.cur.core, ops, len - 16384, List.replicate len 0, []⟩] ∧
        (t.octet oc).slots = (s.octet oc).slots))

/-- 10 R198 to R202, R205; 16 R286; 22 R349; 08 R158: the transfer words, and what the landing of the tag that a `cslot`
empties leaves. -/
def Obligations.TransferWords : Prop :=
  Spec.transferStarts ∧ Spec.slotLandings

/-- 14 R268, R269; 10 R205, R216, R218; 17 R307: a published buffer's flip in its landing cycle. The buffer's map turns: of
a pointer into it the half that was visible is now the other one, which engines write, and the other half is visible. No byte
of memory changes and no other buffer. A snapshot's flip counts the snapshot too, and its status word follows. -/
def Sys2Proof.Spec.flips : Prop :=
  ∀ (s : State) (e : AEnt) (rest : List AEnt) (b i : Nat) (q : Pub), s.agenda = e :: rest → e.due ≤ s.ccyc →
    (s.pubs b)[i]? = some q →
    let flipped (t : State) : Prop :=
      t.mem = s.mem ∧ (∀ b', b' ≠ b → t.bindAt b' = s.bindAt b') ∧ t.bindAt b = { s.bindAt b with pubs := t.pubs b } ∧
      (∀ j, (t.pubs b)[j]? = if j = i then some { q with map := !q.map } else (s.pubs b)[j]?) ∧
      ∀ p, q.base.toNat ≤ p → p < q.base.toNat + q.len →
        (∀ j q', j < i → (s.pubs b)[j]? = some q' → ¬ (q'.base.toNat ≤ p ∧ p < q'.base.toNat + q'.len)) →
        let other := q.alt.toNat + (p - q.base.toNat)
        pubRoute (s.pubs b) false p = some (if q.map = true then other else p) ∧
        pubRoute (t.pubs b) false p = some (if q.map = true then p else other) ∧
        pubRoute (t.pubs b) true p = pubRoute (s.pubs b) false p
    (e.ev = .flip b i → ∃ t, exec .resultLanding s = .next t ∧ flipped t ∧ t = { s with agenda := rest, binds := t.binds }) ∧
    ∀ c, e.ev = .snapFlip c b i → ∃ t, exec .resultLanding s = .next t ∧ flipped t ∧
      t = { s with agenda := t.agenda, seq := t.seq, binds := t.binds, cores := t.cores } ∧
      (∀ c', c' ≠ c → t.core c' = s.core c') ∧
      t.core c = { s.core c with tile := { (s.core c).tile with snaps := (s.core c).tile.snaps + 1, snapCopy := false } } ∧
      t.agenda = agendaInsert ⟨s.ccyc + 1, 4, engineTie s.ccyc c, .tileStatus c⟩ rest

/-- 10 R196, R199, R203 to R205, R207: `cseal`, `cchk`, `cadv`, `cpub` and `cstat`. A `cseal`
makes the unsealed transfers batch NEXT, finished at once where none of them is unfinished, with its completion word one
cycle later; with nothing to seal, and in a `cchk` that holds, nothing happens. `cadv` and `cpub` stop by name: a full
list of released entries, and a stream without entries; a pointer that the Caddy does not reach, a misaligned one, and one
that names no published buffer. -/
def Sys2Proof.Spec.caddyWordResults : Prop :=
  ∀ (sf : Bool) (s : State), s.clear sf →
    let k := s.me.caddy
    let b := s.bindOf s.cur.core
    let stop (code sub : Nat) (tval : Word) : Host.Outcome State Fault Refusal :=
      .next ((s.noted sf).raise s.ctx code sub tval s.me.pc s.me.scnt)
    let with_ (t : State) (k' : CaddyStream) : Prop :=
      Spec.kept s t ∧ (∀ c, c ≠ s.cur.core → t.core c = s.core c) ∧
      (∀ h, h ≠ s.cur.half → t.stream s.cur.core h = s.stream s.cur.core h) ∧ t.my.ctl = s.my.ctl ∧ t.my.psj = s.my.psj ∧
      Spec.queuesBut s t 5 ∧ t.my.regs = s.my.regs ∧
      ∃ l, t.me = { s.me.advance s.ctx sf .seq with issued := l, caddy := k' }
    (∀ o : BitVec 3,
      let cw := Spec.oxOf s o.toNat
      let p := cw.toNat
      (cw = 0 ∨ (p / 2 ^ 40 = 2 ^ 20 ∧ sCore p = s.cur.core ∧ sKind p = 0 ∧ sOff p + 8 ≤ 0x40000 ∧ p % 8 = 0 ∧
        altHit (s.pubs b) p 8 = false)) → k.batches.length < 16 →
      (k.unsealed = [] → exec (.cseal sf o) s = .next ((s.noted sf).went s.ctx sf .seq)) ∧
      (k.unsealed ≠ [] →
        let left := k.unsealed.filter fun id => s.xfers.any (·.id == id)
        ∃ t, exec (.cseal sf o) s = .next t ∧
          with_ t { k with next := (k.next + 1) % 65536, unsealed := [], batches :=
            if left = [] then k.batches else k.batches ++ [⟨k.next, left, cw, s.ccyc⟩] } ∧
          t.agenda = if left = [] ∧ cw ≠ 0 then Spec.posted s (s.ccyc + 1) 4 (engineTie s.ccyc 0)
            (.release (Spec.keyOf s s.cur.core p) (BitVec.ofNat 64 (2 ^ 32 + k.next))) else s.agenda)) ∧
    (∀ n : BitVec 5,
      (k.batches.length ≤ n.toNat → exec (.cchk sf n) s = .next ((s.noted sf).went s.ctx sf .seq)) ∧
      (n.toNat < k.batches.length → exec (.cchk sf n) s = .next ((s.noted sf).slip s.ctx 9))) ∧
    (∀ l, l = (s.bindAt b).schedOf s.cur.core s.cur.half →
      (l ≠ [] → k.released.length < 16 →
        ∃ t, exec (.cadv sf) s = .next t ∧ t.agenda = s.agenda ∧
          with_ t { k with pos := (k.pos + 1) % l.length,
                           released := k.released ++ [(l.getD (k.pos % l.length) 0, s.mcyc s.cur.core)] }) ∧
      (16 ≤ k.released.length → exec (.cadv sf) s = stop 0x0A 0 0) ∧
      (k.released.length < 16 → l = [] → exec (.cadv sf) s = stop 0x13 3 0)) ∧
    (∀ o : BitVec 3,
      let p := Spec.oxOf s o.toNat
      let reached : Prop := s.caddySpan b (s.bindAt b).part true p.toNat 1 = true
      (¬ reached → exec (.cpub sf o) s = stop 0x08 0 p) ∧
      (reached → p.toNat % 64 ≠ 0 → exec (.cpub sf o) s = stop 0x09 0 p) ∧
      (reached → p.toNat % 64 = 0 → (∀ q ∈ s.pubs b, ¬ (q.base = p ∧ q.strs = false)) →
        exec (.cpub sf o) s = stop 0x13 2 p)) ∧
    (∀ (o : BitVec 3) (j : Nat) (q : Pub), (s.pubs b)[j]? = some q → q.base = Spec.oxOf s o.toNat → q.strs = false →
      s.caddySpan b (s.bindAt b).part true q.base.toNat 1 = true → q.base.toNat % 64 = 0 →
      (∀ i q', i < j → (s.pubs b)[i]? = some q' → ¬ (q'.base = q.base ∧ q'.strs = false)) →
      (s.orderOk s.cur.core 0b01000 = true → ∃ t, exec (.cpub sf o) s = .next t ∧ with_ t k ∧
        t.agenda = Spec.posted s (s.ccyc + 1) 0 s.seq (.flip b j)) ∧
      (s.orderOk s.cur.core 0b01000 = false → exec (.cpub sf o) s = .next ((s.noted sf).slip s.ctx 6))) ∧
    (∀ (d : BitVec 5) (s' : State), s.legalE [] [d.toNat] → s.gives sf d.toNat [] s' [] →
      s.takes d.toNat (Spec.caddyStatus k) →
      exec (.cstat sf d) s = .next (((s'.put s.ctx 1 d.toNat (Spec.caddyStatus k)).modStream s.cur.core s.cur.half
        fun t => { t with caddy := { t.caddy with err := 0, ebatch := 0 } }).went s.ctx sf .seq))

/-- 10 R196, R199, R203 to R205, R207; 14 R269; 16 R281: the Caddy's other words, and the landings of a flip and of a
completion word, which goes to the half of a published buffer that is visible as it is posted (log 105). -/
def Obligations.CaddyWords : Prop :=
  Spec.caddyWordResults ∧ Spec.flips ∧ Spec.releaseLanding

/-- 10 R198, R202, R203, R206; 06 R119, R123; 13 R234; 14 R256; 22 R350: the timed beats of a transfer. A beat of a source in
S-space or L-space is read in its cycle as the source stands, to land P cycles after the issue plus its number; so is one of an
HBM page, which a forced refresh of its slice delays. A beat lands in a
scratchpad's bytes, with the arrival tag of their lines, and no other byte changes; the last one ends the transfer, and a
batch that it leaves with none unfinished writes its completion word one cycle later. A beat that the target refuses
writes nothing. A transfer that a missing page stopped reads no beat. -/
def Sys2Proof.Spec.timedBeats : Prop :=
  ∀ (s : State) (e : AEnt) (rest : List AEnt) (x : Xfer) (j : Nat), s.agenda = e :: rest → e.due ≤ s.ccyc →
    s.xfers.find? (·.id == x.id) = some x →
    (e.ev = .beatRead x.id j →
      (x.stalled.isSome = true → ∃ t, exec .caddyBeatRead s = .next t ∧ t = { s with agenda := rest }) ∧
      (x.stalled = none → x.kind = .copy → ptrTag x.src.toNat ≠ 3 → ptrTag (x.dst.toNat + 256 * j) ≠ 3 → x.dec = false → x.failed = 0 →
        let n := min 256 (x.bytes - 256 * j)
        let r := { s with agenda := rest }.engineRead x.bind (x.src.toNat + 256 * j) n
        ∃ t data bad, exec .caddyBeatRead s = .next t ∧ t = { s with
            agenda := t.agenda, seq := t.seq, xfers := t.xfers, dev := { s.dev with log := t.dev.log } } ∧
          t.xfers = (s.xfers.map fun y =>
            if y.id = x.id then { y with hostDue := y.hostDue.erase j, next := max y.next (j + 1) } else y) ∧
          data = (List.range n).map (fun k => (k, r.1.getD k 0)) ∧ (∀ o, o ∈ bad ↔ o ∈ r.2) ∧
          (∃ k, (⟨x.issue + x.lat + j, 4, k, .beatLand x.id j data bad []⟩ : AEnt) ∈ t.agenda) ∧
          (j + 1 < (x.bytes + 255) / 256 → ∃ k, (⟨s.ccyc + 1, 10, k, .beatRead x.id (j + 1)⟩ : AEnt) ∈ t.agenda)) ∧
      (∀ v : Nat → Byte, x.stalled = none → x.kind = .copy → ptrTag x.src.toNat = 3 → ptrTag (x.dst.toNat + 256 * j) ≠ 3 →
        x.dec = false → x.failed = 0 → x.src.toNat % 64 = 0 → x.bytes % 64 = 0 → 256 * j < x.bytes →
        Spec.offAlt s x.bind (x.src.toNat + 256 * j) (min 256 (x.bytes - 256 * j)) →
        let n := min 256 (x.bytes - 256 * j)
        let a (k : Nat) : Nat := s.fRoute x.bind false ((x.src.toNat + 256 * j + k / 64 * 64) % 2 ^ 48) + k % 64
        (∀ k < n, s.fByte ⟨x.bind, coreOctet x.core, x.part, false, false⟩ (a k) false = .byte (v k) false) →
        ∃ t k, exec .caddyBeatRead s = .next t ∧ t.mem = s.mem ∧ t.cores = s.cores ∧
          (⟨x.issue + x.lat + j + s.refreshDelay x j, 4, k, .beatLand x.id j ((List.range n).map fun k => (k, v k)) [] []⟩ :
            AEnt) ∈ t.agenda ∧
          ((∀ r ∈ s.dev.refreshes, r.ends ≤ s.ccyc ∨ s.beatSlice x j r.stack r.slice = false) → s.refreshDelay x j = 0) ∧
          ∀ r ∈ s.dev.refreshes, s.ccyc < r.ends → s.beatSlice x j r.stack r.slice = true → r.delay ≤ s.refreshDelay x j)) ∧
    (∀ (bs : List Byte) (dst : List (Nat × FHit)), e.ev = .beatLand x.id j (bs.zipIdx.map fun q => (q.2, q.1)) [] dst →
      x.kind = .copy →
      let p := x.dst.toNat + 256 * j
      ptrTag p = 1 → sKind p = 0 → p % 64 = 0 → bs.length % 64 = 0 → bs.length ≤ 256 → sOff p + bs.length ≤ 0x40000 →
      Spec.unpublished s x.bind p bs.length → x.packetErr = none →
      let c := sCore p
      (c = x.core →
        (1 < x.todo → ∃ t, exec .caddyBeatLand s = .next t ∧ t.agenda = rest ∧
          (∀ c', t.core c' = s.core c') ∧ t.xfers = s.xfers.map fun y =>
            if y.id = x.id then { y with packetErr := none, todo := y.todo - 1, hostTodo := y.hostTodo.erase j } else y) ∧
        (x.todo = 1 → x.failed = 0 → x.posted = none → ∃ t, exec .caddyBeatLand s = .next t ∧
          t.xfers = s.xfers.filter (·.id != x.id) ∧ (∀ y ∈ rest, y ∈ t.agenda) ∧
          ∀ q ∈ (s.stream x.core x.half).caddy.batches, q.xfers = [x.id] → q ∉ (t.stream x.core x.half).caddy.batches ∧
            (q.cw ≠ 0 → ∃ k, (⟨s.ccyc + 1, 4, k, .release (ptrKey ((pubRoute (s.pubs x.bind) false q.cw.toNat).getD q.cw.toNat))
              (BitVec.ofNat 64 (2 ^ 32 + q.num))⟩ : AEnt) ∈ t.agenda)) ∧
        ∀ t, exec .caddyBeatLand s = .next t → x.failed = 0 →
          (∀ k < bs.length, t.mem.read (spKey c (sOff p + k)) = bs.getD k 0) ∧
          (∀ g, x.tag = some g → ∀ k < bs.length, t.mem.read (tagKey c ((sOff p + k) / 64)) = g) ∧
          ∀ a, ¬ (spKey c (sOff p) ≤ a ∧ a < spKey c (sOff p) + bs.length) →
            (∀ k < bs.length, a ≠ tagKey c ((sOff p + k) / 64)) → t.mem.read a = s.mem.read a) ∧
      (c ≠ x.core → (s.core c).bound = none → ∃ t, exec .caddyBeatLand s = .next t ∧ t.mem = s.mem ∧
        ((s.stream x.core x.half).caddy.err = 0 → (t.stream x.core x.half).caddy.err = 2)))

/-- 10 R198; 14 R258, R267; 16 R295: the untimed beats. A beat on a host page may begin where the order of host writes lets
it: never while a beat of an earlier batch of its stream has to write host memory still. It is read after what lands in
its cycle, as its source stands, once the host beats before it have reached the link, and lands in the next; one that has reached
the link already lands as it was read there. A stopped transfer goes on with its next beat once an item of the
overflow list has been installed for it or the page is there, and not before. -/
def Sys2Proof.Spec.untimedBeats : Prop :=
  (∀ (s : State) (e : AEnt) (rest : List AEnt) (x : Xfer) (j : Nat) (v : Nat → Byte), s.agenda = e :: rest →
    e.due ≤ s.ccyc → s.xfers.find? (·.id == x.id) = some x → e.ev = .lateRead x.id j → x.failed = 0 → x.kind = .copy →
    x.dec = false → ptrTag x.src.toNat = 3 → x.src.toNat % 64 = 0 → x.bytes % 64 = 0 → 256 * j < x.bytes →
    ptrTag (x.dst.toNat + 256 * j) ≠ 3 →
    (∀ i ∈ x.hostTodo, i < j → ∃ d ∈ x.linked, d.1 = i) → (∀ d ∈ x.linked, d.1 ≠ j) →
    Spec.offAlt s x.bind (x.src.toNat + 256 * j) (min 256 (x.bytes - 256 * j)) →
    let n := min 256 (x.bytes - 256 * j)
    let a (k : Nat) : Nat := s.fRoute x.bind false ((x.src.toNat + 256 * j + k / 64 * 64) % 2 ^ 48) + k % 64
    (∀ k < n, s.fByte ⟨x.bind, coreOctet x.core, x.part, false, false⟩ (a k) true = .byte (v k) false) →
    ∃ t data, exec .caddyBeatRead s = .next t ∧ t.mem = s.mem ∧ t.cores = s.cores ∧
      data = ((List.range n).map fun k => (k, v k)) ∧
      ∃ k, (⟨s.ccyc + 1, 4, k, .beatLand x.id j data [] []⟩ : AEnt) ∈ t.agenda) ∧
  (∀ (s : State) (e : AEnt) (rest : List AEnt) (x : Xfer) (j : Nat) (d : Beat), s.agenda = e :: rest → e.due ≤ s.ccyc →
    s.xfers.find? (·.id == x.id) = some x → e.ev = .lateRead x.id j → (∀ i ∈ x.hostTodo, i < j → ∃ d ∈ x.linked, d.1 = i) →
    x.linked.find? (·.1 == j) = some (j, d) →
    ∃ t, exec .caddyBeatRead s = .next t ∧ t = { s with agenda := t.agenda, seq := t.seq, xfers := t.xfers } ∧
      (∃ k, (⟨s.ccyc + 1, 4, k, .beatLand x.id j d.data d.poison d.dst⟩ : AEnt) ∈ t.agenda) ∧
      ∃ y, t.xfers.find? (·.id == x.id) = some y ∧ y.linked = x.linked.filter (·.1 != j)) ∧
  ∀ (s : State) (x : Xfer) (j : Nat), s.xfers.find? (·.id == x.id) = some x → s.cur.xfer = x.id →
    (s.cur.beat = j →
      (j ∈ x.hostTodo → s.beatUnderWay x.id j = false → j ∉ s.hostWrites x →
        exec .hostBeatLand s = .next (s.post s.ccyc 10 (.lateRead x.id j))) ∧
      (j ∈ s.hostWrites x → ∀ (before after : List Batch) (g : Batch),
        (s.stream x.core x.half).caddy.batches = before ++ g :: after → x.id ∈ g.xfers →
        (∀ q ∈ before, x.id ∉ q.xfers) →
        (∃ q ∈ before, ∃ id ∈ q.xfers, ∃ y, s.liveXfers.find? (·.id == id) = some y ∧ s.hostWrites y ≠ []) →
        exec .hostBeatLand s = .next s)) ∧
    (x.stalled = some j → s.headDue = none →
      (x.installed = false → s.missAddr x ≠ none → exec .caddyBeatLand s = .next s) ∧
      ((x.installed = true ∨ s.missAddr x = none) → (s.bindAt x.bind).ending = none → x.kind ≠ .slot →
        s.beatUnderWay x.id j = false →
        ∃ t y, exec .caddyBeatLand s = .next t ∧ t.mem = s.mem ∧ t.cores = s.cores ∧
          t.xfers.find? (·.id == x.id) = some y ∧ y = { x with hostDue := y.hostDue } ∧
          (t.hostOrderOk y j = true → ∃ k, (⟨s.ccyc, 10, k, .lateRead x.id j⟩ : AEnt) ∈ t.agenda)))

/-- 14 R258: in hardware mode the loader installs the item of the overflow list that holds a stopped transfer's address, in
the octet that missed (log 29). -/
def Sys2Proof.Spec.pageInstalls : Prop :=
  ∀ (s : State) (x : Xfer), s.xfers.find? (·.id == x.id) = some x → s.cur.xfer = x.id →
    ∀ a it, s.missAddr x = some a → (s.bindAt x.bind).mode 3 = false → x.installed = false →
      (s.bindAt x.bind).ending = none →
      (s.bindAt x.bind).overflow.find? (fun it => pageHit (it.w0, it.w1) a) = some it →
      (∀ e ∈ (s.bindAt x.bind).window (coreOctet x.core), e.1 = it.entry.toNat ∨ e.2.1.getLsbD 63 = false ∨
        pageBase e.2.1 + pageSize e.2.1 ≤ pageBase it.w0 ∨ pageBase it.w0 + pageSize it.w0 ≤ pageBase e.2.1) →
      ∃ t, exec .overflowPageInstall s = .next t ∧ t.mem = s.mem ∧ t.cores = s.cores ∧ t.agenda = s.agenda ∧
        t.bindAt x.bind = { s.bindAt x.bind with installs := (s.bindAt x.bind).installs ++
          [(coreOctet x.core, it.entry.toNat, it.w0, it.w1)] } ∧
        ∃ l, t.xfers.find? (·.id == x.id) = some { x with installed := true, hostDue := l }

/-- 10 R204; 14 R266; 16 R286; 22 R347, R349: a released schedule entry starts its transfer in its slot cycle. One whose
operand slot the core has not claimed is refused: it moves no beat, its transfer starts and finishes in this cycle, `cstat`
records ERR 5 and the stream takes SUB 8. One whose pointers fail, and a posted one that finds the core's journal full, has no
effect but its precise fault, and a release transfer whose order check fails none but slip cause 6 (log 20). -/
def Sys2Proof.Spec.entryRuns : Prop :=
  ∀ (s : State) (e : Nat) (c : Nat) (h : Half), s.cur.core = c → s.cur.half = h → s.entryDue c h = some e →
    let b := s.bindOf c
    let part := (s.bindAt b).part
    let ent : SchedEnt := (s.bindAt b).sched.getD e ⟨0, 0, 0, 0⟩
    let k := (s.stream c h).caddy
    let p := ent.w2.toNat
    let n := Spec.fieldOf ent.w3 24 0
    let kind := Spec.fieldOf ent.w0 63 62
    let dec := ent.w3.getLsbD 48
    let reached : Prop :=
      s.caddySpan b part true ent.w1.toNat (if dec then 64 else n) = true ∧
        s.caddySpan b part false p n = true ∧ ent.w1.toNat % 64 = 0 ∧ p % 64 = 0 ∧ ¬ Spec.readsAlt s .copy ent.w1 n dec
    let sound : Prop := s.xferFault (s.entryXfer c h b (s.mcyc c) ent) = none
    let idle (t : State) : Prop := t.mem = s.mem ∧ t.xfers = s.xfers ∧ t.agenda = s.agenda ∧
      (t.stream c h).caddy.unsealed = k.unsealed ∧ (t.stream c h).caddy.err = k.err ∧
      (t.stream c h).caddy.released.length + 1 = k.released.length
    let faults (t : State) (code sub : Nat) (tv : Word) : Prop := h = .a → (s.stream c .a).run = .due →
      (t.stream c .a).pend = (s.stream c .a).pend ++ [⟨code, sub, tv, s.ccyc⟩]
    let room : Prop := Spec.postsAway s ent → ∃ n, Spec.freeEntry s n
    let releases : Prop := Spec.postsAway s ent ∧ sKind p = 4 ∧ sOff p < 0x10080 ∧ 0x10000 < sOff p + n
    (Spec.postsAway s ent → (¬ ∃ n, Spec.freeEntry s n) → sound →
      ∃ t, exec .staticCopyEntryRun s = .next t ∧ idle t ∧ faults t 0x13 2 ent.w1) ∧
    (kind = 0 → reached → sound) ∧
    (kind = 0 → room → reached → (releases → s.orderOk c 0b01000 = true) →
      ∃ t x, exec .staticCopyEntryRun s = .next t ∧ t.mem = s.mem ∧ t.xfers = s.xfers ++ [x] ∧ x.kind = .copy ∧
        x.core = c ∧ x.half = h ∧ x.src = ent.w1 ∧ x.dst = ent.w2 ∧ x.bytes = n ∧
        x.lat = Spec.fieldOf ((s.bindAt (s.bindOf c)).slot (Spec.fieldOf ent.w0 10 0)) 7 0 ∧ x.issue = s.ccyc ∧
        (∃ n, (⟨s.ccyc + 1, 10, n, .beatRead x.id 0⟩ : AEnt) ∈ t.agenda) ∧
        (t.stream c h).caddy.unsealed = k.unsealed ++ [x.id] ∧
        (t.stream c h).caddy.released.length + 1 = k.released.length) ∧
    (kind = 0 → room → reached → releases → s.orderOk c 0b01000 = false → (s.stream c h).run ∉ [Run.ended, .absent, .stopped] →
      ∃ (u : State) (x : Ctx), exec .staticCopyEntryRun s = .next (u.slip x 6) ∧ x.core = c ∧ x.half = h ∧
        x.addr = (match (s.stream c h).pending with | some m => m.addr | none => (s.stream c h).pc) ∧
        u = { s with cores := u.cores } ∧ (u.core c).regs = (s.core c).regs ∧
        ∃ l, l.length + 1 = k.released.length ∧ u.stream c h = { s.stream c h with caddy := { k with released := l } }) ∧
    (kind = 0 → ¬ reached → ∃ t code tv, exec .staticCopyEntryRun s = .next t ∧ idle t ∧ (code = 0x08 ∨ code = 0x09) ∧
      faults t code 0 tv) ∧
    (2 ≤ kind → sound → (tget OpSlot.init (s.octet (coreOctet c)).slots (Spec.fieldOf ent.w2 5 0)).claim ≠ some c →
      ∃ t, exec .staticCopyEntryRun s = .next t ∧ t.mem = s.mem ∧ t.xfers = s.xfers ∧ t.agenda = s.agenda ∧
        (t.stream c h).caddy.unsealed = k.unsealed ++ [s.seq] ∧
        (k.err = 0 → (t.stream c h).caddy.err = 5 ∧ (t.stream c h).caddy.ebatch = k.next) ∧
        faults t 0x13 8 (BitVec.ofNat 64 e))

/-- 13 R234, R247: a forced refresh makes the beats on its slice late, those under way at once, and those that are read in
its cycles as they are read; nothing else changes. -/
def Sys2Proof.Spec.refreshes : Prop :=
  ∀ (s : State) (stack slice delay : Nat), ∃ t, exec (.forcedRefresh stack slice delay) s = .next t ∧
    t = { s with agenda := t.agenda, dev := { s.dev with refreshes :=
      (s.dev.refreshes.filter fun r => decide (s.ccyc < r.ends)) ++ [⟨stack, slice, s.ccyc + delay, delay⟩] } } ∧
    t.agenda.length = s.agenda.length ∧
    let late (e : AEnt) : Bool :=
      match e.ev with
      | .beatLand id j _ _ _ => ((s.xfers.find? (·.id == id)).map fun x => s.beatSlice x j stack slice).getD false
      | _ => false
    ∀ e ∈ s.agenda, (if late e = true then { e with due := e.due + delay } else e) ∈ t.agenda

/-- 10 R198, R202 to R204, R206; 14 R258, R266, R267; 16 R295; 06 R119, R123; 13 R234, R247; 22 R350: the timed and untimed
beats of a transfer, page installs (whose place in one octet's window is the model's reading, log 29), schedule entries
and forced refreshes. Other readings of the model: where a schedule entry's fault is taken (log 20), the cycle in which an
untimed beat lands (log 92), the half that a completion word in a published buffer goes to (log 105), when a `cslot` takes
its page's format (log 114), and which beats a forced refresh delays (log 117). -/
def Obligations.TransferEvents : Prop :=
  Spec.timedBeats ∧ Spec.untimedBeats ∧ Spec.pageInstalls ∧ Spec.entryRuns ∧ Spec.refreshes

end

namespace Sys2Proof.Spec

open Sys2Proof.Machine

/-! ### Stratus, as 10 R208 to R213 and 18 write it -/

/-- The state in which a group that arrives on the link that `cur` names is accepted (18 R312): one of this device's own
dies comes through the package; one of another device has the expected SEQ, which moves on, and is acknowledged. -/
def accepted (s : State) (g : FlitGroup) (u : State) : Prop :=
  let k := s.link s.cur.link
  if g.src.toNat = s.dev.id then u = s
  else k.up = true ∧ k.rxSeq < 2 ^ 32 ∧ g.seq.toNat = k.rxSeq ∧
    u = { s with dev := { s.dev with links := tset s.dev.links s.cur.link { k with rxSeq := (k.rxSeq + 1) % 2 ^ 32 } },
                 reports := s.reports ++ [.linkControl s.cur.link false g.seq] }

/-- The collective that a group names: its partition, registry entry and the low bits of its epoch (18 R311). -/
def names (k : Coll) (g : FlitGroup) : Prop :=
  k.cmd.part = g.part.toNat ∧ k.cmd.nid = g.nid.toNat ∧ k.cmd.ent.epoch % 256 = g.ep.toNat

/-- The first collective of a state that a group names. -/
def theColl (s : State) (g : FlitGroup) (k : Coll) : Prop :=
  ∃ l r, s.colls = l ++ k :: r ∧ names k g ∧ ∀ q ∈ l, ¬ names q g

/-- The members of a partition's device group by rank: sorted by increasing identifier (18 R313). -/
def byRank (s : State) (part grp : Nat) : List Nat := sortNat (tget [] (s.partAt part).groups grp)

/-- The members of a collective's group by rank. -/
def groupOf (s : State) (k : Coll) : List Nat := byRank s k.cmd.part k.cmd.ent.grp

/-- Whether this device coordinates a collective: it has rank 0 (18 R313). -/
def coordinates (s : State) (k : Coll) : Prop := (groupOf s k).head? = some s.dev.id

/-- The rank of a device. -/
def rank (l : List Nat) (d : Nat) : Nat := (l.filter (· < d)).length

/-- Whether two are one collective. -/
def one (k q : Coll) : Prop := k.cmd.part = q.cmd.part ∧ k.cmd.nid = q.cmd.nid ∧ k.cmd.ent.epoch = q.cmd.ent.epoch

/-- The registry entry after the Stratus words issued so far in this cycle (10 R208). -/
abbrev entry (s : State) (nid : Nat) : RegEnt := s.mirrorNext (s.bindAt (s.bindOf s.cur.core)).part nid

/-- The groups that the table of 18 R311 lets act on a collective. -/
def groups (g : FlitGroup) : List Instr :=
  [.contribution g, .result g, .vote g, .commit g, .abort g, .expired g, .owner g, .fault g, .abortRequest g]

/-- Whether a group belongs to an epoch that this device has still to start (18 R317, log 70): EP is up to 127 ahead of the
mirror's epoch, or it is the mirror's epoch and its start word is on its way to the dies. -/
def tooEarly (s : State) (g : FlitGroup) : Prop :=
  let e := tget RegEnt.init (s.partAt g.part.toNat).registry g.nid.toNat
  let n := (g.ep.toNat + 256 - e.epoch % 256) % 256
  (s.partAt g.part.toNat).present = true ∧ (0 < n ∧ n < 128 ∨
    n = 0 ∧ ∃ a ∈ s.agenda, ∃ k, a.ev = .stratus k ∧ k.part = g.part.toNat ∧ k.nid = g.nid.toNat ∧ k.kind ≠ 3 ∧ k.ent.epoch = e.epoch)

/-- The state in which a group waits for the start of its epoch. -/
def keptEarly (s : State) (kind : Nat) (g : FlitGroup) : State := { s with dev := { s.dev with early := s.dev.early ++ [(kind, g)] } }

/-- Whether the dies of this device work on a collective: its domain is not frozen, its outcome is not there and its part
can still complete (18 R317, R321). -/
def working (s : State) (k : Coll) : Prop := (s.bindAt k.cmd.bind).freeze = none ∧ k.entered = none ∧ k.lost = false

/-- A SEQ after another, modulo 2^32 (18 R312). -/
def later (a : Nat) (b : BitVec 32) : Prop := 0 < (BitVec.ofNat 32 a - b).toNat ∧ (BitVec.ofNat 32 a - b).toNat ≤ 2 ^ 31

/-- The header of a flit group, field by field, and what a receiver reads from it; and which event a group of each KIND is
(18 R311; the fields of link control are those of log 75). -/
def flitHeaders : Prop :=
  (∀ (kind : Nat) (g : FlitGroup), kind < 16 →
    let w0 := headWord0 kind g
    let w1 := headWord1 g
    let f := fieldOf
    f w0 63 32 = g.seq.toNat ∧ f w0 31 28 = kind ∧ f w0 27 25 = g.part.toNat ∧ f w0 24 0 = 0 ∧ f w1 63 32 = g.beat.toNat ∧
      f w1 31 16 = g.src.toNat ∧ f w1 15 8 = g.nid.toNat ∧ f w1 7 0 = g.ep.toNat ∧ headKind w0 = kind ∧
      headGroup w0 w1 g.data = g) ∧
  ∀ g : FlitGroup, (List.range 9).map (fun n => kindEvent n g) =
      [.contribution g, .result g, .vote g, .commit g, .abort g, .expired g, .owner g, .fault g, .abortRequest g] ∧
    (∀ n, 9 ≤ n → n ≤ 13 → kindEvent n g = .flitGroupRejected g.seq .kind) ∧ kindEvent 14 g = .bootService g ∧
    (g.data.getLsbD 32 = false → kindEvent 15 g = .linkAck (g.data.extractLsb' 0 32)) ∧
    (g.data.getLsbD 32 = true → kindEvent 15 g = .linkNak (g.data.extractLsb' 0 32))

/-- A state in which a message of a KIND, a vote too, has reached the coordinator of a collective, which takes it at the
end of the cycle (18 R317). -/
def reached (u : State) (k : Coll) (kind : Nat) : State :=
  { u with colls := u.colls.map fun q => if q.same k then { q with inbox := q.inbox ++ [kind] } else q }

/-- 18 R317: of the messages of one cycle the coordinator takes the first in the order abort request, expired, owner, fault, and
its status is 2, 3, 4 or 5. -/
def firstStatus (inbox : List Nat) : Option Nat :=
  if 8 ∈ inbox then some 2 else if 5 ∈ inbox then some 3 else if 6 ∈ inbox then some 4 else if 7 ∈ inbox then some 5 else none

end Sys2Proof.Spec

section

open Sys2Proof Sys2Proof.Machine

/-! ### Stratus -/

/-- 10 R208 to R213: the Stratus words on their slot. A name or a start changes the mirror one cycle later and is accepted
sixteen cycles later; a start counts the epoch and zeroes its completion word in the next cycle; an abort of a
running entry leaves it FAILED with status 2 (log 11: from c+1), and of another has no effect but its acceptance; `sstat`
reads the mirror as it stands. -/
def Sys2Proof.Spec.stratusWordResults : Prop :=
  ∀ (sf : Bool) (o : BitVec 3) (i : BitVec 1) (l : BitVec 11) (s : State), s.clear sf →
    let w0 := Spec.oxOf s o.toNat
    let w1 := Spec.oxOf s (o.toNat + 1)
    let w2 := Spec.oxOf s (o.toNat + 2)
    let w3 := Spec.oxOf s (o.toNat + 3)
    let f := Spec.fieldOf
    let part := (s.bindAt (s.bindOf s.cur.core)).part
    let u := s.noted sf
    let is (k : StratusCmd) (nid : Nat) : Prop :=
      k.part = part ∧ k.nid = nid ∧ k.core = s.cur.core ∧ k.half = s.cur.half ∧ k.bind = s.bindOf s.cur.core
    (Spec.onSlot s 5 (Spec.slotOf s i l) →
      (Spec.slotLegal o 4 i l → f w1 55 52 = 0 → f w1 51 48 ≤ 3 → f w1 47 44 ≤ 2 →
        (f w1 43 40 = 0 ∨ f w1 43 40 = 3 ∨ f w1 43 40 = 6 ∨ f w1 43 40 = 7) → f w1 39 0 ≠ 0 → f w1 39 0 % 4096 = 0 →
        f w3 63 48 = 0 → f w3 47 16 ≠ 0 → w0.toNat / 2 ^ 48 = 3 * 2 ^ 12 → w2.toNat / 2 ^ 48 = 3 * 2 ^ 12 →
        w0.toNat % 65536 = 0 → w2.toNat % 65536 = 0 → altHit (s.pubs (s.bindOf s.cur.core)) w0.toNat (f w1 39 0) = false →
        altHit (s.pubs (s.bindOf s.cur.core)) w2.toNat (f w1 39 0) = false → (Spec.entry s (f w1 63 56)).st ≠ .running →
        (∃ g, tfind (s.partAt part).groups (f w3 15 0) = some g ∧ s.dev.id ∈ g) →
        ∃ k, is k (f w1 63 56) ∧ k.abort = false ∧ exec (.sname sf o i l) s =
          .next (((u.post (s.ccyc + 1) 8 (.mirror part (f w1 63 56) ⟨.ready, (Spec.entry s (f w1 63 56)).last,
            (Spec.entry s (f w1 63 56)).epoch, w0, w2, f w1 51 48, f w1 47 44, f w1 43 40, f w1 39 0, f w3 47 16,
            f w3 15 0⟩)).post (s.ccyc + 16) 8 (.stratus k)).went s.ctx sf .seq)) ∧
      (∀ verb : Verb, Spec.slotLegal o 2 i l → f w0 63 32 = 0 → f w0 15 10 = 0 → (verb ≠ .sbc → f w0 31 16 = 0) →
        (verb = .sred → f w0 9 8 ≤ 1) → (verb ≠ .sred → f w0 9 8 = 0) →
        (ptrTag w1.toNat = 1 ∨ ptrTag w1.toNat = 2) →
        s.reach s.cur.core (s.bindOf s.cur.core) .load (ptrTag w1.toNat) w1.toNat 8 ≠ none → w1.toNat % 8 = 0 →
        ((Spec.entry s (f w0 7 0)).st = .ready ∨ (Spec.entry s (f w0 7 0)).st = .done ∨ (Spec.entry s (f w0 7 0)).st = .failed) →
        (∃ g, tfind (s.partAt part).groups (Spec.entry s (f w0 7 0)).grp = some g ∧ s.dev.id ∈ g ∧
          (verb = .sbc → f w0 31 16 ∈ g)) →
        ∃ k e, is k (f w0 7 0) ∧ k.abort = false ∧ k.verb = verb ∧ k.kind = f w0 9 8 ∧ k.root = f w0 31 16 ∧ k.cw = w1 ∧
          k.ent = e ∧ e = { Spec.entry s (f w0 7 0) with
            st := .running, epoch := ((Spec.entry s (f w0 7 0)).epoch + 1) % 2 ^ 32 } ∧
          exec (match verb with | .sred => .sred sf o i l | .sgath => .sgath sf o i l | .sbc => .sbc sf o i l) s =
            .next ((((u.post (s.ccyc + 1) 8 (.mirror part (f w0 7 0) e)).post (s.ccyc + 16) 8 (.stratus k)).postTie
              (s.ccyc + 1) 4 (engineTie s.ccyc 0) (.release (Spec.keyOf s s.cur.core w1.toNat) 0)).went s.ctx sf .seq)) ∧
      (Spec.slotLegal o 1 i l → f w0 63 8 = 0 → ∃ k, is k (f w0 7 0) ∧
        ((Spec.entry s (f w0 7 0)).st = .running → k.abort = true ∧ exec (.sabort sf o i l) s =
          .next (((u.post (s.ccyc + 1) 8 (.mirror part (f w0 7 0) { Spec.entry s (f w0 7 0) with st := .failed, last := 2 })).post
            (s.ccyc + 16) 8 (.stratus k)).went s.ctx sf .seq)) ∧
        ((Spec.entry s (f w0 7 0)).st ≠ .running → k.abort = false ∧ exec (.sabort sf o i l) s =
          .next ((u.post (s.ccyc + 16) 8 (.stratus k)).went s.ctx sf .seq)))) ∧
    (∀ (d : BitVec 5) (s' : State), f w0 63 8 = 0 → s.legalE [] [d.toNat] → s.gives sf d.toNat [] s' [] →
      let e := tget RegEnt.init (s.partAt part).registry (f w0 7 0)
      let st := match e.st with | .free => 0 | .ready => 1 | .running => 2 | .done => 3 | .failed => 4
      let v := BitVec.ofNat 64 (st * 2 ^ 60 + e.last * 2 ^ 56 + e.epoch % 2 ^ 32)
      s.takes d.toNat v → exec (.sstat sf d o) s = .next ((s'.put s.ctx 1 d.toNat v).went s.ctx sf .seq))

/-- 10 R208, R209, R211: a change of the mirror in its landing cycle. The partition's entry is the new one; no other entry, no
other partition and nothing else changes. -/
def Sys2Proof.Spec.mirrorLanding : Prop :=
  ∀ (s : State) (e : AEnt) (rest : List AEnt) (p nid : Nat) (ent : RegEnt), s.agenda = e :: rest → e.due ≤ s.ccyc →
    e.ev = .mirror p nid ent →
    ∃ t, exec .resultLanding s = .next t ∧ t = { s with agenda := rest, parts := t.parts } ∧
      (∀ q, q ≠ p → t.partAt q = s.partAt q) ∧ t.partAt p = { s.partAt p with registry := (t.partAt p).registry } ∧
      tget RegEnt.init (t.partAt p).registry nid = ent ∧
      ∀ n, n ≠ nid → tget RegEnt.init (t.partAt p).registry n = tget RegEnt.init (s.partAt p).registry n

/-- 10 R208 to R213; 16 R281: the Stratus words on their slot, and the landings of a mirror entry and of a completion
word, which goes to the half of a published buffer that is visible as it is posted (log 105). -/
def Obligations.StratusWords : Prop :=
  Spec.stratusWordResults ∧ Spec.mirrorLanding ∧ Spec.releaseLanding

/-- 18 R311 to R317, R319 to R321: accepted groups. A contribution or partial is recorded once per contributor, beat and
epoch, if its destination page still takes its collective's writes; a die folds a beat once, when every input of the
fixed expression is there, and passes the partial on; a result beat is written once, into the destination's invisible
half, or waits in the shadow while the domain is frozen; a die that has done its part votes once; votes, expired, owner, fault
and an abort request reach the coordinator, which takes them at the end of the cycle, and no one else; commit and abort
enter an outcome, once. Groups of an epoch that this device has not started wait. The model's choices: the coordinator's count
and a frozen coordinator (log 13), that a destination page which is missing or refused loses the collective as owner and
stops this device's dies (log 14), this device's own dies as inputs and who sends a partial (log 15), the status in an
abort group (log 24), how far ahead an early group may be (log 70). -/
def Obligations.GroupResults : Prop :=
  (∀ (s u : State) (g : FlitGroup) (k : Coll), Spec.accepted s g u → Spec.theColl u g k →
    let own := g.src.toNat = s.dev.id
    let m := Spec.groupOf u k
    let r := Spec.rank m s.dev.id
    let beat := g.beat.toNat
    let put (f : Coll → Coll) : List Coll := u.colls.map fun q => if q.same k then f q else q
    let seen := ∃ a ∈ k.shadow, a.src = g.src.toNat ∧ a.beat = beat
    let arrived (kind : Nat) : Arrival := ⟨kind, g.src.toNat, beat, g.data⟩
    let line (i : Nat) : FHit := u.translate ⟨k.cmd.bind, coreOctet k.cmd.core, k.cmd.part, true, true⟩
      (u.fRoute k.cmd.bind true ((k.cmd.ent.dbase.toNat + 256 * beat + 64 * i) % 2 ^ 48))
    (k.cmd.ent.len / 256 ≤ beat ∨ k.entered ≠ none → exec (.contribution g) s = .next u ∧ exec (.result g) s = .next u) ∧
    (¬ own → seen → exec (.contribution g) s = .next u ∧ exec (.result g) s = .next u) ∧
    (¬ own → (∀ j ∈ k.inputs m r beat, m[j]? ≠ some g.src.toNat) → exec (.contribution g) s = .next u) ∧
    (¬ own → k.receives m r beat = false → exec (.result g) s = .next u) ∧
    (¬ own → ¬ seen → beat < k.cmd.ent.len / 256 → k.entered = none → (∃ j ∈ k.inputs m r beat, m[j]? = some g.src.toNat) →
      let takes (i : Nat) : Prop := ∃ pa key, line i = .hbm pa key ∨ line i = .host pa
      ((∀ i < 4, takes i) →
        (∃ t, exec (.contribution g) s = .next t ∧ ∃ q ∈ t.colls, Spec.one q k ∧ q.shadow = k.shadow ++ [arrived 0]) ∧
        (¬ Spec.working u k → exec (.contribution g) s =
          .next { u with colls := put fun q => { q with shadow := q.shadow ++ [arrived 0] } })) ∧
      ((∃ i < 4, ¬ takes i) → ∃ t, exec (.contribution g) s = .next t ∧ t.mem = u.mem ∧
        ∀ q ∈ t.colls, Spec.one q k → q.lost = true ∧ (Spec.coordinates u k → ∃ q₀ ∈ u.colls, q = { q₀ with lost := true, inbox := q₀.inbox ++ [6] }))) ∧
    (∀ (p : Nat) (x : List Byte × List Nat) (xs : List (List Byte × List Nat)), own → beat < k.cmd.ent.len / 256 →
      Spec.working u k → beat ∉ k.passed → (u.ownBeat k beat).isSome → (k.inputs m r beat).mapM (u.contribution k m beat) =
        some (x :: xs) → (∀ a ∈ k.shadow, ¬ (a.kind = 1 ∧ a.beat = beat)) → k.parent m r beat = some p →
      m.getD p 0 ≠ s.dev.id → k.struck = [] →
      let l := tget 0 u.dev.routes (beat % 8 * 65536 + m.getD p 0)
      (u.link l).up = true →
      ∃ t h, exec (.contribution g) s = .next t ∧ t.mem = u.mem ∧ t.reports = u.reports ++ [.groupSent 0 l h] ∧
        h.part.toNat = k.cmd.part % 8 ∧ h.nid.toNat = k.cmd.nid % 256 ∧ h.ep.toNat = k.cmd.ent.epoch % 256 ∧
        h.beat = BitVec.ofNat 32 beat ∧ h.src = BitVec.ofNat 16 s.dev.id ∧ h.seq = BitVec.ofNat 32 (u.link l).txSeq ∧
        h.data = BitVec.ofNat 2048 (ofBytes (xs.foldl (fun a b => redBeat k.cmd.ent a b.1) x.1)) ∧
        ∃ q ∈ t.colls, Spec.one q k ∧ q.passed = k.passed ++ [beat]) ∧
    (¬ own → ¬ seen → beat < k.cmd.ent.len / 256 → k.entered = none → k.receives m r beat = true →
      (¬ Spec.working u k → exec (.result g) s =
        .next { u with colls := put fun q => { q with shadow := q.shadow ++ [arrived 1] } }) ∧
      (∀ (pa : Nat → Nat) (key : Nat), Spec.working u k → (beat ∈ k.passed ∨ k.inputs m r beat = []) →
        (∀ a ∈ k.shadow, ¬ (a.kind = 1 ∧ a.beat = beat)) → beat ∉ k.written →
        (∀ i < 4, line i = .hbm (pa i) key ∧
          (tget 0 u.unitKeys (pa i / 256) = 0 ∨ tget 0 u.unitKeys (pa i / 256) = key)) →
        (∀ i < 4, ∀ j < 4, i ≠ j → pa i + 64 ≤ pa j ∨ pa j + 64 ≤ pa i) →
        ∃ t, exec (.result g) s = .next t ∧
          (∀ i < 4, ∀ j < 64, t.mem.read (hbmKey (pa i + j)) = g.data.extractLsb' (8 * (64 * i + j)) 8) ∧
          ∃ q ∈ t.colls, Spec.one q k ∧ q.written = k.written ++ [beat])) ∧
    (¬ own → Spec.coordinates u k → exec (.vote g) s = .next (Spec.reached u k 2)) ∧
    (¬ own → ¬ Spec.coordinates u k → exec (.vote g) s = .next u) ∧
    (own → Spec.working u k → (∀ a ∈ k.shadow, a.kind = 1 → a.beat ∈ k.written) →
      let die := s.cur.beat % 8
      (∀ b < k.cmd.ent.len / 256, b % 8 = die →
        (b ∈ k.passed ∨ k.inputs m r b = []) ∧ (b ∈ k.written ∨ k.receives m r b = false)) →
      ((∃ v ∈ k.voted, v.1 = die) → exec (.vote g) s = .next u) ∧
      ((∀ v ∈ k.voted, v.1 ≠ die) → ∃ t, exec (.vote g) s = .next t ∧ t.mem = u.mem ∧
        (∃ q ∈ t.colls, Spec.one q k ∧ q.voted = k.voted ++ [(die, s.ccyc)] ∧
          (Spec.coordinates u k → q.inbox = k.inbox ++ [2])) ∧
        (¬ Spec.coordinates u k → m.headD 0 ≠ s.dev.id → (u.link (tget 0 u.dev.routes (die * 65536 + m.headD 0))).up = true →
          ∃ h, t.reports = u.reports ++ [.groupSent 2 (tget 0 u.dev.routes (die * 65536 + m.headD 0)) h] ∧
            h.beat = 0 ∧ h.data = 0 ∧ h.src = BitVec.ofNat 16 s.dev.id))) ∧
    (k.entered = none → (Spec.coordinates u k → k.decided = some 1) → exec (.commit g) s =
      .next { u with colls := put fun q => { q with decided := some 1, entered := some u.ccyc } }) ∧
    (∀ st, st = g.data.toNat % 256 → k.entered = none → (Spec.coordinates u k → k.decided = some st) → exec (.abort g) s =
      .next { u with colls := put fun q => { q with decided := some st, entered := some u.ccyc } }) ∧
    (k.entered ≠ none → exec (.commit g) s = .next u ∧ exec (.abort g) s = .next u) ∧
    ∀ p ∈ [(Instr.expired g, 5), (.owner g, 6), (.fault g, 7), (.abortRequest g, 8)],
      (Spec.coordinates u k → exec p.1 s = .next (Spec.reached u k p.2)) ∧
      (¬ Spec.coordinates u k → exec p.1 s = .next u)) ∧
  (∀ (s u : State) (g : FlitGroup), Spec.accepted s g u → (∀ q ∈ u.colls, ¬ Spec.names q g) →
    let e := tget RegEnt.init (u.partAt g.part.toNat).registry g.nid.toNat
    (∀ p ∈ [(Instr.contribution g, 0), (.result g, 1), (.vote g, 2), (.abort g, 4)], p.2 ≠ 4 ∨ g.data.toNat % 256 ≠ 1 →
      (Spec.tooEarly u g → exec p.1 s = .next (Spec.keptEarly u p.2 g)) ∧ (¬ Spec.tooEarly u g → exec p.1 s = .next u)) ∧
    exec (.commit g) s = .next u ∧
    ∀ p ∈ [(Instr.expired g, 5, 3), (.owner g, 6, 4), (.fault g, 7, 5), (.abortRequest g, 8, 2)],
      (¬ Spec.tooEarly u g → exec p.1 s = .next u) ∧
      (Spec.tooEarly u g → e.st = .free → exec p.1 s = .next (Spec.keptEarly u p.2.1 g)) ∧
      (Spec.tooEarly u g → e.st ≠ .free → (Spec.byRank u g.part.toNat e.grp).head? = some s.dev.id →
        (∀ q ∈ u.dev.early, ¬ (q.1 = 4 ∧ q.2.part = g.part ∧ q.2.nid = g.nid ∧ q.2.ep = g.ep)) →
        ∃ t, exec p.1 s = .next t ∧ t.mem = u.mem ∧ t.colls = u.colls ∧ t.dev.early = u.dev.early ++
          [(4, { g with seq := 0, beat := 0, src := BitVec.ofNat 16 s.dev.id, data := BitVec.ofNat 2048 p.2.2 })]))

/-- 18 R311, R312; 24 R376: the link that `cur` names. A group with the wrong SEQ is discarded: one below is acknowledged again,
one above is answered with a NAK for the expected one, and a link that is down takes none. An acknowledgement moves on
what is acknowledged, and the replay buffer keeps the last 1,024 groups; a NAK, and two microseconds without an acknowledgement, resend from a SEQ in order, and the sixteenth
resend of one SEQ takes the link down; a group that fails a check is counted, logged and answered with a NAK for its
SEQ, and one of a reserved KIND or with a nonzero zero field is only counted; a link that is down starts again when
it is retrained, with nothing resent, and fails at the third failure in an hour. The header of a group holds its
fields, and its KIND says which event it is. The model's choices: the two microseconds are 3500·N/16 cycles (log 49),
the retraining of a link is an input (log 62), and the fields of link control (log 75). -/
def Obligations.LinkEvents : Prop :=
  (∀ (s : State) (seq : BitVec 32),
    let n := s.cur.link
    let k := s.link n
    let resent (i : Instr) (l : Nat) (n : Nat) : Prop :=
      let k := s.link l
      let again := k.replay.dropWhile fun r => r.1 != n
      let count (x : Nat) : Nat := (again.filter fun r => r.1 == x).length
      (k.up = true → again ≠ [] → ∃ t, exec i s = .next t ∧ t = { s with dev := t.dev, reports := t.reports } ∧
        t.reports = s.reports ++ again.map (fun r => .groupSent r.2.1 l r.2.2) ∧
        (t.link l).replay = k.replay ∧ (t.link l).txSeq = k.txSeq ∧ (t.link l).rxSeq = k.rxSeq ∧ (t.link l).acked = k.acked ∧
        (t.link l).lastAck = (if i = .replayTimeout then s.ccyc else k.lastAck) ∧
        (∀ x, tget 0 (t.link l).resends x = tget 0 k.resends x + count x) ∧
        ((t.link l).up = true ↔ ∀ r ∈ again, tget 0 k.resends r.1 + count r.1 < 16)) ∧
      (k.up = false ∨ again = [] → i ≠ .replayTimeout → exec i s = .next s)
    (∀ g : FlitGroup, g.src.toNat ≠ s.dev.id → ∀ i ∈ Spec.groups g,
      (k.up = false → exec i s = .next s) ∧
      (k.up = true → k.rxSeq < 2 ^ 32 →
        (2 ^ 31 ≤ (g.seq - BitVec.ofNat 32 k.rxSeq).toNat → exec i s = .next { s with reports := s.reports ++ [.linkControl n false g.seq] }) ∧
        (Spec.later g.seq.toNat (BitVec.ofNat 32 k.rxSeq) → (g.seq - BitVec.ofNat 32 k.rxSeq).toNat ≠ 2 ^ 31 →
          exec i s = .next { s with reports := s.reports ++ [.linkControl n true (BitVec.ofNat 32 k.rxSeq)] }))) ∧
    (s.dev.boot.serving = none → k.acked < 2 ^ 32 → k.txSeq < 2 ^ 32 →
      ∃ t, exec (.linkAck seq) s = .next t ∧ t = { s with dev := t.dev } ∧
        t.link n = { k with lastAck := s.ccyc, acked := (t.link n).acked, resends := (t.link n).resends } ∧
        (∀ r, r ∈ (t.link n).resends ↔ r ∈ k.resends ∧ Spec.later r.1 seq) ∧
        ((Spec.later k.acked seq ∨ ¬ Spec.later k.txSeq seq) → (t.link n).acked = k.acked) ∧
        (¬ Spec.later k.acked seq → Spec.later k.txSeq seq → (t.link n).acked = (seq.toNat + 1) % 2 ^ 32) ∧
        ∀ l, l ≠ n → t.link l = s.link l) ∧
    resent (.linkNak seq) n seq.toNat ∧
    (∀ l q, s.dev.links.find? (fun l => l.2.up && l.2.acked != l.2.txSeq && l.2.lastAck + 3500 * s.dev.clock.n / 16 ≤ s.ccyc) =
      some (l, q) → q = s.link l → (∃ r ∈ q.replay, r.1 = q.acked) → resent .replayTimeout l q.acked) ∧
    (k.up = false → ∀ why, exec (.flitGroupRejected seq why) s = .next s) ∧
    (k.up = true →
      exec (.flitGroupRejected seq .seqAbove) s =
        .next { s with reports := s.reports ++ [.linkControl n true (BitVec.ofNat 32 k.rxSeq)] } ∧
      (∀ why, why = .kind ∨ why = .zeroField → exec (.flitGroupRejected seq why) s =
        .next { s with dev := { s.dev with links := tset s.dev.links n { k with errors := k.errors + 1 } } }) ∧
      ∀ why, why = .fec ∨ why = .crc ∨ why = .gcm → exec (.flitGroupRejected seq why) s =
        .next { s with
          dev := { s.dev with links := tset s.dev.links n { k with errors := k.errors + 1 }
                              log := s.dev.log ++ [⟨.link, false, n, s.ccyc⟩] }
          reports := s.reports ++ [.linkControl n true seq] }) ∧
    (k.up = false → k.failed = false →
      (∃ t, exec (.linkRetrain true) s = .next t ∧ t = { s with dev := t.dev } ∧ t.link n =
        { k with up := true, txSeq := 0, rxSeq := 0, replay := [], acked := 0, resends := [], lastAck := s.ccyc }) ∧
      ∃ t, exec (.linkRetrain false) s = .next t ∧ t = { s with dev := t.dev } ∧ (t.link n).up = false ∧
        ((t.link n).failed = true ↔
          2 ≤ (k.retrains.filter fun c => s.ccyc < c + 3600 * 1750000000 * s.dev.clock.n / 16).length))) ∧
  Spec.flitHeaders

/-- 10 R208, R211, R212; 18 R317 to R319, R321, R322: a start is accepted with its deadline; a deadline passes, or the host
lets it pass or extends it once; each die that voted reports a fabric fault when no decision comes; and an outcome enters
the mirror in the cycle before a chip mark, and the changes that are on their way to it, flips the destination on
DONE, and releases its completion word: LAST is its status, and the entry's state follows it where it is still in its epoch
(log 12). An abort that came before the start is taken up with it. At a cycle's end the coordinator takes what has reached
it (eight votes of each device: log 13): the first abort message in the rule's order decides an undecided epoch, else the
votes are counted, and the last of all eight dies of all devices commits; a decision stands. A coordinator whose domain is
frozen holds what reaches it, sends nothing, and takes it cycle by cycle when it goes on (log 13). The completion word goes
to the half of a published buffer that is visible then (log 105). -/
def Obligations.CollectiveEvents : Prop :=
  (∀ (s : State) (e : AEnt) (rest : List AEnt) (k : StratusCmd), s.agenda = e :: rest → e.due ≤ s.ccyc →
    e.ev = .stratus k →
    (k.abort = true → (∀ q ∈ s.colls, ¬ (q.cmd.part = k.part ∧ q.cmd.nid = k.nid ∧ q.cmd.ent.epoch = k.ent.epoch)) →
      exec .stratusWordAccept s = .next { s with agenda := rest }) ∧
    (∀ (l r : List Coll) (q : Coll), k.abort = true → s.colls = l ++ q :: r → q.cmd.part = k.part → q.cmd.nid = k.nid →
      q.cmd.ent.epoch = k.ent.epoch → (∀ q' ∈ l, ¬ Spec.one q' q) → Spec.coordinates s q →
      exec .stratusWordAccept s = .next (Spec.reached { s with agenda := rest } q 8)) ∧
    (k.abort = false → k.kind = 3 → exec .stratusWordAccept s = .next { s with agenda := rest }) ∧
    (k.abort = false → k.kind < 3 →
      (∀ q ∈ s.dev.early, ¬ (q.2.part.toNat = k.part ∧ q.2.nid.toNat = k.nid ∧ q.2.ep.toNat = k.ent.epoch % 256)) →
      ∃ c, exec .stratusWordAccept s = .next { s with agenda := rest, colls := s.colls ++ [c] } ∧ c.cmd = k ∧
        c.accept = s.ccyc ∧ c.deadline = s.ccyc + k.ent.dln * 1024 ∧ c.shadow = [] ∧ c.passed = [] ∧ c.written = [] ∧
        c.voted = [] ∧ c.votes = 0 ∧ c.inbox = [] ∧ c.held = [] ∧ c.assisted = (s.bindAt k.bind).mode 4 ∧ c.decided = none ∧ c.entered = none ∧ c.lost = false) ∧
    (∀ a : FlitGroup, k.abort = false → k.kind < 3 → (∀ q ∈ s.colls, ¬ (q.cmd.part = k.part ∧ q.cmd.nid = k.nid ∧ q.cmd.ent.epoch = k.ent.epoch)) →
      s.dev.early = [(4, a)] → a.part.toNat = k.part → a.nid.toNat = k.nid → a.ep.toNat = k.ent.epoch % 256 →
      ∃ t c, exec .stratusWordAccept s = .next t ∧ t = { s with agenda := rest, colls := s.colls ++ [c], dev := { s.dev with early := [] } } ∧
        c.cmd = k ∧ c.decided = some (a.data.toNat % 256) ∧ c.entered = some s.ccyc)) ∧
  (∀ (s : State) (k : Coll) (l r : List Coll), s.colls = l ++ k :: r →
    let put (f : Coll → Coll) : List Coll := s.colls.map fun q => if q.same k then f q else q
    ((∀ q ∈ l, ¬ (q.entered = none ∧ q.expired = false ∧ q.deadline ≤ s.ccyc)) → k.entered = none → k.expired = false →
      k.deadline ≤ s.ccyc →
      (k.assisted = true → exec .stratusDeadline s =
        .next { s with colls := put fun q => { q with expired := true }, reports := s.reports ++ [.deadline k.cmd.part k.cmd.nid] }) ∧
      (k.assisted = false → Spec.coordinates s k → exec .stratusDeadline s =
        .next { s with colls := put fun q => { q with expired := true, inbox := q.inbox ++ [5] } })) ∧
    (∀ here : Coll → Prop,
      (∀ q, here q ↔ (q.cmd.part = s.cur.part ∧ q.cmd.nid = s.cur.nid ∧ q.expired = true ∧ q.entered = none)) → (∀ q ∈ l, ¬ here q) → here k → k.assisted = true →
      (k.extended = false → exec (.hostDeadlineExtend true) s = .next { s with colls := put fun q =>
        { q with expired := false, extended := true, deadline := q.deadline + q.cmd.ent.dln * 1024 } }) ∧
      (Spec.coordinates s k → exec (.hostDeadlineExtend false) s = .next (Spec.reached s k 5))) ∧
    (∀ late : Coll → Nat × Nat → Prop,
      (∀ q v, late q v ↔ (v ∈ q.voted ∧ q.entered = none ∧ v.1 ∉ q.reported ∧ v.2 + 2 * q.cmd.ent.dln * 1024 ≤ s.ccyc)) →
      (∀ q ∈ l, ∀ v, ¬ late q v) → (∃ v, late k v) → ∃ v, late k v ∧ exec .decisionTimeout s = .next { s with
        colls := put fun q => { q with reported := q.reported ++ [v.1] }
        reports := s.reports ++ [.fabricFault k.cmd.part k.cmd.nid v.1] }) ∧
    ((s.ccyc + 1) % 2 ^ Config.cmlog = 0 → (∀ q ∈ l, ¬ (q.entered ≠ none ∧ (s.bindAt q.cmd.bind).freeze = none)) →
      k.entered ≠ none → (s.bindAt k.cmd.bind).freeze = none →
      let st := k.decided.getD 5
      let e := tget RegEnt.init (s.partAt k.cmd.part).registry k.cmd.nid
      let p := k.cmd.cw.toNat
      ∃ t, exec .collectiveOutcome s = .next t ∧ t.cores = s.cores ∧ t.mem = s.mem ∧
        t.colls = s.colls.filter (fun q => !q.same k) ∧
        tget RegEnt.init (t.partAt k.cmd.part).registry k.cmd.nid =
          { e with last := st, st := if e.epoch = k.cmd.ent.epoch ∧ (e.st = .running ∨ e.st = .failed) then
            (if st = 1 then .done else .failed) else e.st } ∧
        (st ≠ 1 → t.binds = s.binds) ∧
        (∀ (i : Nat) (q : Pub), st = 1 → (s.pubs k.cmd.bind)[i]? = some q → q.base = k.cmd.ent.dbase →
          (∀ j < i, ∀ q' : Pub, (s.pubs k.cmd.bind)[j]? = some q' → q'.base ≠ q.base) →
          (t.pubs k.cmd.bind)[i]? = some { q with map := !q.map }) ∧
        (s.partOfCore k.cmd.core = some k.cmd.part → st < 16 → (∀ a ∈ s.agenda, ∀ x, a.ev ≠ .mirror k.cmd.part k.cmd.nid x) →
          t.agenda = Spec.posted s s.ccyc 4 (engineTie s.ccyc 0) (.release (ptrKey ((pubRoute (t.pubs k.cmd.bind) false p).getD p))
            (BitVec.ofNat 64 (st * 2 ^ 60 + k.cmd.ent.epoch % 2 ^ 32) ^^^ k.crossed))) ∧
        (∀ (l r : List AEnt) (a : AEnt) (x : RegEnt), s.partOfCore k.cmd.core ≠ some k.cmd.part → s.agenda = l ++ a :: r →
          a.ev = .mirror k.cmd.part k.cmd.nid x → (∀ a ∈ l ++ r, ∀ x, a.ev ≠ .mirror k.cmd.part k.cmd.nid x) →
          t.agenda = l ++ { a with ev := .mirror k.cmd.part k.cmd.nid { x with last := st, st :=
            if x.epoch = k.cmd.ent.epoch ∧ (x.st = .running ∨ x.st = .failed) then (if st = 1 then .done else .failed) else x.st } } :: r) ∧
        (s.partOfCore k.cmd.core ≠ some k.cmd.part → (∀ a ∈ s.agenda, ∀ x, a.ev ≠ .mirror k.cmd.part k.cmd.nid x) →
          t.agenda = s.agenda))) ∧
  ∀ (s : State) (k : Coll) (l r : List Coll), s.colls = l ++ k :: r → (∀ q ∈ l ++ r, q.inbox = [] ∧ q.held = [] ∧ ¬ Spec.one q k) →
    (∀ q ∈ s.colls, let b := s.bindAt q.cmd.bind; b.fault = none ∧ b.ended = false ∧ b.ending = none) →
    let frozen := (s.bindAt k.cmd.bind).freeze ≠ none
    let t := s.closeColls
    let took (n : Nat) (st : Option Nat) : Prop := t.mem = s.mem ∧ t.cores = s.cores ∧ t.agenda = s.agenda ∧
      t.colls = l ++ { k with votes := n, inbox := [], held := [], decided := st } :: r
    (frozen → k.inbox ≠ [] → t = { s with colls := l ++ { k with held := k.held ++ [k.inbox], inbox := [] } :: r }) ∧
    (¬ frozen → k.held = [] → k.inbox ≠ [] →
      let n := k.votes + k.inbox.count 2
      (∀ st, k.decided = some st → took n (some st)) ∧
      (∀ st, k.decided = none → Spec.firstStatus k.inbox = some st → took n (some st)) ∧
      (k.decided = none → Spec.firstStatus k.inbox = none →
        took n (if n = 8 * (Spec.groupOf s k).length then some 1 else none))) ∧
    (∀ m st, ¬ frozen → k.held = [m] → k.decided = none → Spec.firstStatus m = some st →
      took (k.votes + m.count 2 + k.inbox.count 2) (some st))

end

namespace Sys2Proof.Spec

open Sys2Proof.Machine

/-! ### The Steep field, as 10 R214 to R218 and 17 write it -/

/-- A word of the X-stream that leaves its core's tile at `tile` and its sweep stream at `sw`; nothing else of the core, and
no other core, changes. -/
def tiled (s t : State) (sf : Bool) (tile : Tile) (sw : Stream) : Prop :=
  t = { s with cores := t.cores, agenda := t.agenda, seq := t.seq } ∧ (∀ c, c ≠ s.cur.core → t.core c = s.core c) ∧
    t.my = { s.my with tile := tile, sw := sw, sx := t.my.sx } ∧ ∃ l, t.me = { s.me.advance s.ctx sf .seq with issued := l }

/-- Bytes of a tile (10 R216). -/
def tileSize (t : Tile) : Nat :=
  if t.sf = 0 then (t.th * t.tw + 7) / 8 else if t.sf = 1 then t.th * t.tw else 2 * t.th * t.tw

/-- `n` bytes at an L-space pointer lie in the near column of the issuing core, or (`far`) in its far one, and not in a
published buffer's second half (14 R253, R268). -/
def inColumn (s : State) (far : Bool) (p : Word) (n : Nat) : Prop :=
  p.toNat / 2 ^ 32 = 2 ^ 29 ∧ lOff p.toNat + n ≤ 0x100000 ∧ altHit (s.pubs (s.bindOf s.cur.core)) p.toNat n = false ∧
    (lCol p.toNat = s.cur.core ∨ (far = true ∧ lCol p.toNat + 1024 = s.cur.core ∧
      s.colPart (lCol p.toNat) = s.partOfCore s.cur.core))

/-- A published buffer of the issuing core's domain by its base. -/
def pubOf (s : State) (p : Word) (j : Nat) (q : Pub) : Prop :=
  (s.pubs (s.bindOf s.cur.core))[j]? = some q ∧ q.base = p ∧
    ∀ i < j, ∀ q' : Pub, (s.pubs (s.bindOf s.cur.core))[i]? = some q' → q'.base ≠ p

/-- The tile that the five descriptor registers of `fdecl` declare (10 R214). -/
def declared (w0 w1 w2 w3 w4 : Word) : Tile :=
  { st := .declared, tbase := w0, th := fieldOf w1 63 48, tw := fieldOf w1 47 32, lh := fieldOf w1 31 16, lw := fieldOf w1 15 0,
    fkey := fieldOf w2 63 56, ncat := fieldOf w2 55 48, wrap := w2.getLsbD 40, nb := fieldOf w2 39 36, sf := fieldOf w2 35 32,
    y0 := fieldOf w2 31 16, x0 := fieldOf w2 15 0, cbase := w3, sw := w4, colours := 0, rate := 0, rateNext := none,
    routine := .none, sweep := 0, snaps := 0, flipPend := false, snapPend := none, snapCopy := false, site := 0,
    updating := false, draws := 0, lastUpdate := 0, halo := [], stopAt := 0 }

/-- The status word (10 R218). -/
def tileWord (t : Tile) : Nat :=
  (match t.st with
    | .undeclared => 0 | .declared => 1 | .bound => 2 | .running => 3 | .stopping => 4 | .stopped => 5 | .faulted => 6) * 2 ^ 60 +
    t.snaps % 256 * 2 ^ 48 + t.sweep % 2 ^ 48

/-- The byte offset of a site in its tile (10 R214). -/
def siteAt (t : Tile) (i : Nat) : Nat := if t.sf = 0 then i / 8 else if t.sf = 1 then i else 2 * i

/-- The value of a site among some bytes, at the key of its first byte: a bit, a byte or two (10 R214). -/
def siteIn (t : Tile) (i key : Nat) (f : Nat → Byte) : Nat :=
  if t.sf = 0 then (f key).toNat / 2 ^ (i % 8) % 2 else if t.sf = 1 then (f key).toNat
  else (f key).toNat + 256 * (f (key + 1)).toNat

/-- Some bytes after a site takes a value: of a byte that holds eight sites one bit changes, and of every other byte
none. -/
def withSite (t : Tile) (i key v : Nat) (f : Nat → Byte) (a : Nat) : Byte :=
  if t.sf = 0 then (if a = key then setBit (f a) (i % 8) (v % 2 == 1) else f a)
  else if t.sf = 1 then (if a = key then BitVec.ofNat 8 v else f a)
  else if a = key then BitVec.ofNat 8 v else if a = key + 1 then BitVec.ofNat 8 (v / 256) else f a

/-- Memory's bytes after the update of a site lands (10 R217; 17 R304, R307): the tile's site, in the visible half of a
published buffer, takes the value; while a snapshot copies, its previous value goes into the invisible half of the
snapshot's buffer first. -/
def updated (s : State) (c i v : Nat) (f : Nat → Byte) : Nat → Byte :=
  let t := (s.core c).tile
  let pubs := s.pubs (s.bindOf c)
  let p := t.tbase.toNat + siteAt t i
  let key := ptrKey ((pubRoute pubs false p).getD p)
  withSite t i key v (match t.snapPend with
    | some r =>
      let q := r.base.toNat + siteAt t i
      if r.copying = true then withSite t i (ptrKey ((pubRoute pubs true q).getD q)) (siteIn t i key f) f else f
    | none => f)

/-- The position of neighbour `j` (10 R217): west, east, north, south, and the four diagonals. -/
def beside (t : Tile) (i j : Nat) : Option (Nat × Nat) :=
  let d : Int × Int := [((-1 : Int), (0 : Int)), (1, 0), (0, -1), (0, 1), (-1, -1), (1, -1), (-1, 1), (1, 1)].getD j (0, 0)
  let x : Int := (t.x0 + i % t.tw : Nat) + d.1
  let y : Int := (t.y0 + i / t.tw : Nat) + d.2
  if t.wrap then some ((x % t.lw).toNat, (y % t.lh).toNat)
  else if 0 ≤ x ∧ x < t.lw ∧ 0 ≤ y ∧ y < t.lh then some (x.toNat, y.toNat) else none

end Sys2Proof.Spec

section

open Sys2Proof Sys2Proof.Machine

/-! ### The Steep field -/

/-- 10 R214 to R216; 17 R300 to R302, R307: the set-up and command words of the X-stream in the states in which they act, and
the states in which `fgo` and `fstop` fault. An `fstop` by any core stops every running tile of the field. The status
word is written in the cycle after a change of state. The model's choices: what `fbind` of 0, an `fdecl` and an `fpub` of a
running field do beyond the table (log 32), TVEC of the sweep stream (log 65). -/
def Sys2Proof.Spec.steepWordResults : Prop :=
  ∀ (sf : Bool) (o : BitVec 3) (i : BitVec 1) (l : BitVec 11) (s : State), s.clear sf → s.cur.half = .x →
    let w0 := Spec.oxOf s o.toNat
    let f := Spec.fieldOf
    let c := s.cur.core
    let b := s.bindOf c
    let t := s.my.tile
    let sweeping := t.st = .running ∨ t.st = .stopping
    let told := Spec.posted s (s.ccyc + 1) 4 (engineTie s.ccyc c) (.tileStatus c)
    let stop (w : Instr) : Prop := exec w s = .next ((s.noted sf).raise s.ctx 0x13 2 0 s.me.pc s.me.scnt)
    let all (v : State) (old new : TileSt) : Prop :=
      v = { s with cores := v.cores, agenda := v.agenda, seq := v.seq } ∧ (∀ e ∈ s.agenda, e ∈ v.agenda) ∧
      ∀ d, (v.core d).regs = (s.core d).regs ∧
        ((d ∈ s.fieldCores b t.fkey ∧ (s.core d).tile.st = old) → (v.core d).tile = { (s.core d).tile with st := new } ∧
          (⟨s.ccyc + 1, 4, engineTie s.ccyc d, .tileStatus d⟩ : AEnt) ∈ v.agenda) ∧
        (¬ (d ∈ s.fieldCores b t.fkey ∧ (s.core d).tile.st = old) → (v.core d).tile = (s.core d).tile)
    (∀ d, d = Spec.declared w0 (Spec.oxOf s (o.toNat + 1)) (Spec.oxOf s (o.toNat + 2)) (Spec.oxOf s (o.toNat + 3))
        (Spec.oxOf s (o.toNat + 4)) →
      f (Spec.oxOf s (o.toNat + 2)) 47 41 = 0 → d.nb ≤ 2 → d.sf ≤ 2 → (d.sf = 1 ↔ d.ncat ≠ 0) → 1 ≤ d.th → 1 ≤ d.tw →
      d.x0 + d.tw ≤ d.lw → d.y0 + d.th ≤ d.lh → (d.nb = 2 → d.lh = 1 ∧ d.wrap = true) →
      Spec.inColumn s false d.tbase (Spec.tileSize d) → Spec.inColumn s true d.cbase (32 * (d.th * d.tw)) →
      d.tbase.toNat % 32 = 0 → d.cbase.toNat % 32 = 0 → d.sw.toNat / 2 ^ 40 = 2 ^ 20 → sCore d.sw.toNat = c →
      sKind d.sw.toNat = 0 → sOff d.sw.toNat + 8 ≤ 0x40000 → d.sw.toNat % 8 = 0 → altHit (s.pubs b) d.sw.toNat 8 = false →
      ¬ sweeping → (s.fieldOf b d.fkey).isSome = true →
      (∀ k ∈ s.fieldCores b d.fkey, k ≠ c → d.fits (s.core k).tile = true) → d.foreign.length ≤ 2048 →
      ∃ v, exec (.fdecl sf o) s = .next v ∧ Spec.tiled s v sf { d with snapCopy := t.snapCopy } Stream.init ∧
        v.agenda = told) ∧
    (∀ n, n = f w0 2 0 → f w0 63 3 = 0 → t.st = .declared → n = (if t.nb = 1 then 4 else 2) →
      (t.wrap = true → t.lw % 2 = 0 ∧ (t.nb = 2 ∨ t.lh % 2 = 0)) →
      ∃ v, exec (.fcol sf o) s = .next v ∧ Spec.tiled s v sf { t with colours := n } s.my.sw ∧ v.agenda = s.agenda) ∧
    (∀ a, a = f w0 31 0 → f w0 63 32 = 0 → (t.st = .bound ∨ t.st = .stopped ∨ (t.st = .declared ∧ t.colours ≠ 0)) →
      (a ≠ 0 → (if a = 0xFFFFFFFF then t.sf = 0 else a < (s.bindAt b).klen) → s.my.sx.rcnt ≤ 12 → s.my.ql2 = [] →
        ∃ v, exec (.fbind sf o) s = .next v ∧ v.agenda = (if t.st = .declared then told else s.agenda) ∧
          Spec.tiled s v sf { t with
              routine := if a = 0xFFFFFFFF then .builtin else .code (BitVec.ofNat 32 a), updating := false, draws := 0,
              st := if t.st = .declared then .bound else t.st }
            (if a = 0xFFFFFFFF then Stream.init
             else { Stream.init with run := .due, pc := BitVec.ofNat 32 a, rm := s.my.sx.rm, ovf := s.my.sx.ovf,
                                      traps := { TrapRegs.init with dbg := s.my.sx.traps.dbg } })) ∧
      (a = 0 → t.st ≠ .declared → ∃ v, exec (.fbind sf o) s = .next v ∧ v.agenda = told ∧
        Spec.tiled s v sf { t with routine := .none, updating := false, draws := 0, st := .declared } Stream.init)) ∧
    (∀ n q, n = f w0 4 0 → f w0 63 5 = 0 → n ≤ 16 → (t.st = .bound ∨ t.st = .stopped) → s.fieldOf b t.fkey = some q →
      q.rnum = n → ∃ v, exec (.frate sf o) s = .next v ∧ Spec.tiled s v sf { t with rateNext := some n } s.my.sw ∧
        v.agenda = s.agenda) ∧
    ((t.st = .running → exec (.fgo sf) s = .next ((s.noted sf).went s.ctx sf .seq)) ∧
      (t.st = .stopping → ∃ v, exec (.fgo sf) s = .next v ∧ all v .stopping .running) ∧
      (∀ q, (t.st = .bound ∨ t.st = .stopped) → s.fieldOf b t.fkey = some q →
        (q.start ≠ none → exec (.fgo sf) s = .next ((s.noted sf).went s.ctx sf .seq)) ∧
        (q.start = none → t.rateNext.getD t.rate = 0 → stop (.fgo sf)) ∧
        (q.start = none → t.rateNext.getD t.rate ≠ 0 →
          ∃ v, exec (.fgo sf) s = .next v ∧ v.cores = ((s.noted sf).went s.ctx sf .seq).cores ∧ v.agenda = s.agenda ∧
            v.fieldOf b t.fkey = some { q with startReq := true })) ∧
      (t.st = .undeclared ∨ t.st = .declared ∨ t.st = .faulted → stop (.fgo sf))) ∧
    ((t.st = .undeclared ∨ t.st = .declared → stop (.fstop sf)) ∧
      (t.st ≠ .undeclared → t.st ≠ .declared → (∃ v, exec (.fstop sf) s = .next v ∧ all v .running .stopping) ∧
        ((∀ d ∈ s.fieldCores b t.fkey, (s.core d).tile.st ≠ .running) →
          exec (.fstop sf) s = .next ((s.noted sf).went s.ctx sf .seq)))) ∧
    (∀ j q, t.st ≠ .undeclared → t.st ≠ .faulted → Spec.pubOf s t.cbase j q →
      (s.orderOk c 0b01100 = false → exec (.fpub sf) s = .next ((s.noted sf).slip s.ctx 6)) ∧
      (s.orderOk c 0b01100 = true →
        (sweeping → ∃ v, exec (.fpub sf) s = .next v ∧ Spec.tiled s v sf { t with flipPend := true } s.my.sw ∧
          v.agenda = s.agenda) ∧
        (¬ sweeping → ∃ v, exec (.fpub sf) s = .next v ∧ Spec.tiled s v sf t s.my.sw ∧
          v.agenda = Spec.posted s (s.ccyc + 1) 0 s.seq (.flip b j)))) ∧
    (∀ j q, Spec.slotLegal o 1 i l → Spec.onSlot s 1 (Spec.slotOf s i l) → Spec.inColumn s true w0 1 → t.st ≠ .undeclared →
      t.st ≠ .faulted → t.snapPend = none → t.snapCopy = false → Spec.pubOf s w0 j q → Spec.tileSize t ≤ q.len →
      (sweeping → ∃ v, exec (.fsnap sf o i l) s = .next v ∧ v.agenda = s.agenda ∧
        Spec.tiled s v sf { t with snapPend := some ⟨w0, false⟩ } s.my.sw) ∧
      (¬ sweeping → ∃ v x, exec (.fsnap sf o i l) s = .next v ∧ v.mem = s.mem ∧ v.xfers = s.xfers ++ [x] ∧ x.src = t.tbase ∧
        x.dst = w0 ∧ x.bytes = Spec.tileSize t ∧ x.core = c ∧ x.issue = s.ccyc ∧ v.my.tile = { t with snapCopy := true } ∧
        v.me.caddy.unsealed = s.me.caddy.unsealed ∧ ∃ k, (⟨s.ccyc + 1, 10, k, .beatRead x.id 0⟩ : AEnt) ∈ v.agenda))

/-- 10 R207, R214 to R216, R218; 14 R269; 17 R300 to R302, R307: the words of the X-stream, and the landing of a flip that
`fpub` posts. Readings of the model: what the words on a running field do beyond the table (log 32), TVEC of the sweep
stream (log 65), that `fdecl` in DECLARED posts the status word (log 100) and keeps the note of an `fsnap` copy under way
(log 88), and `fgo` on a running field with RNUM 0 (log 115). -/
def Obligations.SteepWords : Prop :=
  Spec.steepWordResults ∧ Spec.flips

/-- 10 R217; 17 R304, R306, R307: the updates of sites in their landing cycle, one of `fset` or up to four of the built-in
rule, in their order. The tile's sites take their values, a running snapshot the previous ones, and every other byte,
every core and every queue is as before. Which half a tile in a published buffer is written in is the model's (log 34). -/
def Sys2Proof.Spec.siteLandings : Prop :=
  ∀ (s : State) (e : AEnt) (rest : List AEnt) (c : Nat) (l : List (Nat × Nat)), s.agenda = e :: rest → e.due ≤ s.ccyc →
    (e.ev = .sitePut c l ∨ ∃ i v, e.ev = .fset c i v ∧ l = [(i, v.toNat)]) →
    ∃ t, exec .resultLanding s = .next t ∧
      t = { s with agenda := rest, mem := t.mem, ecc := t.ecc, dev := { s.dev with log := t.dev.log } } ∧
      ∀ a, t.mem.read a = l.foldl (fun f q => Spec.updated s c q.1 q.2 f) s.mem.read a

/-- 10 R217; 17 R300, R304, R305: the routine words in the sweep stream, for the site in update. `fget` pushes at c+3 the
edge bit, a coupling and a neighbour's value, or the bias and the site's own; `fnext` pushes a draw of the generator at
c+4; `fset` writes the site two cycles later and ends the update. What they fault on faults the routine. The
model's choices: the sites of a tile within a published buffer (log 34), a full `ql2` before a fifth `fnext` (log 36), the
sweep stream's own registers (log 38). -/
def Sys2Proof.Spec.routineWordResults : Prop :=
  ∀ (sf : Bool) (s : State) (i : Nat) (pl : Place3), s.clear sf → s.cur.half = .w → s.my.routineBound = true →
    s.siteNow s.cur.core = some (i, pl) →
    let c := s.cur.core
    let b := s.bindOf c
    let t := s.my.tile
    let u := s.noted sf
    let key (p : Nat) : Nat := ptrKey ((pubRoute (s.pubs b) false p).getD p)
    let at_ (k : Nat) : Nat := t.tbase.toNat + if t.sf = 0 then k / 8 else if t.sf = 1 then k else 2 * k
    let width := if t.sf = 2 then 2 else 1
    let value (k : Nat) : Nat := if t.sf = 0 then s.mem.readLe (key (at_ k)) 1 / 2 ^ (k % 8) % 2
      else if t.sf = 1 then s.mem.readLe (key (at_ k)) 1 % 256 else s.mem.readLe (key (at_ k)) 2 % 65536
    let good (k : Nat) : Prop := poisoned s.ecc (key (at_ k)) width = false
    let coup (j : Nat) : Nat := t.cbase.toNat + 32 * i + 2 * j
    let stops (w : Instr) (sub : Nat) : Prop := exec w s = .next (u.sweepFault c sub (BitVec.ofNat 64 s.me.pc.toNat))
    let pushed (v : State) (lat val : Nat) : Prop :=
      v.my.ql2 = s.my.ql2 ++ [⟨BitVec.ofNat 64 val, s.ccyc, s.ccyc + lat, false, .w, s.seq⟩] ∧ Spec.kept s v ∧
      (∀ d, d ≠ c → v.core d = s.core d) ∧ Spec.queuesBut s v 2 ∧ v.my.regs = s.my.regs ∧ v.agenda = s.agenda ∧
      ∃ l, v.me = { s.me.advance s.ctx sf .seq with issued := l }
    t.sf ≤ 2 →
    (∀ j : BitVec 4,
      ((8 < j.toNat ∨ (j.toNat < 8 ∧ (if t.nb = 0 then 4 else if t.nb = 1 then 8 else 2) ≤ j.toNat)) → stops (.fget sf j) 0x02) ∧
      ((j.toNat = 8 ∨ j.toNat < (if t.nb = 0 then 4 else if t.nb = 1 then 8 else 2)) →
        (8 ≤ s.my.occupancy 2 s.ccyc → stops (.fget sf j) 0x0A) ∧
        (s.my.occupancy 2 s.ccyc < 8 → poisoned s.ecc (key (coup j.toNat)) 2 = false →
          let q := s.mem.readLe (key (coup j.toNat)) 2
          (j.toNat = 8 → good i → ∃ v, exec (.fget sf j) s = .next v ∧ v.my.tile = t ∧ pushed v 3 (q * 2 ^ 32 + value i)) ∧
          (j.toNat < 8 → Spec.beside t i j.toNat = none →
            ∃ v, exec (.fget sf j) s = .next v ∧ v.my.tile = t ∧ pushed v 3 (2 ^ 63 + q * 2 ^ 32)) ∧
          (∀ x y, j.toNat < 8 → Spec.beside t i j.toNat = some (x, y) →
            (t.x0 ≤ x → x < t.x0 + t.tw → t.y0 ≤ y → y < t.y0 + t.th → good ((y - t.y0) * t.tw + (x - t.x0)) →
              ∃ v, exec (.fget sf j) s = .next v ∧ v.my.tile = t ∧
                pushed v 3 (q * 2 ^ 32 + value ((y - t.y0) * t.tw + (x - t.x0)))) ∧
            (∀ n, ¬ (t.x0 ≤ x ∧ x < t.x0 + t.tw ∧ t.y0 ≤ y ∧ y < t.y0 + t.th) → tfind t.halo (y * t.lw + x) = some n →
              ∃ v, exec (.fget sf j) s = .next v ∧ v.my.tile = t ∧ pushed v 3 (q * 2 ^ 32 + n.toNat)))))) ∧
    ((8 ≤ s.my.occupancy 2 s.ccyc → stops (.fnext sf) 0x0A) ∧
      (s.my.occupancy 2 s.ccyc < 8 →
        (4 ≤ t.draws → stops (.fnext sf) 0x30) ∧
        (t.draws < 4 → ∃ v, exec (.fnext sf) s = .next v ∧ v.my.tile = { t with draws := t.draws + 1 } ∧
          pushed v 4 (gen s.my.ctl.gseed (t.fkey * 256 + t.draws * 64 + pl.sweep / 65536 % 64)
            (pl.sweep % 65536 * 2 ^ 32 + ((t.y0 + i / t.tw) * t.lw + (t.x0 + i % t.tw)))).toNat))) ∧
    (∀ (a : BitVec 5) (s' : State) (v : Word), srcOkX .w true a.toNat → s.gives sf 0 [a.toNat] s' [v] →
      ((t.sf = 1 ∧ t.ncat < v.toNat % 256) → stops (.fset sf a) 0x31) ∧
      (¬ (t.sf = 1 ∧ t.ncat < v.toNat % 256) →
        ((s'.core c).ql2 ≠ [] → stops (.fset sf a) 0x32) ∧
        (∀ r, (s'.core c).ql2 = [] → t.routine = .code r → exec (.fset sf a) s =
          .next (((s'.post (s.ccyc + 2) 5 (.fset c i v)).modCore c fun k => { k with tile := { k.tile with
            site := i + 1, updating := false, draws := 0 } }).went s.ctx sf (.restart r)))))

/-- 10 R214, R217; 17 R300, R304 to R307: the routine words, and the landing of an update. -/
def Obligations.RoutineWords : Prop :=
  Spec.routineWordResults ∧ Spec.siteLandings

/-- 10 R216, R218; 17 R303, R304, R306 to R308: what the engine does by itself. At the end of a colour window the sites of the
colour go to the halos that hold them, those of a tile that stopped in this cycle too; a tile that the window's update cycles did not finish faults with SUB 0x33; a
sweep boundary counts the sweep, makes STOPPING STOPPED and posts the status word for its own cycle; a status word
that lands holds the tile's state; a pending snapshot begins its copy there, or ends it with a flip in the next cycle;
the built-in rule takes the next four sites of the colour, to land two cycles later. The model's choices: which sites and
words lie in a published buffer (log 34), the cycle and TVAL of an overrun (log 35), and that a pending flip is made
before the cycle's landings (log 32). -/
def Sys2Proof.Spec.fieldEventResults : Prop :=
  (∀ (s : State) (f : FieldRun) (p : Place3),
    let b := s.cur.bind
    let key := s.cur.fkey
    let m := s.mcycOf b
    f.fkey = key → s.fieldOf b key = some f →
    (s.haloDue b f = true → s.overrunAt b f m = false → f.faulting = false → s.fieldPlace b f m = some p → p.at_ + 1 = f.win →
      ∃ t, exec .haloExchange s = .next t ∧ t.mem = s.mem ∧ t.agenda = s.agenda ∧
        ∀ c ∈ s.fieldCores b key, (t.core c).regs = (s.core c).regs ∧ (t.core c).tile.site = 0 ∧
          ∀ e ∈ (s.core c).tile.halo,
            let k := (s.core c).tile
            let at_ := (e.1 % k.lw, e.1 / k.lw)
            (k.colourAt at_ ≠ p.colour → e ∈ (t.core c).tile.halo) ∧
            (∀ d i, k.colourAt at_ = p.colour → d ∈ s.swept b key → (s.core d).tile.index at_ = some i →
              (∀ d' ∈ s.swept b key, d' ≠ d → (s.core d').tile.index at_ = none) →
              (e.1, BitVec.ofNat 16 (s.siteVal d (s.core d).tile i).1) ∈ (t.core c).tile.halo)) ∧
    (∀ q c, s.haloDue b f = true → s.overrunAt b f m = true → s.windowEnd b f m = false → s.fieldPlace b f (m - 1) = some q →
      s.sweepers b key = [c] → s.bindOf c = b → (s.core c).tile.fkey = key → ((s.core c).tile.nextSite q.colour (s.core c).tile.site).isSome = true →
      (s.core c).sw.run ≠ .stopped → (s.core c).sx.run = .due →
      ∃ t g, exec .haloExchange s = .next t ∧ t.mem = s.mem ∧ (t.core c).sw.run = .stopped ∧ (t.core c).ql2 = [] ∧
        t.fieldOf b key = some g ∧ g.faulting = true ∧
        ∃ v, (t.core c).sx.pend = (s.core c).sx.pend ++ [⟨0x14, 0x33, v, s.ccyc⟩]) ∧
    (s.boundaryDue b f = true → ∃ t, exec .sweepBoundary s = .next t ∧
      t.mem = s.mem ∧ (∀ c, (t.core c).regs = (s.core c).regs) ∧
      (∀ c ∈ s.sweepers b key, (⟨s.ccyc, 4, engineTie s.ccyc c, .tileStatus c⟩ : AEnt) ∈ t.agenda) ∧
      (∀ c ∈ s.sweepers b key, (s.sweepers b key).Nodup → (s.core c).tile.snapPend = none →
        (t.core c).tile = { (s.core c).tile with
          sweep := (s.core c).tile.sweep + 1, flipPend := false,
          st := if (s.core c).tile.st = .stopping then .stopped else (s.core c).tile.st
          stopAt := if (s.core c).tile.st = .stopping then m + 1 else (s.core c).tile.stopAt })) ∧
    (∀ c r, s.boundaryDue b f = true → s.sweepers b key = [c] → (s.core c).tile.snapPend = some r →
      ∃ t, exec .sweepBoundary s = .next t ∧
        (r.copying = false → (t.core c).tile.snapPend =
          if (s.core c).tile.st = .stopping then none else some { r with copying := true }) ∧
        (∀ j, r.copying = true → s.pubAt b r.base = some j →
          (t.core c).tile.snapPend = none ∧ ∃ k, (⟨s.ccyc + 1, 0, k, .snapFlip c b j⟩ : AEnt) ∈ t.agenda)) ∧
    (∀ c j, s.boundaryDue b f = true → s.sweepers b key = [c] → (s.core c).tile.flipPend = true →
      s.pubAt b (s.core c).tile.cbase = some j → ∃ t, exec .sweepBoundary s = .next t ∧
        ∀ q, (s.pubs b)[j]? = some q → (t.pubs b)[j]? = some { q with map := !q.map })) ∧
  (∀ (s : State) (i : Nat) (p : Place3),
    let c := s.cur.core
    let t := s.my.tile
    t.routine = .builtin → t.lastUpdate ≠ s.mcyc c + 1 → s.siteNow c = some (i, p) →
    ∃ v l, exec .builtinSiteUpdate s = .next v ∧
      v = { s with cores := v.cores, agenda := v.agenda, seq := v.seq, dev := { s.dev with log := v.dev.log } } ∧
      l = ((List.range t.sites).filter fun k => t.site ≤ k && t.colourAt (t.pos k) == p.colour).take 4 ∧
      v.agenda = Spec.posted s (s.ccyc + 2) 5 s.seq (.sitePut c (l.map fun k => (k, s.builtinVal c t k p.sweep))) ∧
      v.my.tile = { t with site := l.getLastD 0 + 1, lastUpdate := s.mcyc c + 1 }) ∧
  (∀ (s : State) (e : AEnt) (rest : List AEnt) (c : Nat), s.agenda = e :: rest → e.due ≤ s.ccyc → e.ev = .tileStatus c →
    (s.core c).tile.st ≠ .undeclared →
    let t := (s.core c).tile
    ∃ v, exec .resultLanding s = .next v ∧ v.agenda = rest ∧ v.cores = s.cores ∧
      v.mem.readLe (ptrKey ((pubRoute (s.pubs (s.bindOf c)) false t.sw.toNat).getD t.sw.toNat)) 8 = Spec.tileWord t)

/-- 10 R216, R218; 14 R269; 17 R303, R304, R306 to R308: what the engine does by itself, and the landings of the built-in rule's
updates and of a snapshot's flip. -/
def Obligations.FieldEvents : Prop :=
  Spec.fieldEventResults ∧ Spec.siteLandings ∧ Spec.flips

end

namespace Sys2Proof.Spec

open Sys2Proof.Machine

/-! ### Domains, as 13 R240 to R243, 21 and 22 write them -/

/-- Nothing but one bind entry changes. -/
def onlyBind (s t : State) (b : Nat) (k : Bind) : Prop := t = { s with binds := t.binds } ∧ t.bindAt b = k

/-- The image of a frozen domain is complete at `now`: the drain cycle is 326 cycles back (22 R345). -/
def complete (f : Freeze) (now : Nat) : Prop := f.saved = true ∧ ∃ d, f.drain = some d ∧ d + 326 ≤ now

/-- A restore schedule begins in this cycle for the domain of entry `b` (22 R345). -/
def restoring (s t : State) (b : Nat) (f : Freeze) : Prop :=
  t.mem = s.mem ∧ t.cores = s.cores ∧
    t.bindAt b = { s.bindAt b with freeze := some { f with resumeReq := true, restore := some s.ccyc } } ∧
    ∀ c ∈ s.heldCores b, ∀ j < 32, ∃ k, (⟨s.ccyc + 1 + 32 * coreOpos c + j, 10, k, .ctxLoad c j⟩ : AEnt) ∈ t.agenda

/-- Whether a domain fault is firmware's to end: a handler fault always, and a slip fault, a merge conflict and a missing
page in hardware mode of their functions (21 R340, 22 R348). -/
def firmwareEnds (k : Bind) (f : DomFault) : Prop :=
  f.fc = 2 ∨ (f.fc = 1 ∧ k.mode 2 = false) ∨ (f.fc = 3 ∧ k.mode 7 = false) ∨ (f.fc = 4 ∧ k.mode 3 = false)

/-- Word `j` of a stream's record (22 R344): its state and next word, the watched pointer or restart cycle, the registers
that it names, the Caddy's state and the pending traps. That an absent stream counts as ended, and the next word of one that
`resync` has parked, are the model's reading. -/
def recorded (s : State) (c : Nat) (h : Half) (j : Nat) : Word :=
  let t := s.stream c h
  let w (v : Nat) : Word := BitVec.ofNat 64 v
  let reg (n : Nat) : Word := (control { s with cur := { s.cur with core := c, half := h } } n).getD 0
  let pend (i : Nat) : Option PTrap := t.pend.find? fun p => p.code == 0x11 + i
  let st := match t.run with
    | .await => 1
    | .rejoin => 2
    | .cwait => 3
    | .resync => 4
    | .ended | .absent => 5
    | _ => if h = .w then (if (s.core c).tile.updating then 7 else 0)
           else if (s.core c).ctl.role = 2 ∧ t.follows = false then 6 else 0
  match j with
  | 0 => w (st * 2 ^ 61 + (if t.run = .cwait then t.cwaitN else 0) * 2 ^ 56 + t.scnt * 2 ^ 40 +
      (if t.run = .resync then t.traps.rstPc else t.pc).toNat)
  | 1 => if t.run = .rejoin then t.watch else if t.run = .resync then w t.wake else 0
  | 2 => reg 0x08
  | 3 => reg 0x06
  | 14 => w (t.caddy.next * 2 ^ 48 + t.caddy.pos * 2 ^ 32 + t.caddy.released.length * 2 ^ 16)
  | 15 => w (((List.range 4).map fun i => match pend i with
      | some p => 2 ^ i + p.sub * 2 ^ (8 + 8 * i)
      | none => 0).sum)
  | j => if j < 14 then reg (0x0C + j) else if j < 20 then ((pend (j - 16)).map (·.tval)).getD 0 else 0

/-- Word `i` of a core's state as its state port presents it, in the layout of 22 R343. -/
def ported (s : State) (c i : Nat) : Word :=
  let k := s.core c
  let w (v : Nat) : Word := BitVec.ofNat 64 v
  let reg (n : Nat) : Word := (control { s with cur := { s.cur with core := c, half := .x } } n).getD 0
  if i < 0x100 then (vget 0 k.regs.v (i / 16)).extractLsb' (64 * (i % 16)) 64
  else if i < 0x128 then
    ((((k.queue ((i - 0x100) / 8)).filter fun e => decide (e.due ≤ s.ccyc))[i % 8]?).map (·.val)).getD 0
  else if i = 0x128 then w (((List.range 5).map fun q => min (k.occupancy q s.ccyc) 15 * 2 ^ (4 * q)).sum)
  else if i < 0x130 then 0
  else if i < 0x138 then vget 0 k.regs.a (i - 0x130)
  else if i < 0x13C then (vget 0 k.regs.k (i - 0x138)).setWidth 64
  else if i < 0x140 then 0
  else if i < 0x148 then vget 0 k.regs.oxA (i - 0x140)
  else if i < 0x150 then vget 0 k.regs.oxX (i - 0x148)
  else if i < 0x157 then vget 0 k.regs.g (i - 0x14F)
  else if i = 0x157 then k.regs.ix
  else if i = 0x158 then k.regs.lk
  else if i = 0x159 then reg 0x04
  else if i = 0x15A then reg 0x05
  else if i = 0x15B then reg 0x0D
  else if i = 0x15C then reg 0x0E
  else if i < 0x160 then 0
  else if i < 0x170 then vget 0 k.regs.sw (i - 0x160)
  else if i = 0x170 then
    (match s.fieldOf (s.bindOf c) k.tile.fkey with
      | some f => (f.start.map fun m => w (f.rho m (s.mcycOf (s.bindOf c)) % 2 ^ 40)).getD 0
      | none => 0)
  else if i = 0x171 then w (tileWord k.tile)
  else if i = 0x172 then
    w (k.tile.site % 2 ^ 32 * 2 ^ 32 + match k.tile.routine with
      | .none => 0
      | .builtin => 2 ^ 32 - 1
      | .code a => a.toNat)
  else if i = 0x173 then w k.tile.draws
  else if i < 0x180 then 0
  else if i < 0x1A0 then recorded s c .a (i - 0x180)
  else if i < 0x1C0 then recorded s c .x (i - 0x1A0)
  else if i < 0x1E0 then recorded s c .w (i - 0x1C0)
  else if i < 0x200 then 0
  else w (((List.range 4).map fun j => (((k.tile.halo[4 * (i - 0x200) + j]?).map (·.2.toNat)).getD 0) * 2 ^ (16 * j)).sum)

/-- Beat `j` of a core's context block in its near column (22 R343). -/
def contextAt (s : State) (c j : Nat) : Nat :=
  colKey c (lOff (s.core c).ctl.wbase.toNat + 32 * (s.core c).ctl.wsize) + 256 * j

/-- A stream after the words of its record are written to the state port (22 R344, R345). -/
def setRecord (t u : Stream) (w : Nat → Word) : Prop :=
  let code := fieldOf (w 0) 63 61
  (1 ≤ code → code ≤ 4 → some u.run = [Run.await, .rejoin, .cwait, .resync][code - 1]?) ∧
  (code = 5 → u.run = .ended ∨ (t.run = .absent ∧ u.run = .absent)) ∧ (code = 3 → u.cwaitN = fieldOf (w 0) 60 56) ∧
  u.scnt = fieldOf (w 0) 55 40 ∧ u.pc = (w 0).extractLsb' 0 32 ∧
  (code = 2 → u.watch = w 1) ∧ (code = 4 → u.wake = (w 1).toNat) ∧
  u.rm = (w 2).extractLsb' 0 2 ∧ u.ovf = (w 2).getLsbD 2 ∧ u.wptr = fieldOf (w 3) 63 48 ∧ u.rbot = fieldOf (w 3) 47 32 ∧
  u.rcnt = fieldOf (w 3) 31 24 ∧ u.wlimit = fieldOf (w 3) 23 16 ∧
  u.traps = { t.traps with
    async := (w 4).getLsbD 63, sub := (w 4).extractLsb' 8 8, code := (w 4).extractLsb' 0 8, tpc := (w 5).extractLsb' 0 32,
    tval := w 6, priv := (w 7).getLsbD 8, pPriv := (w 7).getLsbD 7, scnt := (w 7).extractLsb' 0 7,
    tvec := (w 8).extractLsb' 0 32, tscr := w 9, dbg := (w 10).getLsbD 0, tcyc := w 11, rstValid := (w 12).getLsbD 63,
    rstPc := (w 12).extractLsb' 0 32, rstCy := w 13 } ∧
  u.caddy = { t.caddy with next := fieldOf (w 14) 63 48, pos := fieldOf (w 14) 47 32,
                           released := t.caddy.released.take (fieldOf (w 14) 31 16) } ∧
  ∀ i < 4, let p := u.pend.find? fun p => p.code == 0x11 + i
    ((w 15).getLsbD i = true → ∃ q, p = some q ∧ q.sub = fieldOf (w 15) (15 + 8 * i) (8 + 8 * i) ∧ q.tval = w (16 + i)) ∧
    ((w 15).getLsbD i = false → t.pend = [] → p = none)

/-- The key of the byte to which translation led: HBM's or host memory's (14 R256). -/
def spot (h : FHit) : Option Nat :=
  match h with
  | .hbm pa _ => some (hbmKey pa)
  | .host pa => some (hostKey pa)
  | _ => none

/-- A stream that firmware has ended. -/
def gone (t : Stream) : Prop := t.run = .ended ∨ t.run = .absent

end Sys2Proof.Spec

section

open Sys2Proof Sys2Proof.Machine

/-! ### Domains -/

/-- 13 R240 to R243; 02 R42; 09 R176, R177, R192; 16 R291; 17 R302; 22 R341: a domain mark. SLIPCNT is cleared at a new period,
rates are taken, and fields start. In a running domain, or a held one that its holder resumes, parks end; then a
fault holds the domain, which freezes at once where a pre-emption is pending (log 68), else a pre-emption freezes it at a
clean mark, else `brk` does so at a clean mark (log 104), with every `brk` word reported and the word after it, else a
merge mark does. A held domain freezes too for a pre-emption, and at its merge marks; one whose kernel has ended meets none.
The sweep stream of a held domain goes on. Registers, memory and the agenda are as they were where no field starts.
That a held domain freezes at its merge marks is read from the rules (log 54), and so is that an ended kernel meets none
(log 72). -/
def Obligations.DomainMarks : Prop :=
  ∀ (s : State),
    let b := s.cur.bind
    let k := s.bindAt b
    let m := s.mcycOf b
    let rate (c : Nat) : Nat := (s.core c).tile.rateNext.getD (s.core c).tile.rate
    let slips (c : Nat) : Nat := if m % k.period = 0 ∨ k.release = true then 0 else (s.core c).ctl.slipCnt
    s.domainMarkDue b = true →
    ((∀ f ∈ k.fields, f.startReq = false ∨ f.start ≠ none) → (s.heldCores b).Nodup →
      ∃ t, exec .domainMark s = .next t ∧ t.mem = s.mem ∧ t.agenda = s.agenda ∧ (t.bindAt b).lastMark = m + 1 ∧
        (∀ c ∈ s.heldCores b, (t.core c).regs = (s.core c).regs ∧ (t.core c).tile.rate = rate c ∧
          (t.core c).sw = (s.core c).sw.atMark m s.ccyc ∧ (t.core c).ctl.slipCnt = slips c) ∧
        let frozen (why : FreezeWhy) : Prop := (t.bindAt b).st = .frozen ∧
          ∃ f, (t.bindAt b).freeze = some f ∧ f.why = why ∧ f.mark = m ∧ f.at_ = s.ccyc ∧ f.saved = false ∧
            f.waits = t.matrixOfPart b
        let merging := m ≠ 0 ∧ k.ended = false ∧ ∃ r ∈ k.merges, m % 2 ^ r.qlog = 0
        let holds : Prop := t.reports = s.reports ∧ (k.preempt ≠ none → frozen .preempt ∧ (t.bindAt b).preempt = none) ∧
          (k.preempt = none → merging → frozen .merge) ∧ (k.preempt = none → ¬ merging → (t.bindAt b).st = .held)
        (k.st ≠ .running → k.release = false → holds ∧
          ∀ c ∈ s.heldCores b, (t.core c).sa = (s.core c).sa ∧ (t.core c).sx = (s.core c).sx) ∧
        (k.st = .running ∨ k.release = true →
          (∀ c ∈ s.heldCores b, (t.core c).sa = (s.core c).sa.atMark m s.ccyc ∧ (t.core c).sx = (s.core c).sx.atMark m s.ccyc) ∧
          (k.release = false → k.fault ≠ none → holds) ∧
          ((k.release = true ∨ k.fault = none) →
            (k.preempt ≠ none → t.clean b m = true → frozen .preempt ∧ (t.bindAt b).preempt = none ∧ t.reports = s.reports) ∧
            ((k.preempt = none ∨ t.clean b m = false) →
              (k.brk ≠ [] → t.clean b m = true → frozen .brk ∧ (t.bindAt b).brk = [] ∧
                t.reports = s.reports ++ k.brk.map fun q => .brk b q.core q.half q.n q.pc) ∧
              ((k.brk = [] ∨ t.clean b m = false) → (t.bindAt b).brk = k.brk ∧ t.reports = s.reports ∧
                (merging → frozen .merge) ∧
                (¬ merging →
                  (t.bindAt b).st = .running ∧ (t.bindAt b).freeze = k.freeze)))))) ∧
    (∀ f, k.fields = [f] → f.startReq = true → f.start = none →
      let starts (c : Nat) : Prop :=
        c ∈ s.fieldCores b f.fkey ∧ ((s.core c).tile.st = .bound ∨ (s.core c).tile.st = .stopped) ∧ rate c ≠ 0
      ∃ t g, exec .domainMark s = .next t ∧ t.mem = s.mem ∧ t.fieldOf b f.fkey = some g ∧ g.startReq = false ∧
        (∀ c, starts c → (t.core c).tile.st = .running ∧ (t.core c).tile.site = 0 ∧ g.start = some m ∧
          (⟨s.ccyc + 1, 4, engineTie s.ccyc c, .tileStatus c⟩ : AEnt) ∈ t.agenda) ∧
        (∀ c, ¬ starts c → (t.core c).tile.st = (s.core c).tile.st) ∧ ((∀ c, ¬ starts c) → g.start = none))

/-- 01 R14; 13 R242, R243; 09 R192; 18 R317; 21 R334, R336, R340; 22 R341, R342, R345, R346, R348: the events of a domain. A kernel
is over when its streams have ended and no tile sweeps, and collectives whose dies have not all voted then send fault, which a
coordinator takes at the end of the cycle; a
request to pre-empt waits, or freezes a held domain at once; it is withdrawn after 2^24 cycles; the save schedule begins
in the drain cycle; an eviction frees the cores and keeps the domain under an index of its own (log 53); a resume
restores it; its timetable restarts with MCYC at the mark; a held domain is resumed at its next mark unless firmware must
end it; and an end stops every stream, with the fault's own code where firmware must end it, and then, once nothing is
in flight (log 72), the end-status word is written, its names are retired and the entry is freed. -/
def Sys2Proof.Spec.domainEventResults : Prop :=
  ∀ (s : State),
    let b := s.cur.bind
    let k := s.bindAt b
    ((k.st = .running ∨ k.st = .held) → k.ended = false → k.ending = none →
      (∀ c ∈ s.heldCores b, Spec.gone (s.core c).sa ∧ Spec.gone (s.core c).sx ∧ (s.core c).tile.sweeping = false) →
      let unvoted (q : Coll) : Prop := q.cmd.bind = b ∧ q.faultSent = false ∧ q.voted.length < 8 ∧ q.entered = none
      ∃ t, exec .kernelEnd s = .next t ∧ t.bindAt b = { k with ended := true } ∧ t.mem = s.mem ∧ t.cores = s.cores ∧
        ((∀ q ∈ s.colls, ¬ unvoted q) → t = { s with binds := t.binds }) ∧
        ∀ q ∈ s.colls, unvoted q → ∀ q' ∈ t.colls, Spec.one q' q →
          q'.faultSent = true ∧ (Spec.coordinates s q → 7 ∈ q'.inbox)) ∧
    ((k.st = .running ∨ k.st = .pending ∨ (k.st = .frozen ∧ ∀ f, k.freeze = some f → f.why ≠ .preempt) →
        ∃ t, exec .preemptionRequest s = .next t ∧ Spec.onlyBind s t b { k with preempt := some (k.preempt.getD s.ccyc) }) ∧
      (k.st = .held → ∃ t f, exec .preemptionRequest s = .next t ∧
        Spec.onlyBind s t b { k with st := .frozen, preempt := none, freeze := some f } ∧ f.why = .preempt ∧
        f.mark = s.mcycOf b ∧ f.at_ = s.ccyc ∧ f.evicted = false ∧ f.restore = none) ∧
      (k.st = .free ∨ k.st = .ended ∨ (k.st = .frozen ∧ ∃ f, k.freeze = some f ∧ f.why = .preempt) → exec .preemptionRequest s = .next s)) ∧
    (∀ c, k.preempt = some c → c + 2 ^ 24 ≤ s.ccyc →
      ∃ t, exec .preemptionWithdraw s = .next t ∧ t = { s with binds := t.binds, reports := s.reports ++ [.notClean b] } ∧
        t.bindAt b = { k with preempt := none }) ∧
    (∀ f, k.freeze = some f → f.drain = some s.ccyc → f.saved = false → ∃ t, exec .drainComplete s = .next t ∧
      t = { s with binds := t.binds, agenda := t.agenda, seq := t.seq } ∧
      t.bindAt b = { k with freeze := some { f with saved := true } } ∧ ∀ c ∈ s.heldCores b,
        (∀ j < 32, ∃ n, (⟨s.ccyc + 65 + 32 * coreOpos c + j, 10, n, .ctxSave c j⟩ : AEnt) ∈ t.agenda) ∧
        ∀ i < (s.core c).sx.rcnt, ∃ n, (⟨s.ccyc + 4 * (i + 1), 4, n, .ctxLine c ((s.core c).sx.rbot + i)⟩ : AEnt) ∈ t.agenda) ∧
    (∀ f, b < 64 → k.freeze = some f → 0 < s.ccyc → Spec.complete f (s.ccyc - 1) → f.restore = none → f.evicted = false →
      ∃ t i e, exec .eviction s = .next t ∧ t.mem = s.mem ∧ t.agenda = s.agenda ∧ t.bindAt b = Bind.init ∧ 64 ≤ i ∧
        t.bindAt i = { k with freeze := some { f with evicted := true } } ∧ (∀ c ∈ s.heldCores b, (t.core c).bound = none) ∧
        (t.partAt k.part).eviction = (s.partAt k.part).eviction ++ [e] ∧ e.index = i ∧
        e.cores = (s.heldCores b).map fun c => (c, s.core c)) ∧
    (∀ f, k.freeze = some f → Spec.complete f s.ccyc → f.restore = none → f.evicted = false →
      (∃ t, exec .resumeRequest s = .next t ∧ Spec.restoring s t b f) ∧
      (f.why = .brk → ∃ t, exec .brkRelease s = .next t ∧ Spec.restoring s t b f)) ∧
    (∀ f d, k.freeze = some f → f.restore = some d → d + 327 ≤ s.ccyc →
      s.ccyc % 2 ^ Config.cmlog = f.mark % 2 ^ Config.cmlog →
      (∀ r ∈ k.merges, f.mark ≠ 0 → f.mark % 2 ^ r.qlog = 0 → f.mark / 2 ^ r.qlog < r.next) → f.mark ≤ s.ccyc →
      ∃ t, exec .timetableRestart s = .next t ∧ t.mcycOf b = f.mark ∧ Spec.onlyBind s t b { k with
        base := s.ccyc - f.mark, freeze := none, st := if k.fault.isSome ∧ k.ending.isNone then .held else .running }) ∧
    let held := k.st = .held ∨ ((∃ z, k.freeze = some z ∧ z.why = .merge) ∧ ∃ f, k.fault = some f ∧ f.fc ≠ 3)
    ((held → k.ending = none → (∀ f, k.fault = some f → ¬ Spec.firmwareEnds k f) →
        ∃ t, exec .hostDomainResume s = .next t ∧ Spec.onlyBind s t b { k with release := true }) ∧
      (¬ held ∨ (∃ f, k.fault = some f ∧ Spec.firmwareEnds k f) → exec .hostDomainResume s = .next s)) ∧
    (∀ fc, k.st ≠ .free → k.st ≠ .pending → k.ending = none → ∃ t, exec (.domainEnd fc) s = .next t ∧ t.mem = s.mem ∧
      ((∀ f, k.fault = some f → ¬ Spec.firmwareEnds k f) → (t.bindAt b).ending = some fc) ∧
      (∀ f, k.fault = some f → Spec.firmwareEnds k f → (t.bindAt b).ending = some f.fc) ∧ (∀ f ∈ (t.bindAt b).fields, f.start = none) ∧
      ∀ c ∈ s.heldCores b, Spec.gone (t.core c).sa ∧ Spec.gone (t.core c).sx ∧ Spec.gone (t.core c).sw ∧
        (t.core c).tile.sweeping = false ∧ (t.core c).regs = (s.core c).regs) ∧
    (∀ v, (k.st = .ended ∧ k.ending = none ∧ s.drained b = true ∧ v = 5 * 2 ^ 60 + k.task * 2 ^ 16) ∨
        (∃ fc, k.ending = some fc ∧ s.ccyc % 2 ^ Config.cmlog = 0 ∧ s.drained b = true ∧
          v = 6 * 2 ^ 60 + fc * 2 ^ 56 + k.task * 2 ^ 16) →
      ∃ t, exec .endStatusWrite s = .next t ∧ t.bindAt b = Bind.init ∧
        t.reports = s.reports ++ [.endStatus k.part (BitVec.ofNat 64 v)] ∧
        (∀ q ∈ (t.partAt k.part).directory, ∀ c ∈ s.namedCores b, ¬ (q.2.live = some c ∧ q.2.task = k.task)) ∧
        (∀ q ∈ (t.partAt k.part).eviction, q.index ≠ b) ∧
        (∀ c ∈ s.heldCores b, (t.core c).bound = none ∧ (t.core c).ctl.epSt = 0 ∧ (t.core c).regs = (s.core c).regs) ∧
        t.mem = (if k.record.getD 15 0 = 0 then s.mem
          else (s.fwWrite k.part ((k.record.getD 15 0).toNat % 2 ^ 48) (BitVec.ofNat 64 v)).mem))

/-- 22 R343 to R345; 02 R29; 24 R370, R371: the landings of the save and the restore schedules. A line of the window file
goes to the stack image and comes back from it. A beat of the state port is read to land six cycles later in the same
beat of the core's context block, and no other byte changes there; a beat of the block is read, and six cycles later sets
the registers, queues, records, tile and halo that its bytes hold, and nothing else of the core and no other core. The
last beat makes the lines that the restored `WCTL` names come back from cycle D′+263 on. -/
def Sys2Proof.Spec.contextLandings : Prop :=
  ∀ (s : State) (e : AEnt) (rest : List AEnt) (c : Nat), s.agenda = e :: rest → e.due ≤ s.ccyc →
    let k := s.core c
    (∀ line, e.ev = .ctxLine c line → ∃ t, exec .storeLanding s = .next t ∧
      t = { s with agenda := rest, mem := t.mem, ecc := t.ecc, dev := { s.dev with log := t.dev.log } } ∧
      Spec.spilled s t c line 1) ∧
    (∀ line, e.ev = .ctxFill c line → ∃ t, exec .storeLanding s = .next t ∧ t.agenda = rest ∧ Spec.filled s t c line 1 ∧
      t.core c = { k with regs := { k.regs with win := (t.core c).regs.win, winBad := (t.core c).regs.winBad } }) ∧
    (∀ j < 32, e.ev = .ctxSave c j → ∃ t bytes bad n,
      exec .caddyBeatRead s = .next t ∧ t = { s with agenda := t.agenda, seq := t.seq, dev := { s.dev with log := t.dev.log } } ∧
      t.agenda = agendaInsert ⟨s.ccyc + 6, 4, n, .ctxLand c j bytes bad⟩ rest ∧ bytes.length = 256 ∧
      (∀ i < 32, BitVec.ofNat 64 (ofBytes ((bytes.drop (8 * i)).take 8)) = Spec.ported s c (32 * j + i)) ∧
      (j = 11 → ∀ i < 16, 8 * i ∈ bad ↔ k.regs.swBad.getLsbD i = true)) ∧
    (∀ j bytes bad, e.ev = .ctxLand c j bytes bad → ∃ t, exec .caddyBeatLand s = .next t ∧
      t = { s with agenda := rest, mem := t.mem, ecc := t.ecc, dev := { s.dev with log := t.dev.log } } ∧
      (∀ i < bytes.length, t.mem.read (Spec.contextAt s c j + i) = bytes.getD i 0) ∧
      (∀ a, a < Spec.contextAt s c j ∨ Spec.contextAt s c j + bytes.length ≤ a → t.mem.read a = s.mem.read a) ∧
      ∀ o ∈ bad, poisoned t.ecc (Spec.contextAt s c j + o) 1 = true) ∧
    (∀ j, e.ev = .ctxLoad c j → ∃ t bad n, exec .caddyBeatRead s = .next t ∧
      t = { s with agenda := t.agenda, seq := t.seq, dev := { s.dev with log := t.dev.log } } ∧
      t.agenda = agendaInsert ⟨s.ccyc + 6, 4, n, .ctxSet c j ((List.range 256).map fun i =>
        s.mem.read (Spec.contextAt s c j + i)) bad⟩ rest ∧
      ∀ i < 32, 8 * i ∈ bad ↔ poisoned s.ecc (Spec.contextAt s c j + 8 * i) 8 = true) ∧
    (∀ j bytes bad, j < 32 → e.ev = .ctxSet c j bytes bad → bytes.length = 256 →
      let w (i : Nat) : Word := BitVec.ofNat 64 (ofBytes ((bytes.drop (8 * i)).take 8))
      ∃ t, exec .caddyBeatLand s = .next t ∧ t = { s with agenda := t.agenda, seq := t.seq, cores := t.cores } ∧
        (∀ c', c' ≠ c → t.core c' = s.core c') ∧
        let u := t.core c
        let landed (q : Nat) (k : Core) : List QEnt := (k.queue q).filter fun e => decide (e.due ≤ s.ccyc)
        (j ≠ 31 → t.agenda = rest) ∧
        (∀ f d, j = 31 → (s.bindAt (s.bindOf c)).freeze = some f → f.restore = some d → ∀ i < k.sx.rcnt,
          ∃ n, (⟨d + 262 + 4 * (i + 1), 4, n, .ctxFill c (k.sx.rbot + i)⟩ : AEnt) ∈ t.agenda) ∧
        (j < 8 → u = { k with regs := { k.regs with v := u.regs.v } } ∧
          (∀ i < 32, (vget 0 u.regs.v ((32 * j + i) / 16)).extractLsb' (64 * (i % 16)) 64 = w i) ∧
          ∀ n < 16, n / 2 ≠ j → vget 0 u.regs.v n = vget 0 k.regs.v n) ∧
        (j = 8 → u = { k with ql0 := u.ql0, ql1 := u.ql1, ql2 := u.ql2, qs0 := u.qs0 } ∧ ∀ q < 4, ∀ n < 8, ∀ e,
          (landed q k)[n]? = some e → (landed q u)[n]? = some { e with val := w (8 * q + n), bad := bad.contains (8 * (8 * q + n)) }) ∧
        (j = 9 → u = { k with ql0 := u.ql0, ql1 := u.ql1, ql2 := u.ql2, qs0 := u.qs0, qs1 := u.qs1,
                              regs := { k.regs with a := u.regs.a, k := u.regs.k } } ∧
          (∀ n < 8, vget 0 u.regs.a n = w (16 + n)) ∧ (∀ n < 4, vget 0 u.regs.k n = (w (24 + n)).extractLsb' 0 32) ∧
          (∀ q < 4, u.queue q = (k.queue q).take (Spec.fieldOf (w 8) (4 * q + 3) (4 * q))) ∧
          (u.queue 4).length = min (Spec.fieldOf (w 8) 19 16) (k.queue 4).length ∧
          ∀ n < 8, ∀ e, (landed 4 k)[n]? = some e → k.queue 4 = landed 4 k → n < Spec.fieldOf (w 8) 19 16 →
            (u.queue 4)[n]? = some { e with val := w n, bad := bad.contains (8 * n) }) ∧
        (j = 10 → u = { k with ctl := u.ctl, regs := { k.regs with
            oxA := u.regs.oxA, oxX := u.regs.oxX, g := u.regs.g, ix := w 23, lk := w 24 } } ∧
          (∀ n < 8, vget 0 u.regs.oxA n = w n ∧ vget 0 u.regs.oxX n = w (8 + n)) ∧ vget 0 u.regs.g 0 = vget 0 k.regs.g 0 ∧
          (∀ n < 7, vget 0 u.regs.g (n + 1) = w (16 + n)) ∧
          u.ctl = { k.ctl with
            stopmax := Spec.fieldOf (w 25) 6 0, slipCnt := Spec.fieldOf (w 26) 47 32, slipMax := Spec.fieldOf (w 26) 15 0,
            rwin := (w 27).extractLsb' 0 4, epSt := (w 28).extractLsb' 62 2, epMove := (w 28).getLsbD 61,
            epName := (w 28).extractLsb' 8 24, epGen := (w 28).extractLsb' 0 8 }) ∧
        (j = 11 → u = { k with tile := u.tile, regs := { k.regs with sw := u.regs.sw, swBad := u.regs.swBad } } ∧
          (∀ n < 16, vget 0 u.regs.sw n = w n ∧ u.regs.swBad.getLsbD n = bad.contains (8 * n)) ∧
          u.tile = { k.tile with
            st := u.tile.st, snaps := Spec.fieldOf (w 17) 55 48, sweep := Spec.fieldOf (w 17) 47 0,
            site := Spec.fieldOf (w 18) 63 32, draws := (w 19).toNat,
            routine := if Spec.fieldOf (w 18) 31 0 = 0 then .none
              else if Spec.fieldOf (w 18) 31 0 = 2 ^ 32 - 1 then .builtin else .code ((w 18).extractLsb' 0 32) } ∧
          (Spec.fieldOf (w 17) 63 60 ≤ 6 → some u.tile.st = ([TileSt.undeclared, .declared, .bound, .running, .stopping, .stopped,
            .faulted][Spec.fieldOf (w 17) 63 60]?))) ∧
        (j = 12 → u = { k with sa := u.sa } ∧ Spec.setRecord k.sa u.sa w) ∧
        (j = 13 → u = { k with sx := u.sx } ∧ Spec.setRecord k.sx u.sx w) ∧
        (j = 14 → u = { k with sw := u.sw, tile := { k.tile with updating := Spec.fieldOf (w 0) 63 61 == 7 } } ∧
          Spec.setRecord k.sw u.sw w) ∧
        (j = 15 → u = k) ∧
        (16 ≤ j → u = { k with tile := { k.tile with halo := u.tile.halo } } ∧
          u.tile.halo = k.tile.halo.zipIdx.map fun q => if 128 * (j - 16) ≤ q.2 ∧ q.2 < 128 * (j - 15)
            then (q.1.1, (w ((q.2 - 128 * (j - 16)) / 4)).extractLsb' (16 * (q.2 % 4)) 16) else q.1))

/-- 01 R14; 13 R242, R243; 09 R192; 18 R317; 21 R334, R336; 22 R341, R342, R345, R346, R348: the events of a domain, and the
landings of its context's save and restore (22 R343, R344). Readings of the model: what the record layout leaves open (log 52),
where an evicted domain waits (log 53), and what ending a domain leaves of a sweeping tile (log 116). -/
def Obligations.DomainEvents : Prop :=
  Spec.domainEventResults ∧ Spec.contextLandings

/-- 16 R288, R291, R292: merge k of a region. A byte that one task of the group wrote takes its value where the task's write
was translated to, in HBM or host memory, and every other byte is as before; the tasks' writes are merged, their next
merge is the one after, and two tasks' writes of one byte are a conflict, which is reported and holds the group, over a fault
that a task had; an element of a reduce region takes the combined value by OP, and every other byte is as before. In
host-assisted mode the host lets a held group go on, with the fault that it had before, or ends it; in hardware mode it
decides nothing. Who has joined is log 54's choice. -/
def Obligations.MergeEvents : Prop :=
  (∀ (s : State) (r : MergeReg) (key : Nat),
    let part := s.cur.part
    let base := s.cur.region
    let tasks := s.mergeTasks part base
    s.mergeReady part base = true → tasks.findSome? (·.region base) = some r →
    ∃ t, exec .mergeApply s = .next t ∧ t.cores = s.cores ∧
      tget 0 (t.partAt part).mergeCount base.toNat = tget 0 (s.partAt part).mergeCount base.toNat + 1 ∧
      (r.reduce = false →
        let own (q : Bind) : Tab Merged := lastBytes (q.writesIn ((q.region base).getD r))
        let wrote (q : Bind) (a : Nat) (w : Merged) : Prop := q ∈ tasks ∧ tfind (own q) a = some w
        ((∀ q a w pa n, wrote q a w → w.hit = .hbm pa n →
            n = key ∧ (tget 0 s.unitKeys (pa / 256) = 0 ∨ tget 0 s.unitKeys (pa / 256) = key)) →
          (∀ k a w x, wrote k a w → Spec.spot w.hit = some x →
            (∀ q ∈ tasks, q ≠ k → tfind (own q) a = none) → (tasks.filter (· = k)).length = 1 →
            (∀ q a' w', wrote q a' w' → (q ≠ k ∨ a' ≠ a) → Spec.spot w'.hit ≠ some x) →
            t.mem.read x = BitVec.ofNat 8 w.val) ∧
          ∀ x, (∀ q a w, wrote q a w → Spec.spot w.hit ≠ some x) → t.mem.read x = s.mem.read x) ∧
        (∀ a n l, conflicts (tasks.map fun k => (k, own k)) = (a, n) :: l →
          .mergeConflict part a (n.getD 0 0) (n.getD 1 0) (l.length + 1) ∈ t.reports ∧
          (((s.mergeEntries part base).map (·.1)).Nodup →
            ∀ e ∈ s.mergeEntries part base, (s.bindAt e.1).over_ = false → (t.bindAt e.1).fault.map (·.fc) = some 3 ∧
              ∀ f, (t.bindAt e.1).freeze = some f → f.heldFor = (s.bindAt e.1).fault))) ∧
      (∀ (k : Bind) (a x : Nat) (w : Merged), r.reduce = true → tasks = [k] → combined r (k.writesIn r) = [(a, w)] →
        Spec.spot w.hit = some x →
        (∀ pa n, w.hit = .hbm pa n → n = key ∧ pa % 256 + redWidth r.et ≤ 256 ∧
          (tget 0 s.unitKeys (pa / 256) = 0 ∨ tget 0 s.unitKeys (pa / 256) = key)) →
        t.mem.readLe x (redWidth r.et) =
          redStep r.et r.op (s.mem.readLe x (redWidth r.et)) w.val % 2 ^ (8 * redWidth r.et) ∧
        ∀ b, b < x ∨ x + redWidth r.et ≤ b → t.mem.read b = s.mem.read b)) ∧
  (∀ (s : State) (b : Nat) (k : Bind), s.groupEntries s.cur.part s.cur.region = [(b, k)] → k = s.bindAt b →
    k.fault.map (·.fc) = some 3 → (k.mode 7 = false → ∀ on, exec (.hostMergeDecision on) s = .next s) ∧ (k.mode 7 = true →
    (k.freeze = none → ∃ t, exec (.hostMergeDecision true) s = .next t ∧ Spec.onlyBind s t b { k with fault := none }) ∧
    (∀ f, k.freeze = some f → f.why = .merge → k.waits f.mark = false → Spec.complete f s.ccyc → f.restore = none →
      f.evicted = false → f.heldFor.map (·.fc) ≠ some 3 →
      ∃ t, exec (.hostMergeDecision true) s = .next t ∧ t.mem = s.mem ∧ t.cores = s.cores ∧
        (t.bindAt b).fault = f.heldFor ∧ (t.bindAt b).freeze = some { f with resumeReq := true, restore := some s.ccyc }) ∧
    (k.ending = none → k.st ≠ .pending → ∃ t, exec (.hostMergeDecision false) s = .next t ∧ t.mem = s.mem ∧
      (t.bindAt b).ending = some 5)))

end

namespace Sys2Proof.Spec

open Sys2Proof.Machine

/-- Nothing but the partitions changes. -/
def onlyParts (s t : State) : Prop := t = { s with parts := t.parts }

/-- Nothing but the partitions and the error log has changed. -/
def onlyPartsLog (s t : State) : Prop := t = { s with parts := t.parts, dev := { s.dev with log := t.dev.log } }

/-- A launch queue of `cur`'s partition (21 R332). -/
def queue (s : State) (qid : Nat) : Option LQueue := tfind (s.partAt s.cur.part).queues qid

/-- Whether the module serves requests: firmware runs, and the module does not leave service (24 R365, R367, R379). -/
def serves (s : State) : Prop := s.dev.boot.phase = 5 ∧ s.dev.boot.leaving = none

/-- A core of `cur`'s partition. -/
def ofPart (s : State) (c : Nat) : Prop := ∃ o ∈ (s.partAt s.cur.part).octets, ∃ j < 8, c = octetCore o j

/-- Steps 1 to 3 of a reset of `cur`'s partition (22 R357), with its keys erased: its domains, transfers, messages and
collectives are gone and its cores are no domain's; other partitions and all memory are as they were. -/
def stopped (s t : State) : Prop :=
  let n := s.cur.part
  t.mem = s.mem ∧
    (∀ c, ofPart s c → t.core c = { s.core c with bound := none, sendBuf := [], launches := [] }) ∧
    (∀ c, ¬ ofPart s c → t.core c = s.core c) ∧
    t.partAt n = { s.partAt n with
      reset := some (s.ccyc, true), keys := [], gcm := 0, groupKeys := [], waiting := [], eviction := [], leavers := [] } ∧
    (∀ q, q ≠ n → t.partAt q = s.partAt q) ∧ t.binds = s.binds.filter (fun k => k.2.part != n) ∧
    t.xfers = s.xfers.filter (fun x => x.part != n) ∧ t.net = s.net.filter (fun m => m.part != n) ∧
    (∀ q ∈ t.colls, q.cmd.part ≠ n) ∧ (∀ q ∈ s.colls, q.cmd.part ≠ n → q ∈ t.colls)

/-- Steps 4 and 5 (22 R357): cores and octets of `cur`'s partition are at their reset values and what their memories hold is
zero, its windows and the partition are gone; other cores, octets, partitions and all other memory are as they
were. -/
def cleared (s t : State) : Prop :=
  let p := s.partAt s.cur.part
  let mine (a : Nat) : Prop :=
    (∃ c, ofPart s c ∧ ((spKey c 0 ≤ a ∧ a < spKey c 0x100000) ∨ (ringKey c 0 ≤ a ∧ a < ringKey c 0 + 0x100000) ∨
      (tagKey c 0 ≤ a ∧ a < tagKey c 0 + 4096) ∨ (colKey c 0 ≤ a ∧ a < colKey c 0 + 0x100000))) ∨
    ∃ o ∈ p.octets, (accKey o 0 ≤ a ∧ a < accKey o 0 + 2 ^ 19) ∨ (slotKey o 0 0 ≤ a ∧ a < slotKey o 0 0 + 2 ^ 21)
  t.partAt s.cur.part = Part.init ∧ (∀ c, ofPart s c → t.core c = Core.init) ∧ (∀ c, ¬ ofPart s c → t.core c = s.core c) ∧
    (∀ o ∈ p.octets, t.octet o = Octet.init) ∧ (∀ o, o ∉ p.octets → t.octet o = s.octet o) ∧
    (∀ a, mine a → t.mem.read a = 0) ∧ (∀ a, ¬ mine a → t.mem.read a = s.mem.read a) ∧
    t.dev.windows = s.dev.windows.filter (fun w => w.2.1 != s.cur.part) ∧
    ∀ q, q ≠ s.cur.part → t.partAt q = s.partAt q

end Sys2Proof.Spec

section

open Sys2Proof Sys2Proof.Machine

/-! ### Launches -/

/-- 21 R332: launch queues and notify windows. A queue of 2 to 4,096 records is created; a window maps it with its tail from
the notify word; a value that reaches the mapped queue's window is its tail, one for another queue its notify word, and one that names no queue or has reserved bits is counted and
discarded. The notify word holds the last value of either way, so that none is lost at an unmap. No window is numbered
above 31. -/
def Sys2Proof.Spec.queueEvents : Prop :=
  ∀ (s : State),
    let p := s.cur.part
    let w := s.cur.window
    (∀ qid base log, (s.partAt p).present = true → qid < 16 → 1 ≤ log → log ≤ 12 → Spec.queue s qid = none →
      ∃ t, exec (.launchQueueCreate qid base log) s = .next t ∧ Spec.onlyParts s t ∧ Spec.queue t qid = some ⟨base, log, 0, 0, 0, 0⟩ ∧
        ∀ q, q ≠ qid → Spec.queue t q = Spec.queue s q) ∧
    (w < 32 →
      (∀ qid q, Spec.queue s qid = some q → tfind s.dev.windows w = none → (∀ e ∈ s.dev.windows, e.2 ≠ (p, qid)) →
        ∃ t, exec (.notifyWindowMap qid) s = .next t ∧ t = { s with parts := t.parts, dev := t.dev } ∧
          tfind t.dev.windows w = some (p, qid) ∧ Spec.queue t qid = some { q with tail := q.notify }) ∧
      (∃ t, exec .notifyWindowUnmap s = .next t ∧ t = { s with parts := t.parts, dev := t.dev } ∧
        tfind t.dev.windows w = none ∧ t.parts = s.parts) ∧
      (∀ v : Word, (s.partAt p).present = false → exec (.notifyWrite v) s = .next s) ∧
      (∀ v : Word, (s.partAt p).present = true → ∃ t, exec (.notifyWrite v) s = .next t ∧ Spec.onlyParts s t ∧
        let qid := Spec.fieldOf v 63 48
        ((Spec.fieldOf v 47 32 ≠ 0 ∨ Spec.queue s qid = none) → (t.partAt p).discarded = (s.partAt p).discarded + 1 ∧
          (t.partAt p).queues = (s.partAt p).queues) ∧
        (∀ q, Spec.fieldOf v 47 32 = 0 → Spec.queue s qid = some q →
          (tfind s.dev.windows w = some (p, qid) →
            Spec.queue t qid = some { q with tail := Spec.fieldOf v 31 0, notify := Spec.fieldOf v 31 0 }) ∧
          (tfind s.dev.windows w ≠ some (p, qid) → Spec.queue t qid = some { q with notify := Spec.fieldOf v 31 0 })))) ∧
    (32 ≤ w → ∀ qid v, exec (.notifyWindowMap qid) s = .fault .noSuchUnit ∧
      exec .notifyWindowUnmap s = .fault .noSuchUnit ∧ exec (.notifyWrite v) s = .fault .noSuchUnit)

/-- 21 R333, R337 to R339; 09 R194; 22 R358: the acceptance of a record. In RUN, the record at a mapped queue's head is taken
if it lies before the tail, and the head moves on; a core's held record is taken likewise, with its parent's trace
identifier, trace and replay bit. One whose lists are not mapped is refused with RES 3, one whose signature fails, or
whose trace does not match, with RES 2, one with a wrong field with RES 3, a child launch beyond 64 with RES 4, and a
replayed record that is not its trace's next entry for its origin with RES 7, and one whose replay has ended with RES 6;
one that passes every check waits. A record without a trace is none that a replay can have. -/
def Sys2Proof.Spec.acceptEvents : Prop :=
  (∀ (s : State) (qid : Nat) (q : LQueue),
    let p := s.cur.part
    let inOrder := (s.partAt p).tdisp = .run ∧ (s.partAt p).reset = none ∧ (∃ e ∈ s.dev.windows, e.2 = (p, qid)) ∧
      0 < (q.tail + 2 ^ 32 - q.head) % 2 ^ 32 ∧ (q.tail + 2 ^ 32 - q.head) % 2 ^ 32 < 2 ^ 31
    Spec.queue s qid = some q →
    (¬ inOrder → exec (.launchRecordAccept (.queue qid)) s = .next s) ∧
    (∀ r, inOrder → s.fwWords p (q.base.toNat % 2 ^ 48 + 256 * (q.head % 2 ^ q.log)) 32 = some r →
      ∃ t u, exec (.launchRecordAccept (.queue qid)) s = .next t ∧ Spec.onlyPartsLog s u ∧
        (∀ e, (qid, e) ∈ (u.partAt p).queues → ∃ e', (qid, e') ∈ (s.partAt p).queues ∧
          e = { e' with head := (e'.head + 1) % 2 ^ 32, taken := e'.taken + 1 }) ∧
        (∀ res, u.checkRecord p qid (.queue qid) r r 0 q.taken none 0 = .inl res →
          t.reports = s.reports ++ [.endStatus p (BitVec.ofNat 64 (res * 2 ^ 60 + if res = 6 then 6 * 2 ^ 56 else 0))] ∧
            t.parts = u.parts) ∧
        (∀ a, u.checkRecord p qid (.queue qid) r r 0 q.taken none 0 = .inr a → Spec.onlyPartsLog s t ∧
          (t.partAt p).waiting = (s.partAt p).waiting ++ [a] ∧ a.queue = qid ∧ a.seq = q.taken ∧ a.status = none ∧
          a.prio = Spec.fieldOf (r.getD 0 0) 52 51 ∧ a.bind.record = r ∧ a.bind.part = p ∧ a.passed = 0))) ∧
  (∀ (s : State) (p q parent seq core : Nat) (src : LaunchSrc) (sent r : List Word) (st : Option Word) (l : Lists),
    let check := s.checkRecord p q src sent r parent seq st core
    let rpl := (r.getD 0 0).getLsbD 50
    let good := signature sent l s.dev.boot.rlvl = r.getD 25 0 ∧ (rpl = true → (s.traceRead p r).isSome)
    let fits := recordBad r = false ∧ s.listsBad p l (bindOfRecord p src r l) = false ∧
      Spec.fieldOf (r.getD 0 0) 55 53 = p ∧ shapeBad s.dev.id (s.partAt p) r = false
    let children := ((s.partAt p).waiting.filter fun a => a.queue == 16).length
    (s.readLists p r = none → check = .inl 3) ∧
    (s.readLists p r = some l → ¬ good → check = .inl 2) ∧
    (s.readLists p r = some l → good →
      (Spec.fieldOf (r.getD 0 0) 63 56 ≠ 1 ∨ Spec.fieldOf (r.getD 0 0) 48 0 ≠ 0 ∨ 5 < Spec.fieldOf (r.getD 1 0) 63 61 ∨
        Spec.fieldOf (r.getD 0 0) 55 53 ≠ p ∨ r.getD 28 0 ≠ 0 ∨ 4095 < Spec.fieldOf (r.getD 6 0) 32 20 ∨ ¬ fits) → check = .inl 3) ∧
    (s.readLists p r = some l → good → fits → q = 16 → 64 ≤ children → check = .inl 4) ∧
    (∀ t, s.readLists p r = some l → good → fits → (q = 16 → children < 64) → rpl = true → s.traceRead p r = some t →
      (∀ e ∈ t, e.1.toNat % 2 ^ 48 ≠ originWord q parent seq) → check = .inl 7) ∧
    (r.getD 26 0 = 0 → s.traceRead p r = none) ∧
    (∀ t e, s.readLists p r = some l → good → fits → (q = 16 → children < 64) → rpl = true → s.traceRead p r = some t →
      let rp := tget Replay.init (s.partAt p).replays (Spec.fieldOf (r.getD 24 0) 63 32)
      rp.taken = [] → t.head? = some e → e.1.toNat % 2 ^ 48 = originWord q parent seq →
      (rp.stopped = true → check = .inl 6) ∧
      (rp.stopped = false → ∃ a, check = .inr a ∧ a.entry = some (0, e) ∧ a.bind = bindOfRecord p src r l)) ∧
    (s.readLists p r = some l → good → fits → (q = 16 → children < 64) → rpl = false → ∃ a, check = .inr a ∧ a.entry = none ∧
      a.bind = bindOfRecord p src r l ∧ a.image = l.image ∧ a.seq = seq ∧ a.parent = parent ∧ a.status = st)) ∧
  (∀ (s : State) (c p : Nat) (h : HeldLaunch) (rest : List HeldLaunch), (s.core c).launches = h :: rest →
    s.partOfCore c = some p →
    (((s.partAt p).tdisp ≠ .run ∨ (s.partAt p).reset ≠ none) → exec (.launchRecordAccept (.child c)) s = .next s) ∧
    ((s.partAt p).tdisp = .run → (s.partAt p).reset = none →
      ∃ t, exec (.launchRecordAccept (.child c)) s = .next t ∧ (t.core c).launches = rest ∧ (t.core c).regs = (s.core c).regs ∧
        tget 0 (t.partAt p).childCount h.parent = tget 0 (s.partAt p).childCount h.parent + 1)) ∧
  (∀ h : HeldLaunch, h.words.length = 32 → h.trid < 2 ^ 32 → (h.record.getD 0 0).getLsbD 50 = h.rpl ∧
    (∀ i < 64, i ≠ 50 → (h.record.getD 0 0).getLsbD i = (h.words.getD 0 0).getLsbD i) ∧
    h.record.getD 24 0 = BitVec.ofNat 64 (h.trid * 2 ^ 32 + (h.words.getD 24 0).toNat % 2 ^ 32) ∧ h.record.getD 26 0 = h.trc ∧
    ∀ i < 32, i ≠ 0 → i ≠ 24 → i ≠ 26 → h.record.getD i 0 = h.words.getD i 0)

/-- 21 R335, R336, R338, R339; 22 R346: placement. The head record that can be placed first is bound: a pending entry with a
task identifier of its own, or the one of its trace entry, and its image; the next turn is the next partition's and
queue's, its trace grows, and its task has launched no child. One that does not fit its unit is refused with RES 3; a
replayed one whose merge is past ends its replay, whose waiting records all get RES 6, FC 6. A replayed task joins its
groups at the entry's merge, or where it joined each in the traced run (log 91). An evicted domain that is asked to resume is
bound again on the unit it left, by its record's priority among the records (log 53), where an entry is free. What cannot be
placed keeps its place, and a record of PRIO 3 that collides with domains of PRIO 0 and 1 alone asks for their
pre-emption (22 R341). -/
def Sys2Proof.Spec.placeEvents : Prop :=
  (∀ (s : State) (a : Accepted) (rest : List Candidate) (layer unit : Nat),
    (∃ i < 64, (s.bindAt i).st = .free ∧ s.caddyCount i = 0 ∧ s.cirrusCount i = 0) → s.candidates = .record a :: rest →
    s.unitFor a = some (layer, unit) →
    let part := a.bind.part
    let r := a.bind.record
    let id := Spec.fieldOf (r.getD 24 0) 63 32
    (s.replayLate a = true →
      let mine (b : Accepted) : Bool := b.entry.isSome && Spec.fieldOf (b.bind.record.getD 24 0) 63 32 == id
      let l := (s.partAt part).waiting.filter mine
      ∃ t, exec .launchPlacement s = .next t ∧ t.binds = s.binds ∧
        (t.partAt part).waiting = (s.partAt part).waiting.filter (fun b => !mine b) ∧
        (tget Replay.init (t.partAt part).replays id).stopped = true ∧
        t.reports = s.reports ++ l.map fun _ => .endStatus part (BitVec.ofNat 64 (6 * 2 ^ 60 + 6 * 2 ^ 56))) ∧
    (s.replayLate a = false → s.misfit a layer unit = true → a.status = none → ∃ t, exec .launchPlacement s = .next t ∧
      t.binds = s.binds ∧ t.reports = s.reports ++ [.endStatus part (BitVec.ofNat 64 (3 * 2 ^ 60))]) ∧
    (s.replayLate a = false → s.misfit a layer unit = false →
      ∃ t i task mj ta ms, exec .launchPlacement s = .next t ∧ i < 64 ∧ (s.bindAt i).st = .free ∧
        t.bindAt i = { a.bind with
          st := .pending, layer := layer, unit := unit, task := task, mjoin := mj, boundAt := s.ccyc, traceAt := ta, merges := ms } ∧
        (a.entry = none →
          ms = a.bind.merges.map fun q => { q with join := tget 0 (s.partAt part).mergeCount q.base.toNat + 1 }) ∧
        (∀ n e, a.entry = some (n, e) →
          let l := tget [] (s.partAt part).joins ((r.getD 26 0).toNat % 2 ^ 48 + 32 + 16 * n)
          ((l.length = a.bind.merges.length ∧ l.foldl max 1 = mj) →
            ms = (a.bind.merges.zip l).map fun q => { q.1 with join := q.2 }) ∧
          (¬ (l.length = a.bind.merges.length ∧ l.foldl max 1 = mj) →
            ms = a.bind.merges.map fun q => { q with join := mj })) ∧
        tget 0 (t.partAt part).childCount task = 0 ∧
        (∀ j < a.image.length, t.mem.read (imgKey i j) = a.image.getD j 0) ∧ (∀ c, (t.core c) = s.core c) ∧
        (t.partAt part).waiting = (s.partAt part).waiting.erase a ∧ (t.partAt part).turn = a.queue + 1 ∧
        t.dev.nextPart = part + 1 ∧
        (∀ e, a.entry = some e → task = Spec.fieldOf e.2.1 63 48 ∧ mj = Spec.fieldOf e.2.2 31 0) ∧
        (a.entry = none → (s.binds.filter fun k => k.2.part == part && k.2.st != .free).length < 65535 →
          task ≠ 0 ∧ task < 65536 ∧ ∀ k ∈ s.binds, k.2.part = part → k.2.st ≠ .free → k.2.task ≠ task) ∧
        (r.getD 26 0 = 0 ∨ (r.getD 0 0).getLsbD 50 = true → ta = none ∧ (t.partAt part).traces = (s.partAt part).traces) ∧
        (∀ q, r.getD 26 0 ≠ 0 → (r.getD 0 0).getLsbD 50 = false → tfind (s.partAt part).traces id = some q →
          (q.count < q.cap → ta = some (q.ptr.toNat % 2 ^ 48 + 32 + 16 * q.count) ∧
            tfind (t.partAt part).traces id = some { q with count := q.count + 1 }) ∧
          (q.cap ≤ q.count → ta = none ∧ tfind (t.partAt part).traces id = some q)))) ∧
  (∀ (s : State), ((∀ i < 64, ¬ ((s.bindAt i).st = .free ∧ s.caddyCount i = 0 ∧ s.cirrusCount i = 0)) ∨
      ∀ c ∈ s.candidates, s.seatOf c = none) →
    ((∀ c ∈ s.candidates, s.candPrio c ≠ 3) → ∃ t, exec .launchPlacement s = .next t ∧ Spec.onlyParts s t) ∧
    ∀ a, s.candidates = [.record a] → a.prio = 3 → s.unitFor a = none → ∃ t, exec .launchPlacement s = .next t ∧
      t.mem = s.mem ∧ t.cores = s.cores ∧
      ((∀ u ∈ s.recordUnits a, (s.partAt a.bind.part).holdsUnit a.bind.level u.1 u.2 = false) → t.binds = s.binds) ∧
      ∀ u, s.recordUnits a = [u] → (s.partAt a.bind.part).holdsUnit a.bind.level u.1 u.2 = true →
        let meets (k : Bind) : Prop := bindsMeet { a.bind with layer := u.1, unit := u.2 } k = true
        (∀ i k, (i, k) ∈ s.binds → i < 64 → k.st ≠ .free → meets k → Spec.fieldOf (k.rec_ 0) 52 51 ≤ 1) →
        ∀ i k, (i, k) ∈ s.binds → k = s.bindAt i → i < 64 → k.st = .running → meets k →
          (t.bindAt i).preempt = some (k.preempt.getD s.ccyc)) ∧
  (∀ (s : State) (e : Evicted) (rest : List Candidate) (u : Nat × Nat), s.candidates = .evicted e :: rest →
    s.seatOf (.evicted e) = some u → (e.cores.map (·.1)).Nodup →
    u = ((s.bindAt e.index).layer, (s.bindAt e.index).unit) ∧
    ((∃ i < 64, (s.bindAt i).st = .free ∧ s.caddyCount i = 0 ∧ s.cirrusCount i = 0) →
    ∃ t i, exec .launchPlacement s = .next t ∧ i < 64 ∧ (s.bindAt i).st = .free ∧
      (∀ q ∈ e.cores, t.core q.1 = { q.2 with
        bound := some i, last := some i, sendBuf := (s.core q.1).sendBuf, launches := (s.core q.1).launches }) ∧
      (i ≠ e.index → t.bindAt e.index = Bind.init) ∧
      t.bindAt i = { s.bindAt e.index with freeze := (s.bindAt e.index).freeze.map fun f => { f with evicted := false } } ∧
      t.dev.nextPart = (s.bindAt e.index).part + 1)) ∧
  (∀ (s : State), s.candidates.Pairwise fun x y => s.candRank y ≤ s.candRank x) ∧
  ∀ (s : State) (e : Evicted), s.candRank (.evicted e) =
    if 256 ≤ e.passed then 3 else Spec.fieldOf ((s.bindAt e.index).rec_ 0) 52 51

/-! ### Tenancy -/

/-- 22 R354, R355, R357 to R360; 24 R370: a partition is created with what no other one owns; a request, a stopped
interface, a failed IDE stream and a configuration change while the interface is locked ask for its reset, which stops it
in the next cycle, sends fault for a running collective, discards what is in flight, and clears it after that (log 57: the steps' cycles); an interface is locked with sixteen new XTS keys, a GCM key and
its device groups' keys, and then started; and the virtual machine is told its windows, queues and measurements. No
partition is numbered above 7 (log 61). -/
def Obligations.TenancyEvents : Prop :=
  ∀ (s : State),
    let n := s.cur.part
    let p := s.partAt n
    let turned (t : State) (q : Part) : Prop := t = { s with parts := t.parts, dev := t.dev } ∧ t.partAt n = q ∧
      ∀ m, m ≠ n → t.partAt m = s.partAt m
    let asked (i : Instr) (q : Part) : Prop := ∃ t, exec i s = .next t ∧ turned t { q with reset := some (s.ccyc, false) }
    (∀ c : PartCfg, n < 8 →
      (Spec.serves s → s.cfgOk n c = true → ∃ t, exec (.partitionCreate c) s = .next t ∧
        t.dev = s.dev ∧ turned t { Part.init with
          present := true, octets := c.octets, pages := c.pages, tokens := c.tokens, msgToken := c.msgToken,
          ctlToken := c.ctlToken, reportToken := c.reportToken, buffers := c.buffers, groups := c.groups, modes := c.modes }) ∧
      (¬ Spec.serves s ∨ s.cfgOk n c = false → exec (.partitionCreate c) s = .next s)) ∧
    (∀ c : PartCfg, 8 ≤ n → exec (.partitionCreate c) s = .fault .noSuchUnit) ∧
    (p.present = true → p.reset = none → asked .partitionReset p ∧ asked .stopInterface p ∧ asked .ideStreamFailure p ∧
      ((p.tdisp = .configLocked ∨ p.tdisp = .run) → asked .interfaceConfigurationChange { p with tdisp := .error })) ∧
    (∀ c st, p.reset = some (c, st) →
      (s.ccyc ≤ c → exec .partitionReset s = .next s) ∧
      (c < s.ccyc → st = false → ∃ t, exec .partitionReset s = .next t ∧ Spec.stopped s t ∧
        ∀ q, s.runningColls n = [q] → (Spec.groupOf s q).headD 0 ≠ s.dev.id →
          let l := tget 0 s.dev.routes ((Spec.groupOf s q).headD 0)
          (s.link l).up = true → ∃ h, t.reports = s.reports ++ [.groupSent 7 l h]) ∧
      (c < s.ccyc → st = true → ∃ t, exec .partitionReset s = .next t ∧ Spec.cleared s t)) ∧
    (p.present = true → Spec.serves s →
      (p.reset = none → p.tdisp = .configUnlocked → ∃ t, exec .lockInterface s = .next t ∧
        turned t { p with
          tdisp := .configLocked, keys := (List.range 16).map (s.dev.nextKey + ·), gcm := s.dev.nextKey + 16
          groupKeys := p.groups.map fun g => (g.1, Config.groupKey g.1 s.dev.keyGen) } ∧
        t.dev = { s.dev with nextKey := s.dev.nextKey + 17 }) ∧
      (p.reset = none → p.tdisp = .configLocked → ∃ t, exec .startInterface s = .next t ∧ turned t { p with tdisp := .run } ∧
        t.dev = s.dev) ∧
      (∀ key, ∃ t, exec (.ideKm key) s = .next t ∧ turned t { p with ide := some key } ∧ t.dev = s.dev) ∧
      exec .getDeviceInterfaceReport s = .next { s with reports := s.reports ++ [.interfaceReport n
        ((s.dev.windows.filter fun w => w.2.1 == n).map (·.1)) (p.queues.map (·.1))] } ∧
      exec .spdmAttestation s = .next { s with reports := s.reports ++ [.attestation n Config.romVersion s.dev.boot.digest
        (Config.configDigest p.octets p.pages (p.msgToken :: p.ctlToken :: p.reportToken :: p.tokens) p.modes) (Config.attestation n)] })

/-- 21 R332, R333, R335 to R339; 09 R194; 22 R346, R358: launch queues and notify windows, the acceptance of a record, and its
placement. The model's choices are those of log 53 (evicted domains), log 55 (what is checked at acceptance and what at
the bind), log 61 (windows above 31), log 89 (a notify word holds the last TAIL of either window) and log 98 (a held launch
leaves its core's interface when its record is read). -/
def Obligations.LaunchRecords : Prop :=
  Spec.queueEvents ∧ Spec.acceptEvents ∧ Spec.placeEvents

end

namespace Sys2Proof.Spec

open Sys2Proof.Machine

/-! ### Endpoints and messages, as 06 R133, R134 and 22 R352, R353 write them -/

/-- A name's directory entry once core `c` holds no name for a task: its own name is retired, every other is as it was. -/
def retired (c task : Nat) (e : Option DirEnt) : Option DirEnt :=
  e.map fun q => if q.live = some c ∧ q.task = task then { q with live := none } else q

/-- The directory after `mts EPNT` at core `c` leaves `name` live there with generation `g`. -/
def liveAt (d d' : Tab DirEnt) (c task name g : Nat) : Prop :=
  tfind d' name = some ⟨g, some c, task, (c :: ((tfind d name).map (·.locs)).getD []).take 4⟩ ∧
    ∀ n, n ≠ name → tfind d' n = retired c task (tfind d n)

/-- The offset of ring entry `n` in the core's scratchpad (06 R133). -/
def entryAt (n : Nat) : Nat := 0x30000 + 0x200 + 0x200 * (n % 127)

/-- An entry appended to a core's ring: its header, its body and zeros, and TAIL one more; no byte of memory outside the
entry, the reserved bytes and TAIL changes. -/
def appended (s t : State) (c : Nat) (kind len name gen : Nat) (body : List Word) : Prop :=
  let tail := s.mem.readLe (spKey c 0x30000) 8
  let words := BitVec.ofNat 64 (kind * 2 ^ 60 + len * 2 ^ 48 + name * 2 ^ 24 + gen * 2 ^ 16) :: body
  (∀ j < 64, t.mem.readLe (spKey c (entryAt tail + 8 * j)) 8 = (words.getD j 0).toNat) ∧
    t.mem.readLe (spKey c 0x30000) 8 = (tail + 1) % 2 ^ 64 ∧
    ∀ a, (a < spKey c 0x30000 ∨ (spKey c 0x30008 ≤ a ∧ a < spKey c 0x30010) ∨
        (spKey c 0x30200 ≤ a ∧ a < spKey c (entryAt tail)) ∨ spKey c (entryAt tail + 0x200) ≤ a) →
      t.mem.read a = s.mem.read a

/-- The cycle in which a fate reaches its sender: a hop of one revolution after the partition's next token slot for reports
(22 R353, R355; log 48). -/
def backAt (p : Part) (now due : Nat) : Prop := now + 64 < due ∧ due ≤ now + 128 ∧ due % 64 = 2 * p.reportToken % 64

/-- Whether a core holds a registered endpoint (06 R133). -/
def endpoint (s : State) (c : Nat) : Prop := heldBy s c ≠ none

/-- Fewer than 127 entries of a core's ring are unconsumed. -/
def room (s : State) (c : Nat) : Prop :=
  (s.mem.readLe (spKey c 0x30000) 8 + 2 ^ 64 - s.mem.readLe (spKey c 0x30008) 8) % 2 ^ 64 < 127

end Sys2Proof.Spec

section

open Sys2Proof Sys2Proof.Machine

/-! ### Messages -/

/-- 22 R352: what a write of `EPNT` does in its cycle, by R352's cases (log 47: a core's own live name, and NAME after a
refusal); ST is readable one cycle later. -/
def Sys2Proof.Spec.endpointEvents : Prop :=
  (∀ (s : State) (e : AEnt) (rest : List AEnt) (c : Nat) (v : Word), s.agenda = e :: rest → e.due ≤ s.ccyc →
    e.ev = .epnt c v →
    let p := s.corePart c
    let task := (s.bindAt (s.bindOf c)).task
    let d := (s.partAt p).directory
    let name := Spec.fieldOf v 31 8
    ∃ t st, exec .epntWrite s = .next t ∧
      t = { s with agenda := t.agenda, seq := t.seq, parts := t.parts, cores := t.cores } ∧
      (t.core c).regs = (s.core c).regs ∧ (t.core c).ctl.epName.toNat = name ∧
      (∃ k, (⟨s.ccyc + 1, 1, k, .epntSt c st⟩ : AEnt) ∈ t.agenda) ∧
      let d' := (t.partAt p).directory
      let put (g : Nat) : Prop := Spec.liveAt d d' c task name g ∧ st = 1 ∧ (t.core c).ctl.epGen = BitVec.ofNat 8 g
      (name = 0 → (∀ n, tfind d' n = Spec.retired c task (tfind d n)) ∧ st = 0) ∧
      (name ≠ 0 → v.getLsbD 61 = true →
        (∀ q, tfind d name = some q → q.live ≠ none → q.task = task → put q.gen) ∧
        ((∀ q, tfind d name = some q → q.live ≠ none → q.task ≠ task) → d' = d ∧ st = 2)) ∧
      (name ≠ 0 → v.getLsbD 61 = false →
        (∀ q o, tfind d name = some q → q.live = some o → o ≠ c → d' = d ∧ st = 2) ∧
        (∀ q, tfind d name = some q → q.live = none → put ((q.gen + 1) % 256)) ∧
        ((∀ q, tfind d name = some q → q.live = some c) →
          (d.length < 4096 → put 0) ∧ (4096 ≤ d.length → d' = d ∧ st = 3)))) ∧
  (∀ (s : State) (e : AEnt) (rest : List AEnt) (c : Nat) (st : BitVec 2), s.agenda = e :: rest → e.due ≤ s.ccyc →
    e.ev = .epntSt c st → ∃ t, exec .epntWrite s = .next t ∧ t = { s with agenda := rest, cores := t.cores } ∧
      (∀ c', c' ≠ c → t.core c' = s.core c') ∧ t.core c = { s.core c with ctl := { (s.core c).ctl with epSt := st } })

/-- 06 R133, R134; 22 R353: a buffered message leaves on its partition's token slot for the location that the directory
gave at the `send`, or is *lost* where the name was unknown then. At a location that its name has left it goes on to the
next one, a hop in one revolution, and after four hops is *lost*; at the name's current location a retired name
answers *retired*, another generation *stale*, a core without the endpoint *lost* (log 69) and a full ring *full*; else it
is appended. A fate goes back to the sender, whose ring takes it as an entry if it holds an endpoint and is not full. Of
two messages of one sender to one name the older one comes first. The times of hops and reports are log 48's, a location
that is not listed log 47's. -/
def Sys2Proof.Spec.messageEvents : Prop :=
  ∀ (s : State),
    let late := s.ccyc + 64
    (s.tokenDue s.cur.part = true → ∀ c m rest, s.nextSender s.cur.part = some c → (s.core c).sendBuf = m :: rest →
      ∃ t n, exec .messageTokenSend s = .next t ∧ t = { s with cores := t.cores, net := s.net ++ [n], parts := t.parts } ∧
        t.core c = { s.core c with sendBuf := rest } ∧ (∀ c', c' ≠ c → t.core c' = s.core c') ∧
        (∀ l, m.dest = some l → n = ⟨s.cur.part, c, 0, m.name.toNat, m.gen.toNat, m.own, m.body, l, 0, late⟩) ∧
        (m.dest = none → Spec.backAt (s.partAt s.cur.part) s.ccyc n.due ∧
          n = ⟨s.cur.part, c, 3, m.name.toNat, m.gen.toNat, m.own, m.body, c, 0, n.due⟩)) ∧
    (∀ i, s.arrivalDue = some i → ∃ m, s.net[i]? = some m ∧ m.due ≤ s.ccyc ∧
      (m.kind = 0 → ∀ j q, j < i → s.net[j]? = some q → q.kind = 0 → q.sender = m.sender → q.name ≠ m.name)) ∧
    (∀ i m, s.arrivalDue = some i → s.net[i]? = some m →
      let put (n : NetMsg) : Prop := exec .messageArrival s = .next { s with net := s.net.set i n }
      let back (kind : Nat) : Prop := ∃ due, Spec.backAt (s.partAt m.part) s.ccyc due ∧
        put { m with kind := kind, target := m.sender, hops := 0, due := due }
      let hop (k : Nat) : Prop := (m.hops < 4 → put { m with target := k, hops := m.hops + 1, due := late }) ∧ (4 ≤ m.hops → back 3)
      let gone (t : State) : Prop := exec .messageArrival s = .next t ∧ t.net = s.net.eraseIdx i ∧ t.cores = s.cores
      (m.kind ≠ 0 →
        (Spec.endpoint s m.target → Spec.room s m.target → m.name < 2 ^ 24 → m.gen < 2 ^ 8 → m.kind < 16 → ∃ t,
          gone t ∧ Spec.appended s t m.target m.kind 0 m.name m.gen []) ∧
        (¬ Spec.endpoint s m.target ∨ ¬ Spec.room s m.target → ∃ t, gone t ∧ t.mem = s.mem)) ∧
      (m.kind = 0 →
        (tfind (s.partAt m.part).directory m.name = none → back 3) ∧
        ∀ e, tfind (s.partAt m.part).directory m.name = some e →
          (∀ k j, e.locs[j + 1]? = some m.target → e.locs.idxOf m.target = j + 1 → e.locs[j]? = some k → hop k) ∧
          (∀ k, m.target ∉ e.locs → e.locs.getLast? = some k → hop k) ∧
          (e.locs[0]? = some m.target →
            let held := ∃ q, Spec.heldBy s m.target = some (m.name, q)
            (e.live ≠ some m.target → back 1) ∧
            (e.live = some m.target → m.gen ≠ e.gen → back 2) ∧
            (e.live = some m.target → m.gen = e.gen → ¬ held → back 3) ∧
            (e.live = some m.target → m.gen = e.gen → held → ¬ Spec.room s m.target → back 4) ∧
            (e.live = some m.target → m.gen = e.gen → held → Spec.room s m.target → 1 ≤ m.body.length → m.body.length ≤ 32 →
              ∃ t, gone t ∧ Spec.appended s t m.target 0 (m.body.length - 1) (m.own.toNat / 256) (m.own.toNat % 256) m.body))))

/-- 13 R237 to R239: the leader's word that reaches a follower. The leader's `trap 0` ends a core that follows; a due core
takes the word; one that is parked, or whose cycle is the sweep stream's, misses it and leaves the contrail (log 22), and
so does one that is inside its own hold or window operation (log 103). -/
def Obligations.ContrailEvents : Prop :=
  ∀ (s : State) (i : Issued),
    let c := s.cur.core
    let h := s.cur.half
    s.followDue c h = true → s.arriving c h = some i →
    ∃ t, exec .contrailFollowerIssue s = .next t ∧ t = { s with cores := t.cores } ∧ (∀ c', c' ≠ c → t.core c' = s.core c') ∧
      (t.core c).regs = (s.core c).regs ∧
      (s.me.follows = true → i.ends = true → t.stream c h = { s.me with run := .ended, pend := [], pending := none, skip := 0 }) ∧
      (s.me.follows = false ∨ i.ends = false →
        (s.me.run = .due → s.mayIssue c h = true →
          t.stream c h = { s.me with follows := true, taken := some (i.addr, i.bits), pc := i.addr }) ∧
        (s.me.run = .due → s.mayIssue c h = false → t.stream c h = { s.me with follows := false, pc := i.addr }) ∧
        (s.me.run ≠ .due → t.stream c h = { s.me with follows := false }))

/-- 14 R258: the host answers a miss with an item, which is installed for the transfer's octet unless it overlaps another
entry (domain fault 4), or ends the domain. The host's answers come as inputs (log 60), and an install concerns the
octet that missed (log 29). -/
def Obligations.HostPageEvents : Prop :=
  ∀ (s : State) (x : Xfer), s.xfer s.cur.xfer = some x → s.hostMiss x = true →
    let k := s.bindAt x.bind
    (∀ it : PageItem, (∀ e ∈ k.window (coreOctet x.core), e.1 ≠ it.entry.toNat → e.2.1.getLsbD 63 = true → it.w0.getLsbD 63 = true →
        pageBase e.2.1 + pageSize e.2.1 ≤ pageBase it.w0 ∨ pageBase it.w0 + pageSize it.w0 ≤ pageBase e.2.1) →
      ∃ t, exec (.hostPageItem (some it)) s = .next t ∧ t = { s with binds := t.binds, xfers := t.xfers } ∧
        t.bindAt x.bind = { k with installs := k.installs ++ [(coreOctet x.core, it.entry.toNat, it.w0, it.w1)] }) ∧
    (∀ (it : PageItem) e, e ∈ k.window (coreOctet x.core) → e.1 ≠ it.entry.toNat → e.2.1.getLsbD 63 = true →
      it.w0.getLsbD 63 = true → pageBase e.2.1 < pageBase it.w0 + pageSize it.w0 →
      pageBase it.w0 < pageBase e.2.1 + pageSize e.2.1 → k.fault = none →
      ∃ t f, exec (.hostPageItem (some it)) s = .next t ∧ t.mem = s.mem ∧ t.cores = s.cores ∧
        t.bindAt x.bind = { k with fault := some f } ∧ f.fc = 4 ∧ f.core = x.core) ∧
    (k.st ≠ .free → k.st ≠ .pending → k.ending = none → ∃ t, exec (.hostPageItem none) s = .next t ∧ t.mem = s.mem ∧
      ((∀ f, k.fault = some f → ¬ Spec.firmwareEnds k f) → (t.bindAt x.bind).ending = some 5) ∧
      ∀ f, k.fault = some f → Spec.firmwareEnds k f → (t.bindAt x.bind).ending = some f.fc)

/-- 06 R133, R134; 22 R352, R353: endpoint names, and the way of a message from the send buffer to a ring, with its
fates. Readings of the model: the time of a hop and of a fate (log 48), a name at an evicted domain (log 69), and the zeros of
an entry past its body (log 111). -/
def Obligations.MessagesArrive : Prop :=
  Spec.endpointEvents ∧ Spec.messageEvents

end

namespace Sys2Proof.Spec

open Sys2Proof.Machine

/-! ### Over hours, as 13 R245 and 24 write it -/

/-- Nothing but the boot status changes, to `f` of what it was. -/
def booted (s t : State) (f : BootSt → BootSt) : Prop := t = { s with dev := { s.dev with boot := f s.dev.boot } }

/-- Boot stops with a failure code: PHASE 15 (24 R367). -/
def failed (code : Nat) (b : BootSt) : BootSt := { b with phase := 15, fail := code }

/-- Seconds of the arithmetic clock, in cycles: N sixteenths of 1.75 GHz (13 R245). -/
def seconds (s : State) (n : Nat) : Nat := n * 1750000000 * s.dev.clock.n / 16

/-- An image whose signature and key the boot ROM accepts (24 R365, log 74). -/
def signed (i : BootImage) : Prop :=
  keyDigestOf i.modulus i.exponent = Config.keyDigest ∧ pssVerify i.modulus i.exponent (sha256 i.bytes) i.signature = true

/-- A failing core leaves its layer unrepairable: its row skips another core (24 R369). -/
def hopeless (s : State) (c : Nat × Nat × Nat) : Prop :=
  let f := tget Fuse.init s.dev.fuses (c.1 * 32 + c.2.1)
  f.skip = true ∧ f.pcol ≠ c.2.2

/-- The group in which the boot ROM asks for an image: its version and the fused key digest (24 R366, log 24). -/
def bootRequest (s : State) (g : FlitGroup) : Prop :=
  g.seq = 0 ∧ g.part = 0 ∧ g.beat = 0 ∧ g.src = BitVec.ofNat 16 s.dev.id ∧ g.nid = 0 ∧ g.ep = 0 ∧
    g.data = BitVec.ofNat 2048 (Config.romVersion.toNat + Config.keyDigest.toNat * 2 ^ 16)

/-- An image as 256-byte beats carry it (24 R366): padded with zeros to whole beats. -/
def beatsOf (bs : List Byte) : List Byte :=
  (List.range ((bs.length + 255) / 256 * 256)).map fun i => bs.getD i 0

/-- The sum modulo 2^32 of the 32-bit words of an image's whole groups of 128 bytes (25 R384). -/
def imageSum (code : List Byte) : Nat :=
  ((List.range (code.length / 128 * 32)).map fun i => ofBytes ((code.drop (4 * i)).take 4)).sum % 2 ^ 32

/-- The groups that a report list shows as sent, of KIND 14. -/
def sentBoot (l : List Report) : List FlitGroup :=
  l.filterMap fun r => match r with | .groupSent 14 _ g => some g | _ => none

/-- A memory of the compute assembly: neither HBM nor the host's. -/
def ofAssembly (key : Nat) : Prop := key / 2 ^ 60 ≠ 4 ∧ key / 2 ^ 60 ≠ 5

/-- The module leaves service: a reset of every partition is asked for, and the boot status reads PHASE 15 with a failure
code when none is left (22 R357, 24 R375, R379). -/
def outOfService (s t : State) (code : Nat) : Prop :=
  ((∀ e ∈ s.parts, e.2.present = false) → t.parts = s.parts ∧ t.dev.boot.phase = 15 ∧ t.dev.boot.fail = code ∧ t.dev.boot.leaving = none) ∧
  ((∃ e ∈ s.parts, e.2.present = true) → t.dev.boot.phase = s.dev.boot.phase ∧ t.dev.boot.leaving = some code) ∧
  (∀ p, (t.partAt p).present = (s.partAt p).present) ∧
  ∀ p, (s.partAt p).present = true →
    t.partAt p = { s.partAt p with reset := if (s.partAt p).reset = none then some (s.ccyc, false) else (s.partAt p).reset }

/-- A chip mark whose removals and dispatch are still to be made (13 R226). -/
def chipMark (s : State) : Prop := s.ccyc % 2 ^ Config.cmlog = 0 ∧ s.dev.lastChip ≠ s.ccyc + 1

/-- A domain that dispatch starts at this chip mark joins the merges of its regions at the next one, unless it is replayed
(16 R291, 21 R338, R339). -/
def joined (s : State) (k : Bind) : Bind :=
  if (k.rec_ 0).getLsbD 50 = true then k
  else { k with
    mjoin := (k.merges.map fun r => tget 0 (s.partAt k.part).mergeCount r.base.toNat + 1).foldl max 1
    merges := k.merges.map fun r => { r with join := tget 0 (s.partAt k.part).mergeCount r.base.toNat + 1 } }

/-- A core's counters let it be bound: nothing that its previous entry has begun is in flight (22 R356). -/
def coreDone (s : State) (c : Nat) : Prop :=
  (s.core c).bound = none ∧ ∀ i, (s.core c).last = some i → s.caddyCount i = 0 ∧ s.cirrusCount i = 0

/-- A chip mark whose clock step is still to be made: it comes after the words of the cycle (13 R245). -/
def clockMark (s : State) : Prop := s.ccyc % 2 ^ Config.cmlog = 0 ∧ s.dev.lastClock ≠ s.ccyc + 1

/-- The clock with a count requested: for the next chip mark, and in a mark's own cycle for the one after it (13 R245). -/
def requested (s : State) (n : Nat) (k : Clock) : Prop :=
  (¬ clockMark s → k = { s.dev.clock with next := n }) ∧ (clockMark s → k = { s.dev.clock with late := some n })

/-- The device with the requested clock count. -/
def asked (s t : State) (n : Nat) : Prop :=
  t = { s with dev := { s.dev with clock := t.dev.clock } } ∧ requested s n t.dev.clock

/-- The thermal counts after an evaluation: for how many in a row the step-up figures have held, and for how many a
step-down condition with N at 8. -/
def counted (s : State) (hot hbm power : Nat) : Thermal :=
  { upFor := if hot < 92 ∧ power < 3400 then s.dev.thermal.upFor + 1 else 0,
    downFor := if (100 < hot ∨ 95 < hbm ∨ 3600 < power) ∧ s.dev.clock.n = 8 then s.dev.thermal.downFor + 1 else 0 }

end Sys2Proof.Spec

section

open Sys2Proof Sys2Proof.Machine

/-! ### Boot and hours -/

/-- 24 R365 to R369: each step of boot starts when the one before it has succeeded: the fuse map (FAIL 1), the image, of at
most 16 MiB, its signature under the fused key (FAIL 3) and its version (FAIL 4), the measurements, and training, which
zeroes every memory of the compute assembly (FAIL 5; FAIL 7 where a core fails in a row that skips another). Ten seconds
without an image turn the fetch to fibre 0, over which a KIND 14 group asks for one, and ten more without a beat of one fail it
(FAIL 2). A device in phase 5 whose host allows it answers such a group for its own key digest with its image, in order,
as far as its replay buffer holds what is not acknowledged; the device that asked takes the beats in order. At the end
the code of the image is in every core of layer 0, with each core's record and a copy of it (25 R384). A repair is blown
only in a row that skips nothing, and one that is blown and not yet in force counts as a skip (log 87). The model's choices: what a request holds (log 24), what a failed step leaves (log 59),
a place that is no core (log 61), which events the host gives (log 62), the signature's forms (log 74), the event that says
an image is whole (log 76), that the flood takes no cycles (log 85), and the numbers of the rings
(log 109). -/
def Obligations.BootEvents : Prop :=
  ∀ (s : State),
    let b := s.dev.boot
    (b.phase = 0 → ∃ t, exec (.boot none) s = .next t ∧
      (s.dev.fuseMapOk = true → Spec.booted s t fun b => { b with phase := 1 }) ∧
      (s.dev.fuseMapOk = false → Spec.booted s t (Spec.failed 1))) ∧
    (∀ i, b.phase = 1 →
      let came := i.bytes.length ≤ 2 ^ 24 ∧ (b.fibre = none ∨ Spec.beatsOf i.bytes = b.fetched)
      (came → ∃ t, exec (.boot (some i)) s = .next t ∧ Spec.booted s t fun b => { b with phase := 2, image := some i }) ∧
      (¬ came → exec (.boot (some i)) s = .next s)) ∧
    (∀ i, b.image = some i →
      (b.phase = 2 → ∃ t, exec (.boot none) s = .next t ∧
        (¬ Spec.signed i → Spec.booted s t (Spec.failed 3)) ∧
        (Spec.signed i → i.svn.toNat < Config.minVersion.toNat → Spec.booted s t (Spec.failed 4)) ∧
        (Spec.signed i → Config.minVersion.toNat ≤ i.svn.toNat → Spec.booted s t fun b => { b with phase := 3 })) ∧
      (b.phase = 3 → ∃ t, exec (.boot none) s = .next t ∧
        Spec.booted s t fun b =>
          { b with phase := 4, rlvl := i.rlvl, svn := i.svn, digest := digest256 i.bytes,
                   keyDigest := keyDigestOf i.modulus i.exponent, running := i.bytes }) ∧
      (b.phase = 4 → ∃ t, exec (.boot none) s = .next t ∧
        let hopeless := ∃ c ∈ i.badCores ++ s.dev.failing, Spec.hopeless s c
        (i.trains = false → Spec.booted s t (Spec.failed 5)) ∧
        (i.trains = true → hopeless → Spec.booted s t (Spec.failed 7)) ∧
        (i.trains = true → ¬ hopeless → t.dev.boot = { b with phase := 5, image := none } ∧
          (i.code = [] → ∀ a, Spec.ofAssembly a → t.mem.read a = 0) ∧
          (∀ a, Spec.ofAssembly a → (∀ n < 1024, ¬ (spKey n 0 ≤ a ∧ a < spKey n 0x100000)) → t.mem.read a = 0) ∧
          (i.code ≠ [] → i.code.length % 64 = 0 → i.code.length ≤ 16512 → ∀ n < 1024,
            (∀ k < i.code.length, t.mem.read (spKey n (256 + k)) = i.code.getD k 0) ∧
            t.mem.readLe (spKey n 0) 8 = 2 ^ 32 + n / 32 * 2 ^ 16 + n % 32 ∧
            ∀ j ∈ [spKey n 64, spKey 0 (0x10000 + 64 * n)], t.mem.readLe j 8 = 2 ^ 32 + n / 32 * 2 ^ 16 + n % 32 ∧
              t.mem.readLe (j + 8) 8 = (s.coreId n).toNat ∧ t.mem.readLe (j + 16) 8 = Spec.imageSum i.code) ∧
          (∀ a, ¬ Spec.ofAssembly a → t.mem.read a = s.mem.read a) ∧
          (∀ l < 64, t.link l = { Link.init with up := true, lastAck := s.ccyc }) ∧
          (∀ c ∈ i.badCores ++ s.dev.failing, c ∈ t.dev.failing) ∧
          (∀ l d, (∃ l₁ l₂, i.wiring = l₁ ++ (l, d) :: l₂ ∧ ∀ q ∈ l₂, q.1 ≠ l) → tget (0, 0) t.dev.wiring l = d) ∧
          (∀ die dest l, (∃ l₁ l₂, i.routes = l₁ ++ (die, dest, l) :: l₂ ∧
            ∀ q ∈ l₂, q.1 * 2 ^ 16 + q.2.1 ≠ die * 2 ^ 16 + dest) → tget 0 t.dev.routes (die * 2 ^ 16 + dest) = l)))) ∧
    ((b.phase = 5 ∨ b.phase = 15) → ∃ t, exec (.boot none) s = .next t ∧ t.ccyc = 0 ∧ t.cores = [] ∧ t.parts = [] ∧
      t.binds = [] ∧ t.dev.boot.image = none ∧ t.dev.id = s.dev.id ∧ t.dev.failing = s.dev.failing ∧
      (∀ r, tfind s.dev.fuseNext r = none → tget Fuse.init t.dev.fuses r = tget Fuse.init s.dev.fuses r) ∧
      ((s.dev.fuseNext.map (·.1)).Nodup → ∀ r f, (r, f) ∈ s.dev.fuseNext → tget Fuse.init t.dev.fuses r = f) ∧
      (∀ a, a / 2 ^ 60 = 5 → t.mem.read a = s.mem.read a) ∧ (∀ a, a / 2 ^ 60 ≠ 5 → t.mem.read a = 0) ∧
      (s.dev.fuseMapOk = true → t.dev.boot.phase = 1 ∧ t.dev.boot.fail = 0) ∧
      (s.dev.fuseMapOk = false → t.dev.boot.phase = 15 ∧ t.dev.boot.fail = 1)) ∧
    (¬ (b.phase = 1 ∧ b.fetched = [] ∧ b.fibre.getD 0 + Spec.seconds s 10 ≤ s.ccyc) → exec .bootFetchTimeout s = .next s) ∧
    (b.phase = 1 → b.fetched = [] → (b.fibre = none → Spec.seconds s 10 ≤ s.ccyc → ∃ t g, exec .bootFetchTimeout s = .next t ∧
        Spec.bootRequest s g ∧ t = { s with dev := t.dev, reports := s.reports ++ [.groupSent 14 0 g] } ∧
        t.dev.boot = { b with fibre := some s.ccyc } ∧ (∃ r, tget 0 t.dev.heaters r = Config.bootHeater ∧
          ∀ x, x ≠ r → tget 0 t.dev.heaters x = tget 0 s.dev.heaters x) ∧ (t.link 0).up = true ∧ (t.link 0).txSeq = 1 ∧ (t.link 0).rxSeq = 0 ∧
        (t.link 0).replay = [(0, 14, g)] ∧ ∀ l, l ≠ 0 → t.link l = s.link l) ∧
      (∀ c, b.fibre = some c → c + Spec.seconds s 10 ≤ s.ccyc → ∃ t, exec .bootFetchTimeout s = .next t ∧
        Spec.booted s t (Spec.failed 2))) ∧
    (∀ g : FlitGroup,
      let k := s.link s.cur.link
      let ahead := g.seq - BitVec.ofNat 32 k.rxSeq
      let got (t : State) : Prop := t = { s with
        dev := { s.dev with links := tset s.dev.links s.cur.link { k with rxSeq := (k.rxSeq + 1) % 2 ^ 32 } },
        reports := s.reports ++ [.linkControl s.cur.link false g.seq] }
      let answers := b.phase = 5 ∧ b.leaving = none ∧ s.dev.bootService = true ∧ g.data.extractLsb' 16 256 = b.keyDigest
      let fetches := b.phase = 1 ∧ b.fibre ≠ none ∧ s.cur.link = 0 ∧ 256 * g.beat.toNat = b.fetched.length ∧
        g.beat.toNat < 2 ^ 16
      (k.up = false → exec (.bootService g) s = .next s) ∧
      (k.up = true → k.rxSeq < 2 ^ 32 →
        (ahead = 0 → ¬ answers → ¬ fetches → ∃ t, exec (.bootService g) s = .next t ∧ got t) ∧
        (ahead = 0 → fetches → ∃ t u, got u ∧ exec (.bootService g) s = .next t ∧
          Spec.booted u t fun b => { b with fetched := b.fetched ++ (List.range 256).map fun j => g.data.extractLsb' (8 * j) 8 }) ∧
        (ahead = 0 → answers → k.acked = k.txSeq → k.txSeq < 2 ^ 32 → ∃ t u, got u ∧ exec (.bootService g) s = .next t ∧
          t = { u with dev := t.dev, reports := t.reports } ∧
          t.dev = { u.dev with links := t.dev.links, boot := { u.dev.boot with serving := t.dev.boot.serving } } ∧
          t.dev.boot.serving = (if (b.running.length + 255) / 256 ≤ 1024 then none else some (s.cur.link, 1024)) ∧
          (∃ l, t.reports = u.reports ++ l ∧ l.length = min 1024 ((b.running.length + 255) / 256) ∧
            (Spec.sentBoot l).length = l.length ∧
            ∀ n q, (Spec.sentBoot l)[n]? = some q →
              q.beat = BitVec.ofNat 32 n ∧ q.data = BitVec.ofNat 2048 (ofBytes ((b.running.drop (256 * n)).take 256)))) ∧
        (ahead ≠ 0 → exec (.bootService g) s = .next { s with reports := s.reports ++
          [if ahead.toNat < 2 ^ 31 then .linkControl s.cur.link true (BitVec.ofNat 32 k.rxSeq)
           else .linkControl s.cur.link false g.seq] }))) ∧
    (∀ layer row pcol,
      let r := layer * 32 + row
      let legal := layer < 4 ∧ row < 32 ∧ pcol < 33
      let fails (t : State) : Prop := t = { s with dev := { s.dev with failing := t.dev.failing, fuseNext := t.dev.fuseNext } } ∧
        (layer, row, pcol) ∈ t.dev.failing ∧ ∀ c, c ≠ (layer, row, pcol) → (c ∈ t.dev.failing ↔ c ∈ s.dev.failing)
      (legal → (tget Fuse.init s.dev.fuses r).skip = false → (tget Fuse.init s.dev.fuseNext r).skip = false →
        ∃ t, exec (.fuseRepair layer row pcol) s = .next t ∧ fails t ∧ tget Fuse.init t.dev.fuseNext r = ⟨true, true, pcol⟩ ∧
          ∀ r', r' ≠ r → tget Fuse.init t.dev.fuseNext r' = tget Fuse.init s.dev.fuseNext r') ∧
      (legal → ((tget Fuse.init s.dev.fuses r).skip = true ∨ (tget Fuse.init s.dev.fuseNext r).skip = true) →
        ∃ t, exec (.fuseRepair layer row pcol) s = .next t ∧ fails t ∧ t.dev.fuseNext = s.dev.fuseNext) ∧
      (¬ legal → exec (.fuseRepair layer row pcol) s = .fault .noSuchUnit))

/-- 13 R226, R245; 24 R374, R375, R377 to R379: at a chip mark removed wavelengths go, and after the words of its cycle the
clock takes a requested count of 8 to 16; a channel of fewer than 24 resets every partition and fails the module.
Heaters take what the taps or the host give. Above the figures N falls by one, well below them for 10 ms it rises by
one; a trip, or 100 ms above them with N at 8, resets every partition and fails the module. The model's choices: the
cycles of a reset's steps (log 57), a channel or wavelength that does not exist (log 61), and which events of sensors and
firmware are inputs (log 62). -/
def Obligations.ClockEvents : Prop :=
  ∀ (s : State),
    let k := s.dev.clock
    (Spec.chipMark s →
      let after := s.dev.removals.foldl (fun t q => tset t q.1 ((tget [] t q.1).insert q.2)) s.dev.wavelengths
      let fails := Spec.serves s ∧ ∃ e ∈ after, 32 - 24 < e.2.length
      ∃ t, exec .chipMark s = .next t ∧ t.dev.clock = k ∧ t.dev.wavelengths = after ∧ t.dev.removals = [] ∧
        (fails → Spec.outOfService s t 8) ∧ (¬ fails → t.dev.boot = s.dev.boot)) ∧
    (¬ Spec.chipMark s → Spec.clockMark s →
      ∃ t, exec .chipMark s = .next t ∧ t = { s with dev := { s.dev with clock := t.dev.clock, lastClock := s.ccyc + 1 } } ∧
        t.dev.clock = ⟨k.next, k.late.getD k.next, if k.next = k.n then k.steps else (k.steps + 1) % 2 ^ 32, none⟩) ∧
    (¬ Spec.chipMark s → ¬ Spec.clockMark s → exec .chipMark s = .next s) ∧
    (∀ n, (8 ≤ n → n ≤ 16 → ∃ t, exec (.clockStepRequest n) s = .next t ∧ Spec.asked s t n) ∧
      ((n < 8 ∨ 16 < n) → exec (.clockStepRequest n) s = .next s)) ∧
    (∀ ch w, (ch < 128 → w < 32 → exec (.wavelengthRemoval ch w) s =
        .next { s with dev := { s.dev with removals := s.dev.removals ++ [(ch, w)] } }) ∧
      ((128 ≤ ch ∨ 32 ≤ w) → exec (.wavelengthRemoval ch w) s = .fault .noSuchUnit)) ∧
    (∀ l : List (Nat × Nat),
      (s.dev.heaterHost = false → ∃ t, exec (.heaterTuning l) s = .next t ∧
        t = { s with dev := { s.dev with heaters := t.dev.heaters } } ∧
        ∀ r x, (r, x) ∈ l → (∀ q ∈ l, q.1 = r → q.2 = x) → tget 0 t.dev.heaters r = Config.heaterSetting r x) ∧
      (s.dev.heaterHost = true → exec (.heaterTuning l) s = .next { s with reports := s.reports ++ [.taps l] }) ∧
      (s.dev.heaterHost = true → ∃ t, exec (.hostHeaterSettings l) s = .next t ∧
        t = { s with dev := { s.dev with heaters := t.dev.heaters } } ∧
        (∀ r x, (r, x) ∈ l → (∀ q ∈ l, q.1 = r → q.2 = x) → tget 0 t.dev.heaters r = x) ∧
        ∀ r, (∀ q ∈ l, q.1 ≠ r) → tget 0 t.dev.heaters r = tget 0 s.dev.heaters r) ∧
      (s.dev.heaterHost = false → exec (.hostHeaterSettings l) s = .next s)) ∧
    (∀ hot hbm power, (¬ Spec.serves s → exec (.thermalEvaluation hot hbm power) s = .next s) ∧ (Spec.serves s →
      let d := Spec.counted s hot hbm power
      let down := 100 < hot ∨ 95 < hbm ∨ 3600 < power
      let trip := 110 ≤ hot ∨ 105 ≤ hbm ∨ 1000 < d.downFor
      let became (t : State) (n : Nat) : Prop :=
        t = { s with dev := { s.dev with thermal := d, clock := t.dev.clock } } ∧ Spec.requested s n t.dev.clock
      ∃ t, exec (.thermalEvaluation hot hbm power) s = .next t ∧
        (trip → t.dev.thermal = d ∧ t.dev.clock = k ∧ Spec.outOfService s t 6) ∧
        (¬ trip → down → 9 ≤ k.n → k.n ≤ 16 → became t (k.n - 1)) ∧
        (¬ trip → down → k.n = 8 → became t 8) ∧
        (¬ trip → ¬ down → 100 < d.upFor → 8 ≤ k.n → k.n < 16 → became t (k.n + 1)) ∧
        (¬ trip → ¬ down → 100 < d.upFor → k.n = 16 → became t 16) ∧
        (¬ trip → ¬ down → d.upFor ≤ 100 → t = { s with dev := { s.dev with thermal := d } })))

/-- 01 R14; 06 R123, R130; 08 R165; 13 R226; 21 R336; 22 R356: a chip mark starts an entry that was pending by the end of the
cycle before, whose cores are free and have nothing of their previous entry in flight. Its MCYC is 0; every stream is
due; `g1` to `g7` hold the record's parameters, `a0` and `a1` the pointers to the core's scratchpad and near column, and
every other register is zero; its arrival tags and stage window read zero; and its accumulator slots are zero, FP32 and
given to it. The cores keep what their network interfaces hold. The entry of a kernel that has ended reads ST 5 from the
chip mark on, whatever has it frozen (log 72). -/
def Obligations.DispatchEvents : Prop :=
  ∀ (s : State) (b : Nat), Spec.chipMark s → s.dev.removals = [] → (∀ e ∈ s.dev.wavelengths, e.2.length ≤ 8) →
    let k := s.bindAt b
    (b < 64 → (∀ e ∈ s.binds, e.2.st ≠ .pending) → k.ended = true → k.ending = none →
      (k.st = .running ∨ k.st = .held ∨ k.st = .frozen) →
      ∃ t, exec .chipMark s = .next t ∧ t.bindAt b = { k with st := .ended, freeze := none } ∧ t.cores = s.cores ∧
        t.mem = s.mem ∧ t.agenda = s.agenda) ∧
    (((s.binds.filter fun e => e.1 < 64 && e.2.st == .pending).map (·.1)) = [b] → k.st = .pending → k.freeze = none →
    k.cores.Nodup →
    (k.boundAt < s.ccyc → (∀ c ∈ k.cores, Spec.coreDone s c) → ∃ t, exec .chipMark s = .next t ∧
      t.bindAt b = { Spec.joined s k with st := .running, base := s.ccyc, lastMark := 0 } ∧ t.mcycOf b = 0 ∧
      (∀ c ∉ k.cores, t.core c = s.core c) ∧
      (∀ c ∈ k.cores,
        let q := t.core c
        q.bound = some b ∧ q.last = some b ∧ q.sendBuf = (s.core c).sendBuf ∧ q.launches = (s.core c).launches ∧
        q.sa.run = .due ∧ q.sa.wake = 0 ∧ q.sx.run = .due ∧ q.sx.wake = 0 ∧ q.sw.run = .absent ∧
        (∀ i < 8, vget 0 q.regs.g i = if i = 0 then 0 else k.rec_ (15 + i)) ∧
        (∀ i < 8, vget 0 q.regs.a i =
          if i = 0 then BitVec.ofNat 64 (sPtr c 0 0) else if i = 1 then BitVec.ofNat 64 (lPtr c 0) else 0) ∧
        q.regs = { Regs.init with g := q.regs.g, a := q.regs.a } ∧ q.ql0 = [] ∧ q.ql1 = [] ∧ q.ql2 = [] ∧ q.qs0 = [] ∧
        q.qs1 = [] ∧ q.tile = Tile.init ∧
        (∀ off < 4096, t.mem.read (tagKey c off) = 0) ∧ ∀ off < 0x10080, t.mem.read (ringKey c off) = 0) ∧
      ∀ c ∈ k.cores, ∀ a < 8, (Spec.fieldOf (k.rec_ 13) 47 40).testBit a = true →
        vget Acc.init (t.octet (coreOctet c)).accs a = { Acc.init with owner := some b } ∧
        ∀ off < 2 ^ 16, t.mem.read (accKey (coreOctet c) (2 ^ 16 * a + off)) = 0) ∧
    ((s.ccyc ≤ k.boundAt ∨ ∃ c ∈ k.cores, ¬ Spec.coreDone s c) → ∃ t, exec .chipMark s = .next t ∧ t.bindAt b = k ∧
      t.cores = s.cores ∧ t.octets = s.octets ∧ t.mem = s.mem))

/-- 24 R370 to R373: a soft error in a window register or a queue entry leaves bad parity; in a word with a code it is
corrected, or the word is poison, as it is where a second one strikes; in an operand slot or the matrix array it is left
for the checksum to find; in a packet the beat lands as poison; and in a place without a check a bit changes unseen. A
scrub of the HBM corrects what can be and logs every error. Unchecked places are a vector register, a byte under a fresh
code, a beat held in Caddy staging, a value inside a stratum reduction, an input of the fold or what it folds to, and a completion word on the die crossing. The form of
the error log is the model's (log 93). -/
def Obligations.SoftErrorEvents : Prop :=
  ∀ (s : State),
    let does (e : SoftError) (t : State) : Prop := exec (.softError e) s = .next t
    (∀ c r, r < 64 → ∃ t, does (.window c r) t ∧ t = { s with cores := t.cores } ∧
      (t.core c).regs.win = (s.core c).regs.win ∧ (t.core c).regs.winBad.getLsbD r = true ∧
      ∀ i < 64, i ≠ r → (t.core c).regs.winBad.getLsbD i = (s.core c).regs.winBad.getLsbD i) ∧
    (∀ c r, r < 16 → ∃ t, does (.sweepWindow c r) t ∧ t = { s with cores := t.cores } ∧
      (t.core c).regs.sw = (s.core c).regs.sw ∧ (t.core c).regs.swBad.getLsbD r = true ∧
      ∀ i < 16, i ≠ r → (t.core c).regs.swBad.getLsbD i = (s.core c).regs.swBad.getLsbD i) ∧
    (∀ c q i e, q < 5 → ((s.core c).queue q)[i]? = some e → ∃ t, does (.queue c q i) t ∧ t = { s with cores := t.cores } ∧
      (t.core c).queue q = ((s.core c).queue q).set i { e with bad := true } ∧
      ∀ q' < 5, q' ≠ q → (t.core c).queue q' = (s.core c).queue q') ∧
    (∀ key ok,
      let covered := key / 2 ^ 60 ∈ [1, 2, 3, 4, 6]
      ∃ t, does (.word key ok) t ∧ t = { s with ecc := t.ecc } ∧ (¬ covered → t.ecc = s.ecc) ∧
        (covered → (∀ w, w ≠ key / 8 → tfind t.ecc w = tfind s.ecc w) ∧
          tfind t.ecc (key / 8) = some (if ok = true ∧ tfind s.ecc (key / 8) = none then .flipped else .poison))) ∧
    (∀ o p off, ∃ t, does (.slot o p off) t ∧ t = { s with octets := t.octets } ∧
      t.octet o = { s.octet o with badParity := (s.octet o).badParity ++ [(p, off / 8)] } ∧
      ∀ o', o' ≠ o → t.octet o' = s.octet o') ∧
    (∀ o, ∃ t, does (.array o) t ∧ t = { s with octets := t.octets } ∧ t.octet o = { s.octet o with arrayErr := true } ∧
      ∀ o', o' ≠ o → t.octet o' = s.octet o') ∧
    (∀ x ch w, ∃ t, does (.packet x ch w) t ∧ t = { s with xfers := t.xfers } ∧
      t.xfers = s.xfers.map fun q => if q.id = x then { q with packetErr := some (ch, w) } else q) ∧
    (∀ c v bit, v < 16 → bit < 1024 → ∃ t, does (.vector c v bit) t ∧ t = { s with cores := t.cores } ∧
      ∀ n < 16, ∀ j < 1024, (vget 0 (t.core c).regs.v n).getLsbD j =
        if n = v ∧ j = bit then ! (vget 0 (s.core c).regs.v n).getLsbD j else (vget 0 (s.core c).regs.v n).getLsbD j) ∧
    (∀ key bit, bit < 8 → ∃ t, does (.unchecked key bit) t ∧ t = { s with mem := t.mem } ∧
      (∀ a, a ≠ key → t.mem.read a = s.mem.read a) ∧
      ∀ j < 8, (t.mem.read key).getLsbD j = if j = bit then ! (s.mem.read key).getLsbD j else (s.mem.read key).getLsbD j) ∧
    (∀ x bit,
      let held (e : AEnt) : Prop := ∃ j data p d, e.ev = .beatLand x j data p d
      ∃ t, does (.staging x bit) t ∧ t = { s with agenda := t.agenda } ∧
        ((∀ e ∈ s.agenda, ¬ held e) → t.agenda = s.agenda) ∧
        ∀ l e r j data p d, s.agenda = l ++ e :: r → (∀ q ∈ l, ¬ held q) → e.ev = .beatLand x j data p d →
          t.agenda = l ++ { e with ev := .beatLand x j (data.map fun (b : Nat × Byte) =>
            if b.1 = bit / 8 then (b.1, b.2 ^^^ BitVec.ofNat 8 (2 ^ (bit % 8))) else b) p d } :: r) ∧
    (∀ part nid src beat bit, bit < 2048 → ∃ t, does (.reduction part nid src beat bit) t ∧ t = { s with colls := t.colls } ∧
      t.colls = s.colls.map fun q => if q.cmd.part = part ∧ q.cmd.nid = nid then
        { q with struck := q.struck ++ [(src, beat, bit)] } else q) ∧
    (∀ (k : Coll) (src beat bit : Nat) (devs : List Nat) (vals : List (List Byte)), k.struck = [(src, beat, bit)] → bit < 2048 →
      let flip (v : List Byte) : List Byte := leBytes 256 (ofBytes v ^^^ 2 ^ bit)
      let fold (l : List (List Byte)) : List Byte := match l with | [] => [] | x :: xs => xs.foldl (redBeat k.cmd.ent) x
      devs.length = vals.length → vals ≠ [] →
      (src ∉ devs → k.folded beat devs vals = flip (fold vals)) ∧
      (src ∈ devs → k.folded beat devs vals = fold ((devs.zip vals).map fun q => if q.1 = src then flip q.2 else q.2)) ∧
      ∀ b, b ≠ beat → k.folded b devs vals = fold vals) ∧
    (∀ key bit, bit < 64 → ∃ t, does (.crossing key bit) t ∧ t = { s with colls := t.colls } ∧
      t.colls = s.colls.map fun q => if s.wordKey q = key then
        { q with crossed := q.crossed ^^^ BitVec.ofNat 64 (2 ^ bit) } else q) ∧
    (∃ t, exec .hbmScrub s = .next t ∧ t = { s with ecc := t.ecc, dev := t.dev } ∧
      let hbm (e : Nat × Ecc) : Bool := 8 * e.1 / 2 ^ 60 == 4
      t.ecc = s.ecc.filter (fun e => !(hbm e && e.2 == .flipped)) ∧
      t.dev = { s.dev with
        lastScrub := s.ccyc
        log := s.dev.log ++ (s.ecc.filter hbm).map fun e => ⟨.memory, e.2 != .poison, e.1 * 8, s.ccyc⟩ })

/-- 24 R380, R381: the fabric manager runs on the live device with the lowest identifier; a device that misses three
heartbeats, of which it sends every other one each 100 ms, is declared dead, and so is one every one of whose links is marked
failed, as the manager and the devices that answer tell it (log 58); and recovery begins at containment, where each level-5
domain whose group includes a dead device is held and the group's collectives fail with status 5; the phases follow one
another in order: new routes, for each dead device in turn a spare that takes its identifier, under which its peers' links
then know it, and creates and locks its partitions, group keys agreed again, the checkpoint loaded into the spare's
memory, and the release of the held domains, with the spare's bound; a second death starts them again. The model's choices:
what each phase is given from outside (log 58), and that 100 ms are 175000000*N/16 cycles (13 R245; log 62). -/
def Obligations.FabricEvents : Prop :=
  (∀ (s : State) (heard : List (Nat × List (Nat × Bool))) (d : Nat),
    let f := s.dev.fabric
    let alive (x : Nat) : Prop := x ∈ f.members ∧ (x ∈ f.dead → x ∈ f.replaced)
    let manages := ∀ x, alive x → s.dev.id ≤ x
    let answers := d ∈ heard.map (·.1)
    ∃ t, exec (.fabricHeartbeat heard) s = .next t ∧ t = { s with dev := { s.dev with fabric := t.dev.fabric } } ∧
      (¬ manages → t = s) ∧
      (manages → f.members.Nodup → alive d → d ≠ s.dev.id →
        let missed := tget 0 f.missed d + 1
        let gone := d ∈ t.dev.fabric.dead ∧ d ∉ t.dev.fabric.replaced ∧ t.dev.fabric.phase = 1
        let cut := ({ s with dev := { s.dev with fabric := { f with
          links := heard.foldl (fun t q => tset t q.1 q.2) f.links } } } : State).cutOff d = true
        (answers → (d ∈ t.dev.fabric.dead → d ∈ t.dev.fabric.replaced) ∧ tget 0 t.dev.fabric.missed d = 0) ∧
        (¬ answers → 3 ≤ missed → gone) ∧
        (¬ answers → missed < 3 → (∀ x, alive x → x ≠ s.dev.id → x ≠ d → x ∈ heard.map (·.1)) →
          (cut → gone) ∧
          (¬ cut → (d ∈ t.dev.fabric.dead → d ∈ t.dev.fabric.replaced) ∧ tget 0 t.dev.fabric.missed d = missed)))) ∧
  (∀ (s : State) (d : Nat),
    let f := s.dev.fabric
    let alive (x : Nat) : Prop := x ∈ f.members ∧ (x ∈ f.dead → x ∈ f.replaced)
    let told (works : Bool) : Prop := (∃ l, ∃ w ∈ s.dev.wiring, w = (l, d, w.2.2) ∧ works = !(s.link l).failed) ∨
      ∃ m, alive m ∧ m ≠ d ∧ m ≠ s.dev.id ∧ (d, works) ∈ tget [] f.links m
    (s.cutOff d = true ↔ (∀ m, alive m → m ≠ d → m ≠ s.dev.id → (tfind f.links m).isSome = true) ∧
      told false ∧ ¬ told true)) ∧
  (∀ (s : State),
    let f := s.dev.fabric
    let alive (x : Nat) : Prop := x ∈ f.members ∧ (x ∈ f.dead → x ∈ f.replaced)
    let sends := Spec.serves s ∧ (∀ x, alive x → s.dev.id ≤ x) ∧
      f.lastBeat + 175000000 * s.dev.clock.n / 16 ≤ s.ccyc
    (¬ sends → s.beat = s) ∧
    (sends → ∃ others : List Nat, (∀ x, x ∈ others ↔ alive x ∧ x ≠ s.dev.id) ∧ s.beat = { s with
      dev := { s.dev with fabric := { f with lastBeat := s.ccyc } }, reports := s.reports ++ others.map .heartbeat })) ∧
  (∀ (s : State),
    let f := s.dev.fabric
    let only (t : State) (g : Fabric) : Prop := t = { s with dev := { s.dev with fabric := g } }
    let does (p : RecoveryPhase) (t : State) : Prop := exec (.fabricRecovery p) s = .next t
    (∀ d, d ∉ f.dead → ∃ t, does (.detection d) t ∧ only t { f with
      dead := f.dead ++ [d], replaced := f.replaced.filter (· != d), missed := tdel f.missed d, links := tdel f.links d, phase := 1 }) ∧
    (∀ d, d ∈ f.dead → d ∈ f.replaced → ∃ t, does (.detection d) t ∧ only t { f with
      replaced := f.replaced.filter (· != d), missed := tdel f.missed d, links := tdel f.links d, phase := 1 }) ∧
    (∀ d, d ∈ f.dead → d ∉ f.replaced → does (.detection d) s) ∧
    (f.phase ≠ 1 → does .containment s) ∧
    (f.phase = 1 → ∃ t, does .containment t ∧ t.dev.fabric = { f with phase := 2 } ∧ t.mem = s.mem ∧ t.cores = s.cores ∧
      (∀ b k, (b, k) ∈ s.binds → k = s.bindAt b → k.st ≠ .free → k.level = 5 →
        (∃ d ∈ f.dead, d ∈ tget [] (s.partAt k.part).groups (Spec.fieldOf (k.rec_ 1) 15 0)) → (t.bindAt b).fault ≠ none) ∧
      t.colls = s.colls.map fun q =>
        if q.entered = none ∧ ∃ d ∈ f.dead, d ∈ tget [] (s.partAt q.cmd.part).groups q.cmd.ent.grp then
          { q with decided := some 5, entered := some s.ccyc } else q) ∧
    (∀ l, (f.phase = 2 → ∃ t, does (.routes l) t ∧
        t = { s with dev := { s.dev with fabric := { f with phase := 3 }, routes := t.dev.routes } } ∧
        (∀ r, (∀ q ∈ l, q.1 * 2 ^ 16 + q.2.1 ≠ r) → tfind t.dev.routes r = none) ∧
        ∀ die dest x, (die, dest, x) ∈ l → (∀ q ∈ l, q.1 * 2 ^ 16 + q.2.1 = die * 2 ^ 16 + dest → q.2.2 = x) →
          tfind t.dev.routes (die * 2 ^ 16 + dest) = some x) ∧
      (f.phase ≠ 2 → does (.routes l) s)) ∧
    (∀ i parts, f.phase ≠ 3 → does (.spare i parts) s) ∧
    (∀ i parts dead (later : List Nat), (f.dead.filter fun d => !f.replaced.contains d) = dead :: later →
      let g := { f with phase := if later = [] then 4 else 3, members := f.members.erase i, replaced := f.replaced ++ [dead], links := [] }
      (f.phase = 3 → s.dev.id ≠ i → ∃ t, does (.spare i parts) t ∧
        t = { s with dev := { s.dev with fabric := g, wiring := t.dev.wiring } } ∧
        t.dev.wiring = (s.dev.wiring.filter fun w => w.2.1 != dead).map fun w =>
          if w.2.1 = i then (w.1, dead, w.2.2) else w) ∧
      (f.phase = 3 → s.dev.id = i → ∃ t, does (.spare i parts) t ∧ t.dev.id = dead ∧
        t.dev.fabric = { g with spare := true } ∧ t.mem = s.mem ∧ t.cores = s.cores ∧ t.binds = s.binds ∧
        (∀ n, n ∉ parts.map (·.1) → t.partAt n = s.partAt n) ∧
        ∀ n cfg, parts = [(n, cfg)] → Spec.serves s → s.cfgOk n cfg = true →
          (t.partAt n).present = true ∧ (t.partAt n).tdisp = .configLocked ∧ (t.partAt n).octets = cfg.octets ∧
            (t.partAt n).keys.length = 16)) ∧
    ((f.phase = 4 → ∃ t, does .keys t ∧
        t = { s with parts := t.parts, dev := { s.dev with keyGen := s.dev.keyGen + 1, fabric := { f with phase := 5 } } } ∧
        ∀ n, t.partAt n = { s.partAt n with
          groupKeys := if (s.partAt n).tdisp = .configLocked ∨ (s.partAt n).tdisp = .run then
            (s.partAt n).groups.map (fun g => (g.1, Config.groupKey g.1 (s.dev.keyGen + 1)))
          else (s.partAt n).groupKeys }) ∧
      (f.phase ≠ 4 → does .keys s)) ∧
    (∀ bs, (f.phase = 5 → f.spare = false → ∃ t, does (.state bs) t ∧ only t { f with phase := 6 }) ∧
      (f.phase = 5 → f.spare = true → ∃ t, does (.state bs) t ∧ t.dev.fabric = { f with phase := 6 } ∧ t.cores = s.cores ∧
        t.binds = s.binds ∧ t.parts = s.parts ∧
        (∀ a, a / 2 ^ 60 ≠ 4 → a / 2 ^ 60 ≠ 5 → t.mem.read a = s.mem.read a) ∧
        ∀ n a v e, bs = [(n, a, [v])] → (s.partAt n).pageAt a = some e → e.1.getLsbD 60 = true →
          t.mem.read (hostKey (pagePhys e a)) = v) ∧
      (f.phase ≠ 5 → does (.state bs) s)) ∧
    (f.phase = 6 → ∃ t, does .resume t ∧ t.dev.fabric = { f with phase := 0, dead := [], replaced := [], spare := false } ∧
      (f.spare = false → t.mem = s.mem ∧ t.cores = s.cores ∧
      ∀ b k, (b, k) ∈ s.binds → k = s.bindAt b → k.st = .held → k.ending = none → k.mustEnd = false → k.level = 5 →
        (∃ d ∈ f.dead, d ∈ tget [] (s.partAt k.part).groups (Spec.fieldOf (k.rec_ 1) 15 0)) →
        (t.bindAt b).release = true)) ∧
    (f.phase ≠ 6 → does .resume s))

end

namespace Sys2Proof.Spec

open Sys2Proof.Machine

/-! ### Steps -/

/-- Nothing is due in this cycle before the words of the streams: no input, no result, no mark, no engine's action (log 6). -/
def quiet (s : State) : Prop :=
  s.nextInput = none ∧ s.resetAct = none ∧ s.boundaryAct = none ∧ s.outcomeAct = none ∧ s.headDue = none ∧
    s.arrivalAct = none ∧ s.mergeAct = none ∧ s.endAct = none ∧ s.bootAct = none ∧ s.waitAct = none ∧
    s.followAct false = none ∧ s.markAct = none ∧ s.resyncAct = none ∧ s.followAct true = none ∧ s.fieldAct = none ∧ s.domainAct = none ∧
    s.scrubDue = false ∧ s.netAct = none ∧ s.schedAct = none

/-- The stream of core `c` and half `h` is the first that has something to do, and it issues its next word. -/
def first (s : State) (c : Nat) (h : Half) : Prop :=
  (∃ l r, s.heldStreams = l ++ (c, h) :: r ∧ ∀ q ∈ l, s.streamAct q.1 q.2 = none) ∧ s.preciseDue c h = false ∧ s.asyncDue c h = false ∧
    s.issueDue c h = true

/-- The four bytes of a domain's kernel image from halfword address `p` on (04 R71). -/
def imageAt (s : State) (b p : Nat) : List Byte := s.mem.readN (imgKey b (2 * p)) 4

/-! ### The fixed expression of a reduction, as 18 R314 writes it -/

/-- Consecutive groups of `f`, the last perhaps shorter; the count bounds their number. -/
def groupsOf {α : Type} (f : Nat) : Nat → List α → List (List α)
  | 0, _ => []
  | _ + 1, [] => []
  | n + 1, a :: l => (a :: l).take f :: groupsOf f n ((a :: l).drop f)

/-- A level of the tree: each group folded left to right. -/
def level {α : Type} (op : α → α → α) (f : Nat) (l : List α) : List α :=
  (groupsOf f l.length l).filterMap fun g => match g with | [] => none | a :: r => some (r.foldl op a)

/-- Levels until one value is left; the count bounds their number. -/
def foldTree {α : Type} (op : α → α → α) (f : Nat) : Nat → List α → List α
  | 0, l => l
  | n + 1, l => if l.length ≤ 1 then l else foldTree op f n (level op f l)

/-- The ring from rank (c+1) mod G on. -/
def ring {α : Type} (op : α → α → α) (x : Nat → α) (n c : Nat) : α :=
  (List.range (n - 1)).foldl (fun a i => op a (x ((c + 2 + i) % n))) (x ((c + 1) % n))

end Sys2Proof.Spec

section

open Sys2Proof Sys2Proof.Machine

/-! ### Steps, encodings and reset -/

/-- 04 R71; 02 R20, R22: a step runs the decoded instruction. Where nothing else is due, the first stream that issues executes
the word whose bytes stand at its program counter in its domain's kernel image, a follower the word at the address that
its leader sent, and the sweep stream, which begins an update, the word at its routine's start; a word partly outside the image is
an illegal instruction, whose halfwords outside the image the model takes as 0 (log 78). The order of streams within a
cycle is the model's (log 6). -/
def Obligations.StepRunsDecodedWord : Prop :=
  ∀ (s : State) (c : Nat) (h : Half), Spec.quiet s → Spec.first s c h →
    let s' := if h = .w then s.beginUpdate c else s
    let b := s'.bindOf c
    let p := match (s'.stream c h).taken with | some q => q.1.toNat | none => (s'.stream c h).pc.toNat
    let n := (s'.bindAt b).klen
    let runs (i : Instr) (bits : Nat) : Prop := step s = exec i { s' with cur := { Focus.init with core := c, half := h, bits := bits } }
    (∀ i len, decodeBytes (Spec.imageAt s' b p) = some (i, len) → p + len / 2 ≤ n → isWord i = true →
      runs i (ofBytes ((Spec.imageAt s' b p).take len))) ∧
    (n ≤ p → runs (.unassignedEncoding .outside) 0) ∧
    (n = p + 1 → ((Spec.imageAt s' b p).getD 0 0).getLsbD 0 = true →
      runs (.unassignedEncoding .outside) (ofBytes ((Spec.imageAt s' b p).take 2)))

/-- 02 R20; 09 R177; 10 R203; 13 R241; 18 R317; 22 R342; 24 R380: when nothing is left to do in a cycle, the next one begins:
CCYC rises by one. Of the cores only the samples of parked streams change, in the cycle before a mark of their domain; of
the bind entries only what their drain cycles need; the coordinators take what has reached them (log 13), the fabric
manager may send its heartbeat, and what a sample reads may enter the error log. Memory, results under way and everything
else are as they were. -/
def Obligations.CycleEnds : Prop :=
  ∀ (s : State), s.nextInput = none → s.nextAct = none →
    ∃ t, step s = .next t ∧
      t = { s with
        ccyc := s.ccyc + 1, cores := t.cores, binds := t.binds, colls := t.colls, reports := t.reports,
        dev := { s.dev with log := t.dev.log, links := t.dev.links, fabric := t.dev.fabric } } ∧
      (∀ c, t.core c = { s.core c with
        sa := { (s.core c).sa with sample := (t.core c).sa.sample }
        sx := { (s.core c).sx with sample := (t.core c).sx.sample }
        sw := { (s.core c).sw with sample := (t.core c).sw.sample } }) ∧
      (∀ c h, let k := s.bindAt (s.bindOf c)
        let before := (s.core c).bound ≠ none ∧ (k.st = .running ∨ k.st = .held) ∧ (s.mcycOf (s.bindOf c) + 1) % k.interval = 0
        (before → (t.stream c h).sample = s.sampleOf c (s.stream c h)) ∧ (¬ before → t.stream c h = s.stream c h)) ∧
      (∀ b, t.bindAt b = { s.bindAt b with quiet := (t.bindAt b).quiet, freeze := (t.bindAt b).freeze } ∧
        ((s.bindAt b).freeze = none → (t.bindAt b).freeze = none) ∧
        ∀ f, (s.bindAt b).freeze = some f → ∃ d, (t.bindAt b).freeze = some { f with drain := d } ∧
          (f.drain ≠ none → d = f.drain)) ∧
      t.colls = s.closeColls.colls ∧ t.dev.links = s.closeColls.dev.links ∧ t.dev.fabric = s.beat.dev.fabric ∧
      ∃ l, t.reports = s.closeColls.reports ++ l

/-- 04 'Encodings from the key listing', and one word of every other family written out from 04's maps: each decodes to the
instruction it stands for. -/
def Obligations.DecodeSampleWords : Prop :=
  decode 0x0136 = .liH true 2 0 ∧ decode 0xF0A4 = .addiH false 1 0xF ∧ decode 0x0808 = .mod false 0 0 0 1 0 ∧
  decode 0x00644205 = .addW false 2 2 25 ∧ decode 0x2E0E = .movH true 28 2 ∧ decode 0x00A112C1 = .vadd false 2 1 1 5 0 ∧
  decode 0x000038E3 = .mzero true 3 0 ∧ decode 0x00000043 = .trap true 0 ∧ decode 0x00068181 = .lds false 0 2 3 0 ∧
  decode 0xFFF0087B = .kloop true 8 0x3FFC ∧ decode 0xC016819D = .amadd false 1 0 2 3 1 24 ∧
  decode 0x28C2A4E1 = .mma false 2 5 6 1 1 ∧ decode 0x019800E7 = .ccopy true 4 1 12 ∧ decode 0x000025E7 = .cwait 2 ∧
  decode 0x00C401EB = .sred true 2 0 6 ∧ decode 0x0005B4ED = .fget false 2

/-- 04 R71 to R91: every word of the opcode table, with every operand at every value that its encoding admits, decodes to
itself. -/
def Sys2Proof.Spec.decodeEncode : Prop := ∀ i : Instr, isWord i = true → i.wf = true → decode (encode i) = i

/-- 04 R71 to R92: a word has one meaning: of the bits of a word that decodes to an instruction none is dropped. -/
def Sys2Proof.Spec.encodeDecode : Prop :=
  ∀ w : Nat, w < 2 ^ (16 * wordLen w) → (∀ why, decode w ≠ .unassignedEncoding why) →
    encode (decode w) = w ∧ isWord (decode w) = true ∧ (decode w).wf = true

/-- What the spec gives for reset: 02 R42 to R44 (the control registers of a core), 08 R165 (accumulator slots), 09 R186 (trap
registers), 10 R203, R211 (batches, registry entries), 13 R246 (the clock), 22 R351, R352 and R357 (RWIN, EPNT, the
interface) and 24 R367 (the boot status). That the registers read zero then is the model's choice (log 1): 02 R25 gives it
for the start of a kernel. -/
def Obligations.ResetValues : Prop :=
  let s := State.reset
  s.ccyc = 0 ∧ s.dev.clock = ⟨16, 16, 0, none⟩ ∧ s.dev.boot.phase = 0 ∧ s.dev.boot.fail = 0 ∧ s.dev.boot.svn = 0 ∧
    s.dev.boot.rlvl = 0 ∧
    (∀ c, (∀ i < 8, vget 0 (s.core c).regs.g i = 0 ∧ vget 0 (s.core c).regs.a i = 0 ∧ vget 0 (s.core c).regs.oxA i = 0 ∧
        vget 0 (s.core c).regs.oxX i = 0) ∧ (∀ i < 16, vget 0 (s.core c).regs.v i = 0) ∧
      (∀ i < 64, vget 0 (s.core c).regs.win i = 0) ∧ (s.core c).regs.ix = 0 ∧ (s.core c).regs.lk = 0 ∧
      (∀ q < 5, (s.core c).queue q = []) ∧
      (s.core c).ctl.stopmax = 64 ∧ (s.core c).ctl.slipMax = 16 ∧ (s.core c).ctl.slipCnt = 0 ∧ (s.core c).ctl.rwin = 15 ∧
      (s.core c).ctl.epSt = 0 ∧ (s.core c).tile.st = .undeclared ∧
      ∀ h, (s.stream c h).wptr = 0 ∧ (s.stream c h).rbot = 0 ∧ (s.stream c h).rcnt = 4 ∧ (s.stream c h).wlimit = 16 ∧
        (s.stream c h).rm = 0 ∧ (s.stream c h).ovf = false ∧ (s.stream c h).scnt = 0 ∧ (s.stream c h).traps.priv = false ∧
        (s.stream c h).traps.rstValid = false ∧ (s.stream c h).caddy.next = 0 ∧ (s.stream c h).caddy.err = 0) ∧
    (∀ o, ∀ a < 8, vget Acc.init (s.octet o).accs a = ⟨6, 0, false, false, false, none⟩) ∧
    ∀ p, (s.partAt p).tdisp = .configUnlocked ∧ ∀ nid, (s.mirrorNext p nid).st = .free

/-- The canonical form of memory is the model's (log 2): reset has it. -/
def Obligations.ResetMemoryCanonical : Prop := State.reset.memOk ∧ ∀ a, State.reset.mem.read a = 0

/-- Every step keeps memory in its canonical form (the model's, log 2), so that equal memories are equal data. -/
def Obligations.StepKeepsMemoryCanonical : Prop := ∀ (s t : State), s.memOk → step s = .next t → t.memOk

/-- 02 R33, R34; 06 R119: no word changes memory or a register in its own cycle, of its own core or of another: results and
stores land later, from the agenda. Only a `call` opens window registers at once (05 R105), so the window file is left
out. -/
def Obligations.WordFrame : Prop :=
  ∀ (i : Instr) (s t : State), isWord i = true → exec i s = .next t →
    t.mem = s.mem ∧ t.unitKeys = s.unitKeys ∧ t.ccyc = s.ccyc ∧ t.dev.clock = s.dev.clock ∧ t.dev.boot = s.dev.boot ∧
      t.inputs = s.inputs ∧ (∀ c, c ≠ s.cur.core → (t.core c).regs = (s.core c).regs) ∧
      (t.core s.cur.core).regs =
        { s.my.regs with win := (t.core s.cur.core).regs.win, winBad := (t.core s.cur.core).regs.winBad }

/-- 04 R71 to R92: every word of the opcode table, with every operand at every value that its encoding admits, decodes
to itself, and no bit of a word that decodes to an instruction is dropped. -/
def Obligations.EncodingRoundTrip : Prop :=
  Spec.decodeEncode ∧ Spec.encodeDecode

/-- 18 R313, R314: the dies of the devices of a group, each folding what reaches it in its own place and passing it on, compute
the fixed expression: where the value at every rank is the fold of its inputs in order, its own contribution and the
values that other ranks pass to it, the value at the rank that passes on nothing is the ring's or the tree's. A rank
passes its value to the one rank that folds it. Integer sums wrap; a NaN gives the canonical NaN, and of two zeros of
opposite sign `min` gives −0 and `max` +0. Which device sends a partial to which is the model's (log 15). -/
def Obligations.ReductionOrders : Prop :=
  (∀ (α : Type) (op : α → α → α) (x v : Nat → α) (k : Coll) (m : List Nat) (beat : Nat),
    k.cmd.verb = .sred → k.cmd.ent.ord < 4 → m ≠ [] →
    let n := m.length
    let c := beat / 16 % n
    let root := if k.cmd.ent.ord = 0 then c else 0
    (∀ r < n, k.parent m r beat = none ↔ r = root) ∧
    (∀ r < n, ∀ p, k.parent m r beat = some p ↔ p < n ∧ p ≠ r ∧ r ∈ k.inputs m p beat) ∧
    ((∀ r < n, ∃ j l, k.inputs m r beat = j :: l ∧
      v r = l.foldl (fun a i => op a (if i = r then x i else v i)) (if j = r then x j else v j)) →
      (k.cmd.ent.ord = 0 → v root = Spec.ring op x n c) ∧
      (k.cmd.ent.ord ≠ 0 → Spec.foldTree op (2 ^ k.cmd.ent.ord) n ((List.range n).map x) = [v root]))) ∧
  (∀ et a b, et = 0 ∨ et = 3 → redStep et 0 a b = (a + b) % 2 ^ 32) ∧
  (∀ op a b, op < 3 → a < 2 ^ 32 → b < 2 ^ 32 →
    ((0x7F800000 < a % 2 ^ 31 ∨ 0x7F800000 < b % 2 ^ 31) → redStep 6 op a b = 0x7FC00000)) ∧
  (∀ op a b, op < 3 → a < 2 ^ 16 → b < 2 ^ 16 →
    ((0x7F80 < a % 2 ^ 15 ∨ 0x7F80 < b % 2 ^ 15) → redStep 7 op a b = 0x7FC0)) ∧
  ∀ a b, (a = 0 ∧ b = 0x80000000 ∨ a = 0x80000000 ∧ b = 0) → redStep 6 1 a b = 0x80000000 ∧ redStep 6 2 a b = 0 ∧
    redStep 7 1 (a / 2 ^ 16) (b / 2 ^ 16) = 0x8000 ∧ redStep 7 2 (a / 2 ^ 16) (b / 2 ^ 16) = 0

end
end

