-- ==== Sys2Proof/Laws/Exec.lean ====
section
/-!
SUPPORT. The meaning that `exec` gives each constructor, one equation each.
-/

namespace Sys2Proof.Machine

section
variable (st : State)

@[simp] theorem exec_nop (sf : Bool) :
    exec (.nop sf) st = execNop sf st := rfl
@[simp] theorem exec_nopHint (sf : Bool) (n : BitVec 5) (m : BitVec 4) :
    exec (.nopHint sf n m) st = execNopHint sf n m st := rfl
@[simp] theorem exec_mod (sf : Bool) (b : BitVec 1) (n : BitVec 1) (k : BitVec 1) (t : BitVec 1) (c : BitVec 4) :
    exec (.mod sf b n k t c) st = execMod sf b n k t c st := rfl
@[simp] theorem exec_movH (sf : Bool) (a : BitVec 5) (b : BitVec 4) :
    exec (.movH sf a b) st = execMovH sf a b st := rfl
@[simp] theorem exec_addH (sf : Bool) (a : BitVec 5) (b : BitVec 4) :
    exec (.addH sf a b) st = execAddH sf a b st := rfl
@[simp] theorem exec_subH (sf : Bool) (a : BitVec 5) (b : BitVec 4) :
    exec (.subH sf a b) st = execSubH sf a b st := rfl
@[simp] theorem exec_andH (sf : Bool) (a : BitVec 5) (b : BitVec 4) :
    exec (.andH sf a b) st = execAndH sf a b st := rfl
@[simp] theorem exec_orH (sf : Bool) (a : BitVec 5) (b : BitVec 4) :
    exec (.orH sf a b) st = execOrH sf a b st := rfl
@[simp] theorem exec_xorH (sf : Bool) (a : BitVec 5) (b : BitVec 4) :
    exec (.xorH sf a b) st = execXorH sf a b st := rfl
@[simp] theorem exec_addiH (sf : Bool) (a : BitVec 5) (im : BitVec 4) :
    exec (.addiH sf a im) st = execAddiH sf a im st := rfl
@[simp] theorem exec_shliH (sf : Bool) (a : BitVec 5) (n : BitVec 4) :
    exec (.shliH sf a n) st = execShliH sf a n st := rfl
@[simp] theorem exec_shriH (sf : Bool) (a : BitVec 5) (n : BitVec 4) :
    exec (.shriH sf a n) st = execShriH sf a n st := rfl
@[simp] theorem exec_sraiH (sf : Bool) (a : BitVec 5) (n : BitVec 4) :
    exec (.sraiH sf a n) st = execSraiH sf a n st := rfl
@[simp] theorem exec_liH (sf : Bool) (d : BitVec 5) (im : BitVec 4) :
    exec (.liH sf d im) st = execLiH sf d im st := rfl
@[simp] theorem exec_skipz (sf : Bool) (a : BitVec 5) (n : BitVec 4) :
    exec (.skipz sf a n) st = execSkipz sf a n st := rfl
@[simp] theorem exec_skipnz (sf : Bool) (a : BitVec 5) (n : BitVec 4) :
    exec (.skipnz sf a n) st = execSkipnz sf a n st := rfl
@[simp] theorem exec_setixH (sf : Bool) (a : BitVec 5) :
    exec (.setixH sf a) st = execSetixH sf a st := rfl
@[simp] theorem exec_addixH (sf : Bool) (im : BitVec 4) :
    exec (.addixH sf im) st = execAddixH sf im st := rfl
@[simp] theorem exec_ret (sf : Bool) :
    exec (.ret sf) st = execRet sf st := rfl
@[simp] theorem exec_amovH (sf : Bool) (a : BitVec 5) (b : BitVec 4) :
    exec (.amovH sf a b) st = execAmovH sf a b st := rfl
@[simp] theorem exec_aaddiH (sf : Bool) (a : BitVec 5) (im : BitVec 4) :
    exec (.aaddiH sf a im) st = execAaddiH sf a im st := rfl
@[simp] theorem exec_rpt (sf : Bool) :
    exec (.rpt sf) st = execRpt sf st := rfl
@[simp] theorem exec_resync (sf : Bool) :
    exec (.resync sf) st = execResync sf st := rfl
@[simp] theorem exec_rejoin (a : BitVec 5) :
    exec (.rejoin a) st = execRejoin a st := rfl
@[simp] theorem exec_rtt (sf : Bool) :
    exec (.rtt sf) st = execRtt sf st := rfl
@[simp] theorem exec_brk (sf : Bool) (n : BitVec 4) :
    exec (.brk sf n) st = execBrk sf n st := rfl
@[simp] theorem exec_wsave (sf : Bool) :
    exec (.wsave sf) st = execWsave sf st := rfl
@[simp] theorem exec_wrest (sf : Bool) :
    exec (.wrest sf) st = execWrest sf st := rfl
@[simp] theorem exec_launch (sf : Bool) (n : BitVec 3) :
    exec (.launch sf n) st = execLaunch sf n st := rfl
@[simp] theorem exec_addW (sf : Bool) (d : BitVec 5) (a : BitVec 5) (b : BitVec 5) :
    exec (.addW sf d a b) st = execAddW sf d a b st := rfl
@[simp] theorem exec_subW (sf : Bool) (d : BitVec 5) (a : BitVec 5) (b : BitVec 5) :
    exec (.subW sf d a b) st = execSubW sf d a b st := rfl
@[simp] theorem exec_mul (sf : Bool) (d : BitVec 5) (a : BitVec 5) (b : BitVec 5) :
    exec (.mul sf d a b) st = execMul sf d a b st := rfl
@[simp] theorem exec_mulh (sf : Bool) (d : BitVec 5) (a : BitVec 5) (b : BitVec 5) :
    exec (.mulh sf d a b) st = execMulh sf d a b st := rfl
@[simp] theorem exec_mulhn (sf : Bool) (d : BitVec 5) (a : BitVec 5) (b : BitVec 5) :
    exec (.mulhn sf d a b) st = execMulhn sf d a b st := rfl
@[simp] theorem exec_div (sf : Bool) (d : BitVec 5) (a : BitVec 5) (b : BitVec 5) :
    exec (.div sf d a b) st = execDiv sf d a b st := rfl
@[simp] theorem exec_divn (sf : Bool) (d : BitVec 5) (a : BitVec 5) (b : BitVec 5) :
    exec (.divn sf d a b) st = execDivn sf d a b st := rfl
@[simp] theorem exec_rem (sf : Bool) (d : BitVec 5) (a : BitVec 5) (b : BitVec 5) :
    exec (.rem sf d a b) st = execRem sf d a b st := rfl
@[simp] theorem exec_remn (sf : Bool) (d : BitVec 5) (a : BitVec 5) (b : BitVec 5) :
    exec (.remn sf d a b) st = execRemn sf d a b st := rfl
@[simp] theorem exec_andW (sf : Bool) (d : BitVec 5) (a : BitVec 5) (b : BitVec 5) :
    exec (.andW sf d a b) st = execAndW sf d a b st := rfl
@[simp] theorem exec_orW (sf : Bool) (d : BitVec 5) (a : BitVec 5) (b : BitVec 5) :
    exec (.orW sf d a b) st = execOrW sf d a b st := rfl
@[simp] theorem exec_xorW (sf : Bool) (d : BitVec 5) (a : BitVec 5) (b : BitVec 5) :
    exec (.xorW sf d a b) st = execXorW sf d a b st := rfl
@[simp] theorem exec_andn (sf : Bool) (d : BitVec 5) (a : BitVec 5) (b : BitVec 5) :
    exec (.andn sf d a b) st = execAndn sf d a b st := rfl
@[simp] theorem exec_shl (sf : Bool) (d : BitVec 5) (a : BitVec 5) (b : BitVec 5) :
    exec (.shl sf d a b) st = execShl sf d a b st := rfl
@[simp] theorem exec_shr (sf : Bool) (d : BitVec 5) (a : BitVec 5) (b : BitVec 5) :
    exec (.shr sf d a b) st = execShr sf d a b st := rfl
@[simp] theorem exec_sra (sf : Bool) (d : BitVec 5) (a : BitVec 5) (b : BitVec 5) :
    exec (.sra sf d a b) st = execSra sf d a b st := rfl
@[simp] theorem exec_cmpeq (sf : Bool) (d : BitVec 5) (a : BitVec 5) (b : BitVec 5) :
    exec (.cmpeq sf d a b) st = execCmpeq sf d a b st := rfl
@[simp] theorem exec_cmplt (sf : Bool) (d : BitVec 5) (a : BitVec 5) (b : BitVec 5) :
    exec (.cmplt sf d a b) st = execCmplt sf d a b st := rfl
@[simp] theorem exec_cmpltn (sf : Bool) (d : BitVec 5) (a : BitVec 5) (b : BitVec 5) :
    exec (.cmpltn sf d a b) st = execCmpltn sf d a b st := rfl
@[simp] theorem exec_min (sf : Bool) (d : BitVec 5) (a : BitVec 5) (b : BitVec 5) :
    exec (.min sf d a b) st = execMin sf d a b st := rfl
@[simp] theorem exec_max (sf : Bool) (d : BitVec 5) (a : BitVec 5) (b : BitVec 5) :
    exec (.max sf d a b) st = execMax sf d a b st := rfl
@[simp] theorem exec_minn (sf : Bool) (d : BitVec 5) (a : BitVec 5) (b : BitVec 5) :
    exec (.minn sf d a b) st = execMinn sf d a b st := rfl
@[simp] theorem exec_maxn (sf : Bool) (d : BitVec 5) (a : BitVec 5) (b : BitVec 5) :
    exec (.maxn sf d a b) st = execMaxn sf d a b st := rfl
@[simp] theorem exec_abs (sf : Bool) (d : BitVec 5) (a : BitVec 5) :
    exec (.abs sf d a) st = execAbs sf d a st := rfl
@[simp] theorem exec_neg (sf : Bool) (d : BitVec 5) (a : BitVec 5) :
    exec (.neg sf d a) st = execNeg sf d a st := rfl
@[simp] theorem exec_clz (sf : Bool) (d : BitVec 5) (a : BitVec 5) :
    exec (.clz sf d a) st = execClz sf d a st := rfl
@[simp] theorem exec_ctz (sf : Bool) (d : BitVec 5) (a : BitVec 5) :
    exec (.ctz sf d a) st = execCtz sf d a st := rfl
@[simp] theorem exec_popc (sf : Bool) (d : BitVec 5) (a : BitVec 5) :
    exec (.popc sf d a) st = execPopc sf d a st := rfl
@[simp] theorem exec_sext (sf : Bool) (d : BitVec 5) (a : BitVec 5) (w : BitVec 5) :
    exec (.sext sf d a w) st = execSext sf d a w st := rfl
@[simp] theorem exec_zext (sf : Bool) (d : BitVec 5) (a : BitVec 5) (w : BitVec 5) :
    exec (.zext sf d a w) st = execZext sf d a w st := rfl
@[simp] theorem exec_movW (sf : Bool) (d : BitVec 5) (a : BitVec 5) :
    exec (.movW sf d a) st = execMovW sf d a st := rfl
@[simp] theorem exec_sel (sf : Bool) (d : BitVec 5) (a : BitVec 5) (b : BitVec 5) (c : BitVec 5) :
    exec (.sel sf d a b c) st = execSel sf d a b c st := rfl
@[simp] theorem exec_addiW (sf : Bool) (d : BitVec 5) (a : BitVec 5) (im : BitVec 14) :
    exec (.addiW sf d a im) st = execAddiW sf d a im st := rfl
@[simp] theorem exec_cmpeqi (sf : Bool) (d : BitVec 5) (a : BitVec 5) (im : BitVec 14) :
    exec (.cmpeqi sf d a im) st = execCmpeqi sf d a im st := rfl
@[simp] theorem exec_cmplti (sf : Bool) (d : BitVec 5) (a : BitVec 5) (im : BitVec 14) :
    exec (.cmplti sf d a im) st = execCmplti sf d a im st := rfl
@[simp] theorem exec_shliW (sf : Bool) (d : BitVec 5) (a : BitVec 5) (n : BitVec 6) :
    exec (.shliW sf d a n) st = execShliW sf d a n st := rfl
@[simp] theorem exec_shriW (sf : Bool) (d : BitVec 5) (a : BitVec 5) (n : BitVec 6) :
    exec (.shriW sf d a n) st = execShriW sf d a n st := rfl
@[simp] theorem exec_sraiW (sf : Bool) (d : BitVec 5) (a : BitVec 5) (n : BitVec 6) :
    exec (.sraiW sf d a n) st = execSraiW sf d a n st := rfl
@[simp] theorem exec_liW (sf : Bool) (d : BitVec 5) (im : BitVec 14) :
    exec (.liW sf d im) st = execLiW sf d im st := rfl
@[simp] theorem exec_lui (sf : Bool) (d : BitVec 5) (a : BitVec 5) (im : BitVec 14) :
    exec (.lui sf d a im) st = execLui sf d a im st := rfl
@[simp] theorem exec_bfx (sf : Bool) (d : BitVec 5) (a : BitVec 5) (l : BitVec 6) (p : BitVec 6) :
    exec (.bfx sf d a l p) st = execBfx sf d a l p st := rfl
@[simp] theorem exec_bfi (sf : Bool) (d : BitVec 5) (a : BitVec 5) (l : BitVec 6) (p : BitVec 6) :
    exec (.bfi sf d a l p) st = execBfi sf d a l p st := rfl
@[simp] theorem exec_oxset (sf : Bool) (n : BitVec 3) (a : BitVec 5) :
    exec (.oxset sf n a) st = execOxset sf n a st := rfl
@[simp] theorem exec_oxli (sf : Bool) (n : BitVec 3) (im : BitVec 14) :
    exec (.oxli sf n im) st = execOxli sf n im st := rfl
@[simp] theorem exec_movx (sf : Bool) (d : BitVec 5) (k : BitVec 7) :
    exec (.movx sf d k) st = execMovx sf d k st := rfl
@[simp] theorem exec_movxw (sf : Bool) (a : BitVec 5) (k : BitVec 7) :
    exec (.movxw sf a k) st = execMovxw sf a k st := rfl
@[simp] theorem exec_setixW (sf : Bool) (a : BitVec 5) (k : BitVec 7) :
    exec (.setixW sf a k) st = execSetixW sf a k st := rfl
@[simp] theorem exec_addixW (sf : Bool) (k : BitVec 7) :
    exec (.addixW sf k) st = execAddixW sf k st := rfl
@[simp] theorem exec_mfs (sf : Bool) (d : BitVec 5) (n : BitVec 14) :
    exec (.mfs sf d n) st = execMfs sf d n st := rfl
@[simp] theorem exec_mts (sf : Bool) (a : BitVec 5) (n : BitVec 14) :
    exec (.mts sf a n) st = execMts sf a n st := rfl
@[simp] theorem exec_trap (sf : Bool) (n : BitVec 14) :
    exec (.trap sf n) st = execTrap sf n st := rfl
@[simp] theorem exec_br (sf : Bool) (im : BitVec 24) :
    exec (.br sf im) st = execBr sf im st := rfl
@[simp] theorem exec_call4 (sf : Bool) (im : BitVec 24) :
    exec (.call4 sf im) st = execCall4 sf im st := rfl
@[simp] theorem exec_call8 (sf : Bool) (im : BitVec 24) :
    exec (.call8 sf im) st = execCall8 sf im st := rfl
@[simp] theorem exec_call12 (sf : Bool) (im : BitVec 24) :
    exec (.call12 sf im) st = execCall12 sf im st := rfl
@[simp] theorem exec_brz (sf : Bool) (a : BitVec 5) (im : BitVec 14) :
    exec (.brz sf a im) st = execBrz sf a im st := rfl
@[simp] theorem exec_brnz (sf : Bool) (a : BitVec 5) (im : BitVec 14) :
    exec (.brnz sf a im) st = execBrnz sf a im st := rfl
@[simp] theorem exec_loop (sf : Bool) (d : BitVec 5) (im : BitVec 14) :
    exec (.loop sf d im) st = execLoop sf d im st := rfl
@[simp] theorem exec_jr (sf : Bool) (a : BitVec 5) :
    exec (.jr sf a) st = execJr sf a st := rfl
@[simp] theorem exec_callr4 (sf : Bool) (a : BitVec 5) :
    exec (.callr4 sf a) st = execCallr4 sf a st := rfl
@[simp] theorem exec_callr8 (sf : Bool) (a : BitVec 5) :
    exec (.callr8 sf a) st = execCallr8 sf a st := rfl
@[simp] theorem exec_callr12 (sf : Bool) (a : BitVec 5) :
    exec (.callr12 sf a) st = execCallr12 sf a st := rfl
@[simp] theorem exec_hold (sf : Bool) (a : BitVec 5) (im : BitVec 14) :
    exec (.hold sf a im) st = execHold sf a im st := rfl
@[simp] theorem exec_aadd (sf : Bool) (d : BitVec 5) (a : BitVec 5) (b : BitVec 5) :
    exec (.aadd sf d a b) st = execAadd sf d a b st := rfl
@[simp] theorem exec_aaddiW (sf : Bool) (d : BitVec 5) (a : BitVec 5) (im : BitVec 14) :
    exec (.aaddiW sf d a im) st = execAaddiW sf d a im st := rfl
@[simp] theorem exec_amovW (sf : Bool) (d : BitVec 5) (a : BitVec 5) :
    exec (.amovW sf d a) st = execAmovW sf d a st := rfl
@[simp] theorem exec_kset (sf : Bool) (d : BitVec 5) (a : BitVec 5) :
    exec (.kset sf d a) st = execKset sf d a st := rfl
@[simp] theorem exec_kloop (sf : Bool) (d : BitVec 5) (im : BitVec 14) :
    exec (.kloop sf d im) st = execKloop sf d im st := rfl
@[simp] theorem exec_lds (sf : Bool) (q : BitVec 4) (a : BitVec 3) (t : BitVec 3) (d : BitVec 12) :
    exec (.lds sf q a t d) st = execLds sf q a t d st := rfl
@[simp] theorem exec_ldl (sf : Bool) (q : BitVec 4) (a : BitVec 3) (t : BitVec 3) (d : BitVec 12) :
    exec (.ldl sf q a t d) st = execLdl sf q a t d st := rfl
@[simp] theorem exec_sts (sf : Bool) (q : BitVec 4) (a : BitVec 3) (t : BitVec 3) (d : BitVec 12) :
    exec (.sts sf q a t d) st = execSts sf q a t d st := rfl
@[simp] theorem exec_stl (sf : Bool) (q : BitVec 4) (a : BitVec 3) (t : BitVec 3) (d : BitVec 12) :
    exec (.stl sf q a t d) st = execStl sf q a t d st := rfl
@[simp] theorem exec_vlds (sf : Bool) (q : BitVec 4) (a : BitVec 3) (m : BitVec 3) (d : BitVec 12) :
    exec (.vlds sf q a m d) st = execVlds sf q a m d st := rfl
@[simp] theorem exec_vldl (sf : Bool) (q : BitVec 4) (a : BitVec 3) (m : BitVec 3) (d : BitVec 12) :
    exec (.vldl sf q a m d) st = execVldl sf q a m d st := rfl
@[simp] theorem exec_vsts (sf : Bool) (q : BitVec 4) (a : BitVec 3) (m : BitVec 3) (d : BitVec 12) :
    exec (.vsts sf q a m d) st = execVsts sf q a m d st := rfl
@[simp] theorem exec_vstl (sf : Bool) (q : BitVec 4) (a : BitVec 3) (m : BitVec 3) (d : BitVec 12) :
    exec (.vstl sf q a m d) st = execVstl sf q a m d st := rfl
@[simp] theorem exec_vgath (sf : Bool) (p : BitVec 2) (q : BitVec 4) (a : BitVec 3) (m : BitVec 3) (x : BitVec 4) (d : BitVec 8) :
    exec (.vgath sf p q a m x d) st = execVgath sf p q a m x d st := rfl
@[simp] theorem exec_vscat (sf : Bool) (p : BitVec 2) (q : BitVec 4) (a : BitVec 3) (m : BitVec 3) (x : BitVec 4) (d : BitVec 8) :
    exec (.vscat sf p q a m x d) st = execVscat sf p q a m x d st := rfl
@[simp] theorem exec_ldt (sf : Bool) (q : BitVec 4) (a : BitVec 3) (y : BitVec 3) (t : BitVec 8) :
    exec (.ldt sf q a y t) st = execLdt sf q a y t st := rfl
@[simp] theorem exec_amadd (sf : Bool) (p : BitVec 2) (q : BitVec 4) (a : BitVec 3) (g : BitVec 3) (z : BitVec 1) (o : BitVec 5) :
    exec (.amadd sf p q a g z o) st = execAmadd sf p q a g z o st := rfl
@[simp] theorem exec_amswp (sf : Bool) (p : BitVec 2) (q : BitVec 4) (a : BitVec 3) (g : BitVec 3) (z : BitVec 1) (o : BitVec 5) :
    exec (.amswp sf p q a g z o) st = execAmswp sf p q a g z o st := rfl
@[simp] theorem exec_amcas (sf : Bool) (p : BitVec 2) (q : BitVec 4) (a : BitVec 3) (g : BitVec 3) (z : BitVec 1) (h : BitVec 3) (o : BitVec 5) :
    exec (.amcas sf p q a g z h o) st = execAmcas sf p q a g z h o st := rfl
@[simp] theorem exec_amand (sf : Bool) (p : BitVec 2) (q : BitVec 4) (a : BitVec 3) (g : BitVec 3) (z : BitVec 1) (o : BitVec 5) :
    exec (.amand sf p q a g z o) st = execAmand sf p q a g z o st := rfl
@[simp] theorem exec_amor (sf : Bool) (p : BitVec 2) (q : BitVec 4) (a : BitVec 3) (g : BitVec 3) (z : BitVec 1) (o : BitVec 5) :
    exec (.amor sf p q a g z o) st = execAmor sf p q a g z o st := rfl
@[simp] theorem exec_amminI (sf : Bool) (p : BitVec 2) (q : BitVec 4) (a : BitVec 3) (g : BitVec 3) (z : BitVec 1) (o : BitVec 5) :
    exec (.amminI sf p q a g z o) st = execAmminI sf p q a g z o st := rfl
@[simp] theorem exec_amminN (sf : Bool) (p : BitVec 2) (q : BitVec 4) (a : BitVec 3) (g : BitVec 3) (z : BitVec 1) (o : BitVec 5) :
    exec (.amminN sf p q a g z o) st = execAmminN sf p q a g z o st := rfl
@[simp] theorem exec_ammaxI (sf : Bool) (p : BitVec 2) (q : BitVec 4) (a : BitVec 3) (g : BitVec 3) (z : BitVec 1) (o : BitVec 5) :
    exec (.ammaxI sf p q a g z o) st = execAmmaxI sf p q a g z o st := rfl
@[simp] theorem exec_ammaxN (sf : Bool) (p : BitVec 2) (q : BitVec 4) (a : BitVec 3) (g : BitVec 3) (z : BitVec 1) (o : BitVec 5) :
    exec (.ammaxN sf p q a g z o) st = execAmmaxN sf p q a g z o st := rfl
@[simp] theorem exec_ldacq (sf : Bool) (p : BitVec 2) (q : BitVec 4) (a : BitVec 3) (z : BitVec 1) (o : BitVec 5) :
    exec (.ldacq sf p q a z o) st = execLdacq sf p q a z o st := rfl
@[simp] theorem exec_strel (sf : Bool) (p : BitVec 2) (q : BitVec 4) (a : BitVec 3) (z : BitVec 1) (o : BitVec 5) :
    exec (.strel sf p q a z o) st = execStrel sf p q a z o st := rfl
@[simp] theorem exec_fence (sf : Bool) (o : BitVec 5) :
    exec (.fence sf o) st = execFence sf o st := rfl
@[simp] theorem exec_stacq (sf : Bool) (q : BitVec 4) (a : BitVec 3) (o : BitVec 5) :
    exec (.stacq sf q a o) st = execStacq sf q a o st := rfl
@[simp] theorem exec_strls (sf : Bool) (q : BitVec 4) (a : BitVec 3) (o : BitVec 5) :
    exec (.strls sf q a o) st = execStrls sf q a o st := rfl
@[simp] theorem exec_send (sf : Bool) (x : BitVec 3) (a : BitVec 3) (n : BitVec 5) :
    exec (.send sf x a n) st = execSend sf x a n st := rfl
@[simp] theorem exec_rcvp (sf : Bool) (q : BitVec 4) (a : BitVec 3) :
    exec (.rcvp sf q a) st = execRcvp sf q a st := rfl
@[simp] theorem exec_vadd (sf : Bool) (d : BitVec 4) (a : BitVec 4) (b : BitVec 5) (m : BitVec 5) (t : BitVec 3) :
    exec (.vadd sf d a b m t) st = execVadd sf d a b m t st := rfl
@[simp] theorem exec_vsub (sf : Bool) (d : BitVec 4) (a : BitVec 4) (b : BitVec 5) (m : BitVec 5) (t : BitVec 3) :
    exec (.vsub sf d a b m t) st = execVsub sf d a b m t st := rfl
@[simp] theorem exec_vmul (sf : Bool) (d : BitVec 4) (a : BitVec 4) (b : BitVec 5) (m : BitVec 5) (t : BitVec 3) :
    exec (.vmul sf d a b m t) st = execVmul sf d a b m t st := rfl
@[simp] theorem exec_vmin (sf : Bool) (d : BitVec 4) (a : BitVec 4) (b : BitVec 5) (m : BitVec 5) (t : BitVec 3) :
    exec (.vmin sf d a b m t) st = execVmin sf d a b m t st := rfl
@[simp] theorem exec_vmax (sf : Bool) (d : BitVec 4) (a : BitVec 4) (b : BitVec 5) (m : BitVec 5) (t : BitVec 3) :
    exec (.vmax sf d a b m t) st = execVmax sf d a b m t st := rfl
@[simp] theorem exec_vabs (sf : Bool) (d : BitVec 4) (a : BitVec 4) (m : BitVec 5) (t : BitVec 3) :
    exec (.vabs sf d a m t) st = execVabs sf d a m t st := rfl
@[simp] theorem exec_vneg (sf : Bool) (d : BitVec 4) (a : BitVec 4) (m : BitVec 5) (t : BitVec 3) :
    exec (.vneg sf d a m t) st = execVneg sf d a m t st := rfl
@[simp] theorem exec_vsel (sf : Bool) (d : BitVec 4) (a : BitVec 4) (b : BitVec 5) (m : BitVec 5) :
    exec (.vsel sf d a b m) st = execVsel sf d a b m st := rfl
@[simp] theorem exec_vand (sf : Bool) (d : BitVec 4) (a : BitVec 4) (b : BitVec 5) (m : BitVec 5) (t : BitVec 3) :
    exec (.vand sf d a b m t) st = execVand sf d a b m t st := rfl
@[simp] theorem exec_vor (sf : Bool) (d : BitVec 4) (a : BitVec 4) (b : BitVec 5) (m : BitVec 5) (t : BitVec 3) :
    exec (.vor sf d a b m t) st = execVor sf d a b m t st := rfl
@[simp] theorem exec_vxor (sf : Bool) (d : BitVec 4) (a : BitVec 4) (b : BitVec 5) (m : BitVec 5) (t : BitVec 3) :
    exec (.vxor sf d a b m t) st = execVxor sf d a b m t st := rfl
@[simp] theorem exec_vandn (sf : Bool) (d : BitVec 4) (a : BitVec 4) (b : BitVec 5) (m : BitVec 5) (t : BitVec 3) :
    exec (.vandn sf d a b m t) st = execVandn sf d a b m t st := rfl
@[simp] theorem exec_vshl (sf : Bool) (d : BitVec 4) (a : BitVec 4) (b : BitVec 5) (m : BitVec 5) (t : BitVec 3) :
    exec (.vshl sf d a b m t) st = execVshl sf d a b m t st := rfl
@[simp] theorem exec_vshr (sf : Bool) (d : BitVec 4) (a : BitVec 4) (b : BitVec 5) (m : BitVec 5) (t : BitVec 3) :
    exec (.vshr sf d a b m t) st = execVshr sf d a b m t st := rfl
@[simp] theorem exec_vsra (sf : Bool) (d : BitVec 4) (a : BitVec 4) (b : BitVec 5) (m : BitVec 5) (t : BitVec 3) :
    exec (.vsra sf d a b m t) st = execVsra sf d a b m t st := rfl
@[simp] theorem exec_vfma (sf : Bool) (d : BitVec 4) (a : BitVec 4) (b : BitVec 5) (m : BitVec 5) (t : BitVec 3) :
    exec (.vfma sf d a b m t) st = execVfma sf d a b m t st := rfl
@[simp] theorem exec_vfms (sf : Bool) (d : BitVec 4) (a : BitVec 4) (b : BitVec 5) (m : BitVec 5) (t : BitVec 3) :
    exec (.vfms sf d a b m t) st = execVfms sf d a b m t st := rfl
@[simp] theorem exec_vfnma (sf : Bool) (d : BitVec 4) (a : BitVec 4) (b : BitVec 5) (m : BitVec 5) (t : BitVec 3) :
    exec (.vfnma sf d a b m t) st = execVfnma sf d a b m t st := rfl
@[simp] theorem exec_vredSum (sf : Bool) (a : BitVec 4) (b : BitVec 5) (m : BitVec 5) (t : BitVec 3) :
    exec (.vredSum sf a b m t) st = execVredSum sf a b m t st := rfl
@[simp] theorem exec_vredMin (sf : Bool) (a : BitVec 4) (b : BitVec 5) (m : BitVec 5) (t : BitVec 3) :
    exec (.vredMin sf a b m t) st = execVredMin sf a b m t st := rfl
@[simp] theorem exec_vredMax (sf : Bool) (a : BitVec 4) (b : BitVec 5) (m : BitVec 5) (t : BitVec 3) :
    exec (.vredMax sf a b m t) st = execVredMax sf a b m t st := rfl
@[simp] theorem exec_vrng (sf : Bool) (d : BitVec 4) (m : BitVec 5) :
    exec (.vrng sf d m) st = execVrng sf d m st := rfl
@[simp] theorem exec_vmsk (sf : Bool) (a : BitVec 4) (b : BitVec 5) (m : BitVec 5) (t : BitVec 3) :
    exec (.vmsk sf a b m t) st = execVmsk sf a b m t st := rfl
@[simp] theorem exec_vcmpEq (sf : Bool) (d : BitVec 4) (a : BitVec 4) (b : BitVec 5) (m : BitVec 5) (t : BitVec 3) :
    exec (.vcmpEq sf d a b m t) st = execVcmpEq sf d a b m t st := rfl
@[simp] theorem exec_vcmpNe (sf : Bool) (d : BitVec 4) (a : BitVec 4) (b : BitVec 5) (m : BitVec 5) (t : BitVec 3) :
    exec (.vcmpNe sf d a b m t) st = execVcmpNe sf d a b m t st := rfl
@[simp] theorem exec_vcmpLt (sf : Bool) (d : BitVec 4) (a : BitVec 4) (b : BitVec 5) (m : BitVec 5) (t : BitVec 3) :
    exec (.vcmpLt sf d a b m t) st = execVcmpLt sf d a b m t st := rfl
@[simp] theorem exec_vcmpLe (sf : Bool) (d : BitVec 4) (a : BitVec 4) (b : BitVec 5) (m : BitVec 5) (t : BitVec 3) :
    exec (.vcmpLe sf d a b m t) st = execVcmpLe sf d a b m t st := rfl
@[simp] theorem exec_vperm (sf : Bool) (d : BitVec 4) (a : BitVec 4) (b : BitVec 5) (m : BitVec 5) (t : BitVec 3) :
    exec (.vperm sf d a b m t) st = execVperm sf d a b m t st := rfl
@[simp] theorem exec_vbcast (sf : Bool) (d : BitVec 4) (a : BitVec 4) (b : BitVec 5) (m : BitVec 5) (t : BitVec 3) :
    exec (.vbcast sf d a b m t) st = execVbcast sf d a b m t st := rfl
@[simp] theorem exec_vslide (sf : Bool) (d : BitVec 4) (a : BitVec 4) (b : BitVec 5) (m : BitVec 5) (t : BitVec 3) :
    exec (.vslide sf d a b m t) st = execVslide sf d a b m t st := rfl
@[simp] theorem exec_vext (sf : Bool) (a : BitVec 4) (b : BitVec 5) (x : BitVec 5) (t : BitVec 3) :
    exec (.vext sf a b x t) st = execVext sf a b x t st := rfl
@[simp] theorem exec_vins (sf : Bool) (d : BitVec 4) (b : BitVec 5) (x : BitVec 5) (t : BitVec 3) :
    exec (.vins sf d b x t) st = execVins sf d b x t st := rfl
@[simp] theorem exec_vsplat (sf : Bool) (d : BitVec 4) (b : BitVec 5) (m : BitVec 5) (t : BitVec 3) :
    exec (.vsplat sf d b m t) st = execVsplat sf d b m t st := rfl
@[simp] theorem exec_vrcp (sf : Bool) (d : BitVec 4) (a : BitVec 4) (m : BitVec 5) (t : BitVec 3) :
    exec (.vrcp sf d a m t) st = execVrcp sf d a m t st := rfl
@[simp] theorem exec_vrsq (sf : Bool) (d : BitVec 4) (a : BitVec 4) (m : BitVec 5) (t : BitVec 3) :
    exec (.vrsq sf d a m t) st = execVrsq sf d a m t st := rfl
@[simp] theorem exec_vexp2 (sf : Bool) (d : BitVec 4) (a : BitVec 4) (m : BitVec 5) (t : BitVec 3) :
    exec (.vexp2 sf d a m t) st = execVexp2 sf d a m t st := rfl
@[simp] theorem exec_vlog2 (sf : Bool) (d : BitVec 4) (a : BitVec 4) (m : BitVec 5) (t : BitVec 3) :
    exec (.vlog2 sf d a m t) st = execVlog2 sf d a m t st := rfl
@[simp] theorem exec_vcvt (sf : Bool) (d : BitVec 4) (a : BitVec 4) (y : BitVec 4) (r : BitVec 1) (m : BitVec 5) (x : BitVec 4) :
    exec (.vcvt sf d a y r m x) st = execVcvt sf d a y r m x st := rfl
@[simp] theorem exec_vscl (sf : Bool) (d : BitVec 4) (a : BitVec 4) (y : BitVec 4) (r : BitVec 1) (m : BitVec 5) (x : BitVec 4) :
    exec (.vscl sf d a y r m x) st = execVscl sf d a y r m x st := rfl
@[simp] theorem exec_vbpk (sf : Bool) (d : BitVec 4) (a : BitVec 4) (m : BitVec 5) :
    exec (.vbpk sf d a m) st = execVbpk sf d a m st := rfl
@[simp] theorem exec_vbupk (sf : Bool) (d : BitVec 4) (a : BitVec 4) (m : BitVec 5) :
    exec (.vbupk sf d a m) st = execVbupk sf d a m st := rfl
@[simp] theorem exec_vdot16 (sf : Bool) (d : BitVec 4) (a : BitVec 4) (b : BitVec 5) (m : BitVec 5) (f : BitVec 4) :
    exec (.vdot16 sf d a b m f) st = execVdot16 sf d a b m f st := rfl
@[simp] theorem exec_mcfg (sf : Bool) (c : BitVec 3) (x : BitVec 3) :
    exec (.mcfg sf c x) st = execMcfg sf c x st := rfl
@[simp] theorem exec_mcfgDrop (sf : Bool) (c : BitVec 3) (x : BitVec 3) :
    exec (.mcfgDrop sf c x) st = execMcfgDrop sf c x st := rfl
@[simp] theorem exec_mclaim (sf : Bool) (p : BitVec 6) (x : BitVec 3) :
    exec (.mclaim sf p x) st = execMclaim sf p x st := rfl
@[simp] theorem exec_mfree (sf : Bool) (p : BitVec 6) (x : BitVec 3) :
    exec (.mfree sf p x) st = execMfree sf p x st := rfl
@[simp] theorem exec_mfill (sf : Bool) (p : BitVec 6) (x : BitVec 3) :
    exec (.mfill sf p x) st = execMfill sf p x st := rfl
@[simp] theorem exec_mma (sf : Bool) (c : BitVec 3) (p : BitVec 6) (b : BitVec 6) (h : BitVec 2) (x : BitVec 3) :
    exec (.mma sf c p b h x) st = execMma sf c p b h x st := rfl
@[simp] theorem exec_mmaz (sf : Bool) (c : BitVec 3) (p : BitVec 6) (b : BitVec 6) (h : BitVec 2) (x : BitVec 3) :
    exec (.mmaz sf c p b h x) st = execMmaz sf c p b h x st := rfl
@[simp] theorem exec_mrd (sf : Bool) (c : BitVec 3) (x : BitVec 3) :
    exec (.mrd sf c x) st = execMrd sf c x st := rfl
@[simp] theorem exec_mwb (sf : Bool) (c : BitVec 3) (x : BitVec 3) :
    exec (.mwb sf c x) st = execMwb sf c x st := rfl
@[simp] theorem exec_mzero (sf : Bool) (c : BitVec 3) (x : BitVec 3) :
    exec (.mzero sf c x) st = execMzero sf c x st := rfl
@[simp] theorem exec_mchk (sf : Bool) (c : BitVec 3) (x : BitVec 3) :
    exec (.mchk sf c x) st = execMchk sf c x st := rfl
@[simp] theorem exec_mtr (sf : Bool) (p : BitVec 6) (b : BitVec 6) (x : BitVec 3) :
    exec (.mtr sf p b x) st = execMtr sf p b x st := rfl
@[simp] theorem exec_ccopy (sf : Bool) (o : BitVec 3) (im : BitVec 1) (l : BitVec 11) :
    exec (.ccopy sf o im l) st = execCcopy sf o im l st := rfl
@[simp] theorem exec_cdist (sf : Bool) (o : BitVec 3) (im : BitVec 1) (l : BitVec 11) :
    exec (.cdist sf o im l) st = execCdist sf o im l st := rfl
@[simp] theorem exec_cslot (sf : Bool) (o : BitVec 3) (im : BitVec 1) (l : BitVec 11) :
    exec (.cslot sf o im l) st = execCslot sf o im l st := rfl
@[simp] theorem exec_cseal (sf : Bool) (o : BitVec 3) :
    exec (.cseal sf o) st = execCseal sf o st := rfl
@[simp] theorem exec_cchk (sf : Bool) (n : BitVec 5) :
    exec (.cchk sf n) st = execCchk sf n st := rfl
@[simp] theorem exec_cwait (n : BitVec 5) :
    exec (.cwait n) st = execCwait n st := rfl
@[simp] theorem exec_cadv (sf : Bool) :
    exec (.cadv sf) st = execCadv sf st := rfl
@[simp] theorem exec_cpub (sf : Bool) (o : BitVec 3) :
    exec (.cpub sf o) st = execCpub sf o st := rfl
@[simp] theorem exec_cstat (sf : Bool) (d : BitVec 5) :
    exec (.cstat sf d) st = execCstat sf d st := rfl
@[simp] theorem exec_sname (sf : Bool) (o : BitVec 3) (im : BitVec 1) (l : BitVec 11) :
    exec (.sname sf o im l) st = execSname sf o im l st := rfl
@[simp] theorem exec_sred (sf : Bool) (o : BitVec 3) (im : BitVec 1) (l : BitVec 11) :
    exec (.sred sf o im l) st = execSred sf o im l st := rfl
@[simp] theorem exec_sgath (sf : Bool) (o : BitVec 3) (im : BitVec 1) (l : BitVec 11) :
    exec (.sgath sf o im l) st = execSgath sf o im l st := rfl
@[simp] theorem exec_sbc (sf : Bool) (o : BitVec 3) (im : BitVec 1) (l : BitVec 11) :
    exec (.sbc sf o im l) st = execSbc sf o im l st := rfl
@[simp] theorem exec_sstat (sf : Bool) (d : BitVec 5) (o : BitVec 3) :
    exec (.sstat sf d o) st = execSstat sf d o st := rfl
@[simp] theorem exec_sabort (sf : Bool) (o : BitVec 3) (im : BitVec 1) (l : BitVec 11) :
    exec (.sabort sf o im l) st = execSabort sf o im l st := rfl
@[simp] theorem exec_fdecl (sf : Bool) (o : BitVec 3) :
    exec (.fdecl sf o) st = execFdecl sf o st := rfl
@[simp] theorem exec_fbind (sf : Bool) (o : BitVec 3) :
    exec (.fbind sf o) st = execFbind sf o st := rfl
@[simp] theorem exec_fcol (sf : Bool) (o : BitVec 3) :
    exec (.fcol sf o) st = execFcol sf o st := rfl
@[simp] theorem exec_frate (sf : Bool) (o : BitVec 3) :
    exec (.frate sf o) st = execFrate sf o st := rfl
@[simp] theorem exec_fget (sf : Bool) (j : BitVec 4) :
    exec (.fget sf j) st = execFget sf j st := rfl
@[simp] theorem exec_fset (sf : Bool) (a : BitVec 5) :
    exec (.fset sf a) st = execFset sf a st := rfl
@[simp] theorem exec_fnext (sf : Bool) :
    exec (.fnext sf) st = execFnext sf st := rfl
@[simp] theorem exec_fsnap (sf : Bool) (o : BitVec 3) (im : BitVec 1) (l : BitVec 11) :
    exec (.fsnap sf o im l) st = execFsnap sf o im l st := rfl
@[simp] theorem exec_fpub (sf : Bool) :
    exec (.fpub sf) st = execFpub sf st := rfl
@[simp] theorem exec_fstop (sf : Bool) :
    exec (.fstop sf) st = execFstop sf st := rfl
@[simp] theorem exec_fgo (sf : Bool) :
    exec (.fgo sf) st = execFgo sf st := rfl
@[simp] theorem exec_clockStepRequest (n : Nat) :
    exec (.clockStepRequest n) st = execClockStepRequest n st := rfl
@[simp] theorem exec_hostPageItem (item : Option PageItem) :
    exec (.hostPageItem item) st = execHostPageItem item st := rfl
@[simp] theorem exec_forcedRefresh (stack : Nat) (slice : Nat) (delay : Nat) :
    exec (.forcedRefresh stack slice delay) st = execForcedRefresh stack slice delay st := rfl
@[simp] theorem exec_contribution (g : FlitGroup) :
    exec (.contribution g) st = execContribution g st := rfl
@[simp] theorem exec_result (g : FlitGroup) :
    exec (.result g) st = execResult g st := rfl
@[simp] theorem exec_vote (g : FlitGroup) :
    exec (.vote g) st = execVote g st := rfl
@[simp] theorem exec_commit (g : FlitGroup) :
    exec (.commit g) st = execCommit g st := rfl
@[simp] theorem exec_abort (g : FlitGroup) :
    exec (.abort g) st = execAbort g st := rfl
@[simp] theorem exec_expired (g : FlitGroup) :
    exec (.expired g) st = execExpired g st := rfl
@[simp] theorem exec_owner (g : FlitGroup) :
    exec (.owner g) st = execOwner g st := rfl
@[simp] theorem exec_fault (g : FlitGroup) :
    exec (.fault g) st = execFault g st := rfl
@[simp] theorem exec_abortRequest (g : FlitGroup) :
    exec (.abortRequest g) st = execAbortRequest g st := rfl
@[simp] theorem exec_linkAck (seq : BitVec 32) :
    exec (.linkAck seq) st = execLinkAck seq st := rfl
@[simp] theorem exec_linkNak (seq : BitVec 32) :
    exec (.linkNak seq) st = execLinkNak seq st := rfl
@[simp] theorem exec_hostDeadlineExtend (extend : Bool) :
    exec (.hostDeadlineExtend extend) st = execHostDeadlineExtend extend st := rfl
@[simp] theorem exec_linkRetrain (ok : Bool) :
    exec (.linkRetrain ok) st = execLinkRetrain ok st := rfl
@[simp] theorem exec_hostMergeDecision (goOn : Bool) :
    exec (.hostMergeDecision goOn) st = execHostMergeDecision goOn st := rfl
@[simp] theorem exec_domainEnd (fc : Nat) :
    exec (.domainEnd fc) st = execDomainEnd fc st := rfl
@[simp] theorem exec_notifyWrite (val : BitVec 64) :
    exec (.notifyWrite val) st = execNotifyWrite val st := rfl
@[simp] theorem exec_notifyWindowMap (qid : Nat) :
    exec (.notifyWindowMap qid) st = execNotifyWindowMap qid st := rfl
@[simp] theorem exec_launchRecordAccept (src : LaunchSrc) :
    exec (.launchRecordAccept src) st = execLaunchRecordAccept src st := rfl
@[simp] theorem exec_partitionCreate (cfg : PartCfg) :
    exec (.partitionCreate cfg) st = execPartitionCreate cfg st := rfl
@[simp] theorem exec_boot (image : Option BootImage) :
    exec (.boot image) st = execBoot image st := rfl
@[simp] theorem exec_bootService (g : FlitGroup) :
    exec (.bootService g) st = execBootService g st := rfl
@[simp] theorem exec_fuseRepair (layer : Nat) (row : Nat) (pcol : Nat) :
    exec (.fuseRepair layer row pcol) st = execFuseRepair layer row pcol st := rfl
@[simp] theorem exec_heaterTuning (taps : List (Nat × Nat)) :
    exec (.heaterTuning taps) st = execHeaterTuning taps st := rfl
@[simp] theorem exec_hostHeaterSettings (settings : List (Nat × Nat)) :
    exec (.hostHeaterSettings settings) st = execHostHeaterSettings settings st := rfl
@[simp] theorem exec_wavelengthRemoval (channel : Nat) (wavelength : Nat) :
    exec (.wavelengthRemoval channel wavelength) st = execWavelengthRemoval channel wavelength st := rfl
@[simp] theorem exec_thermalEvaluation (hot : Nat) (hbm : Nat) (power : Nat) :
    exec (.thermalEvaluation hot hbm power) st = execThermalEvaluation hot hbm power st := rfl
@[simp] theorem exec_fabricHeartbeat (heard : List (Nat × List (Nat × Bool))) :
    exec (.fabricHeartbeat heard) st = execFabricHeartbeat heard st := rfl
@[simp] theorem exec_fabricRecovery (phase : RecoveryPhase) :
    exec (.fabricRecovery phase) st = execFabricRecovery phase st := rfl
@[simp] theorem exec_unassignedEncoding (why : EncFault) :
    exec (.unassignedEncoding why) st = execUnassignedEncoding why st := rfl
@[simp] theorem exec_flitGroupRejected (seq : BitVec 32) (why : FlitReject) :
    exec (.flitGroupRejected seq why) st = execFlitGroupRejected seq why st := rfl
@[simp] theorem exec_softError (err : SoftError) :
    exec (.softError err) st = execSoftError err st := rfl
@[simp] theorem exec_launchQueueCreate (qid : Nat) (base : BitVec 64) (log : Nat) :
    exec (.launchQueueCreate qid base log) st = execLaunchQueueCreate qid base log st := rfl
@[simp] theorem exec_ideKm (key : Nat) :
    exec (.ideKm key) st = execIdeKm key st := rfl
@[simp] theorem exec_mark :
    exec .mark st = execMark st := rfl
@[simp] theorem exec_await :
    exec .await st = execAwait st := rfl
@[simp] theorem exec_epntWrite :
    exec .epntWrite st = execEpntWrite st := rfl
@[simp] theorem exec_resultLanding :
    exec .resultLanding st = execResultLanding st := rfl
@[simp] theorem exec_storeLanding :
    exec .storeLanding st = execStoreLanding st := rfl
@[simp] theorem exec_atomicPerform :
    exec .atomicPerform st = execAtomicPerform st := rfl
@[simp] theorem exec_holdExpire :
    exec .holdExpire st = execHoldExpire st := rfl
@[simp] theorem exec_asyncTrapEntry :
    exec .asyncTrapEntry st = execAsyncTrapEntry st := rfl
@[simp] theorem exec_resyncResume :
    exec .resyncResume st = execResyncResume st := rfl
@[simp] theorem exec_contrailFollowerIssue :
    exec .contrailFollowerIssue st = execContrailFollowerIssue st := rfl
@[simp] theorem exec_domainMark :
    exec .domainMark st = execDomainMark st := rfl
@[simp] theorem exec_chipMark :
    exec .chipMark st = execChipMark st := rfl
@[simp] theorem exec_kernelEnd :
    exec .kernelEnd st = execKernelEnd st := rfl
@[simp] theorem exec_mmaBlockStep :
    exec .mmaBlockStep st = execMmaBlockStep st := rfl
@[simp] theorem exec_mmaResultWrite :
    exec .mmaResultWrite st = execMmaResultWrite st := rfl
@[simp] theorem exec_mwbOutputLanding :
    exec .mwbOutputLanding st = execMwbOutputLanding st := rfl
@[simp] theorem exec_caddyBeatRead :
    exec .caddyBeatRead st = execCaddyBeatRead st := rfl
@[simp] theorem exec_caddyBeatLand :
    exec .caddyBeatLand st = execCaddyBeatLand st := rfl
@[simp] theorem exec_hostBeatLand :
    exec .hostBeatLand st = execHostBeatLand st := rfl
@[simp] theorem exec_overflowPageInstall :
    exec .overflowPageInstall st = execOverflowPageInstall st := rfl
@[simp] theorem exec_staticCopyEntryRun :
    exec .staticCopyEntryRun st = execStaticCopyEntryRun st := rfl
@[simp] theorem exec_stratusWordAccept :
    exec .stratusWordAccept st = execStratusWordAccept st := rfl
@[simp] theorem exec_replayTimeout :
    exec .replayTimeout st = execReplayTimeout st := rfl
@[simp] theorem exec_stratusDeadline :
    exec .stratusDeadline st = execStratusDeadline st := rfl
@[simp] theorem exec_decisionTimeout :
    exec .decisionTimeout st = execDecisionTimeout st := rfl
@[simp] theorem exec_collectiveOutcome :
    exec .collectiveOutcome st = execCollectiveOutcome st := rfl
@[simp] theorem exec_haloExchange :
    exec .haloExchange st = execHaloExchange st := rfl
@[simp] theorem exec_sweepBoundary :
    exec .sweepBoundary st = execSweepBoundary st := rfl
@[simp] theorem exec_builtinSiteUpdate :
    exec .builtinSiteUpdate st = execBuiltinSiteUpdate st := rfl
@[simp] theorem exec_mergeApply :
    exec .mergeApply st = execMergeApply st := rfl
@[simp] theorem exec_preemptionRequest :
    exec .preemptionRequest st = execPreemptionRequest st := rfl
@[simp] theorem exec_preemptionWithdraw :
    exec .preemptionWithdraw st = execPreemptionWithdraw st := rfl
@[simp] theorem exec_drainComplete :
    exec .drainComplete st = execDrainComplete st := rfl
@[simp] theorem exec_eviction :
    exec .eviction st = execEviction st := rfl
@[simp] theorem exec_resumeRequest :
    exec .resumeRequest st = execResumeRequest st := rfl
@[simp] theorem exec_timetableRestart :
    exec .timetableRestart st = execTimetableRestart st := rfl
@[simp] theorem exec_hostDomainResume :
    exec .hostDomainResume st = execHostDomainResume st := rfl
@[simp] theorem exec_brkRelease :
    exec .brkRelease st = execBrkRelease st := rfl
@[simp] theorem exec_endStatusWrite :
    exec .endStatusWrite st = execEndStatusWrite st := rfl
@[simp] theorem exec_notifyWindowUnmap :
    exec .notifyWindowUnmap st = execNotifyWindowUnmap st := rfl
@[simp] theorem exec_launchPlacement :
    exec .launchPlacement st = execLaunchPlacement st := rfl
@[simp] theorem exec_messageTokenSend :
    exec .messageTokenSend st = execMessageTokenSend st := rfl
@[simp] theorem exec_messageArrival :
    exec .messageArrival st = execMessageArrival st := rfl
@[simp] theorem exec_partitionReset :
    exec .partitionReset st = execPartitionReset st := rfl
@[simp] theorem exec_lockInterface :
    exec .lockInterface st = execLockInterface st := rfl
@[simp] theorem exec_getDeviceInterfaceReport :
    exec .getDeviceInterfaceReport st = execGetDeviceInterfaceReport st := rfl
@[simp] theorem exec_startInterface :
    exec .startInterface st = execStartInterface st := rfl
@[simp] theorem exec_stopInterface :
    exec .stopInterface st = execStopInterface st := rfl
@[simp] theorem exec_spdmAttestation :
    exec .spdmAttestation st = execSpdmAttestation st := rfl
@[simp] theorem exec_ideStreamFailure :
    exec .ideStreamFailure st = execIdeStreamFailure st := rfl
@[simp] theorem exec_bootFetchTimeout :
    exec .bootFetchTimeout st = execBootFetchTimeout st := rfl
@[simp] theorem exec_hbmScrub :
    exec .hbmScrub st = execHbmScrub st := rfl
@[simp] theorem exec_mfillContentsInPlace :
    exec .mfillContentsInPlace st = execMfillContentsInPlace st := rfl
@[simp] theorem exec_mtrTransposeInPlace :
    exec .mtrTransposeInPlace st = execMtrTransposeInPlace st := rfl
@[simp] theorem exec_interfaceConfigurationChange :
    exec .interfaceConfigurationChange st = execInterfaceConfigurationChange st := rfl

end

end Sys2Proof.Machine
end

