-- ==== Sys2Proof/Laws/State.lean ====
section
/-!
SUPPORT. What each update of the state does to each of its fields, so that no proof unfolds an update.
-/

namespace Sys2Proof.Machine

section
variable (s : State)

@[simp] theorem State.setCore_ccyc (c : Nat) (k : Core) : (s.setCore c k).ccyc = s.ccyc := rfl
@[simp] theorem State.setCore_cur (c : Nat) (k : Core) : (s.setCore c k).cur = s.cur := rfl
@[simp] theorem State.setCore_mem (c : Nat) (k : Core) : (s.setCore c k).mem = s.mem := rfl
@[simp] theorem State.setCore_ecc (c : Nat) (k : Core) : (s.setCore c k).ecc = s.ecc := rfl
@[simp] theorem State.setCore_unitKeys (c : Nat) (k : Core) : (s.setCore c k).unitKeys = s.unitKeys := rfl
@[simp] theorem State.setCore_cores (c : Nat) (k : Core) : (s.setCore c k).cores = tset s.cores c k := rfl
@[simp] theorem State.setCore_octets (c : Nat) (k : Core) : (s.setCore c k).octets = s.octets := rfl
@[simp] theorem State.setCore_binds (c : Nat) (k : Core) : (s.setCore c k).binds = s.binds := rfl
@[simp] theorem State.setCore_parts (c : Nat) (k : Core) : (s.setCore c k).parts = s.parts := rfl
@[simp] theorem State.setCore_xfers (c : Nat) (k : Core) : (s.setCore c k).xfers = s.xfers := rfl
@[simp] theorem State.setCore_colls (c : Nat) (k : Core) : (s.setCore c k).colls = s.colls := rfl
@[simp] theorem State.setCore_net (c : Nat) (k : Core) : (s.setCore c k).net = s.net := rfl
@[simp] theorem State.setCore_agenda (c : Nat) (k : Core) : (s.setCore c k).agenda = s.agenda := rfl
@[simp] theorem State.setCore_seq (c : Nat) (k : Core) : (s.setCore c k).seq = s.seq := rfl
@[simp] theorem State.setCore_dev (c : Nat) (k : Core) : (s.setCore c k).dev = s.dev := rfl
@[simp] theorem State.setCore_inputs (c : Nat) (k : Core) : (s.setCore c k).inputs = s.inputs := rfl
@[simp] theorem State.setCore_reports (c : Nat) (k : Core) : (s.setCore c k).reports = s.reports := rfl

@[simp] theorem State.modCore_ccyc (c : Nat) (f : Core → Core) : (s.modCore c f).ccyc = s.ccyc := rfl
@[simp] theorem State.modCore_cur (c : Nat) (f : Core → Core) : (s.modCore c f).cur = s.cur := rfl
@[simp] theorem State.modCore_mem (c : Nat) (f : Core → Core) : (s.modCore c f).mem = s.mem := rfl
@[simp] theorem State.modCore_ecc (c : Nat) (f : Core → Core) : (s.modCore c f).ecc = s.ecc := rfl
@[simp] theorem State.modCore_unitKeys (c : Nat) (f : Core → Core) : (s.modCore c f).unitKeys = s.unitKeys := rfl
@[simp] theorem State.modCore_cores (c : Nat) (f : Core → Core) :
    (s.modCore c f).cores = tset s.cores c (f (s.core c)) := rfl
@[simp] theorem State.modCore_octets (c : Nat) (f : Core → Core) : (s.modCore c f).octets = s.octets := rfl
@[simp] theorem State.modCore_binds (c : Nat) (f : Core → Core) : (s.modCore c f).binds = s.binds := rfl
@[simp] theorem State.modCore_parts (c : Nat) (f : Core → Core) : (s.modCore c f).parts = s.parts := rfl
@[simp] theorem State.modCore_xfers (c : Nat) (f : Core → Core) : (s.modCore c f).xfers = s.xfers := rfl
@[simp] theorem State.modCore_colls (c : Nat) (f : Core → Core) : (s.modCore c f).colls = s.colls := rfl
@[simp] theorem State.modCore_net (c : Nat) (f : Core → Core) : (s.modCore c f).net = s.net := rfl
@[simp] theorem State.modCore_agenda (c : Nat) (f : Core → Core) : (s.modCore c f).agenda = s.agenda := rfl
@[simp] theorem State.modCore_seq (c : Nat) (f : Core → Core) : (s.modCore c f).seq = s.seq := rfl
@[simp] theorem State.modCore_dev (c : Nat) (f : Core → Core) : (s.modCore c f).dev = s.dev := rfl
@[simp] theorem State.modCore_inputs (c : Nat) (f : Core → Core) : (s.modCore c f).inputs = s.inputs := rfl
@[simp] theorem State.modCore_reports (c : Nat) (f : Core → Core) : (s.modCore c f).reports = s.reports := rfl

@[simp] theorem State.modStream_ccyc (c : Nat) (h : Half) (f : Stream → Stream) :
    (s.modStream c h f).ccyc = s.ccyc := rfl
@[simp] theorem State.modStream_cur (c : Nat) (h : Half) (f : Stream → Stream) : (s.modStream c h f).cur = s.cur := rfl
@[simp] theorem State.modStream_mem (c : Nat) (h : Half) (f : Stream → Stream) : (s.modStream c h f).mem = s.mem := rfl
@[simp] theorem State.modStream_ecc (c : Nat) (h : Half) (f : Stream → Stream) : (s.modStream c h f).ecc = s.ecc := rfl
@[simp] theorem State.modStream_unitKeys (c : Nat) (h : Half) (f : Stream → Stream) :
    (s.modStream c h f).unitKeys = s.unitKeys := rfl
@[simp] theorem State.modStream_cores (c : Nat) (h : Half) (f : Stream → Stream) :
    (s.modStream c h f).cores = tset s.cores c ((s.core c).setStream h (f (s.stream c h))) := rfl
@[simp] theorem State.modStream_octets (c : Nat) (h : Half) (f : Stream → Stream) :
    (s.modStream c h f).octets = s.octets := rfl
@[simp] theorem State.modStream_binds (c : Nat) (h : Half) (f : Stream → Stream) :
    (s.modStream c h f).binds = s.binds := rfl
@[simp] theorem State.modStream_parts (c : Nat) (h : Half) (f : Stream → Stream) :
    (s.modStream c h f).parts = s.parts := rfl
@[simp] theorem State.modStream_xfers (c : Nat) (h : Half) (f : Stream → Stream) :
    (s.modStream c h f).xfers = s.xfers := rfl
@[simp] theorem State.modStream_colls (c : Nat) (h : Half) (f : Stream → Stream) :
    (s.modStream c h f).colls = s.colls := rfl
@[simp] theorem State.modStream_net (c : Nat) (h : Half) (f : Stream → Stream) : (s.modStream c h f).net = s.net := rfl
@[simp] theorem State.modStream_agenda (c : Nat) (h : Half) (f : Stream → Stream) :
    (s.modStream c h f).agenda = s.agenda := rfl
@[simp] theorem State.modStream_seq (c : Nat) (h : Half) (f : Stream → Stream) : (s.modStream c h f).seq = s.seq := rfl
@[simp] theorem State.modStream_dev (c : Nat) (h : Half) (f : Stream → Stream) : (s.modStream c h f).dev = s.dev := rfl
@[simp] theorem State.modStream_inputs (c : Nat) (h : Half) (f : Stream → Stream) :
    (s.modStream c h f).inputs = s.inputs := rfl
@[simp] theorem State.modStream_reports (c : Nat) (h : Half) (f : Stream → Stream) :
    (s.modStream c h f).reports = s.reports := rfl

@[simp] theorem State.modOctet_ccyc (o : Nat) (f : Octet → Octet) : (s.modOctet o f).ccyc = s.ccyc := rfl
@[simp] theorem State.modOctet_cur (o : Nat) (f : Octet → Octet) : (s.modOctet o f).cur = s.cur := rfl
@[simp] theorem State.modOctet_mem (o : Nat) (f : Octet → Octet) : (s.modOctet o f).mem = s.mem := rfl
@[simp] theorem State.modOctet_ecc (o : Nat) (f : Octet → Octet) : (s.modOctet o f).ecc = s.ecc := rfl
@[simp] theorem State.modOctet_unitKeys (o : Nat) (f : Octet → Octet) : (s.modOctet o f).unitKeys = s.unitKeys := rfl
@[simp] theorem State.modOctet_cores (o : Nat) (f : Octet → Octet) : (s.modOctet o f).cores = s.cores := rfl
@[simp] theorem State.modOctet_octets (o : Nat) (f : Octet → Octet) :
    (s.modOctet o f).octets = tset s.octets o (f (s.octet o)) := rfl
@[simp] theorem State.modOctet_binds (o : Nat) (f : Octet → Octet) : (s.modOctet o f).binds = s.binds := rfl
@[simp] theorem State.modOctet_parts (o : Nat) (f : Octet → Octet) : (s.modOctet o f).parts = s.parts := rfl
@[simp] theorem State.modOctet_xfers (o : Nat) (f : Octet → Octet) : (s.modOctet o f).xfers = s.xfers := rfl
@[simp] theorem State.modOctet_colls (o : Nat) (f : Octet → Octet) : (s.modOctet o f).colls = s.colls := rfl
@[simp] theorem State.modOctet_net (o : Nat) (f : Octet → Octet) : (s.modOctet o f).net = s.net := rfl
@[simp] theorem State.modOctet_agenda (o : Nat) (f : Octet → Octet) : (s.modOctet o f).agenda = s.agenda := rfl
@[simp] theorem State.modOctet_seq (o : Nat) (f : Octet → Octet) : (s.modOctet o f).seq = s.seq := rfl
@[simp] theorem State.modOctet_dev (o : Nat) (f : Octet → Octet) : (s.modOctet o f).dev = s.dev := rfl
@[simp] theorem State.modOctet_inputs (o : Nat) (f : Octet → Octet) : (s.modOctet o f).inputs = s.inputs := rfl
@[simp] theorem State.modOctet_reports (o : Nat) (f : Octet → Octet) : (s.modOctet o f).reports = s.reports := rfl

@[simp] theorem State.modBind_ccyc (b : Nat) (f : Bind → Bind) : (s.modBind b f).ccyc = s.ccyc := rfl
@[simp] theorem State.modBind_cur (b : Nat) (f : Bind → Bind) : (s.modBind b f).cur = s.cur := rfl
@[simp] theorem State.modBind_mem (b : Nat) (f : Bind → Bind) : (s.modBind b f).mem = s.mem := rfl
@[simp] theorem State.modBind_ecc (b : Nat) (f : Bind → Bind) : (s.modBind b f).ecc = s.ecc := rfl
@[simp] theorem State.modBind_unitKeys (b : Nat) (f : Bind → Bind) : (s.modBind b f).unitKeys = s.unitKeys := rfl
@[simp] theorem State.modBind_cores (b : Nat) (f : Bind → Bind) : (s.modBind b f).cores = s.cores := rfl
@[simp] theorem State.modBind_octets (b : Nat) (f : Bind → Bind) : (s.modBind b f).octets = s.octets := rfl
@[simp] theorem State.modBind_binds (b : Nat) (f : Bind → Bind) :
    (s.modBind b f).binds = tset s.binds b (f (s.bindAt b)) := rfl
@[simp] theorem State.modBind_parts (b : Nat) (f : Bind → Bind) : (s.modBind b f).parts = s.parts := rfl
@[simp] theorem State.modBind_xfers (b : Nat) (f : Bind → Bind) : (s.modBind b f).xfers = s.xfers := rfl
@[simp] theorem State.modBind_colls (b : Nat) (f : Bind → Bind) : (s.modBind b f).colls = s.colls := rfl
@[simp] theorem State.modBind_net (b : Nat) (f : Bind → Bind) : (s.modBind b f).net = s.net := rfl
@[simp] theorem State.modBind_agenda (b : Nat) (f : Bind → Bind) : (s.modBind b f).agenda = s.agenda := rfl
@[simp] theorem State.modBind_seq (b : Nat) (f : Bind → Bind) : (s.modBind b f).seq = s.seq := rfl
@[simp] theorem State.modBind_dev (b : Nat) (f : Bind → Bind) : (s.modBind b f).dev = s.dev := rfl
@[simp] theorem State.modBind_inputs (b : Nat) (f : Bind → Bind) : (s.modBind b f).inputs = s.inputs := rfl
@[simp] theorem State.modBind_reports (b : Nat) (f : Bind → Bind) : (s.modBind b f).reports = s.reports := rfl

@[simp] theorem State.modPart_ccyc (p : Nat) (f : Part → Part) : (s.modPart p f).ccyc = s.ccyc := rfl
@[simp] theorem State.modPart_cur (p : Nat) (f : Part → Part) : (s.modPart p f).cur = s.cur := rfl
@[simp] theorem State.modPart_mem (p : Nat) (f : Part → Part) : (s.modPart p f).mem = s.mem := rfl
@[simp] theorem State.modPart_ecc (p : Nat) (f : Part → Part) : (s.modPart p f).ecc = s.ecc := rfl
@[simp] theorem State.modPart_unitKeys (p : Nat) (f : Part → Part) : (s.modPart p f).unitKeys = s.unitKeys := rfl
@[simp] theorem State.modPart_cores (p : Nat) (f : Part → Part) : (s.modPart p f).cores = s.cores := rfl
@[simp] theorem State.modPart_octets (p : Nat) (f : Part → Part) : (s.modPart p f).octets = s.octets := rfl
@[simp] theorem State.modPart_binds (p : Nat) (f : Part → Part) : (s.modPart p f).binds = s.binds := rfl
@[simp] theorem State.modPart_parts (p : Nat) (f : Part → Part) :
    (s.modPart p f).parts = tset s.parts p (f (s.partAt p)) := rfl
@[simp] theorem State.modPart_xfers (p : Nat) (f : Part → Part) : (s.modPart p f).xfers = s.xfers := rfl
@[simp] theorem State.modPart_colls (p : Nat) (f : Part → Part) : (s.modPart p f).colls = s.colls := rfl
@[simp] theorem State.modPart_net (p : Nat) (f : Part → Part) : (s.modPart p f).net = s.net := rfl
@[simp] theorem State.modPart_agenda (p : Nat) (f : Part → Part) : (s.modPart p f).agenda = s.agenda := rfl
@[simp] theorem State.modPart_seq (p : Nat) (f : Part → Part) : (s.modPart p f).seq = s.seq := rfl
@[simp] theorem State.modPart_dev (p : Nat) (f : Part → Part) : (s.modPart p f).dev = s.dev := rfl
@[simp] theorem State.modPart_inputs (p : Nat) (f : Part → Part) : (s.modPart p f).inputs = s.inputs := rfl
@[simp] theorem State.modPart_reports (p : Nat) (f : Part → Part) : (s.modPart p f).reports = s.reports := rfl

@[simp] theorem State.modDev_ccyc (f : Device → Device) : (s.modDev f).ccyc = s.ccyc := rfl
@[simp] theorem State.modDev_cur (f : Device → Device) : (s.modDev f).cur = s.cur := rfl
@[simp] theorem State.modDev_mem (f : Device → Device) : (s.modDev f).mem = s.mem := rfl
@[simp] theorem State.modDev_ecc (f : Device → Device) : (s.modDev f).ecc = s.ecc := rfl
@[simp] theorem State.modDev_unitKeys (f : Device → Device) : (s.modDev f).unitKeys = s.unitKeys := rfl
@[simp] theorem State.modDev_cores (f : Device → Device) : (s.modDev f).cores = s.cores := rfl
@[simp] theorem State.modDev_octets (f : Device → Device) : (s.modDev f).octets = s.octets := rfl
@[simp] theorem State.modDev_binds (f : Device → Device) : (s.modDev f).binds = s.binds := rfl
@[simp] theorem State.modDev_parts (f : Device → Device) : (s.modDev f).parts = s.parts := rfl
@[simp] theorem State.modDev_xfers (f : Device → Device) : (s.modDev f).xfers = s.xfers := rfl
@[simp] theorem State.modDev_colls (f : Device → Device) : (s.modDev f).colls = s.colls := rfl
@[simp] theorem State.modDev_net (f : Device → Device) : (s.modDev f).net = s.net := rfl
@[simp] theorem State.modDev_agenda (f : Device → Device) : (s.modDev f).agenda = s.agenda := rfl
@[simp] theorem State.modDev_seq (f : Device → Device) : (s.modDev f).seq = s.seq := rfl
@[simp] theorem State.modDev_dev (f : Device → Device) : (s.modDev f).dev = f s.dev := rfl
@[simp] theorem State.modDev_inputs (f : Device → Device) : (s.modDev f).inputs = s.inputs := rfl
@[simp] theorem State.modDev_reports (f : Device → Device) : (s.modDev f).reports = s.reports := rfl

@[simp] theorem State.report_ccyc (r : Report) : (s.report r).ccyc = s.ccyc := rfl
@[simp] theorem State.report_cur (r : Report) : (s.report r).cur = s.cur := rfl
@[simp] theorem State.report_mem (r : Report) : (s.report r).mem = s.mem := rfl
@[simp] theorem State.report_ecc (r : Report) : (s.report r).ecc = s.ecc := rfl
@[simp] theorem State.report_unitKeys (r : Report) : (s.report r).unitKeys = s.unitKeys := rfl
@[simp] theorem State.report_cores (r : Report) : (s.report r).cores = s.cores := rfl
@[simp] theorem State.report_octets (r : Report) : (s.report r).octets = s.octets := rfl
@[simp] theorem State.report_binds (r : Report) : (s.report r).binds = s.binds := rfl
@[simp] theorem State.report_parts (r : Report) : (s.report r).parts = s.parts := rfl
@[simp] theorem State.report_xfers (r : Report) : (s.report r).xfers = s.xfers := rfl
@[simp] theorem State.report_colls (r : Report) : (s.report r).colls = s.colls := rfl
@[simp] theorem State.report_net (r : Report) : (s.report r).net = s.net := rfl
@[simp] theorem State.report_agenda (r : Report) : (s.report r).agenda = s.agenda := rfl
@[simp] theorem State.report_seq (r : Report) : (s.report r).seq = s.seq := rfl
@[simp] theorem State.report_dev (r : Report) : (s.report r).dev = s.dev := rfl
@[simp] theorem State.report_inputs (r : Report) : (s.report r).inputs = s.inputs := rfl
@[simp] theorem State.report_reports (r : Report) : (s.report r).reports = s.reports ++ [r] := rfl

@[simp] theorem State.postTie_ccyc (due prio tie : Nat) (ev : Ev) : (s.postTie due prio tie ev).ccyc = s.ccyc := rfl
@[simp] theorem State.postTie_cur (due prio tie : Nat) (ev : Ev) : (s.postTie due prio tie ev).cur = s.cur := rfl
@[simp] theorem State.postTie_mem (due prio tie : Nat) (ev : Ev) : (s.postTie due prio tie ev).mem = s.mem := rfl
@[simp] theorem State.postTie_ecc (due prio tie : Nat) (ev : Ev) : (s.postTie due prio tie ev).ecc = s.ecc := rfl
@[simp] theorem State.postTie_unitKeys (due prio tie : Nat) (ev : Ev) :
    (s.postTie due prio tie ev).unitKeys = s.unitKeys := rfl
@[simp] theorem State.postTie_cores (due prio tie : Nat) (ev : Ev) : (s.postTie due prio tie ev).cores = s.cores := rfl
@[simp] theorem State.postTie_octets (due prio tie : Nat) (ev : Ev) :
    (s.postTie due prio tie ev).octets = s.octets := rfl
@[simp] theorem State.postTie_binds (due prio tie : Nat) (ev : Ev) : (s.postTie due prio tie ev).binds = s.binds := rfl
@[simp] theorem State.postTie_parts (due prio tie : Nat) (ev : Ev) : (s.postTie due prio tie ev).parts = s.parts := rfl
@[simp] theorem State.postTie_xfers (due prio tie : Nat) (ev : Ev) : (s.postTie due prio tie ev).xfers = s.xfers := rfl
@[simp] theorem State.postTie_colls (due prio tie : Nat) (ev : Ev) : (s.postTie due prio tie ev).colls = s.colls := rfl
@[simp] theorem State.postTie_net (due prio tie : Nat) (ev : Ev) : (s.postTie due prio tie ev).net = s.net := rfl
@[simp] theorem State.postTie_agenda (due prio tie : Nat) (ev : Ev) :
    (s.postTie due prio tie ev).agenda = agendaInsert { due := due, prio := prio, tie := tie, ev := ev } s.agenda := rfl
@[simp] theorem State.postTie_seq (due prio tie : Nat) (ev : Ev) : (s.postTie due prio tie ev).seq = s.seq + 1 := rfl
@[simp] theorem State.postTie_dev (due prio tie : Nat) (ev : Ev) : (s.postTie due prio tie ev).dev = s.dev := rfl
@[simp] theorem State.postTie_inputs (due prio tie : Nat) (ev : Ev) :
    (s.postTie due prio tie ev).inputs = s.inputs := rfl
@[simp] theorem State.postTie_reports (due prio tie : Nat) (ev : Ev) :
    (s.postTie due prio tie ev).reports = s.reports := rfl

@[simp] theorem State.post_ccyc (due prio : Nat) (ev : Ev) : (s.post due prio ev).ccyc = s.ccyc := rfl
@[simp] theorem State.post_cur (due prio : Nat) (ev : Ev) : (s.post due prio ev).cur = s.cur := rfl
@[simp] theorem State.post_mem (due prio : Nat) (ev : Ev) : (s.post due prio ev).mem = s.mem := rfl
@[simp] theorem State.post_ecc (due prio : Nat) (ev : Ev) : (s.post due prio ev).ecc = s.ecc := rfl
@[simp] theorem State.post_unitKeys (due prio : Nat) (ev : Ev) : (s.post due prio ev).unitKeys = s.unitKeys := rfl
@[simp] theorem State.post_cores (due prio : Nat) (ev : Ev) : (s.post due prio ev).cores = s.cores := rfl
@[simp] theorem State.post_octets (due prio : Nat) (ev : Ev) : (s.post due prio ev).octets = s.octets := rfl
@[simp] theorem State.post_binds (due prio : Nat) (ev : Ev) : (s.post due prio ev).binds = s.binds := rfl
@[simp] theorem State.post_parts (due prio : Nat) (ev : Ev) : (s.post due prio ev).parts = s.parts := rfl
@[simp] theorem State.post_xfers (due prio : Nat) (ev : Ev) : (s.post due prio ev).xfers = s.xfers := rfl
@[simp] theorem State.post_colls (due prio : Nat) (ev : Ev) : (s.post due prio ev).colls = s.colls := rfl
@[simp] theorem State.post_net (due prio : Nat) (ev : Ev) : (s.post due prio ev).net = s.net := rfl
@[simp] theorem State.post_agenda (due prio : Nat) (ev : Ev) :
    (s.post due prio ev).agenda = agendaInsert { due := due, prio := prio, tie := s.seq, ev := ev } s.agenda := rfl
@[simp] theorem State.post_seq (due prio : Nat) (ev : Ev) : (s.post due prio ev).seq = s.seq + 1 := rfl
@[simp] theorem State.post_dev (due prio : Nat) (ev : Ev) : (s.post due prio ev).dev = s.dev := rfl
@[simp] theorem State.post_inputs (due prio : Nat) (ev : Ev) : (s.post due prio ev).inputs = s.inputs := rfl
@[simp] theorem State.post_reports (due prio : Nat) (ev : Ev) : (s.post due prio ev).reports = s.reports := rfl

@[simp] theorem State.land_ccyc (c : Nat) (h : Half) (lat : Nat) (d : Dst) (v : Word) :
    (s.land c h lat d v).ccyc = s.ccyc := rfl
@[simp] theorem State.land_cur (c : Nat) (h : Half) (lat : Nat) (d : Dst) (v : Word) :
    (s.land c h lat d v).cur = s.cur := rfl
@[simp] theorem State.land_mem (c : Nat) (h : Half) (lat : Nat) (d : Dst) (v : Word) :
    (s.land c h lat d v).mem = s.mem := rfl
@[simp] theorem State.land_ecc (c : Nat) (h : Half) (lat : Nat) (d : Dst) (v : Word) :
    (s.land c h lat d v).ecc = s.ecc := rfl
@[simp] theorem State.land_unitKeys (c : Nat) (h : Half) (lat : Nat) (d : Dst) (v : Word) :
    (s.land c h lat d v).unitKeys = s.unitKeys := rfl
@[simp] theorem State.land_cores (c : Nat) (h : Half) (lat : Nat) (d : Dst) (v : Word) :
    (s.land c h lat d v).cores = s.cores := rfl
@[simp] theorem State.land_octets (c : Nat) (h : Half) (lat : Nat) (d : Dst) (v : Word) :
    (s.land c h lat d v).octets = s.octets := rfl
@[simp] theorem State.land_binds (c : Nat) (h : Half) (lat : Nat) (d : Dst) (v : Word) :
    (s.land c h lat d v).binds = s.binds := rfl
@[simp] theorem State.land_parts (c : Nat) (h : Half) (lat : Nat) (d : Dst) (v : Word) :
    (s.land c h lat d v).parts = s.parts := rfl
@[simp] theorem State.land_xfers (c : Nat) (h : Half) (lat : Nat) (d : Dst) (v : Word) :
    (s.land c h lat d v).xfers = s.xfers := rfl
@[simp] theorem State.land_colls (c : Nat) (h : Half) (lat : Nat) (d : Dst) (v : Word) :
    (s.land c h lat d v).colls = s.colls := rfl
@[simp] theorem State.land_net (c : Nat) (h : Half) (lat : Nat) (d : Dst) (v : Word) :
    (s.land c h lat d v).net = s.net := rfl
@[simp] theorem State.land_agenda (c : Nat) (h : Half) (lat : Nat) (d : Dst) (v : Word) :
    (s.land c h lat d v).agenda = agendaInsert { due := s.ccyc + lat, prio := 1, tie := s.seq, ev := .reg c h d v } s.agenda := rfl
@[simp] theorem State.land_seq (c : Nat) (h : Half) (lat : Nat) (d : Dst) (v : Word) :
    (s.land c h lat d v).seq = s.seq + 1 := rfl
@[simp] theorem State.land_dev (c : Nat) (h : Half) (lat : Nat) (d : Dst) (v : Word) :
    (s.land c h lat d v).dev = s.dev := rfl
@[simp] theorem State.land_inputs (c : Nat) (h : Half) (lat : Nat) (d : Dst) (v : Word) :
    (s.land c h lat d v).inputs = s.inputs := rfl
@[simp] theorem State.land_reports (c : Nat) (h : Half) (lat : Nat) (d : Dst) (v : Word) :
    (s.land c h lat d v).reports = s.reports := rfl

@[simp] theorem State.landVec_ccyc (c : Nat) (h : Half) (mat : Bool) (lat vd : Nat) (mask v : Vec) :
    (s.landVec c h mat lat vd mask v).ccyc = s.ccyc := rfl
@[simp] theorem State.landVec_cur (c : Nat) (h : Half) (mat : Bool) (lat vd : Nat) (mask v : Vec) :
    (s.landVec c h mat lat vd mask v).cur = s.cur := rfl
@[simp] theorem State.landVec_mem (c : Nat) (h : Half) (mat : Bool) (lat vd : Nat) (mask v : Vec) :
    (s.landVec c h mat lat vd mask v).mem = s.mem := rfl
@[simp] theorem State.landVec_ecc (c : Nat) (h : Half) (mat : Bool) (lat vd : Nat) (mask v : Vec) :
    (s.landVec c h mat lat vd mask v).ecc = s.ecc := rfl
@[simp] theorem State.landVec_unitKeys (c : Nat) (h : Half) (mat : Bool) (lat vd : Nat) (mask v : Vec) :
    (s.landVec c h mat lat vd mask v).unitKeys = s.unitKeys := rfl
@[simp] theorem State.landVec_cores (c : Nat) (h : Half) (mat : Bool) (lat vd : Nat) (mask v : Vec) :
    (s.landVec c h mat lat vd mask v).cores = s.cores := rfl
@[simp] theorem State.landVec_octets (c : Nat) (h : Half) (mat : Bool) (lat vd : Nat) (mask v : Vec) :
    (s.landVec c h mat lat vd mask v).octets = s.octets := rfl
@[simp] theorem State.landVec_binds (c : Nat) (h : Half) (mat : Bool) (lat vd : Nat) (mask v : Vec) :
    (s.landVec c h mat lat vd mask v).binds = s.binds := rfl
@[simp] theorem State.landVec_parts (c : Nat) (h : Half) (mat : Bool) (lat vd : Nat) (mask v : Vec) :
    (s.landVec c h mat lat vd mask v).parts = s.parts := rfl
@[simp] theorem State.landVec_xfers (c : Nat) (h : Half) (mat : Bool) (lat vd : Nat) (mask v : Vec) :
    (s.landVec c h mat lat vd mask v).xfers = s.xfers := rfl
@[simp] theorem State.landVec_colls (c : Nat) (h : Half) (mat : Bool) (lat vd : Nat) (mask v : Vec) :
    (s.landVec c h mat lat vd mask v).colls = s.colls := rfl
@[simp] theorem State.landVec_net (c : Nat) (h : Half) (mat : Bool) (lat vd : Nat) (mask v : Vec) :
    (s.landVec c h mat lat vd mask v).net = s.net := rfl
@[simp] theorem State.landVec_agenda (c : Nat) (h : Half) (mat : Bool) (lat vd : Nat) (mask v : Vec) :
    (s.landVec c h mat lat vd mask v).agenda = agendaInsert { due := s.ccyc + lat, prio := 1, tie := s.seq, ev := .vec c h mat vd mask v } s.agenda := rfl
@[simp] theorem State.landVec_seq (c : Nat) (h : Half) (mat : Bool) (lat vd : Nat) (mask v : Vec) :
    (s.landVec c h mat lat vd mask v).seq = s.seq + 1 := rfl
@[simp] theorem State.landVec_dev (c : Nat) (h : Half) (mat : Bool) (lat vd : Nat) (mask v : Vec) :
    (s.landVec c h mat lat vd mask v).dev = s.dev := rfl
@[simp] theorem State.landVec_inputs (c : Nat) (h : Half) (mat : Bool) (lat vd : Nat) (mask v : Vec) :
    (s.landVec c h mat lat vd mask v).inputs = s.inputs := rfl
@[simp] theorem State.landVec_reports (c : Nat) (h : Half) (mat : Bool) (lat vd : Nat) (mask v : Vec) :
    (s.landVec c h mat lat vd mask v).reports = s.reports := rfl

@[simp] theorem State.release_ccyc (due key : Nat) (v : Word) : (s.release due key v).ccyc = s.ccyc := rfl
@[simp] theorem State.release_cur (due key : Nat) (v : Word) : (s.release due key v).cur = s.cur := rfl
@[simp] theorem State.release_mem (due key : Nat) (v : Word) : (s.release due key v).mem = s.mem := rfl
@[simp] theorem State.release_ecc (due key : Nat) (v : Word) : (s.release due key v).ecc = s.ecc := rfl
@[simp] theorem State.release_unitKeys (due key : Nat) (v : Word) : (s.release due key v).unitKeys = s.unitKeys := rfl
@[simp] theorem State.release_cores (due key : Nat) (v : Word) : (s.release due key v).cores = s.cores := rfl
@[simp] theorem State.release_octets (due key : Nat) (v : Word) : (s.release due key v).octets = s.octets := rfl
@[simp] theorem State.release_binds (due key : Nat) (v : Word) : (s.release due key v).binds = s.binds := rfl
@[simp] theorem State.release_parts (due key : Nat) (v : Word) : (s.release due key v).parts = s.parts := rfl
@[simp] theorem State.release_xfers (due key : Nat) (v : Word) : (s.release due key v).xfers = s.xfers := rfl
@[simp] theorem State.release_colls (due key : Nat) (v : Word) : (s.release due key v).colls = s.colls := rfl
@[simp] theorem State.release_net (due key : Nat) (v : Word) : (s.release due key v).net = s.net := rfl
@[simp] theorem State.release_agenda (due key : Nat) (v : Word) :
    (s.release due key v).agenda = agendaInsert { due := due, prio := 4, tie := engineTie s.ccyc 0, ev := .release key v } s.agenda := rfl
@[simp] theorem State.release_seq (due key : Nat) (v : Word) : (s.release due key v).seq = s.seq + 1 := rfl
@[simp] theorem State.release_dev (due key : Nat) (v : Word) : (s.release due key v).dev = s.dev := rfl
@[simp] theorem State.release_inputs (due key : Nat) (v : Word) : (s.release due key v).inputs = s.inputs := rfl
@[simp] theorem State.release_reports (due key : Nat) (v : Word) : (s.release due key v).reports = s.reports := rfl

@[simp] theorem State.push_ccyc (c : Nat) (h : Half) (q due : Nat) (v : Word) :
    (s.push c h q due v).ccyc = s.ccyc := rfl
@[simp] theorem State.push_cur (c : Nat) (h : Half) (q due : Nat) (v : Word) : (s.push c h q due v).cur = s.cur := rfl
@[simp] theorem State.push_mem (c : Nat) (h : Half) (q due : Nat) (v : Word) : (s.push c h q due v).mem = s.mem := rfl
@[simp] theorem State.push_ecc (c : Nat) (h : Half) (q due : Nat) (v : Word) : (s.push c h q due v).ecc = s.ecc := rfl
@[simp] theorem State.push_unitKeys (c : Nat) (h : Half) (q due : Nat) (v : Word) :
    (s.push c h q due v).unitKeys = s.unitKeys := rfl
@[simp] theorem State.push_cores (c : Nat) (h : Half) (q due : Nat) (v : Word) :
    (s.push c h q due v).cores = tset s.cores c ((s.core c).setQueue q ((s.core c).queue q ++ [{ val := v, iss := s.ccyc, due := due, bad := false, half := h, id := s.seq }])) := rfl
@[simp] theorem State.push_octets (c : Nat) (h : Half) (q due : Nat) (v : Word) :
    (s.push c h q due v).octets = s.octets := rfl
@[simp] theorem State.push_binds (c : Nat) (h : Half) (q due : Nat) (v : Word) :
    (s.push c h q due v).binds = s.binds := rfl
@[simp] theorem State.push_parts (c : Nat) (h : Half) (q due : Nat) (v : Word) :
    (s.push c h q due v).parts = s.parts := rfl
@[simp] theorem State.push_xfers (c : Nat) (h : Half) (q due : Nat) (v : Word) :
    (s.push c h q due v).xfers = s.xfers := rfl
@[simp] theorem State.push_colls (c : Nat) (h : Half) (q due : Nat) (v : Word) :
    (s.push c h q due v).colls = s.colls := rfl
@[simp] theorem State.push_net (c : Nat) (h : Half) (q due : Nat) (v : Word) : (s.push c h q due v).net = s.net := rfl
@[simp] theorem State.push_agenda (c : Nat) (h : Half) (q due : Nat) (v : Word) :
    (s.push c h q due v).agenda = s.agenda := rfl
@[simp] theorem State.push_seq (c : Nat) (h : Half) (q due : Nat) (v : Word) :
    (s.push c h q due v).seq = s.seq + 1 := rfl
@[simp] theorem State.push_dev (c : Nat) (h : Half) (q due : Nat) (v : Word) : (s.push c h q due v).dev = s.dev := rfl
@[simp] theorem State.push_inputs (c : Nat) (h : Half) (q due : Nat) (v : Word) :
    (s.push c h q due v).inputs = s.inputs := rfl
@[simp] theorem State.push_reports (c : Nat) (h : Half) (q due : Nat) (v : Word) :
    (s.push c h q due v).reports = s.reports := rfl

@[simp] theorem State.noteErr_ccyc (p : LogPlace) (ok : Bool) (key : Nat) : (s.noteErr p ok key).ccyc = s.ccyc := rfl
@[simp] theorem State.noteErr_cur (p : LogPlace) (ok : Bool) (key : Nat) : (s.noteErr p ok key).cur = s.cur := rfl
@[simp] theorem State.noteErr_mem (p : LogPlace) (ok : Bool) (key : Nat) : (s.noteErr p ok key).mem = s.mem := rfl
@[simp] theorem State.noteErr_ecc (p : LogPlace) (ok : Bool) (key : Nat) : (s.noteErr p ok key).ecc = s.ecc := rfl
@[simp] theorem State.noteErr_unitKeys (p : LogPlace) (ok : Bool) (key : Nat) :
    (s.noteErr p ok key).unitKeys = s.unitKeys := rfl
@[simp] theorem State.noteErr_cores (p : LogPlace) (ok : Bool) (key : Nat) : (s.noteErr p ok key).cores = s.cores := rfl
@[simp] theorem State.noteErr_octets (p : LogPlace) (ok : Bool) (key : Nat) :
    (s.noteErr p ok key).octets = s.octets := rfl
@[simp] theorem State.noteErr_binds (p : LogPlace) (ok : Bool) (key : Nat) : (s.noteErr p ok key).binds = s.binds := rfl
@[simp] theorem State.noteErr_parts (p : LogPlace) (ok : Bool) (key : Nat) : (s.noteErr p ok key).parts = s.parts := rfl
@[simp] theorem State.noteErr_xfers (p : LogPlace) (ok : Bool) (key : Nat) : (s.noteErr p ok key).xfers = s.xfers := rfl
@[simp] theorem State.noteErr_colls (p : LogPlace) (ok : Bool) (key : Nat) : (s.noteErr p ok key).colls = s.colls := rfl
@[simp] theorem State.noteErr_net (p : LogPlace) (ok : Bool) (key : Nat) : (s.noteErr p ok key).net = s.net := rfl
@[simp] theorem State.noteErr_agenda (p : LogPlace) (ok : Bool) (key : Nat) :
    (s.noteErr p ok key).agenda = s.agenda := rfl
@[simp] theorem State.noteErr_seq (p : LogPlace) (ok : Bool) (key : Nat) : (s.noteErr p ok key).seq = s.seq := rfl
@[simp] theorem State.noteErr_dev (p : LogPlace) (ok : Bool) (key : Nat) :
    (s.noteErr p ok key).dev = { s.dev with log := s.dev.log ++ [{ place := p, correctable := ok, key := key, cycle := s.ccyc }] } := rfl
@[simp] theorem State.noteErr_inputs (p : LogPlace) (ok : Bool) (key : Nat) :
    (s.noteErr p ok key).inputs = s.inputs := rfl
@[simp] theorem State.noteErr_reports (p : LogPlace) (ok : Bool) (key : Nat) :
    (s.noteErr p ok key).reports = s.reports := rfl

@[simp] theorem State.noteRead_ccyc (ks : List (Nat × Nat)) : (s.noteRead ks).ccyc = s.ccyc := rfl
@[simp] theorem State.noteRead_cur (ks : List (Nat × Nat)) : (s.noteRead ks).cur = s.cur := rfl
@[simp] theorem State.noteRead_mem (ks : List (Nat × Nat)) : (s.noteRead ks).mem = s.mem := rfl
@[simp] theorem State.noteRead_ecc (ks : List (Nat × Nat)) : (s.noteRead ks).ecc = s.ecc := rfl
@[simp] theorem State.noteRead_unitKeys (ks : List (Nat × Nat)) : (s.noteRead ks).unitKeys = s.unitKeys := rfl
@[simp] theorem State.noteRead_cores (ks : List (Nat × Nat)) : (s.noteRead ks).cores = s.cores := rfl
@[simp] theorem State.noteRead_octets (ks : List (Nat × Nat)) : (s.noteRead ks).octets = s.octets := rfl
@[simp] theorem State.noteRead_binds (ks : List (Nat × Nat)) : (s.noteRead ks).binds = s.binds := rfl
@[simp] theorem State.noteRead_parts (ks : List (Nat × Nat)) : (s.noteRead ks).parts = s.parts := rfl
@[simp] theorem State.noteRead_xfers (ks : List (Nat × Nat)) : (s.noteRead ks).xfers = s.xfers := rfl
@[simp] theorem State.noteRead_colls (ks : List (Nat × Nat)) : (s.noteRead ks).colls = s.colls := rfl
@[simp] theorem State.noteRead_net (ks : List (Nat × Nat)) : (s.noteRead ks).net = s.net := rfl
@[simp] theorem State.noteRead_agenda (ks : List (Nat × Nat)) : (s.noteRead ks).agenda = s.agenda := rfl
@[simp] theorem State.noteRead_seq (ks : List (Nat × Nat)) : (s.noteRead ks).seq = s.seq := rfl
@[simp] theorem State.noteRead_dev (ks : List (Nat × Nat)) :
    (s.noteRead ks).dev = { s.dev with log := s.dev.log ++ (ks.map fun k => logMarks s.ccyc (marksIn s.ecc k.1 k.2)).flatten } := rfl
@[simp] theorem State.noteRead_inputs (ks : List (Nat × Nat)) : (s.noteRead ks).inputs = s.inputs := rfl
@[simp] theorem State.noteRead_reports (ks : List (Nat × Nat)) : (s.noteRead ks).reports = s.reports := rfl

@[simp] theorem State.markPoison_ccyc (key : Nat) : (s.markPoison key).ccyc = s.ccyc := rfl
@[simp] theorem State.markPoison_cur (key : Nat) : (s.markPoison key).cur = s.cur := rfl
@[simp] theorem State.markPoison_mem (key : Nat) : (s.markPoison key).mem = s.mem := rfl
@[simp] theorem State.markPoison_ecc (key : Nat) : (s.markPoison key).ecc = tset s.ecc (key / 8) .poison := rfl
@[simp] theorem State.markPoison_unitKeys (key : Nat) : (s.markPoison key).unitKeys = s.unitKeys := rfl
@[simp] theorem State.markPoison_cores (key : Nat) : (s.markPoison key).cores = s.cores := rfl
@[simp] theorem State.markPoison_octets (key : Nat) : (s.markPoison key).octets = s.octets := rfl
@[simp] theorem State.markPoison_binds (key : Nat) : (s.markPoison key).binds = s.binds := rfl
@[simp] theorem State.markPoison_parts (key : Nat) : (s.markPoison key).parts = s.parts := rfl
@[simp] theorem State.markPoison_xfers (key : Nat) : (s.markPoison key).xfers = s.xfers := rfl
@[simp] theorem State.markPoison_colls (key : Nat) : (s.markPoison key).colls = s.colls := rfl
@[simp] theorem State.markPoison_net (key : Nat) : (s.markPoison key).net = s.net := rfl
@[simp] theorem State.markPoison_agenda (key : Nat) : (s.markPoison key).agenda = s.agenda := rfl
@[simp] theorem State.markPoison_seq (key : Nat) : (s.markPoison key).seq = s.seq := rfl
@[simp] theorem State.markPoison_dev (key : Nat) : (s.markPoison key).dev = s.dev := rfl
@[simp] theorem State.markPoison_inputs (key : Nat) : (s.markPoison key).inputs = s.inputs := rfl
@[simp] theorem State.markPoison_reports (key : Nat) : (s.markPoison key).reports = s.reports := rfl

end

/-! ### Cores -/

section
variable (k : Core)

@[simp] theorem Core.setStream_regs (h : Half) (t : Stream) : (k.setStream h t).regs = k.regs := by
  cases h <;> rfl
@[simp] theorem Core.setStream_ql0 (h : Half) (t : Stream) : (k.setStream h t).ql0 = k.ql0 := by
  cases h <;> rfl
@[simp] theorem Core.setStream_ql1 (h : Half) (t : Stream) : (k.setStream h t).ql1 = k.ql1 := by
  cases h <;> rfl
@[simp] theorem Core.setStream_ql2 (h : Half) (t : Stream) : (k.setStream h t).ql2 = k.ql2 := by
  cases h <;> rfl
@[simp] theorem Core.setStream_qs0 (h : Half) (t : Stream) : (k.setStream h t).qs0 = k.qs0 := by
  cases h <;> rfl
@[simp] theorem Core.setStream_qs1 (h : Half) (t : Stream) : (k.setStream h t).qs1 = k.qs1 := by
  cases h <;> rfl
@[simp] theorem Core.setStream_ctl (h : Half) (t : Stream) : (k.setStream h t).ctl = k.ctl := by
  cases h <;> rfl
@[simp] theorem Core.setStream_psj (h : Half) (t : Stream) : (k.setStream h t).psj = k.psj := by
  cases h <;> rfl
@[simp] theorem Core.setStream_sendBuf (h : Half) (t : Stream) : (k.setStream h t).sendBuf = k.sendBuf := by
  cases h <;> rfl
@[simp] theorem Core.setStream_launches (h : Half) (t : Stream) : (k.setStream h t).launches = k.launches := by
  cases h <;> rfl
@[simp] theorem Core.setStream_tile (h : Half) (t : Stream) : (k.setStream h t).tile = k.tile := by
  cases h <;> rfl
@[simp] theorem Core.setStream_popCyc (h : Half) (t : Stream) : (k.setStream h t).popCyc = k.popCyc := by
  cases h <;> rfl
@[simp] theorem Core.setStream_pops (h : Half) (t : Stream) : (k.setStream h t).pops = k.pops := by
  cases h <;> rfl
@[simp] theorem Core.setStream_bankCyc (h : Half) (t : Stream) : (k.setStream h t).bankCyc = k.bankCyc := by
  cases h <;> rfl
@[simp] theorem Core.setStream_banks (h : Half) (t : Stream) : (k.setStream h t).banks = k.banks := by
  cases h <;> rfl
@[simp] theorem Core.setStream_bound (h : Half) (t : Stream) : (k.setStream h t).bound = k.bound := by
  cases h <;> rfl
@[simp] theorem Core.setStream_last (h : Half) (t : Stream) : (k.setStream h t).last = k.last := by
  cases h <;> rfl
@[simp] theorem Core.setQueue_regs (q : Nat) (l : List QEnt) : (k.setQueue q l).regs = k.regs := by
  unfold Core.setQueue; split <;> rfl
@[simp] theorem Core.setQueue_sa (q : Nat) (l : List QEnt) : (k.setQueue q l).sa = k.sa := by
  unfold Core.setQueue; split <;> rfl
@[simp] theorem Core.setQueue_sx (q : Nat) (l : List QEnt) : (k.setQueue q l).sx = k.sx := by
  unfold Core.setQueue; split <;> rfl
@[simp] theorem Core.setQueue_sw (q : Nat) (l : List QEnt) : (k.setQueue q l).sw = k.sw := by
  unfold Core.setQueue; split <;> rfl
@[simp] theorem Core.setQueue_ctl (q : Nat) (l : List QEnt) : (k.setQueue q l).ctl = k.ctl := by
  unfold Core.setQueue; split <;> rfl
@[simp] theorem Core.setQueue_psj (q : Nat) (l : List QEnt) : (k.setQueue q l).psj = k.psj := by
  unfold Core.setQueue; split <;> rfl
@[simp] theorem Core.setQueue_sendBuf (q : Nat) (l : List QEnt) : (k.setQueue q l).sendBuf = k.sendBuf := by
  unfold Core.setQueue; split <;> rfl
@[simp] theorem Core.setQueue_launches (q : Nat) (l : List QEnt) : (k.setQueue q l).launches = k.launches := by
  unfold Core.setQueue; split <;> rfl
@[simp] theorem Core.setQueue_tile (q : Nat) (l : List QEnt) : (k.setQueue q l).tile = k.tile := by
  unfold Core.setQueue; split <;> rfl
@[simp] theorem Core.setQueue_popCyc (q : Nat) (l : List QEnt) : (k.setQueue q l).popCyc = k.popCyc := by
  unfold Core.setQueue; split <;> rfl
@[simp] theorem Core.setQueue_pops (q : Nat) (l : List QEnt) : (k.setQueue q l).pops = k.pops := by
  unfold Core.setQueue; split <;> rfl
@[simp] theorem Core.setQueue_bankCyc (q : Nat) (l : List QEnt) : (k.setQueue q l).bankCyc = k.bankCyc := by
  unfold Core.setQueue; split <;> rfl
@[simp] theorem Core.setQueue_banks (q : Nat) (l : List QEnt) : (k.setQueue q l).banks = k.banks := by
  unfold Core.setQueue; split <;> rfl
@[simp] theorem Core.setQueue_bound (q : Nat) (l : List QEnt) : (k.setQueue q l).bound = k.bound := by
  unfold Core.setQueue; split <;> rfl
@[simp] theorem Core.setQueue_last (q : Nat) (l : List QEnt) : (k.setQueue q l).last = k.last := by
  unfold Core.setQueue; split <;> rfl

@[simp] theorem Core.setStream_stream (h : Half) (t : Stream) : (k.setStream h t).stream h = t := by cases h <;> rfl

theorem Core.setStream_stream_ne {h h' : Half} (t : Stream) (n : h' ≠ h) : (k.setStream h t).stream h' = k.stream h' := by
  cases h <;> cases h' <;> first | rfl | exact absurd rfl n

@[simp] theorem Core.setStream_queue (h : Half) (t : Stream) (q : Nat) : (k.setStream h t).queue q = k.queue q := by
  cases h <;> rfl

@[simp] theorem Core.setQueue_stream (q : Nat) (l : List QEnt) (h : Half) : (k.setQueue q l).stream h = k.stream h := by
  cases h <;> simp [Core.stream]

end

end Sys2Proof.Machine
end

