-- ==== Sys2Proof/Laws/Table.lean ====
section
/-!
SUPPORT. Sparse tables: a key reads what was last set there, and every other key is untouched; and what that says of
cores, octets, bind entries, partitions and streams.
-/

namespace Sys2Proof.Machine

theorem tget_tset {α : Type} (d : α) (t : Tab α) (k k' : Nat) (x : α) :
    tget d (tset t k x) k' = if k' = k then x else tget d t k' := by
  induction t with
  | nil => simp [tset, tget, eq_comm]
  | cons p r ih =>
    obtain ⟨i, y⟩ := p
    rw [tset]
    split
    · simp only [tget, eq_comm]
    · split <;> simp only [tget] <;> grind

@[simp] theorem tget_tset_self {α : Type} (d : α) (t : Tab α) (k : Nat) (x : α) : tget d (tset t k x) k = x := by
  simp [tget_tset]

theorem tget_tset_ne {α : Type} (d : α) (t : Tab α) {k k' : Nat} (x : α) (h : k' ≠ k) :
    tget d (tset t k x) k' = tget d t k' := by simp [tget_tset, h]

theorem vget_vput {α : Type} {n : Nat} (d : α) (v : Vector α n) (i j : Nat) (x : α) (h : i < n) :
    vget d (vput v i x) j = if j = i then x else vget d v j := by
  unfold vget vput
  by_cases hj : j < n <;>
    simp [List.getD_eq_getElem?_getD, Vector.getElem?_toList] <;> grind

@[simp] theorem vget_vput_self {α : Type} {n : Nat} (d : α) (v : Vector α n) (i : Nat) (x : α) (h : i < n) :
    vget d (vput v i x) i = x := by simp [vget_vput, h]

theorem vget_vput_ne {α : Type} {n : Nat} (d : α) (v : Vector α n) {i j : Nat} (x : α) (h : j ≠ i) :
    vget d (vput v i x) j = vget d v j := by
  unfold vget vput
  simp [List.getD_eq_getElem?_getD, Vector.getElem?_toList]; grind

section
variable (s : State)

theorem State.setCore_core (c c' : Nat) (k : Core) : (s.setCore c k).core c' = if c' = c then k else s.core c' := by
  simp [State.core, tget_tset]

theorem State.modCore_core (c c' : Nat) (f : Core → Core) :
    (s.modCore c f).core c' = if c' = c then f (s.core c) else s.core c' := by simp [State.core, tget_tset]

@[simp] theorem State.modCore_core_self (c : Nat) (f : Core → Core) : (s.modCore c f).core c = f (s.core c) := by
  simp [State.modCore_core]

theorem State.modCore_core_ne {c c' : Nat} (f : Core → Core) (h : c' ≠ c) : (s.modCore c f).core c' = s.core c' := by
  simp [State.modCore_core, h]

theorem State.modStream_core (c c' : Nat) (h : Half) (f : Stream → Stream) :
    (s.modStream c h f).core c' = if c' = c then (s.core c).setStream h (f (s.stream c h)) else s.core c' := by
  simp [State.core, tget_tset]

@[simp] theorem State.modStream_core_self (c : Nat) (h : Half) (f : Stream → Stream) :
    (s.modStream c h f).core c = (s.core c).setStream h (f (s.stream c h)) := by simp [State.modStream_core]

theorem State.modStream_core_ne {c c' : Nat} (h : Half) (f : Stream → Stream) (n : c' ≠ c) :
    (s.modStream c h f).core c' = s.core c' := by simp [State.modStream_core, n]

@[simp] theorem State.modStream_stream_self (c : Nat) (h : Half) (f : Stream → Stream) :
    (s.modStream c h f).stream c h = f (s.stream c h) := by simp [State.stream]

theorem State.modStream_stream_ne {c c' : Nat} {h h' : Half} (f : Stream → Stream) (n : c' ≠ c ∨ h' ≠ h) :
    (s.modStream c h f).stream c' h' = s.stream c' h' := by
  unfold State.stream
  rw [State.modStream_core]
  split
  · subst c'; rcases n with n | n
    · exact absurd rfl n
    · exact Core.setStream_stream_ne _ _ n
  · rfl

@[simp] theorem State.modStream_regs (c c' : Nat) (h : Half) (f : Stream → Stream) :
    ((s.modStream c h f).core c').regs = (s.core c').regs := by
  rw [State.modStream_core]; split <;> simp_all

theorem State.modOctet_octet (o o' : Nat) (f : Octet → Octet) :
    (s.modOctet o f).octet o' = if o' = o then f (s.octet o) else s.octet o' := by simp [State.octet, tget_tset]

theorem State.modBind_bindAt (b b' : Nat) (f : Bind → Bind) :
    (s.modBind b f).bindAt b' = if b' = b then f (s.bindAt b) else s.bindAt b' := by simp [State.bindAt, tget_tset]

@[simp] theorem State.modBind_bindAt_self (b : Nat) (f : Bind → Bind) : (s.modBind b f).bindAt b = f (s.bindAt b) := by
  simp [State.modBind_bindAt]

theorem State.modPart_partAt (p p' : Nat) (f : Part → Part) :
    (s.modPart p f).partAt p' = if p' = p then f (s.partAt p) else s.partAt p' := by simp [State.partAt, tget_tset]

@[simp] theorem State.modPart_partAt_self (p : Nat) (f : Part → Part) : (s.modPart p f).partAt p = f (s.partAt p) := by
  simp [State.modPart_partAt]

/-! What only depends on the cores sees nothing of other updates. -/

@[simp] theorem State.postTie_core (due prio tie : Nat) (ev : Ev) (c : Nat) :
    (s.postTie due prio tie ev).core c = s.core c := rfl
@[simp] theorem State.post_core (due prio : Nat) (ev : Ev) (c : Nat) : (s.post due prio ev).core c = s.core c := rfl
@[simp] theorem State.land_core (c' : Nat) (h : Half) (lat : Nat) (d : Dst) (v : Word) (c : Nat) :
    (s.land c' h lat d v).core c = s.core c := rfl
@[simp] theorem State.landVec_core (c' : Nat) (h : Half) (mat : Bool) (lat vd : Nat) (mask v : Vec) (c : Nat) :
    (s.landVec c' h mat lat vd mask v).core c = s.core c := rfl
@[simp] theorem State.modOctet_core (o : Nat) (f : Octet → Octet) (c : Nat) : (s.modOctet o f).core c = s.core c := rfl
@[simp] theorem State.modBind_core (b : Nat) (f : Bind → Bind) (c : Nat) : (s.modBind b f).core c = s.core c := rfl
@[simp] theorem State.modPart_core (p : Nat) (f : Part → Part) (c : Nat) : (s.modPart p f).core c = s.core c := rfl
@[simp] theorem State.modDev_core (f : Device → Device) (c : Nat) : (s.modDev f).core c = s.core c := rfl
@[simp] theorem State.report_core (r : Report) (c : Nat) : (s.report r).core c = s.core c := rfl

end

end Sys2Proof.Machine
end

