-- ==== Sys2Proof/Laws/Memory.lean ====
section
/-!
SUPPORT. Memory: what a read gives after a write, and that every memory operation keeps the canonical form.
-/

namespace Sys2Proof.Machine

/-! ### Reads after writes -/

theorem tget_append {α : Type} (d : α) (a b : Tab α) (k : Nat) (h : ∀ p ∈ a, p.1 ≠ k) :
    tget d (a ++ b) k = tget d b k := by
  induction a with
  | nil => rfl
  | cons p r ih =>
    have hp := h p (by simp)
    simp [tget, hp, ih fun q hq => h q (by simp [hq])]

theorem tget_append_right {α : Type} (d : α) (a b : Tab α) (k : Nat) (h : ∀ p ∈ b, p.1 ≠ k) :
    tget d (a ++ b) k = tget d a k := by
  induction a with
  | nil =>
    have := tget_append d b [] k h
    simpa [tget] using this
  | cons p r ih => simp [tget, ih]

theorem tget_filter {α : Type} (d : α) (t : Tab α) (p : Nat × α → Bool) (k : Nat) (h : ∀ x, p (k, x) = true) :
    tget d (t.filter p) k = tget d t k := by
  induction t with
  | nil => rfl
  | cons q r ih =>
    obtain ⟨i, y⟩ := q
    by_cases hi : i = k
    · subst hi; simp [List.filter, h, tget]
    · by_cases hp : p (i, y) <;> simp [List.filter, hp, tget, hi, ih]

theorem mem_blockCells {b : Nat} {bs : List Byte} {c : Host.Cell} (h : c ∈ blockCells b bs) :
    b ≤ c.1 ∧ c.1 < b + bs.length ∧ c.2 ≠ 0 := by
  induction bs generalizing b with
  | nil => simp [blockCells] at h
  | cons x r ih =>
    rw [blockCells] at h
    split at h
    · have := ih h; simp only [List.length_cons]; exact ⟨by omega, by omega, this.2.2⟩
    · rcases List.mem_cons.1 h with h | h
      · subst h; simp_all
      · have := ih h; simp only [List.length_cons]; exact ⟨by omega, by omega, this.2.2⟩

theorem tget_blockCells (b : Nat) (bs : List Byte) (k : Nat) (h : b ≤ k) :
    tget 0 (blockCells b bs) k = bs.getD (k - b) 0 := by
  induction bs generalizing b with
  | nil => simp [blockCells, tget]
  | cons x r ih =>
    rw [blockCells]
    by_cases hk : k = b
    · subst hk
      have none_ : ∀ p ∈ blockCells (k + 1) r, p.1 ≠ k := fun p hp => by have := mem_blockCells hp; omega
      split
      · next hx => simpa [tget, hx] using tget_append_right (0 : Byte) [] (blockCells (k + 1) r) k none_
      · simp [tget]
    · have e : k - b = (k - (b + 1)) + 1 := by omega
      have := ih (b + 1) (by omega)
      split
      · rw [this, e]; simp
      · rw [tget, if_neg (by omega), this, e]; simp

/-- A byte after a write: the one written there, or the one it was. -/
theorem Memory.read_write (m : Memory) (b : Nat) (bs : List Byte) (k : Nat) :
    (m.write b bs).read k = if b ≤ k ∧ k < b + bs.length then bs.getD (k - b) 0 else m.read k := by
  unfold Memory.read Memory.write
  by_cases h1 : k < b
  · rw [if_neg (by omega), tget_append_right, tget_filter _ _ _ _ (by simpa using h1)]
    intro p hp
    rcases List.mem_append.1 hp with hp | hp
    · have := mem_blockCells hp; omega
    · have := (List.mem_filter.1 hp).2; simp at this; omega
  · rw [tget_append _ _ _ _ (by intro p hp; have := (List.mem_filter.1 hp).2; simp at this; omega)]
    by_cases h2 : k < b + bs.length
    · rw [if_pos (by omega), tget_append_right, tget_blockCells _ _ _ (by omega)]
      intro p hp; have := (List.mem_filter.1 hp).2; simp at this; omega
    · rw [if_neg (by omega), tget_append, tget_filter _ _ _ _ (by intro x; simp; omega)]
      intro p hp; have := mem_blockCells hp; omega

/-! ### The canonical form -/

theorem risingFrom_mono {lo lo' : Nat} {m : Memory} (h : lo' ≤ lo) (w : risingFrom lo m = true) :
    risingFrom lo' m = true := by
  cases m with
  | nil => rfl
  | cons c r => obtain ⟨k, b⟩ := c; simp [risingFrom] at *; exact ⟨⟨by omega, w.1.2⟩, w.2⟩

theorem risingFrom_mem {lo : Nat} {m : Memory} (w : risingFrom lo m = true) {c : Host.Cell} (h : c ∈ m) : lo ≤ c.1 := by
  induction m generalizing lo with
  | nil => simp at h
  | cons q r ih =>
    obtain ⟨k, b⟩ := q
    simp [risingFrom] at w
    rcases List.mem_cons.1 h with h | h
    · subst h; exact w.1.1
    · have := ih w.2 h; omega

theorem risingFrom_of_ge {lo hi : Nat} {m : Memory} (w : risingFrom lo m = true) (h : ∀ c ∈ m, hi ≤ c.1) :
    risingFrom hi m = true := by
  cases m with
  | nil => rfl
  | cons c r => obtain ⟨k, b⟩ := c; simp [risingFrom] at *; exact ⟨⟨h.1, w.1.2⟩, w.2⟩

theorem risingFrom_filter {lo : Nat} {m : Memory} (w : risingFrom lo m = true) (p : Host.Cell → Bool) :
    risingFrom lo (m.filter p) = true := by
  induction m generalizing lo with
  | nil => rfl
  | cons c r ih =>
    obtain ⟨k, b⟩ := c
    simp [risingFrom] at w
    by_cases h : p (k, b)
    · simp [List.filter, h, risingFrom, w.1.1, w.1.2, ih w.2]
    · simp only [List.filter, h]
      exact risingFrom_mono (by omega) (ih w.2)

theorem risingFrom_append {lo : Nat} {a b : Memory} (wa : risingFrom lo a = true) (hi : Nat) (hlo : lo ≤ hi)
    (ha : ∀ c ∈ a, c.1 < hi) (wb : risingFrom hi b = true) : risingFrom lo (a ++ b) = true := by
  induction a generalizing lo with
  | nil => exact risingFrom_mono hlo wb
  | cons c r ih =>
    obtain ⟨k, x⟩ := c
    simp [risingFrom] at wa ⊢
    have hk := ha (k, x) (by simp)
    exact ⟨wa.1, ih wa.2 (by simp at hk; omega) (fun c hc => ha c (by simp [hc]))⟩

theorem risingFrom_blockCells (b : Nat) (bs : List Byte) : risingFrom b (blockCells b bs) = true := by
  induction bs generalizing b with
  | nil => rfl
  | cons x r ih =>
    rw [blockCells]
    split
    · exact risingFrom_mono (by omega) (ih (b + 1))
    · simp_all [risingFrom]

/-- A write keeps the canonical form. -/
theorem Memory.write_wf (m : Memory) (b : Nat) (bs : List Byte) (h : m.wf = true) : (m.write b bs).wf = true := by
  unfold Memory.wf Memory.write at *
  refine risingFrom_append (risingFrom_filter h _) b (by omega) (fun c hc => ?_) ?_
  · simpa using (List.mem_filter.1 hc).2
  · refine risingFrom_append (risingFrom_blockCells _ _) (b + bs.length) (by omega)
      (fun c hc => (mem_blockCells hc).2.1) (risingFrom_of_ge (risingFrom_filter h _) fun c hc => ?_)
    simpa using (List.mem_filter.1 hc).2

/-- Taking bytes out keeps the canonical form. -/
theorem Memory.filter_wf (m : Memory) (p : Host.Cell → Bool) (h : m.wf = true) : Memory.wf (m.filter p) = true :=
  risingFrom_filter h p

/-- The bytes of a state are in the canonical form. -/
abbrev State.memWf (s : State) : Prop := s.mem.wf = true

theorem State.write_mem (s : State) (k : Nat) (bs : List Byte) : (s.write k bs).mem = s.mem.write k bs := by
  unfold State.write; split <;> rfl

theorem State.write_cores (s : State) (k : Nat) (bs : List Byte) : (s.write k bs).cores = s.cores := by
  unfold State.write; split <;> rfl

/-- One spec lemma for `State.write`: the bytes, and nothing but memory, its checks and the log. -/
theorem State.write_eq (s : State) (k : Nat) (bs : List Byte) :
    ∃ e l, s.write k bs = { s with mem := s.mem.write k bs, ecc := e, dev := { s.dev with log := l } } := by
  unfold State.write; split
  · exact ⟨_, _, rfl⟩
  · exact ⟨s.ecc, s.dev.log, rfl⟩

theorem State.write_memWf {s : State} (k : Nat) (bs : List Byte) (h : s.memWf) : (s.write k bs).memWf := by
  rw [State.memWf, State.write_mem]; exact Memory.write_wf _ _ _ h

theorem State.write64_memWf {s : State} (k : Nat) (w : Word) (h : s.memWf) : (s.write64 k w).memWf :=
  State.write_memWf _ _ h

theorem State.markPoison_memWf {s : State} (k : Nat) (h : s.memWf) : (s.markPoison k).memWf := h

/-- What holds of a state holds after a fold whose every step keeps it. -/
theorem foldl_keeps {α β : Type} (P : β → Prop) (f : β → α → β) (h : ∀ s a, P s → P (f s a)) (l : List α) (s : β)
    (hs : P s) : P (l.foldl f s) := by
  induction l generalizing s with
  | nil => exact hs
  | cons a r ih => exact ih _ (h _ _ hs)

/-- The same, with each step's element in the list. -/
theorem foldl_keeps_mem {α β : Type} (P : β → Prop) (f : β → α → β) (l : List α) (h : ∀ s, ∀ a ∈ l, P s → P (f s a))
    (s : β) (hs : P s) : P (l.foldl f s) := by
  induction l generalizing s with
  | nil => exact hs
  | cons a r ih => exact ih (fun s b hb => h s b (by simp [hb])) _ (h _ _ (by simp) hs)

theorem State.writeAll_memWf {s : State} (l : List (Nat × List Byte)) (h : s.memWf) : (s.writeAll l).memWf :=
  foldl_keeps State.memWf _ (fun _ _ hs => State.write_memWf _ _ hs) _ _ h

end Sys2Proof.Machine
end

