-- ==== Sys2Proof/Laws/Issue.lean ====
section
/-!
SUPPORT. The issue of a word, said once: a word that is clear of the issue's own faults comes to its body; what a fault
of the issue does; and what the shared operand forms give.
-/

namespace Sys2Proof.Machine

section
variable (s : State) (sf : Bool)

/-! ### The state in which checks are made -/

/-- A contrail leader's stream after it kept its word. -/
theorem State.noted_eq :
    s.noted sf = s ∨ ∃ l, s.noted sf = s.modStream s.cur.core s.cur.half fun t => { t with issued := l } := by
  unfold State.noted State.noteIssue
  split
  · right; exact ⟨_, rfl⟩
  · exact .inl rfl

@[simp] theorem State.noted_ccyc : (s.noted sf).ccyc = s.ccyc := by unfold State.noted State.noteIssue; split <;> rfl
@[simp] theorem State.noted_cur : (s.noted sf).cur = s.cur := by unfold State.noted State.noteIssue; split <;> rfl
@[simp] theorem State.noted_mem : (s.noted sf).mem = s.mem := by unfold State.noted State.noteIssue; split <;> rfl
@[simp] theorem State.noted_ecc : (s.noted sf).ecc = s.ecc := by unfold State.noted State.noteIssue; split <;> rfl
@[simp] theorem State.noted_binds : (s.noted sf).binds = s.binds := by unfold State.noted State.noteIssue; split <;> rfl
@[simp] theorem State.noted_octets : (s.noted sf).octets = s.octets := by unfold State.noted State.noteIssue; split <;> rfl
@[simp] theorem State.noted_parts : (s.noted sf).parts = s.parts := by unfold State.noted State.noteIssue; split <;> rfl
@[simp] theorem State.noted_agenda : (s.noted sf).agenda = s.agenda := by unfold State.noted State.noteIssue; split <;> rfl
@[simp] theorem State.noted_seq : (s.noted sf).seq = s.seq := by unfold State.noted State.noteIssue; split <;> rfl
@[simp] theorem State.noted_xfers : (s.noted sf).xfers = s.xfers := by unfold State.noted State.noteIssue; split <;> rfl
@[simp] theorem State.noted_dev : (s.noted sf).dev = s.dev := by unfold State.noted State.noteIssue; split <;> rfl
@[simp] theorem State.noted_unitKeys : (s.noted sf).unitKeys = s.unitKeys := by
  unfold State.noted State.noteIssue; split <;> rfl
@[simp] theorem State.noted_colls : (s.noted sf).colls = s.colls := by unfold State.noted State.noteIssue; split <;> rfl
@[simp] theorem State.noted_net : (s.noted sf).net = s.net := by unfold State.noted State.noteIssue; split <;> rfl
@[simp] theorem State.noted_inputs : (s.noted sf).inputs = s.inputs := by unfold State.noted State.noteIssue; split <;> rfl
@[simp] theorem State.noted_reports : (s.noted sf).reports = s.reports := by
  unfold State.noted State.noteIssue; split <;> rfl
@[simp] theorem State.noted_bindAt (b : Nat) : (s.noted sf).bindAt b = s.bindAt b := by simp [State.bindAt]
@[simp] theorem State.noted_octet (o : Nat) : (s.noted sf).octet o = s.octet o := by simp [State.octet]
@[simp] theorem State.noted_partAt (p : Nat) : (s.noted sf).partAt p = s.partAt p := by simp [State.partAt]

/-- What the noted state says of a core: only the `issued` list of the issuing stream may differ. -/
theorem State.noted_core (c : Nat) : ∃ l, (s.noted sf).core c = (s.core c).setStream s.cur.half
    { (s.core c).stream s.cur.half with issued := l } := by
  rcases s.noted_eq sf with h | ⟨l, h⟩
  · exact ⟨((s.core c).stream s.cur.half).issued, by rw [h]; cases hh : s.cur.half <;> rfl⟩
  · rw [h, State.modStream_core]
    split
    · next e => subst e; exact ⟨l, rfl⟩
    · exact ⟨((s.core c).stream s.cur.half).issued, by cases hh : s.cur.half <;> rfl⟩

@[simp] theorem State.noted_regs (c : Nat) : ((s.noted sf).core c).regs = (s.core c).regs := by
  obtain ⟨l, h⟩ := s.noted_core sf c; rw [h]; simp
@[simp] theorem State.noted_ctl (c : Nat) : ((s.noted sf).core c).ctl = (s.core c).ctl := by
  obtain ⟨l, h⟩ := s.noted_core sf c; rw [h]; simp
@[simp] theorem State.noted_tile (c : Nat) : ((s.noted sf).core c).tile = (s.core c).tile := by
  obtain ⟨l, h⟩ := s.noted_core sf c; rw [h]; simp
@[simp] theorem State.noted_bound (c : Nat) : ((s.noted sf).core c).bound = (s.core c).bound := by
  obtain ⟨l, h⟩ := s.noted_core sf c; rw [h]; simp
@[simp] theorem State.noted_psj (c : Nat) : ((s.noted sf).core c).psj = (s.core c).psj := by
  obtain ⟨l, h⟩ := s.noted_core sf c; rw [h]; simp
@[simp] theorem State.noted_launches (c : Nat) : ((s.noted sf).core c).launches = (s.core c).launches := by
  obtain ⟨l, h⟩ := s.noted_core sf c; rw [h]; simp
@[simp] theorem State.noted_sendBuf (c : Nat) : ((s.noted sf).core c).sendBuf = (s.core c).sendBuf := by
  obtain ⟨l, h⟩ := s.noted_core sf c; rw [h]; simp
@[simp] theorem State.noted_popCyc (c : Nat) : ((s.noted sf).core c).popCyc = (s.core c).popCyc := by
  obtain ⟨l, h⟩ := s.noted_core sf c; rw [h]; simp
@[simp] theorem State.noted_pops (c : Nat) : ((s.noted sf).core c).pops = (s.core c).pops := by
  obtain ⟨l, h⟩ := s.noted_core sf c; rw [h]; simp
@[simp] theorem State.noted_queue (c q : Nat) : ((s.noted sf).core c).queue q = (s.core c).queue q := by
  obtain ⟨l, h⟩ := s.noted_core sf c; rw [h]; simp
@[simp] theorem State.noted_bindOf (c : Nat) : (s.noted sf).bindOf c = s.bindOf c := by simp [State.bindOf]

/-- What the noted state says of a stream: only its `issued` list may differ. -/
theorem State.noted_stream (c : Nat) (h : Half) : ∃ l, (s.noted sf).stream c h = { s.stream c h with issued := l } := by
  obtain ⟨l, e⟩ := s.noted_core sf c
  unfold State.stream; rw [e]
  by_cases hh : h = s.cur.half
  · subst hh; exact ⟨l, by simp⟩
  · rw [Core.setStream_stream_ne _ _ hh]; exact ⟨_, rfl⟩

@[simp] theorem State.noted_mcyc (c : Nat) : (s.noted sf).mcyc c = s.mcyc c := by simp [State.mcyc, State.mcycOf]

@[simp] theorem State.noted_ctx : (s.noted sf).ctx = s.ctx := by
  obtain ⟨l, h⟩ := s.noted_stream sf s.cur.core s.cur.half
  simp [State.ctx, h]

@[simp] theorem State.noted_inFlight (c : Nat) (h : Half) : (s.noted sf).inFlight c h = s.inFlight c h := by
  simp [State.inFlight, Core.queuePending]

@[simp] theorem State.noted_routineBound (c : Nat) : ((s.noted sf).core c).routineBound = (s.core c).routineBound := by
  simp [Core.routineBound]

end

/-! ### The context -/

section
variable (s : State)
@[simp] theorem State.ctx_core : s.ctx.core = s.cur.core := rfl
@[simp] theorem State.ctx_half : s.ctx.half = s.cur.half := rfl
@[simp] theorem State.ctx_now : s.ctx.now = s.ccyc := rfl
@[simp] theorem State.ctx_m : s.ctx.m = s.mcyc s.cur.core := rfl
@[simp] theorem State.ctx_addr : s.ctx.addr = s.me.pc := rfl
@[simp] theorem State.ctx_bits : s.ctx.bits = s.cur.bits := rfl
@[simp] theorem State.ctx_bind : s.ctx.bind = s.bindOf s.cur.core := rfl
@[simp] theorem State.ctx_stream : s.ctx.stream s = s.me := rfl

/-- The issuing stream as the checks see it. -/
theorem State.noted_me (sf : Bool) : ∃ l, s.ctx.stream (s.noted sf) = { s.me with issued := l } :=
  s.noted_stream sf _ _
end

/-! ### The issue -/

/-- A word whose registers, fields and mode are in order and that is clear of the issue's own faults comes to its body. -/
theorem issueWord_clear {s : State} {sf modable : Bool} {cls : Cls} {pre : State → Ctx → Pre} {body : State → Ctx → Res}
    (hc : s.clear sf) (hcls : classOk cls s.cur.half s.my.routineBound = true)
    (hi : (pre (s.noted sf) s.ctx).illegal = false) (hr : (pre (s.noted sf) s.ctx).reserved = false)
    (hp : (pre (s.noted sf) s.ctx).privileged = true → s.me.traps.priv = true) :
    issueWord sf cls modable pre body s = .next (finish (s.noted sf) s.ctx sf (body (s.noted sf) s.ctx)) := by
  obtain ⟨l, e⟩ := s.noted_me sf
  obtain ⟨h1, h2, h3⟩ := hc
  have hcls' : classOk cls s.cur.half ((s.noted sf).core s.cur.core).routineBound = true := by simpa using hcls
  unfold issueWord issueNext
  have hn : s.noteIssue s.ctx sf = s.noted sf := rfl
  simp only [hn]
  rw [e]
  simp only [State.ctx_half, State.ctx_core, hcls', h1, h2, hi, hr]
  cases sf
  · simp at h3 ⊢
    have h4 : ¬ (s.core s.cur.core).ctl.stopmax ≤ s.me.scnt + 1 := Nat.not_le.2 h3.1
    rw [if_neg (by intro h; have := hp h.1; simp_all), if_neg h4, if_neg (by simp [h3.2])]
  · simp at h3 ⊢
    rw [if_neg (by intro h; have := hp h.1; simp_all), if_neg (by simp [h3])]

/-- A word that takes effect goes on. -/
theorem finish_ok (s s' : State) (x : Ctx) (sf : Bool) (nx : Next) (h : nx ≠ .resync) :
    finish s x sf (.ok s' nx) = s'.went x sf nx := by
  cases nx <;> first | rfl | exact absurd rfl h

/-! ### Register use -/

theorem srcBad_x {h : Half} {b : Bool} {r : Nat} (hh : h ≠ .a) (o : srcOkX h b r) : srcBad h b r = false := by
  obtain ⟨-, h1, h2, h3, h4⟩ := o
  cases h
  · exact absurd rfl hh
  · have := h3 rfl; cases b <;> simp_all [srcBad]
  · have := h4 rfl; simp_all [srcBad]

theorem dstBad_x {h : Half} {r : Nat} (hh : h ≠ .a) (o : dstOkX h r) : dstBad h r = false := by
  obtain ⟨h0, h1, h2, h3, h4, h5⟩ := o
  cases h
  · exact absurd rfl hh
  · simp [dstBad]; omega
  · have := h5 rfl; simp [dstBad]; omega

theorem srcBad_a {b : Bool} {r : Nat} (o : srcOkA r) : srcBad .a b r = false := by
  unfold srcOkA at o; simp [srcBad]; omega

theorem dstBad_a {r : Nat} (o : dstOkA r) : dstBad .a r = false := by
  unfold dstOkA at o; simp [dstBad]; omega

/-- Registers that the X map allows pass the register-use check. -/
theorem usePre_x {s : State} {sf : Bool} {lat : Nat} {srcs dsts : List Nat} (h : s.legalX lat srcs dsts) :
    usePre lat srcs dsts (s.noted sf) s.ctx = {} := by
  obtain ⟨hh, h1, h2, h3⟩ := h
  have b1 : srcs.any (srcBad s.cur.half s.my.routineBound) = false := by
    simpa using fun r hr => srcBad_x hh (h1 r hr)
  have b2 : dsts.any (dstBad s.cur.half) = false := by simpa using fun r hr => dstBad_x hh (h2 r hr)
  have b3 : ¬ (1 < lat ∧ 24 ∈ dsts) := fun h => h3 h.1 h.2
  unfold usePre
  simp [b1, b2]
  intro l _; exact h3 l

/-- Registers that the A map allows pass the register-use check. -/
theorem usePre_a {s : State} {sf : Bool} {lat : Nat} {srcs dsts : List Nat} (h : s.legalA srcs dsts) :
    usePre lat srcs dsts (s.noted sf) s.ctx = {} := by
  obtain ⟨hh, h1, h2⟩ := h
  have b1 : srcs.any (srcBad s.cur.half s.my.routineBound) = false := by
    simpa [hh] using fun r hr => srcBad_a (h1 r hr)
  have b2 : dsts.any (dstBad s.cur.half) = false := by simpa [hh] using fun r hr => dstBad_a (h2 r hr)
  unfold usePre
  simp [b1, b2]
  intro _ l; exact absurd hh l

theorem classOk_x {h : Half} {b : Bool} (hh : h ≠ .a) : classOk .x h b = true := by cases h <;> simp_all [classOk]

/-! ### Results -/

/-- A value that the destination takes is delivered. -/
theorem deliver_takes {s : State} {sf : Bool} {s' : State} {lat d : Nat} {v : Word} (h : s.takes d v) :
    deliver (s.noted sf) s' s.ctx lat d v = .ok (s'.put s.ctx lat d v) .seq := by
  obtain ⟨l, e⟩ := s.noted_me sf
  have ex : ixOut (s.noted sf) s.ctx v = (decide (v.toInt < 0) || decide ((s.me.wlimit : Int) - 1 < v.toInt)) := by
    unfold ixOut; rw [e]
  unfold deliver
  rw [ex, if_neg]
  by_cases ha : s.cur.half = .a
  · simp [ha]
  · by_cases hd : d = 24
    · have := h ha hd
      simp [ha, hd]; omega
    · simp [hd]

/-- The word that reads registers and delivers a result, where its sources can be read and its destination takes it. -/
theorem regOp_gives {s : State} {sf : Bool} {s' : State} {lat d : Nat} {srcs : List Nat} {l : List Word}
    {f : List Word → Word} (hg : s.gives sf d srcs s' l) (ht : s.takes d (f l)) :
    regOp lat d srcs f (s.noted sf) s.ctx = .ok (s'.put s.ctx lat d (f l)) .seq := by
  unfold regOp; rw [hg]; exact deliver_takes ht

/-- The same of a numeric result with no `mod` before it. -/
theorem numOp_gives {s : State} {sf : Bool} {s' : State} {lat d : Nat} {srcs : List Nat} {l : List Word} {sg : Bool}
    {f : List Word → Int} (hc : s.clear sf) (hg : s.gives sf d srcs s' l) (ht : s.takes d (BitVec.ofInt 64 (f l))) :
    numOp lat d srcs sg f (s.noted sf) s.ctx = .ok (s'.put s.ctx lat d (BitVec.ofInt 64 (f l))) .seq := by
  obtain ⟨i, e⟩ := s.noted_me sf
  have hv : ∀ v : Int, BitVec.ofNat 64 (finishInt none sg 64 v) = BitVec.ofInt 64 v := by
    intro v; unfold finishInt wrapBits
    apply BitVec.eq_of_toNat_eq
    simp [BitVec.toNat_ofInt, Int.emod_lt_of_pos]
  unfold numOp
  rw [e]
  simp only [hc.2.1, hv]
  exact regOp_gives hg ht

/-! ### Words of each shape -/

/-- Registers that the map of the issuing half allows pass the register-use check. -/
theorem usePre_e {s : State} {sf : Bool} {srcs dsts : List Nat} (h : s.legalE srcs dsts) :
    usePre 1 srcs dsts (s.noted sf) s.ctx = {} := by
  rcases h with h | h
  · exact usePre_x h
  · exact usePre_a h

@[simp] theorem classOk_e (h : Half) (b : Bool) : classOk .e h b = true := by cases h <;> rfl

/-- A word of the X map whose body delivers a result. -/
theorem word_x {s s' : State} {sf m : Bool} {lat d : Nat} {srcs : List Nat} {v : Word} {body : State → Ctx → Res}
    (hc : s.clear sf) (hl : s.legalX lat srcs [d])
    (hb : body (s.noted sf) s.ctx = .ok (s'.put s.ctx lat d v) .seq) :
    issueWord sf .x m (usePre lat srcs [d]) body s = .next ((s'.put s.ctx lat d v).went s.ctx sf .seq) := by
  rw [issueWord_clear hc (classOk_x hl.1) (by rw [usePre_x hl]) (by rw [usePre_x hl]) (by rw [usePre_x hl]; simp), hb,
    finish_ok _ _ _ _ _ (by simp)]

/-- A numeric word of the X map with no `mod` before it. -/
theorem numWord_x {s s' : State} {sf m sg : Bool} {lat d : Nat} {srcs : List Nat} {l : List Word} {v : Word}
    {f : List Word → Int} (hc : s.clear sf) (hl : s.legalX lat srcs [d]) (hg : s.gives sf d srcs s' l)
    (hv : BitVec.ofInt 64 (f l) = v) (ht : s.takes d v) :
    issueWord sf .x m (usePre lat srcs [d]) (numOp lat d srcs sg f) s =
      .next ((s'.put s.ctx lat d v).went s.ctx sf .seq) := by
  subst hv; exact word_x hc hl (numOp_gives hc hg ht)

/-- A word of the X map whose result no `mod` changes. -/
theorem regWord_x {s s' : State} {sf m : Bool} {lat d : Nat} {srcs : List Nat} {l : List Word} {v : Word}
    {f : List Word → Word} (hc : s.clear sf) (hl : s.legalX lat srcs [d]) (hg : s.gives sf d srcs s' l)
    (hv : f l = v) (ht : s.takes d v) :
    issueWord sf .x m (usePre lat srcs [d]) (regOp lat d srcs f) s =
      .next ((s'.put s.ctx lat d v).went s.ctx sf .seq) := by
  subst hv; exact word_x hc hl (regOp_gives hg ht)

/-- A word of class E with nothing to check before its body. -/
theorem word_e {s s' : State} {sf : Bool} {nx : Next} {body : State → Ctx → Res} (hc : s.clear sf)
    (hb : body (s.noted sf) s.ctx = .ok s' nx) (hn : nx ≠ .resync) :
    issueWord sf .e false noPre body s = .next (s'.went s.ctx sf nx) := by
  rw [issueWord_clear hc (classOk_e _ _) rfl rfl (by simp [noPre]), hb, finish_ok _ _ _ _ _ hn]

/-- A skipped word: one cycle, no effect, and it counts (05 R108). -/
theorem issueWord_skip {s : State} {sf modable : Bool} {cls : Cls} {pre : State → Ctx → Pre}
    {body : State → Ctx → Res} (h : 0 < s.me.skip) :
    issueWord sf cls modable pre body s = .next ((s.noted sf).modStream s.cur.core s.cur.half fun t =>
      { t with skip := t.skip - 1, scnt := t.scnt + 1, pc := s.ctx.nextAddr, wake := s.ctx.m + 1, taken := none }) := by
  obtain ⟨l, e⟩ := s.noted_me sf
  unfold issueWord issueNext
  have hn : s.noteIssue s.ctx sf = s.noted sf := rfl
  simp only [hn]
  rw [e]; simp only; rw [if_pos h]; rfl

end Sys2Proof.Machine
end

