-- ==== Sys2Proof/Laws/Access.lean ====
section
/-!
SUPPORT. The accesses of the A-half, said once: what the checks and the visible bytes depend on, and what each shared
operation gives where its checks pass.
-/

namespace Sys2Proof.Machine

section
variable (s : State) (sf : Bool)

/-! ### The noted state shows an access the same -/

@[simp] theorem State.noted_partOfCore (c : Nat) : (s.noted sf).partOfCore c = s.partOfCore c := by
  simp [State.partOfCore, State.octetPart]
@[simp] theorem State.noted_pubs (b : Nat) : (s.noted sf).pubs b = s.pubs b := by simp [State.pubs]
@[simp] theorem State.noted_reach (c b : Nat) (k : AccKind) (sp p n : Nat) :
    (s.noted sf).reach c b k sp p n = s.reach c b k sp p n := by simp [State.reach, State.colPart]
@[simp] theorem State.noted_banksOf (b p n : Nat) : (s.noted sf).banksOf b p n = s.banksOf b p n := by
  simp [State.banksOf]
@[simp] theorem State.noted_evBanks (c : Nat) (e : Ev) : e.banks (s.noted sf) c = e.banks s c := by
  unfold Ev.banks; split <;> simp
@[simp] theorem State.noted_coreBanks (c : Nat) : ((s.noted sf).core c).banks = (s.core c).banks := by
  obtain ⟨l, h⟩ := s.noted_core sf c; rw [h]; cases s.cur.half <;> rfl
@[simp] theorem State.noted_bankCyc (c : Nat) : ((s.noted sf).core c).bankCyc = (s.core c).bankCyc := by
  obtain ⟨l, h⟩ := s.noted_core sf c; rw [h]; cases s.cur.half <;> rfl
@[simp] theorem State.noted_bankBusy (c t : Nat) : (s.noted sf).bankBusy c t = s.bankBusy c t := by
  funext b; simp [State.bankBusy]
@[simp] theorem State.noted_bankFails (t p n : Nat) :
    (s.noted sf).bankFails s.ctx t p n = s.bankFails s.ctx t p n := by simp [State.bankFails]
@[simp] theorem State.noted_accessAt (k : AccKind) (sp p n al : Nat) (d : Place → Nat) :
    accessAt (s.noted sf) s.ctx k sp p n al d = accessAt s s.ctx k sp p n al d := by unfold accessAt; simp; rfl
@[simp] theorem State.noted_visKeys (b p n : Nat) : (s.noted sf).visKeys b p n = s.visKeys b p n := by
  simp [State.visKeys]
@[simp] theorem State.noted_visBytes (b p n : Nat) : (s.noted sf).visBytes b p n = s.visBytes b p n := by
  simp [State.visBytes]
@[simp] theorem State.noted_visPoison (b p n : Nat) : (s.noted sf).visPoison b p n = s.visPoison b p n := by
  simp [State.visPoison]
@[simp] theorem State.noted_visWords (b p n : Nat) : (s.noted sf).visWords b p n = s.visWords b p n := by
  simp [State.visWords]
@[simp] theorem State.noted_occupancy (c q n : Nat) :
    ((s.noted sf).core c).occupancy q n = (s.core c).occupancy q n := by simp [Core.occupancy, Core.poppedNow]
@[simp] theorem State.noted_entry (c q k n : Nat) : ((s.noted sf).core c).entry q k n = (s.core c).entry q k n := by
  simp [Core.entry]
@[simp] theorem State.noted_countC (c : Nat) : (s.noted sf).countC c = s.countC c := by simp [State.countC]
@[simp] theorem State.noted_countK (c : Nat) : (s.noted sf).countK c = s.countK c := by simp [State.countK]
@[simp] theorem State.noted_countM (c : Nat) : (s.noted sf).countM c = s.countM c := by simp [State.countM]
@[simp] theorem State.noted_countP (c : Nat) : (s.noted sf).countP c = s.countP c := by simp [State.countP]
@[simp] theorem State.noted_countH (c : Nat) : (s.noted sf).countH c = s.countH c := by simp [State.countH]
@[simp] theorem State.noted_orderOk (c m : Nat) : (s.noted sf).orderOk c m = s.orderOk c m := by
  simp [State.orderOk]
@[simp] theorem State.noted_ox (n : Nat) : (s.noted sf).ox s.ctx n = s.ox s.ctx n := by
  simp [State.ox]; rfl
@[simp] theorem State.noted_desc (o i : Nat) : (s.noted sf).desc s.ctx o i = s.desc s.ctx o i := by simp [State.desc]
@[simp] theorem State.noted_mkMask (m : BitVec 3) : mkMask (s.noted sf) s.ctx m = mkMask s s.ctx m := by simp [mkMask]
@[simp] theorem State.noted_gVal (g : BitVec 3) (z : BitVec 1) : gVal (s.noted sf) s.ctx g z = gVal s s.ctx g z := by
  simp [gVal]
@[simp] theorem State.noted_ea (a : Nat) (d : Int) : (s.noted sf).ea s.ctx a d = s.ea s.ctx a d := by
  simp [State.ea, Core.srcVal]

/-- The effective address of a word whose base is an address register (06 R116). -/
theorem State.ea_a {a : Nat} (d : Int) (h : a < 8) : s.ea s.ctx a d = vget 0 s.my.regs.a a + BitVec.ofInt 64 d := by
  simp [State.ea, Core.srcVal, h, toWord]

end

section
variable {s : State} {sf : Bool}

/-! ### Checks that pass -/

/-- An access that reaches a place, whose bank is free, aligned and within one bank. -/
theorem accessAt_ok {k : AccKind} {sp p n al : Nat} {d : Place → Nat} {pl : Place}
    (h1 : s.reach s.cur.core (s.bindOf s.cur.core) k sp p n = some pl)
    (h2 : s.bankFails s.ctx (s.ccyc + d pl) p n = false) (h3 : p % al = 0)
    (h4 : ptrTag p = 2 → p / 0x10000 = (p + n - 1) / 0x10000) : accessAt s s.ctx k sp p n al d = (pl, none) := by
  unfold accessAt
  simp only [State.ctx_core, State.ctx_bind, State.ctx_now, h1, h2]
  rw [if_neg (by simp), if_neg]
  simp [h3, crossBank]; exact h4

/-- The state after a load into queue `q`. -/
theorem loadRes_ok {k : AccKind} {sp q t p : Nat} {lat : Place → Nat} {tag : Option (BitVec 8)} {pl : Place}
    (ha : accessAt s s.ctx k sp p (tySize t) 1 (fun _ => 0) = (pl, none)) (ho : s.my.occupancy q s.ccyc < 8)
    (hp : s.visPoison (s.bindOf s.cur.core) p (tySize t) = none)
    (hg : ∀ g, tag = some g → p / 64 = (p + tySize t - 1) / 64 ∧ s.mem.read (tagKey s.cur.core
      (sOff ((pubRoute (s.pubs (s.bindOf s.cur.core)) false p).getD p) / 64)) = g) :
    loadRes (s.noted sf) s.ctx k sp q t p lat (tag.map (·.toNat)) =
      .ok ((((s.noted sf).noteRead (s.visKeys (s.bindOf s.cur.core) p (tySize t))).noteBanks s.cur.core
        (s.banksOf (s.bindOf s.cur.core) p (tySize t))).fillQl s.ctx q (lat pl)
          (tyVal t (s.visBytes (s.bindOf s.cur.core) p (tySize t)))) .seq := by
  have ho' : ¬ 8 ≤ (s.core s.cur.core).occupancy q s.ccyc := Nat.not_le.2 ho
  unfold loadRes
  simp only [State.noted_accessAt, ha, State.noted_occupancy, State.ctx_core, State.ctx_now, State.ctx_bind,
    State.noted_visPoison, hp, State.noted_visBytes, State.noted_visKeys, State.noted_banksOf, State.noted_pubs,
    State.noted_mem]
  cases tag with
  | none => simp [ho']
  | some g => obtain ⟨h1, h2⟩ := hg g rfl; simp [ho', h1, h2]

/-- The state after a store from queue `q`. -/
theorem storeRes_ok {k : AccKind} {sp q n al p mask : Nat} {pl : Place} {e : QEnt} {rest : List QEnt}
    (ha : accessAt s s.ctx k sp p n al Place.store = (pl, none)) (hq : s.my.queue (3 + q) = e :: rest)
    (hd : e.due ≤ s.ccyc) (hb : e.bad = false) (ho : s.orderOk s.cur.core mask = true) :
    storeRes (s.noted sf) s.ctx k sp q n al p mask =
      .ok (((s.noted sf).modCore s.cur.core (·.pop (3 + q) s.ccyc)).post (s.ccyc + pl.store) 2
        (.store s.cur.core s.cur.half ((lines p n).map fun g => (g.1, ((leBytes n e.val.toNat).drop (g.1 - p)).take g.2))))
        .seq := by
  have he : (s.core s.cur.core).entry (3 + q) 0 s.ccyc = some e := by unfold Core.entry; rw [hq]; simp [hd]
  unfold storeRes
  simp only [State.noted_accessAt, ha, State.ctx_core, State.ctx_now, State.noted_entry, he, hb, State.noted_orderOk, ho]
  simp

/-- The state after an atomic that pushes its old value. -/
theorem atomicRes_ok {k : AccKind} {op : AtOp} {sp q n p mask : Nat} {v w : Word} {pl : Place}
    (ha : accessAt s s.ctx k sp p n n Place.store = (pl, none)) (hq : s.my.occupancy q s.ccyc < 8)
    (ho : s.orderOk s.cur.core mask = true) :
    atomicRes (s.noted sf) s.ctx k op sp q n p v w mask =
      .ok (((s.noted sf).fillQl s.ctx q pl.result 0).post (s.ccyc + pl.store) 7
        (.atomic s.cur.core s.cur.half op (n == 8) p v w q s.seq)) .seq := by
  have hq' : ¬ 8 ≤ (s.core s.cur.core).occupancy q s.ccyc := Nat.not_le.2 hq
  unfold atomicRes
  simp only [State.noted_accessAt, ha, State.ctx_core, State.ctx_now, State.noted_occupancy, State.noted_orderOk, ho,
    State.noted_seq]
  simp [hq']

end

end Sys2Proof.Machine
end

