-- ==== Sys2Proof/Laws/Landing.lean ====
section
/-!
SUPPORT. What happens in a cycle already fixed: the agenda's first entry runs when its cycle has come.
-/

namespace Sys2Proof.Machine

/-- The agenda's first entry, when its cycle has come, is what its event does. -/
theorem fire_head {s : State} {e : AEnt} {rest : List AEnt} {i : Instr} (ha : s.agenda = e :: rest)
    (hd : e.due ≤ s.ccyc) (hi : e.ev.instr = i) : s.fire i = e.ev.run { s with agenda := rest } := by
  unfold State.fire State.headDue; simp [ha, hd, hi]

end Sys2Proof.Machine
end

