-- ==== Sys2Proof/Laws/Keeps.lean ====
section
/-!
SUPPORT. Every operation that writes memory keeps its canonical form: the stores and atomics of a core, the window file's
port, the matrix unit, the engines, the interfaces, and what firmware and the host do.
-/

namespace Sys2Proof.Machine

variable {s : State}

theorem State.of_mem {s t : State} (e : t.mem = s.mem) (h : s.memWf) : t.memWf := by rw [State.memWf, e]; exact h

theorem markAll_memWf (f : Nat → Nat) (l : List Nat) (h : s.memWf) :
    (l.foldl (fun s o => s.markPoison (f o)) s).memWf :=
  foldl_keeps State.memWf (fun s o => s.markPoison (f o)) (fun _ _ hs => State.markPoison_memWf _ hs) _ _ h

theorem markIf_memWf {b : Prop} [Decidable b] (k : Nat) (h : s.memWf) : (if b then s.markPoison k else s).memWf := by
  split
  · exact State.markPoison_memWf _ h
  · exact h

/-! ### A core's stores and atomics -/

theorem State.landPiece_memWf (lost : List Nat) (k : Nat) (bs : List Byte) (h : s.memWf) :
    (s.landPiece lost k bs).memWf := by
  unfold State.landPiece; split
  · exact State.write_memWf _ _ h
  · exact foldl_keeps State.memWf _ (fun _ _ hs => State.write_memWf _ _ hs) _ _ h

theorem State.landStore_memWf (c : Nat) (segs : List (Nat × List Byte)) (h : s.memWf) : (s.landStore c segs).memWf :=
  foldl_keeps State.memWf _ (fun _ _ hs => State.landPiece_memWf _ _ _ hs) _ _ h

theorem State.landHead_memWf (c : Nat) (v : Word) (h : s.memWf) : (s.landHead c v).memWf := State.write64_memWf _ _ h

theorem State.perform_memWf (c : Nat) (op : AtOp) (wide : Bool) (p : Nat) (x y : Word) (q id : Nat) (h : s.memWf) :
    (s.perform c op wide p x y q id).memWf := by
  have hn : ∀ l, (s.noteRead l).memWf := fun l => State.of_mem rfl h
  unfold State.perform
  generalize (if wide then 8 else 4) = n
  dsimp only
  split
  · exact State.write_memWf _ _ h
  · split
    · rw [State.memWf, State.modCore_mem]; exact h
    · rw [State.memWf, State.modCore_mem]; exact State.write_memWf _ _ (hn _)

/-! ### The window file's port -/

theorem State.spillReg_memWf (c n : Nat) (h : s.memWf) : (s.spillReg c n).memWf := by
  unfold State.spillReg; dsimp only; split
  · exact State.markPoison_memWf _ (by rw [State.memWf, State.noteErr_mem]; exact State.write64_memWf _ _ h)
  · exact State.write64_memWf _ _ h

theorem State.spillLines_memWf (c l k : Nat) (h : s.memWf) : (s.spillLines c l k).memWf :=
  foldl_keeps State.memWf _ (fun _ _ hs => State.spillReg_memWf _ _ hs) _ _ h

theorem State.fillLines_memWf (c l k : Nat) (h : s.memWf) : (s.fillLines c l k).memWf :=
  foldl_keeps State.memWf (fun s n => s.fillReg c n) (fun _ _ hs => State.of_mem rfl hs) _ _ h

theorem State.winDone_memWf (c : Nat) (op : WinOp) (h : s.memWf) : (s.winDone c op).memWf := by
  cases op with
  | spill e n => exact State.of_mem (s := s.spillLines c (s.core c).sx.rbot e) rfl (State.spillLines_memWf _ _ _ h)
  | fill f n => exact State.fillLines_memWf _ _ _ h
  | wsave e =>
    exact State.of_mem (s := s.spillLines c (s.core c).sx.rbot (s.core c).sx.rcnt) rfl (State.spillLines_memWf _ _ _ h)
  | wrest f =>
    cases f with
    | none => exact State.fillLines_memWf _ _ _ h
    | some f =>
      exact State.of_mem (s := s.fillLines c ((s.core c).sx.rbot - f) (min f (s.core c).sx.rbot)) rfl
        (State.fillLines_memWf _ _ _ h)

theorem State.setImageWord_memWf (c off : Nat) (v : Word) (bad : Bool) (h : s.memWf) :
    (s.setImageWord c off v bad).memWf := by
  unfold State.setImageWord; dsimp only; split
  · exact State.of_mem rfl h
  · exact markIf_memWf _ (State.write64_memWf _ _ h)

/-! ### Engines -/

theorem State.putWord_memWf (p : Nat) (w : Word) (bad : Bool) (h : s.memWf) : (s.putWord p w bad).memWf := by
  unfold State.putWord; split
  · exact State.setImageWord_memWf _ _ _ _ h
  · exact markIf_memWf _ (State.write64_memWf _ _ h)

theorem State.putPart_memWf (p : Nat) (l : List (Nat × Byte)) (bad : Bool) (h : s.memWf) : (s.putPart p l bad).memWf := by
  have hw : (l.foldl (fun s e => s.write (ptrKey p + e.1) [e.2]) s).memWf :=
    foldl_keeps State.memWf _ (fun _ _ hs => State.write_memWf _ _ hs) _ _ h
  unfold State.putPart; split
  · exact h
  · split
    · exact State.putWord_memWf _ _ _ h
    · exact markIf_memWf _ hw

theorem State.putTag_memWf (p : Nat) (tag : Byte) (h : s.memWf) : (s.putTag p tag).memWf := by
  unfold State.putTag; split
  · exact State.write_memWf _ _ h
  · exact h

theorem State.engineWrite_memWf (b p : Nat) (bs : List Byte) (poison : List Nat) (h : s.memWf) :
    (s.engineWrite b p bs poison).memWf :=
  foldl_keeps State.memWf _ (fun _ _ hs => State.putWord_memWf _ _ _ hs) _ _ h

theorem State.hbmWrite_memWf (key pa : Nat) (bs : List Byte) (h : s.memWf) : (s.hbmWrite key pa bs).memWf := by
  unfold State.hbmWrite; dsimp only
  refine State.of_mem (s := State.write _ _ _) rfl (State.write_memWf _ _ ?_)
  split
  · exact h
  · exact Memory.write_wf _ _ _ h

theorem State.physWrite_memWf (hit : FHit) (bs : List Byte) (poison : List Nat) (h : s.memWf) :
    (s.physWrite hit bs poison).memWf := by
  unfold State.physWrite; split
  · exact markAll_memWf _ _ (State.hbmWrite_memWf _ _ _ h)
  · exact Memory.write_wf _ _ _ h
  · exact h

theorem State.fWriteAt_memWf (w : FWho) (hit : FHit) (m a : Nat) (bs : List Byte) (poison : List Nat) (t : State)
    (h : s.memWf) (e : s.fWriteAt w hit m a bs poison = some t) : t.memWf := by
  unfold State.fWriteAt at e
  dsimp only at e
  split at e
  · cases e
  · cases e
  · split at e
    · injection e with e; subst e; exact h
    · cases e
  · injection e with e; subst e; exact State.physWrite_memWf _ _ _ h

theorem State.fWrite_memWf (w : FWho) (m a : Nat) (bs : List Byte) (poison : List Nat) (t : State) (h : s.memWf)
    (e : s.fWrite w m a bs poison = some t) : t.memWf := State.fWriteAt_memWf w _ m a bs poison t h e

/-! ### The matrix unit -/

theorem State.zeroAcc_memWf (o a : Nat) (h : s.memWf) : (s.zeroAcc o a).memWf := by
  unfold State.zeroAcc
  dsimp only
  rw [State.memWf, State.modOctet_mem]
  exact State.write_memWf _ _ h

theorem State.writeSlot_memWf (o p : Nat) (bs : List Byte) (bad : List Nat) (h : s.memWf) :
    (s.writeSlot o p bs bad).memWf := State.of_mem (s := s.write (slotKey o p 0) bs) rfl (State.write_memWf _ _ h)

/-! ### The Steep engine -/

theorem State.setSite_memWf (c : Nat) (t : Tile) (i v : Nat) (h : s.memWf) : (s.setSite c t i v).memWf :=
  State.write_memWf _ _ h

theorem State.copySite_memWf (c : Nat) (t : Tile) (base : Word) (i v : Nat) (h : s.memWf) :
    (s.copySite c t base i v).memWf := State.write_memWf _ _ h

theorem State.tileStatus_memWf (c : Nat) (h : s.memWf) : (s.tileStatus c).memWf := by
  unfold State.tileStatus; dsimp only; split
  · exact h
  · exact State.write64_memWf _ _ h

/-! ### Messages and contexts -/

theorem State.appendEntry_memWf (c : Nat) (hd : Word) (body : List Word) (h : s.memWf) :
    (s.appendEntry c hd body).memWf :=
  State.write64_memWf _ _ (State.write_memWf _ _ (State.write_memWf _ _ h))

theorem State.ctxLand_memWf (c j : Nat) (bytes : List Byte) (bad : List Nat) (h : s.memWf) :
    (s.ctxLand c j bytes bad).memWf := markAll_memWf _ _ (State.write_memWf _ _ h)

theorem Memory.putBack_wf (m : Memory) (rs : List (Nat × Nat)) (copy : Memory) (h : m.wf = true) :
    (m.putBack rs copy).wf = true :=
  foldl_keeps (fun m => Memory.wf m = true) _ (fun _ _ hs => Memory.write_wf _ _ _ hs) _ _ (Memory.filter_wf _ _ h)

/-! ### Firmware, merges and the host -/

theorem State.fwStore_memWf (part a : Nat) (bs : List Byte) (h : s.memWf) : (s.fwStore part a bs).memWf := by
  unfold State.fwStore; dsimp only; split
  · exact h
  · split
    · exact Memory.write_wf _ _ _ h
    · exact State.hbmWrite_memWf _ _ _ h

theorem State.fwPut_memWf (part a : Nat) (v : Byte) (h : s.memWf) : (s.fwPut part a v).memWf := State.fwStore_memWf _ _ _ h
theorem State.fwWrite_memWf (part a : Nat) (v : Word) (h : s.memWf) : (s.fwWrite part a v).memWf := by
  unfold State.fwWrite; split
  · exact State.fwStore_memWf _ _ _ h
  · exact foldl_keeps State.memWf _ (fun _ _ hs => State.fwPut_memWf _ _ _ hs) _ _ h

theorem State.mergePut_memWf (hit : FHit) (bs : List Byte) (bad : Bool) (h : s.memWf) : (s.mergePut hit bs bad).memWf :=
  State.physWrite_memWf _ _ _ h

theorem State.mergeWord_memWf (l : Tab Merged) (w : Nat) (h : s.memWf) : (s.mergeWord l w).memWf := by
  unfold State.mergeWord
  dsimp only
  split
  · exact State.mergePut_memWf _ _ _ h
  · exact foldl_keeps State.memWf _ (fun _ _ hs => State.mergePut_memWf _ _ _ hs) _ _ h

theorem State.mergeBytes_memWf (l : List (Bind × Tab Merged)) (h : s.memWf) : (s.mergeBytes l).memWf :=
  foldl_keeps State.memWf _ (fun _ _ hs => State.mergeWord_memWf _ _ hs) _ _ h

theorem State.mergeElems_memWf (r : MergeReg) (l : List (Bind × Tab Merged)) (h : s.memWf) :
    (s.mergeElems r l).memWf :=
  foldl_keeps State.memWf _ (fun _ _ hs => foldl_keeps State.memWf _ (fun _ _ hs =>
    State.mergePut_memWf _ _ _ hs) _ _ hs) _ _ h

theorem State.hostWrite_memWf (key : Nat) (bs : List Byte) (h : s.memWf) : (s.hostWrite key bs).memWf := by
  unfold State.hostWrite; split
  · exact State.write_memWf _ _ h
  · split
    · exact Memory.write_wf _ _ _ h
    · split
      · exact foldl_keeps State.memWf _ (fun _ _ hs => by
          split
          · exact hs
          · exact State.hbmWrite_memWf _ _ _ hs) _ _ h
      · exact h

theorem State.softError_memWf (e : SoftError) (h : s.memWf) : (s.softError e).memWf := by
  cases e with
  | word key ok => unfold State.softError State.wordError; dsimp only; split <;> [exact h; (split <;> exact h)]
  | unchecked key bit => exact Memory.write_wf _ _ _ h
  | _ => exact h

theorem State.hostReset_memWf (h : s.memWf) : s.hostReset.memWf := Memory.filter_wf _ _ h

theorem State.repairs_memWf (l : List (Nat × Nat × Nat)) (h : s.memWf) : (l.foldl State.repair s).memWf :=
  foldl_keeps State.memWf State.repair (fun _ _ hs => State.of_mem rfl hs) _ _ h

theorem State.deliverCode_memWf (code : List Byte) (h : s.memWf) : (s.deliverCode code).memWf := by
  unfold State.deliverCode; split
  · exact h
  · exact foldl_keeps State.memWf _ (fun _ _ hs => State.write_memWf _ _ (State.write_memWf _ _ hs)) _ _ h

theorem State.bootTrain_memWf (i : BootImage) (h : s.memWf) : (s.bootTrain i).memWf := by
  unfold State.bootTrain; dsimp only; split
  · exact h
  · split
    · exact h
    · exact State.of_mem (s := State.deliverCode _ _) rfl
        (State.deliverCode_memWf _ (Memory.filter_wf _ _ (State.repairs_memWf _ h)))

theorem State.loadState_memWf (l : List (Nat × Nat × List Byte)) (h : s.memWf) : (s.loadState l).memWf := by
  unfold State.loadState; split
  · exact foldl_keeps State.memWf _ (fun _ _ hs => foldl_keeps State.memWf _
      (fun _ _ ht => State.fwPut_memWf _ _ _ ht) _ _ hs) _ _ h
  · exact h

end Sys2Proof.Machine
end

