-- ==== Sys2Proof/Laws/Stratus.lean ====
section
/-!
SUPPORT. What the stratum dies' messages can change: collectives, links and reports, and nothing else (18 R312, R317); and
what an outcome leaves of a registry entry (10 R213).
-/

namespace Sys2Proof.Machine

/-- State `t` is `s` with other collectives, links and reports. -/
def State.told (s t : State) : Prop :=
  t = { s with colls := t.colls, dev := { s.dev with links := t.dev.links }, reports := t.reports }

variable {s t u : State}

theorem State.told_refl (s : State) : s.told s := rfl

theorem State.told_trans (h : s.told t) (h' : t.told u) : s.told u := by
  unfold State.told at *; rw [h'] at *; rw [h]

theorem State.told_report (s : State) (r : Report) : s.told (s.report r) := rfl

theorem State.told_modColl (s : State) (p : Coll → Bool) (f : Coll → Coll) : s.told (s.modColl p f) := rfl

/-- A fold of operations that change no more than these changes no more. -/
theorem State.told_foldl {α : Type} {f : State → α → State} (hf : ∀ (s : State) a, s.told (f s a)) (l : List α) :
    ∀ s : State, s.told (l.foldl f s) := by
  induction l with
  | nil => exact State.told_refl
  | cons a l ih => exact fun s => State.told_trans (hf s a) (ih _)

theorem State.told_sendOn (s : State) (kind l : Nat) (g : FlitGroup) : s.told (s.sendOn kind l g) := by
  unfold State.sendOn; dsimp only; split <;> rfl

theorem State.told_sendGroup (s : State) (kind die dest : Nat) (g : FlitGroup) : s.told (s.sendGroup kind die dest g) := by
  unfold State.sendGroup; split
  · rfl
  · exact State.told_sendOn _ _ _ _

theorem State.told_sendDecision (s : State) (l : List Nat) (g : FlitGroup) (st : Nat) : s.told (s.sendDecision l g st) :=
  State.told_foldl (fun _ _ => State.told_sendGroup _ _ _ _ _) _ _

theorem State.told_decideColl (s : State) (k : Coll) (st : Nat) : s.told (s.decideColl k st) := by
  unfold State.decideColl; split
  · rfl
  · split
    · rfl
    · exact State.told_trans (State.told_modColl _ _ _) (State.told_sendDecision _ _ _ _)

theorem State.told_tellCoordinator (s : State) (k : Coll) (kind : Nat) : s.told (s.tellCoordinator k kind) := by
  unfold State.tellCoordinator; split
  · rfl
  · exact State.told_sendGroup _ _ _ _ _

theorem State.told_takeCycle (s : State) (k : Coll) (l : List Nat) : s.told (s.takeCycle k l) := by
  unfold State.takeCycle; dsimp only; split
  · exact State.told_trans (State.told_modColl _ _ _) (State.told_decideColl _ _ _)
  · split
    · exact State.told_trans (State.told_modColl _ _ _) (State.told_decideColl _ _ _)
    · exact State.told_modColl _ _ _

theorem State.told_takeInbox (s : State) (k : Coll) : s.told (s.takeInbox k) := by
  unfold State.takeInbox; split
  · exact State.told_modColl _ _ _
  · exact State.told_trans (State.told_modColl _ _ _) (State.told_foldl (fun _ _ => State.told_takeCycle _ _ _) _ _)

theorem State.told_collsFault (s : State) (b : Nat) : s.told (s.collsFault b) :=
  State.told_foldl (fun _ _ => State.told_trans (State.told_modColl _ _ _) (State.told_tellCoordinator _ _ _)) _ _

/-- What the dies do at the end of a cycle changes collectives, links and reports only (18 R317). -/
theorem State.told_closeColls (s : State) : s.told s.closeColls :=
  State.told_trans (State.told_foldl (fun _ _ => State.told_collsFault _ _) _ _)
    (State.told_foldl (fun _ _ => State.told_takeInbox _ _) _ _)

/-! ### What an outcome leaves of a registry entry -/

@[simp] theorem RegEnt.settle_last (e : RegEnt) (ep st : Nat) : (e.settle ep st).last = st := rfl
@[simp] theorem RegEnt.settle_epoch (e : RegEnt) (ep st : Nat) : (e.settle ep st).epoch = e.epoch := rfl

/-- An entry RUNNING in the outcome's epoch is DONE or FAILED (10 R211). -/
theorem RegEnt.settle_running {e : RegEnt} {ep st : Nat} (h : e.epoch = ep) (hr : e.st = .running) :
    (e.settle ep st).st = if st = 1 then .done else .failed := by
  simp [RegEnt.settle, h, hr]

/-- An entry of another use keeps its state (10 R213). -/
theorem RegEnt.settle_other {e : RegEnt} {ep st : Nat} (h : e.epoch ≠ ep) : (e.settle ep st).st = e.st := by
  simp [RegEnt.settle, h]

end Sys2Proof.Machine
end

