-- ==== Sys2Proof/Tests/Slice0.lean ====
section
/-!
SUPPORT. The author's tests: words written out from the spec's encodings, ill-formed terms, small steps, and for every
statement a state and operands that meet its hypotheses.
-/

namespace Sys2Proof.Tests

open Sys2Proof.Machine

set_option Elab.async false

/-! ### A state to test in: core 0 of a running domain, its X-stream, A-stream or sweep stream due -/

/-- Core 0's X-stream is due. -/
def sX : State := State.reset.placeWord 0x4
/-- Core 0's A-stream is due. -/
def sA : State := State.reset.placeWord 0x4E
/-- Core 0's sweep stream is due. -/
def sW : State := State.reset.placeWord 0x0005B4ED

/-- Core 0's registers changed. -/
def withRegs (s : State) (f : Regs → Regs) : State := s.modCore 0 fun k => { k with regs := f k.regs }
/-- Core 0's X-stream changed. -/
def withX (s : State) (f : Stream → Stream) : State := s.modStream 0 .x f
/-- Core 0's A-stream changed. -/
def withA (s : State) (f : Stream → Stream) : State := s.modStream 0 .a f

theorem wit_ScalarResults :
    (Spec.arithmetic (.addH false 1 2)).isSome = true ∧ (Spec.logic (.sel true 31 4 5 6)).isSome = true ∧
    (Spec.fields (.bfi false 1 2 0 63)).isSome = true ∧ (Spec.address (.kset false 11 7)).isSome = true ∧
    sX.clear false ∧ sX.clear true ∧ sX.legalX 1 [1, 2] [1] ∧ sX.legalX 12 [30, 31] [31] ∧ sA.clear false ∧
    sA.legalA [7] [11] ∧ sX.gives false 1 [1, 2] sX [0, 0] ∧ sX.gives false 1 [1] sX [0] ∧ sA.gives false 11 [7] sA [0] ∧
    sX.takes 1 0 ∧ (withX sX fun t => { t with wlimit := 1 }).takes 24 0 := by
  unfold State.clear State.legalX State.legalA State.gives State.takes srcOkX dstOkX srcOkA dstOkA
  and_intros <;> decide +kernel

/-- A `mod` with ABS, the largest scale and CLAMP. -/
def md : ModWord := { abs := true, neg := false, clamp := true, sat := false, sc := 7, addr := 0 }

theorem wit_ModResults :
    (Spec.arithmetic (.mulhn false 0 1 2)).isSome = true ∧ (Spec.exact (.mulhn false 0 1 2)).isSome = true ∧
    Spec.clearUnder (withX sX fun t => { t with pending := some md, scnt := 62 }) md ∧
    (withX sX fun t => { t with pending := some md }).gives false 0 [1, 2]
      (withX sX fun t => { t with pending := some md }) [0, 0] ∧ sX.clear true := by
  unfold Spec.clearUnder State.gives State.clear
  and_intros <;> decide +kernel

/-- A result of the X-stream that lands now. -/
def due (e : Ev) : State := { sX with agenda := [⟨0, 1, 0, e⟩] }

theorem wit_ResultLandings :
    Spec.destX sX 0 .x 15 = some (.stack 15) ∧ Spec.destX sX 0 .x 17 = some (.g 1) ∧ Spec.destX sX 0 .x 24 = some .ix ∧
    Spec.destX sX 0 .w 0 = some (.sweep 0) ∧ Spec.destX sX 0 .x 31 = some .lk ∧ Spec.destA 7 = some (.a 7) ∧
    Spec.destA 11 = some (.k 3) ∧ (Half.x ≠ .a) ∧ (due (.reg 0 .x (.g 7) 1)).agenda = [⟨0, 1, 0, .reg 0 .x (.g 7) 1⟩] ∧
    (due (.vec 0 .x false 15 1 1)).agenda = [⟨0, 1, 0, .vec 0 .x false 15 1 1⟩] := by
  decide +kernel

theorem wit_StreamAdvance : (sX.stream 0 .x).follows = false ∧ Next.jump 0 ≠ .seq ∧ Next.hold 0 ≠ .skip 0 := by
  decide +kernel

theorem wit_NopsAndSkips :
    sX.clear true ∧ (1 ≤ (1 : BitVec 5).toNat ∧ (7 : BitVec 5).toNat < 8) ∧ isWord (.div false 1 2 3) = true ∧
    isWord (.unassignedEncoding .illegal) = true ∧ 0 < (withX sX fun t => { t with skip := 1 }).me.skip ∧
    sX.legalE [0] [] ∧ sA.legalE [11] [] ∧ 1 ≤ (7 : BitVec 4).toNat ∧ (7 : BitVec 4).toNat < 8 ∧ sX.gives false 0 [0] sX [0] := by
  unfold State.clear State.legalE State.legalX State.legalA State.gives srcOkX dstOkX srcOkA dstOkA
  and_intros <;> decide +kernel

theorem wit_BranchResults :
    sX.clear false ∧ sX.legalE [0] [] ∧ sX.gives false 0 [0] sX [0] ∧ sX.legalX 1 [0] [0] ∧ (0 : BitVec 5) ≠ 16 ∧
    ¬ (25 ≤ (0 : BitVec 5).toNat ∧ (0 : BitVec 5).toNat ≤ 30) ∧ sX.takes 0 (0 - 1) ∧ sA.clear false ∧ sA.cur.half = .a ∧
    8 ≤ (8 : BitVec 5).toNat ∧ (11 : BitVec 5).toNat < 12 := by
  unfold State.clear State.legalE State.legalX State.legalA State.gives State.takes srcOkX dstOkX srcOkA dstOkA
  and_intros <;> decide +kernel

/-- The X-stream with `ix` at the last index in bounds. -/
def sIx : State := withRegs sX fun r => { r with ix := 15 }

theorem wit_IndexAndOxWords :
    sIx.clear true ∧ sIx.cur.half = .x ∧ dstOkX .x (31 : BitVec 5).toNat ∧ srcOkX .x sIx.my.routineBound 30 ∧
    (0 ≤ sIx.my.regs.ix.toInt + (0 : BitVec 7).toInt ∧ sIx.my.regs.ix.toInt + (0 : BitVec 7).toInt ≤ (sIx.me.wlimit : Int) - 1) ∧
    ¬ (0 ≤ sIx.my.regs.ix.toInt + (1 : BitVec 7).toInt ∧ sIx.my.regs.ix.toInt + (1 : BitVec 7).toInt ≤ (sIx.me.wlimit : Int) - 1) ∧
    sIx.gives true 31 [15] sIx [0] ∧ sIx.gives true 15 [30] sIx [0] ∧ sIx.gives true 24 [0] sIx [0] ∧ (15 : Int) < 16 ∧ sIx.takes 31 0 ∧ sIx.takes 24 15 ∧
    ¬ sIx.takes 24 (sIx.my.regs.ix + (1 : BitVec 7).signExtend 64) ∧ ¬ sIx.takes 24 (sIx.my.regs.ix + (1 : BitVec 4).signExtend 64) ∧ ¬ sIx.takes 24 16 ∧
    sIx.takes 24 (sIx.my.regs.ix + (0 : BitVec 4).signExtend 64) ∧ sIx.cur.half ≠ .w ∧ sIx.legalE [0] [] ∧ sA.legalE [7] [] := by
  unfold State.clear State.legalE State.legalX State.legalA State.gives State.takes srcOkX dstOkX srcOkA dstOkA
  and_intros <;> decide +kernel

/-- A state in privileged mode. -/
def priv (s : State) : State :=
  s.modStream 0 s.cur.half fun t => { t with traps := { t.traps with priv := true } }

theorem wit_WindowResults :
    (.call12, 12) ∈ Spec.calls ∧ (.callr4, 4) ∈ Spec.callRs ∧ sX.clear true ∧ sX.cur.half = .x ∧ 0 < sX.my.ctl.wsize ∧
    srcOkX .x sX.my.routineBound 31 ∧ sX.gives false 0 [31] sX [0] ∧
    (∀ op ∈ [WinOp.spill 3 12, .fill 16 12, .wsave 4, .wrest none, .wrest (some 16)],
      (due (.win 0 op)).agenda = ⟨0, 1, 0, .win 0 op⟩ :: []) ∧ (sX.core 0).sx.rcnt ≤ 16 ∧ (priv sX).me.traps.priv = true ∧
    (priv sX).clear false := by
  unfold State.clear State.gives srcOkX
  refine ⟨by simp [Spec.calls], by simp [Spec.callRs], ?_⟩
  and_intros <;> decide +kernel

/-- Core 0's X-stream with the pointer to its own scratchpad in `w0`. -/
def sPtr0 : State := withRegs sX fun r => { r with win := vput r.win 0 (BitVec.ofNat 64 (sPtr 0 0 0)) }
/-- The X-stream, parked or waiting. -/
def parked (r : Run) : State := withX sX fun t => { t with run := r }
/-- One cycle after a mark. -/
def late : State := { sX with ccyc := 1 }

theorem wit_ParksAndMarks :
    sX.clear true ∧ sX.legalE [1] [] ∧ sX.gives true 0 [1] sX [0] ∧
    ((0 : Word) + (0x3FFF : BitVec 14).setWidth 64).toNat < 2 ^ 32 ∧ sPtr0.gives true 0 [0] sPtr0 [BitVec.ofNat 64 (sPtr 0 0 0)] ∧
    sPtr0.me.sample ≠ .poisoned ∧ ptrTag (sPtr 0 0 0) = 1 ∧ sPtr 0 0 0 % 8 = 0 ∧
    (sPtr0.noted true).reach 0 0 .load (ptrTag (sPtr 0 0 0)) (sPtr 0 0 0) 8 ≠ none ∧
    (parked .await).me.run = .await ∧ (withX (parked .rejoin) fun t => { t with sample := .holds }).me.sample = .holds ∧
    (parked .cwait).me.trapReady 0 = false ∧ (withX (parked .cwait) fun t => { t with sample := .fails }).me.sample = .fails ∧
    (withX sX fun t => { t with traps := { t.traps with rstValid := true } }).me.traps.rstValid = true ∧
    sX.me.traps.rstValid = false ∧ (sX.bindAt 0).fault = none ∧ sW.clear true ∧ (parked .hold).me.wake ≤ (parked .hold).mcyc 0 ∧
    (parked .resync).me.run = .resync ∧
    (sX.mcyc 0 % (sX.bindAt 0).interval = 0 ∧ sX.my.occupancy 0 0 = 0 ∧ sX.my.occupancy 4 0 = 0 ∧ sX.my.routineBound = false) ∧
    ¬ late.mcyc 0 % (late.bindAt 0).interval = 0 ∧ late.clear true := by
  unfold State.clear State.legalE State.legalX State.legalA State.gives srcOkX dstOkX srcOkA dstOkA
  and_intros <;> decide +kernel

/-- Two traps pending at a word after a park, the lower code the younger. -/
def pends : State := withX late fun t =>
  { t with afterPark := true, pend := [⟨0x12, 0, 1, 0⟩, ⟨0x11, 0, 2, 0⟩] }

theorem wit_TrapEntries :
    sX.ctx.half ≠ .w ∧ (sX.ctx.stream sX).traps.priv = false ∧ ((priv sX).ctx.stream (priv sX)).traps.priv = true ∧
    ((priv sX).bindAt (priv sX).ctx.bind).fault = none ∧ pends.asyncDue pends.cur.core pends.cur.half = true ∧
    pends.me.nextTrap pends.ccyc = some ⟨0x11, 0, 2, 0⟩ ∧ pends.preciseDue pends.cur.core pends.cur.half = false ∧
    (let s := withX sX fun t => { t with pend := [⟨0x12, 0, 1, 0⟩, ⟨0x13, 2, 0, 0⟩] }
     s.preciseDue s.cur.core s.cur.half = true ∧ s.me.pend.find? (·.precise) = some ⟨0x13, 2, 0, 0⟩) := by
  decide +kernel

/-- A stream with DBG set. -/
def debugged : State := withX sX fun t => { t with traps := { t.traps with dbg := true } }

theorem wit_TrapWords :
    (priv sX).clear true ∧ (priv sX).cur.half ≠ .w ∧ (priv sX).me.traps.priv = true ∧ sX.clear false ∧ (1 : BitVec 14) ≠ 0 ∧
    sX.me.traps.dbg = false ∧ debugged.me.traps.dbg = true ∧ debugged.clear true ∧
    sX.me.traps.priv = false ∧ sX.cur.half = .x := by
  unfold State.clear
  and_intros <;> decide +kernel

theorem wit_WordFaults :
    (Spec.logic (.liH true 2 0)).map (·.sf) = some true ∧ (Spec.arithmetic (.neg false 1 2)).map (·.sf) = some false ∧
    sA.cur.half = .a ∧ sA.me.skip = 0 ∧ sX.legalX 1 [2] [1] ∧ sX.legalX 1 [] [2] ∧
    (withX sX fun t => { t with pending := some md }).me.pending = some md ∧ sX.me.pending = none ∧
    sX.my.ctl.stopmax - 1 ≤ (withX sX fun t => { t with scnt := 63 }).me.scnt ∧ 0 < sX.my.ctl.stopmax ∧
    (due (.reg 0 .x (.g 1) 0)).inFlight 0 .x = false ∧
    ({ due (.reg 0 .x (.g 1) 0) with agenda := [⟨1, 1, 0, .reg 0 .x (.g 1) 0⟩] } : State).inFlight 0 .x = true ∧
    (withX sX fun t => { t with scnt := 62, afterPark := true }).me.scnt + 1 < sX.my.ctl.stopmax ∧
    sX.legalX 1 [0, 15] [] ∧ ¬ srcOkX .x sX.my.routineBound (28 : BitVec 5).toNat ∧
    ¬ srcOkX .x sW.my.routineBound (27 : BitVec 5).toNat := by
  unfold State.legalX srcOkX dstOkX
  and_intros <;> decide +kernel

theorem wit_LoopFaults :
    sW.clear true ∧ sW.cur.half = .w ∧ sX.clear true ∧ sX.cur.half = .x ∧
    (let s : State := { sW with cur := { sW.cur with half := .x } }
     s.clear true ∧ s.cur.half = .x ∧ s.my.routineBound = true) := by
  unfold State.clear
  and_intros <;> decide +kernel

theorem wit_MfsResults :
    sX.clear false ∧ sX.legalE [] [31] ∧ sA.legalE [] [11] ∧ Spec.control sX 0x19 = some 0 ∧ ¬ Spec.readPriv 0x19 ∧
    Spec.readPriv 0x10 ∧ Spec.readPriv 0x15 ∧ (priv sX).me.traps.priv = true ∧ sX.me.traps.priv = false ∧
    sX.gives false 31 [] sX [] ∧ sX.takes 31 0 ∧ Spec.control sX 0x1A = none ∧ Spec.control sX 0x30 = none ∧
    Spec.control sX 0x2F ≠ none := by
  unfold State.clear State.legalE State.legalX State.legalA State.gives State.takes Spec.readPriv srcOkX dstOkX srcOkA dstOkA
  and_intros <;> decide +kernel

/-- Privileged, with 64 and 0 in `w0` and `w1`. -/
def sMts : State := withRegs (priv sX) fun r => { r with win := vput r.win 0 64 }

theorem wit_MtsWords :
    sMts.clear false ∧ sMts.legalE [0] [] ∧ sMts.gives false 0 [0] sMts [64] ∧ Spec.writePriv 0x04 ∧ sMts.me.traps.priv = true ∧
    (∀ n ∈ [0x04, 0x05, 0x08, 0x0D, 0x0E, 0x10, 0x12, 0x15, 0x16], Spec.control sMts n ≠ none) ∧
    ¬ Spec.forbidden sMts 0x04 64 ∧ ¬ Spec.forbidden sMts 0x05 64 ∧ ¬ Spec.forbidden sMts 0x08 64 ∧ ¬ Spec.forbidden sMts 0x0D 64 ∧
    ¬ Spec.forbidden sMts 0x0E 64 ∧ ¬ Spec.forbidden sMts 0x15 64 ∧ ¬ Spec.forbidden sMts 0x16 64 ∧
    Spec.forbidden sMts 0x04 7 ∧ ¬ Spec.forbidden sMts 0x04 8 ∧ Spec.forbidden sMts 0x04 65 ∧ Spec.forbidden sMts 0x06 0 ∧
    Spec.forbidden sMts 0x06 64 ∧ Spec.forbidden sMts 0x13 64 ∧ ¬ Spec.forbidden sMts 0x13 63 ∧ Spec.forbidden sMts 0x14 64 ∧
    ¬ Spec.forbidden sMts 0x07 (BitVec.ofNat 64 (4 * 2 ^ 48)) ∧ Spec.forbidden sMts 0x07 (BitVec.ofNat 64 (3 * 2 ^ 48)) ∧
    Spec.control sMts 0x1A = none ∧ Spec.control sMts 0x30 = none ∧ sX.clear false ∧ sX.gives false 0 [0] sX [0] ∧
    sX.legalE [0] [] ∧ ¬ Spec.forbidden sX 0x05 0 ∧ sX.me.traps.priv = false := by
  unfold State.clear State.legalE State.legalX State.legalA State.gives Spec.writePriv srcOkX dstOkX srcOkA dstOkA
  and_intros <;> first | decide +kernel | (simp only [Spec.forbidden]; decide +kernel)

/-! ### The A-half -/

/-- A word as a number. -/
def wd (n : Nat) : Word := BitVec.ofNat 64 n

/-- A landed entry of a store-data queue. -/
def qe : QEnt := ⟨wd 0x1122, 0, 0, false, .x, 0⟩

/-- Eight words. -/
def eight (l : List Nat) : Vector Word 8 := Vector.ofFn fun i => wd (l.getD i.val 0)

/-- Core 0's A-stream with pointers to the first and the last eight bytes of its scratchpad, its column, its ring, its stage
and one that reaches nothing, and one entry in `qs0`. -/
def sAcc : State :=
  let a := eight [sPtr 0 0 0, sPtr 0 0 0x3FFF8, lPtr 0 0xFFF8, sPtr 0 6 0, sPtr 0 4 0x10000, 0, lPtr 0 0xFFFC, sPtr 0 0 0x3FFFC]
  (withRegs sA fun r => { r with a := a }).modCore 0 fun k => { k with qs0 := [qe] }

theorem wit_LoadResults :
    (Spec.loads (.lds false 2 1 6 0)).map (·.size) = some 4 ∧ (Spec.loads (.ldl true 0 2 3 0)).isSome = true ∧
    (Spec.loads (.ldacq false 2 0 2 1 1)).isSome = true ∧ (Spec.loads (.ldt false 0 0 0 0)).isSome = true ∧ sAcc.clear false ∧
    sAcc.cur.half = .a ∧ sAcc.my.routineBound = false ∧ Spec.allowed sAcc .load 1 8 1 (sPtr 0 0 0x3FFF8) (fun _ => 0) .scratch ∧
    Spec.allowed sAcc .load 2 8 1 (lPtr 0 0xFFF8) (fun _ => 0) .near ∧ sAcc.my.occupancy 2 0 < 8 ∧
    sAcc.visPoison 0 (sPtr 0 0 0x3FFF8) 8 = none ∧ sPtr 0 0 0 / 64 = (sPtr 0 0 0 + 1 - 1) / 64 ∧
    sAcc.mem.read (tagKey 0 (sOff ((pubRoute (sAcc.pubs 0) false (sPtr 0 0 0)).getD (sPtr 0 0 0)) / 64)) = 0 := by
  unfold State.clear Spec.allowed
  and_intros <;> decide +kernel

theorem wit_StoreResults :
    (Spec.stores (.sts false 0 1 3 0)).map (·.size) = some 8 ∧ (Spec.stores (.stl true 1 2 6 0)).isSome = true ∧
    (Spec.stores (.strel false 1 0 0 1 31)).isSome = true ∧ sAcc.clear true ∧ sAcc.cur.half = .a ∧
    Spec.allowed sAcc .store 1 8 1 (sPtr 0 0 0x3FFF8) Spec.storeLat .scratch ∧ sAcc.my.queue 3 = qe :: [] ∧
    qe.due ≤ sAcc.ccyc ∧ qe.bad = false ∧ sAcc.orderOk 0 31 = true := by
  unfold State.clear Spec.allowed
  and_intros <;> decide +kernel

/-- The same, with an entry in `ql0` from which eight are occupied, and a store of class S in flight. -/
def sFull : State :=
  { sAcc.modCore 0 (fun k => { k with ql0 := List.replicate 8 qe, qs1 := [{ qe with due := 2 }] }) with
    ccyc := 1, agenda := [⟨2, 2, 0, .store 0 .a [(sPtr 0 0 0, [1])]⟩] }

/-- The same with an entry of bad parity in `qs0`. -/
def sBad : State := sAcc.modCore 0 fun k => { k with qs0 := [{ qe with bad := true }] }
/-- The same with the first word of the scratchpad poisoned. -/
def sPois : State := { sAcc with ecc := [(spKey 0 0 / 8, .poison)] }

theorem wit_AccessFaults :
    sAcc.clear false ∧ sAcc.cur.half = .a ∧ sAcc.reach 0 0 .load 1 0 8 = none ∧ sAcc.reach 0 0 .store 1 (sPtr 0 0 0x3FFFC) 8 = none ∧
    sAcc.reach 0 0 .load 2 (lPtr 0 0xFFFC) 8 = some .near ∧ sAcc.bankFails sAcc.ctx 0 (lPtr 0 0xFFFC) 8 = false ∧
    (ptrTag (lPtr 0 0xFFFC) = 2 ∧ lPtr 0 0xFFFC / 0x10000 ≠ (lPtr 0 0xFFFC + 8 - 1) / 0x10000) ∧
    sPtr 0 0 0x3FFFC % 8 ≠ 0 ∧ sAcc.my.queue 4 = [] ∧ 8 ≤ sFull.my.occupancy 0 1 ∧ sFull.my.queue 4 = [{ qe with due := 2 }] ∧
    sFull.ccyc < ({ qe with due := 2 } : QEnt).due ∧ sBad.my.queue 3 = [{ qe with bad := true }] ∧
    ({ qe with bad := true } : QEnt).due ≤ sBad.ccyc ∧ sPois.visPoison 0 (sPtr 0 0 0) 8 = some (sPtr 0 0 0) ∧
    sPois.reach 0 0 .load 1 (sPtr 0 0 0) 8 = some .scratch ∧ (sPtr 0 0 60 / 64 ≠ (sPtr 0 0 60 + 8 - 1) / 64) ∧ sFull.orderOk 0 31 = false ∧ sAcc.my.occupancy 0 0 < 8 ∧
    (Spec.stores (.strel false 1 0 0 1 31)).isSome = true ∧
    sAcc.mem.read (tagKey 0 (sOff ((pubRoute (sAcc.pubs 0) false (sPtr 0 0 0)).getD (sPtr 0 0 0)) / 64)) ≠ 1 := by
  unfold State.clear
  and_intros <;> decide +kernel

theorem wit_VectorAccessResults :
    (Spec.spans (.vlds false 15 0 0 0)).isSome = true ∧ (Spec.spans (.vstl true 0 2 1 0)).isSome = true ∧ sAcc.clear true ∧
    sAcc.cur.half = .a ∧ Spec.allowed sAcc .vload 1 128 4 (sPtr 0 0 0) (fun _ => 0) .scratch ∧
    Spec.allowed sAcc .vstore 1 128 4 (sPtr 0 0 0) Spec.storeLat .scratch ∧ Spec.enabled sAcc 1 = [] ∧
    Spec.enabled sAcc 0 = List.range 32 ∧ (∀ j ∈ Spec.enabled sAcc 0, sAcc.visPoison 0 (sPtr 0 0 0 + 4 * j) 4 = none) ∧
    Spec.allowed sAcc .gath 1 4 4 (sPtr 0 0 0) (fun _ => 0) .scratch ∧ Spec.allowed sAcc .scat 1 4 4 (sPtr 0 0 0) (fun _ => 4) .scratch ∧
    (wd (sPtr 0 0 0) + (0 : BitVec 8).signExtend 64 + (Spec.lane (vget 0 sAcc.my.regs.v 0) 31).signExtend 64).toNat = sPtr 0 0 0 := by
  unfold State.clear Spec.allowed
  and_intros <;> decide +kernel

/-- A 32-bit atomic on the first word of the scratchpad, in its perform cycle, for the entry of number 0. -/
def performs (op : AtOp) (wide : Bool) (g : Word) : AEnt := ⟨0, 7, 1, .atomic 0 .a op wide (sPtr 0 0 0) g 0 0 0⟩

theorem wit_AtomicWords :
    (Spec.atomics (.amcas false 1 2 0 1 0 2 31)).isSome = true ∧ (Spec.atomics (.stacq false 0 4 1)).isSome = true ∧
    sAcc.clear false ∧ sAcc.cur.half = .a ∧ sAcc.my.routineBound = false ∧ sAcc.my.occupancy 2 0 < 8 ∧
    Spec.allowed sAcc .atomic 1 4 4 (sPtr 0 0 0) Spec.storeLat .scratch ∧
    Spec.allowed sAcc .stage 1 8 8 (sPtr 0 4 0x10000) Spec.storeLat .scratch ∧ sAcc.orderOk 0 31 = true ∧ sFull.orderOk 0 31 = false ∧
    sFull.clear false ∧ sAcc.my.queue 3 = qe :: [] ∧ sAcc.my.queue 4 = [] ∧ sBad.my.queue 3 = { qe with bad := true } :: [] ∧
    sFull.ccyc < ({ qe with due := 2 } : QEnt).due ∧ 8 ≤ sFull.my.occupancy 0 1 ∧ sAcc.reach 0 0 .atomic 1 0 4 = none ∧
    sAcc.reach 0 0 .stage 1 (sPtr 0 0 0) 8 = none ∧ sPtr 0 0 0x3FFFE % 4 ≠ 0 ∧
    sAcc.reach 0 0 .atomic 1 (sPtr 0 0 0x3FFFC) 4 = some .scratch ∧ (31 : BitVec 5) ≠ 0 ∧
    ({ sAcc with agenda := [performs .add false 1] } : State).agenda = performs .add false 1 :: [] ∧
    (performs .add false 1).due ≤ sAcc.ccyc ∧ (wd 0xFFFFFFFF).toNat < 2 ^ 32 ∧ poisoned sAcc.ecc (Spec.keyOf sAcc 0 (sPtr 0 0 0)) 4 = false ∧
    poisoned ({ sAcc with ecc := [(spKey 0 0 / 8, .poison)] } : State).ecc (Spec.keyOf sAcc 0 (sPtr 0 0 0)) 4 = true := by
  unfold State.clear Spec.allowed
  and_intros <;> decide +kernel

/-- A store of two pieces that lands now. -/
def lands : AEnt := ⟨0, 2, 0, .store 0 .a [(sPtr 0 0 0, [1, 2]), (sPtr 0 0 2, [3])]⟩

theorem wit_StoreLandings :
    ({ sAcc with agenda := [lands] } : State).agenda = lands :: [] ∧ lands.due ≤ sAcc.ccyc ∧
    (lands.ev = .store 0 .a [(sPtr 0 0 0, [1, 2]), (sPtr 0 0 2, [3])]) ∧
    [(sPtr 0 0 0, ([1, 2] : List Byte)), (sPtr 0 0 2, [3])].Pairwise (fun g k =>
      Spec.keyOf sAcc 0 g.1 + g.2.length ≤ Spec.keyOf sAcc 0 k.1 ∨ Spec.keyOf sAcc 0 k.1 + k.2.length ≤ Spec.keyOf sAcc 0 g.1) := by
  and_intros <;> decide +kernel

/-- Core 0 with a launch record and a status word in its OX registers. -/
def sMsg : State := withRegs sAcc fun r => { r with oxA := eight [0x100, sPtr 0 0 0, sPtr 0 0 0x200] }

theorem wit_MessageWords :
    sMsg.clear true ∧ sMsg.cur.half = .a ∧ (vget 0 sMsg.my.regs.oxA 0).extractLsb' 32 32 = 0 ∧
    Spec.allowed sMsg .send 1 256 8 (sPtr 0 0 0) (fun _ => 0) .scratch ∧ sMsg.my.sendBuf.length < 4 ∧
    sMsg.visPoison 0 (sPtr 0 0 0) 256 = none ∧ Spec.allowed sMsg .rcvp 1 8 1 (sPtr 0 6 0) (fun _ => 0) .scratch ∧
    sMsg.my.occupancy 2 0 < 8 ∧ poisoned sMsg.ecc (spKey 0 0x30000) 16 = false ∧ sMsg.read64 (spKey 0 0x30000) = sMsg.read64 (spKey 0 0x30008) ∧
    (sMsg.write64 (spKey 0 0x30000) 1).read64 (spKey 0 0x30000) ≠ (sMsg.write64 (spKey 0 0x30000) 1).read64 (spKey 0 0x30008) ∧
    sMsg.reach 0 0 .load 1 (sPtr 0 0 0) 256 ≠ none ∧ sMsg.reach 0 0 .load 1 (sPtr 0 0 0x200) 8 ≠ none ∧ sPtr 0 0 0 % 64 = 0 ∧
    sPtr 0 0 0x200 % 8 = 0 ∧ sMsg.my.launches.length < 2 ∧ sMsg.orderOk 0 0b11101 = true := by
  unfold State.clear Spec.allowed
  and_intros <;> decide +kernel

/-! ### The vector unit -/

/-- Core 0's X-stream with the vector registers `v0` and `v1` filled. -/
def sVec : State := withRegs sX fun r => { r with v := vput (vput r.v 0 0x3F80000040000000) 1 0x40400000BF800000 }

theorem wit_VectorResults :
    (Spec.vector (.vadd false 2 0 1 16 6)).map (·.modable) = some true ∧ (Spec.vector (.vrng true 15 17)).map (·.base) = some true ∧
    (Spec.vector (.vcvt false 3 0 7 1 16 8)).isSome = true ∧ (Spec.vector (.vexp2 false 3 0 16 7)).isSome = true ∧
    Spec.ready sVec true none ∧ Spec.ready (withX sVec fun t => { t with pending := some md }) false (some md) ∧
    sVec.legalX 1 [] [] ∧ sVec.legalX 1 [31] [] ∧ (16 : BitVec 5).toNat < 24 ∧ (23 : BitVec 5).toNat < 24 ∧
    (vget 0 sVec.my.regs.oxX 7).extractLsb' 48 16 = 0 ∧ sVec.gives false 0 ([] ++ if (16 : BitVec 5) = 16 then [] else [16]) sVec [] ∧
    sVec.gives true 0 ([] ++ if (17 : BitVec 5) = 16 then [] else [17]) sVec [0] := by
  unfold Spec.ready State.legalX State.gives srcOkX dstOkX
  and_intros <;> decide +kernel

theorem wit_VectorOtherResults :
    (Spec.scalarVec (.vredSum false 0 1 16 6)).map (·.lat) = some 8 ∧ (Spec.scalarVec (.vmsk true 0 17 23 4)).isSome = true ∧
    (Spec.scalarVec (.vext false 0 1 16 2)).isSome = true ∧ Spec.ready sVec false none ∧ sVec.legalX 8 [] [1] ∧
    sVec.gives false 1 (if (16 : BitVec 5) = 16 then [] else [16]) sVec [] ∧ sVec.cur.half ≠ .a ∧ sVec.clear true ∧
    (15 : BitVec 5).toNat < 16 ∧ srcOkX sVec.cur.half sVec.my.routineBound 31 ∧
    sVec.gives true 0 (31 :: if (23 : BitVec 5) = 16 then [] else [23]) sVec [0, 0] ∧ ((9 : BitVec 4) = 7 ∨ (9 : BitVec 4) = 8 ∨ (9 : BitVec 4) = 9) := by
  unfold Spec.ready State.clear State.legalX State.gives srcOkX dstOkX
  and_intros <;> decide +kernel

theorem wit_RoundingResults :
    (3 : Nat) ≠ 0 ∧ packIeee f32 .even false (.fin true 3 (-1)) % (256 * 2 ^ (f32.p - 1)) < 255 * 2 ^ (f32.p - 1) ∧
    packIeee bf16 .down false (.fin false 0x10001 (-20)) % (256 * 2 ^ (bf16.p - 1)) < 255 * 2 ^ (bf16.p - 1) ∧
    (0x3F800000 : Nat) < 2 * (256 * 2 ^ (f32.p - 1)) ∧ (0x3F800000 : Nat) % (256 * 2 ^ (f32.p - 1)) < 255 * 2 ^ (f32.p - 1) := by
  decide +kernel

/-! ### Slots and the matrix unit -/

/-- A valid slot entry of a kind at cycle 0. -/
def slotW (kind : Nat) : Word := wd (2 ^ 63 + kind * 2 ^ 60)
/-- A domain with one slot entry of each kind at cycle 0, one of kind 0 each at the cycles 1 and 255, and an invalid one. -/
def bindM (b : Bind) : Bind :=
  { b with slots := [wd (9 * 2 ^ 40 + 0xA08), 0] ++ (List.range 6).map slotW ++
      [wd (2 ^ 63 + 2 ^ 38 + 1), wd (2 ^ 63 + 255 * 2 ^ 38 + 15), 0] }
/-- The octet of core 0: its wheel position, slots 0 and 1 claimed by it and 2 by core 1, accumulators 0 and 1 given. -/
def octM : Octet :=
  { Octet.init with
    wheel := vput Octet.init.wheel 0 0
    slots := [(0, ⟨8, some 0⟩), (1, ⟨1, some 0⟩), (2, ⟨7, some 1⟩)]
    accs := vput (vput Octet.init.accs 0 { Acc.init with owner := some 0 }) 1
      { Acc.init with owner := some 0, live := true, poison := true } }
/-- Core 0's X-stream with parameter words of slot 0, and that octet. -/
def sMat : State :=
  { (withRegs sX fun r => { r with oxX := eight [0, 6 * 2 ^ 16, 2 ^ 16] }).modBind 0 bindM with octets := [(0, octM)] }
/-- The same with an agenda and the octet changed. -/
def matDue (e : Ev) (f : Octet → Octet) : State := { sMat with agenda := [⟨0, 10, 0, e⟩], octets := [(0, f octM)] }

theorem wit_MatrixWords :
    sMat.clear true ∧ sMat.cur.half ≠ .a ∧ Spec.onWheel sMat (Spec.oxOf sMat 0) ∧ Spec.onWheel sMat (Spec.oxOf sMat 1) ∧
    Spec.onWheel sMat (Spec.oxOf sMat 2) ∧ Spec.fieldOf (Spec.oxOf sMat 1) 63 23 = 0 ∧ Spec.fieldOf (Spec.oxOf sMat 1) 19 16 = 6 ∧
    Spec.given sMat 0 ∧ Spec.given sMat 1 ∧ (Spec.accOf sMat 0).live = false ∧ (Spec.accOf sMat 0).poison = false ∧
    Spec.fieldOf (Spec.oxOf sMat 0) 63 16 = 0 ∧ (Spec.opSlot sMat 5).claim = none ∧ (Spec.opSlot sMat 0).claim = some sMat.cur.core ∧
    (Spec.opSlot sMat 1).tag = 1 ∧ poisoned sMat.ecc (Spec.accAt 0 0 0) 128 = false ∧
    Spec.tile (Spec.fieldOf (Spec.oxOf sMat 2) 19 16) (Spec.fieldOf (Spec.oxOf sMat 2) 21 20) (Spec.fieldOf (Spec.oxOf sMat 2) 25 22) ∧
    Spec.fieldOf (Spec.oxOf sMat 2) 63 50 = 0 ∧ Spec.fieldOf (Spec.oxOf sMat 2) 31 26 = 0 ∧
    Spec.fieldOf (Spec.oxOf sMat 2) 49 32 + Spec.tileBytes 0 ≤ 0x40000 ∧
    altHit (sMat.pubs (sMat.bindOf sMat.cur.core)) (sPtr 0 0 0) (Spec.tileBytes 0) = false ∧
    (Spec.accOf sMat 0).sr = false ∧ sMat.mwbReach sMat.ctx 0 (Spec.accOf sMat 0).outBytes = true := by
  unfold State.clear Spec.onWheel Spec.onSlot Spec.ownsWheel Spec.given Spec.tile
  and_intros <;> decide +kernel

theorem wit_MatrixCommands :
    sMat.clear false ∧ Spec.onWheel sMat (Spec.oxOf sMat 0) ∧ Spec.fieldOf (Spec.oxOf sMat 0) 63 32 = 0 ∧
    Spec.fieldOf (Spec.oxOf sMat 0) 23 19 = 0 ∧ (2 : BitVec 2) ≠ 3 ∧ Spec.given sMat 1 ∧ Spec.operand sMat 0 1 8 ∧
    ((Spec.opSlot sMat 0).tag.extractLsb' 0 4).toNat = 8 := by
  unfold State.clear Spec.onWheel Spec.onSlot Spec.ownsWheel Spec.given Spec.operand
  and_intros <;> decide +kernel

theorem wit_SlotsAndMatrixFaults :
    Spec.onSlot sMat 5 5 ∧ Spec.onSlot sMat 0 0 ∧ ¬ (8 < (sMat.bindAt 0).nslot ∧ slotValid 256 ((sMat.bindAt 0).slot 8) = true) ∧
    slotKind ((sMat.bindAt 0).slot 6) = 0 ∧ slotValid 256 ((sMat.bindAt 0).slot 6) = true ∧
    slotValid 256 ((sMat.bindAt 0).slot 7) = true ∧ (sMat.bindAt 0).period = 256 ∧
    (((0 : Int) - slotCyc ((sMat.bindAt 0).slot 7)) % 256).toNat = 1 ∧ 256 ≤ 2 * (((0 : Int) - slotCyc ((sMat.bindAt 0).slot 6)) % 256).toNat ∧
    (Spec.opSlot sMat 2).claim = some 1 ∧ (Spec.opSlot sMat 3).claim ≠ some 0 ∧ (Spec.opSlot sMat 2).tag ≠ 1 ∧
    (Spec.opSlot sMat 2).tag ≠ 8 ∧ ¬ Spec.given sMat 7 ∧ (Spec.accOf sMat 1).poison = true ∧ (Spec.accOf sMat 1).live = true ∧
    ((Spec.opSlot sMat 1).tag.extractLsb' 0 4).toNat < 7 := by
  unfold Spec.onSlot Spec.given
  and_intros <;> decide +kernel

/-- The contents of a zero accumulator. -/
def zeros : List (BitVec 32) := List.replicate 16384 0
/-- A command of one block step with its operands read and an accumulator's contents. -/
def mcmd (acc : List (BitVec 32)) : MCmd :=
  { id := 5, core := 0, bind := 0, issue := 0, zero := false, acc := 0, opa := 0, opb := 0, shape := 1, kb := 1, slack := 16,
    time := 16, stepLen := 16, slotIdx := 0, tagA := 8, tagB := 8,
    got := [(0, ⟨List.replicate 128 [], List.replicate 128 []⟩)], reruns := 0, clash := [], rerunClash := false, bad := false,
    accIn := acc, accBad := false }
/-- A fill, a transpose and a write-back under way. -/
def under (o : Octet) : Octet :=
  { o with fills := [⟨6, 0, 0, 0, [1, 2], []⟩], paths := [⟨7, 0, 0, 1, [1], []⟩], backs := [⟨8, 0, .x, [1, 2], []⟩] }

theorem wit_MatrixUnitEvents :
    (matDue (.mmaWrite 0 5) fun o => { o with cmds := [mcmd zeros] }).agenda = [⟨0, 10, 0, .mmaWrite 0 5⟩] ∧
    (octM.cmds ++ [mcmd zeros]).find? (·.id == 5) = some (mcmd zeros) ∧ (mcmd zeros).accIn.length = 16384 ∧
    (∀ j < (mcmd zeros).kb, ∃ k, tfind (mcmd zeros).got j = some k ∧ k.a.length = 128 ∧ k.b.length = 128) ∧
    tfind ({ mcmd [] with got := [] } : MCmd).got 0 = none ∧ (0 = (mcmd []).reruns ∧ (mcmd []).stepLen ≤ (mcmd []).slack) ∧ sMat.memOk ∧
    ((matDue (.fillRead 0 6 0 (sPtr 0 0 0) 2) under).octet 0).fills = [⟨6, 0, 0, 0, [1, 2], []⟩] ∧
    ((matDue (.mtrDone 0 7) under).octet 0).paths.find? (·.id == 7) = some ⟨7, 0, 0, 1, [1], []⟩ ∧
    ((matDue (.mtrRead 0 7 0 1 0) id).octet 0).paths = [] ∧ ((matDue (.mwbLand 0 8 0 0) under).octet 0).backs = [⟨8, 0, .x, [1, 2], []⟩] ∧
    (vget Acc.init (sMat.octet 0).accs 0).poison = false ∧ poisoned sMat.ecc (Spec.accAt 0 0 0) 0x10000 = false := by
  refine ⟨rfl, rfl, List.length_replicate, ?_, rfl, by decide, by unfold State.memOk; decide +kernel, rfl, rfl, rfl, rfl, by decide +kernel, by decide +kernel⟩
  intro j h
  have h : j < 1 := h
  obtain rfl : j = 0 := by omega
  exact ⟨_, rfl, List.length_replicate, List.length_replicate⟩

/-! ### The Caddy -/

/-- A published buffer of 64 bytes in the scratchpad of core 0. -/
def pub0 : Pub := ⟨wd (sPtr 0 0 0x8000), wd (sPtr 0 0 0x8040), false, false, 64⟩
/-- A schedule entry of core 0's X-stream at slot entry 6, of a kind and with an operand slot. -/
def sched0 (kind slot : Nat) : SchedEnt := ⟨wd (kind * 2 ^ 62 + 2 ^ 27 + 6), wd (sPtr 0 0 0), wd slot, wd 64⟩
/-- Core 0's X-stream with descriptors of `ccopy` (to core 1), `cdist` and `cslot`, a schedule and a published buffer. -/
def sCad : State :=
  (withRegs sMat fun r => { r with oxX := eight [sPtr 0 0 0, sPtr 1 0 0x1000, 256, sPtr 0 0 0x40, 2 ^ 48 + 2 ^ 32 + 0x2000,
    2 ^ 20 + 2 ^ 10, sPtr 0 0 0x80, 2 ^ 16] }).modBind 0 fun b => { b with sched := [sched0 0 0, sched0 3 5], pubs := [pub0] }

theorem wit_TransferWords :
    sCad.clear false ∧ Spec.onSlot sCad 1 (Spec.slotOf sCad 1 1) ∧ Spec.slotLegal 0 3 1 1 ∧ Spec.slotLegal 0 3 0 7 ∧
    sCad.caddySpan 0 0 true (sPtr 0 0 0) 256 = true ∧ sCad.caddySpan 0 0 false (sPtr 1 0 0x1000) 256 = true ∧
    Spec.freeEntry sCad 0 ∧ sCore (sPtr 1 0 0x1000) ≠ 0 ∧ sKind (sPtr 1 0 0x1000) ≠ 4 ∧
    (Spec.fieldOf (Spec.oxOf sCad 4) 63 48 = 1 ∧ 64 * Spec.fieldOf (Spec.oxOf sCad 4) 47 32 = 64 ∧
      Spec.fieldOf (Spec.oxOf sCad 4) 23 18 = 0 ∧ Spec.fieldOf (Spec.oxOf sCad 5) 63 44 = 0 ∧ Spec.fieldOf (Spec.oxOf sCad 5) 25 20 = 1 ∧
      Spec.fieldOf (Spec.oxOf sCad 5) 19 10 = 1 ∧ Spec.fieldOf (Spec.oxOf sCad 5) 43 26 = 0 ∧ Spec.fieldOf (Spec.oxOf sCad 5) 9 0 = 0) ∧
    sCad.caddySpan 0 0 true (sPtr 0 0 0x40) 64 = true ∧ sCad.partOfCore 0 = some 0 ∧ altHit (sCad.pubs 0) (sPtr 0 0 0x2000) 64 = false ∧
    Spec.fieldOf (Spec.oxOf sCad 7) 63 32 = 0 ∧ Spec.fieldOf (Spec.oxOf sCad 7) 15 6 = 0 ∧ (Spec.opSlot sCad 0).claim = some 0 ∧
    Spec.tile (Spec.fieldOf (Spec.oxOf sCad 7) 19 16) (Spec.fieldOf (Spec.oxOf sCad 7) 21 20) (Spec.fieldOf (Spec.oxOf sCad 7) 25 22) ∧
    Spec.fieldOf (Spec.oxOf sCad 7) 31 26 = 0 ∧ sCad.caddySpan 0 0 true (sPtr 0 0 0x80) (Spec.tileBytes 0) = true := by
  unfold State.clear Spec.onSlot Spec.slotLegal Spec.freeEntry Spec.tile
  and_intros <;> decide +kernel

/-- The same with two registers for the plain words: the end of the scratchpad and the buffer's base. -/
def sSeal : State :=
  withX (withRegs sCad fun r => { r with oxX := eight [sPtr 0 0 0x3FFF8, 0, sPtr 0 0 0x8000] }) fun t =>
    { t with caddy := { t.caddy with unsealed := [3], batches := [⟨0, [2], 0, 0⟩] } }
/-- A stream whose sixteen places for released entries are taken, and one whose entry would be posted, the journal full. -/
def sAdv (full away : Bool) : State :=
  (withX sCad fun t => { t with caddy := { t.caddy with released := if full then List.replicate 16 (0, 0) else [] } }).modBind 0
    (fun b => { b with sched := if away then [⟨wd (2 ^ 27 + 6), wd (sPtr 0 0 0), wd (sPtr 1 0 0), wd 64⟩] else b.sched })
    |>.modCore 0 fun k => { k with psj := Vector.ofFn fun _ => { Posted.init with isOpen := true } }

theorem wit_CaddyWords :
    sSeal.clear true ∧ (sPtr 0 0 0x3FFF8 / 2 ^ 40 = 2 ^ 20 ∧ sCore (sPtr 0 0 0x3FFF8) = 0 ∧ sKind (sPtr 0 0 0x3FFF8) = 0 ∧
      sOff (sPtr 0 0 0x3FFF8) + 8 ≤ 0x40000 ∧ sPtr 0 0 0x3FFF8 % 8 = 0 ∧ altHit (sSeal.pubs 0) (sPtr 0 0 0x3FFF8) 8 = false) ∧
    Spec.oxOf sSeal 1 = 0 ∧ sSeal.me.caddy.batches.length = 1 ∧ sSeal.me.caddy.unsealed ≠ [] ∧ sCad.me.caddy.unsealed = [] ∧
    (sSeal.bindAt 0).schedOf 0 .x = [0, 1] ∧ sSeal.me.caddy.released.length < 16 ∧ (sSeal.pubs 0)[0]? = some pub0 ∧
    pub0.base = Spec.oxOf sSeal 2 ∧ sSeal.caddySpan 0 0 true pub0.base.toNat 1 = true ∧ pub0.base.toNat % 64 = 0 ∧
    16 ≤ (sAdv true false).me.caddy.released.length ∧ (sX.bindAt 0).schedOf 0 .x = [] ∧
    Spec.postsAway (sAdv false true) (((sAdv false true).bindAt 0).sched.getD 0 ⟨0, 0, 0, 0⟩) ∧
    (∀ e < 16, (vget Posted.init (sAdv false true).my.psj e).isOpen = true) ∧
    sSeal.caddySpan 0 0 true 0 1 = false ∧ sSeal.caddySpan 0 0 true (sPtr 0 0 0x40) 1 = true ∧
    (∀ q ∈ sSeal.pubs 0, ¬ (q.base = wd (sPtr 0 0 0x40) ∧ q.strs = false)) ∧ sPtr 0 0 0x3FFF8 % 64 ≠ 0 ∧
    sSeal.caddySpan 0 0 true (sPtr 0 0 0x3FFF8) 1 = true ∧ pub0.strs = false ∧ sSeal.orderOk 0 0b01000 = true ∧ sSeal.legalE [] [31] ∧
    sSeal.gives true 31 [] sSeal [] ∧ sSeal.takes 31 (Spec.caddyStatus sSeal.me.caddy) := by
  unfold State.clear State.legalE State.legalX State.legalA State.gives State.takes srcOkX dstOkX srcOkA dstOkA Spec.postsAway
  and_intros <;> decide +kernel

/-- A copy of two beats from `src` to core 0's scratchpad, from which `todo` beats are left. -/
def xf (src dst todo : Nat) (stalled : Option Nat) : Xfer :=
  { id := 9, kind := .copy, core := 0, half := .x, bind := 0, part := 0, issue := 0, issueM := 0, lat := 40, src := wd src,
    dst := wd dst, aux := 0, aux2 := 0, bytes := 512, tag := some 7, dec := false, release := false, posted := none,
    todo := todo, stalled := stalled, installed := false, hostTodo := [1], hostDue := [], failed := 0, failAddr := 0, refused := 0,
    next := 0, linked := [], packetErr := none, fmt := none }
/-- A state with that transfer, one page of host memory, and an overflow item for the addresses above it. -/
def sXf (x : Xfer) : State :=
  { sCad.modBind 0 fun b => { b with pages := [(wd (2 ^ 63 + 2 ^ 60 + 2 ^ 55 + 2 ^ 56), 0)], overflow := [⟨wd (2 ^ 63 + 2 ^ 16), 0, 1⟩] } with
    xfers := [x], cur := { sCad.cur with xfer := 9, beat := 1 } }
/-- The same with a transfer to host memory in a sealed batch, behind one of an earlier batch that writes it too. -/
def sHost (first : List Nat) : State :=
  { (sXf (xf (sPtr 0 0 0) (3 * 2 ^ 60) 2 none)).modStream 0 .x fun t =>
      { t with caddy := { t.caddy with batches := [⟨0, first, 0, 0⟩, ⟨1, [9], 0, 0⟩] } } with
    xfers := [{ xf (sPtr 0 0 0) (3 * 2 ^ 60 + 512) 2 none with id := 8 }, xf (sPtr 0 0 0) (3 * 2 ^ 60) 2 none] }
/-- A state in cycle 1 with a schedule entry released. -/
def sRel (e : Nat) : State :=
  { withX sCad fun t => { t with caddy := { t.caddy with released := [(e, 0)] } } with ccyc := 1 }

/-- The same with a legal copy in the schedule. -/
def sGo : State := (sRel 0).modBind 0 fun b => { b with sched := [sched0 0 (sPtr 0 0 0x1000)] }

/-- The same with the journal full and a copy to core 1, and with one that writes core 1's stage ring behind a transfer. -/
def sAway : State := { withX (sAdv false true) fun t => { t with caddy := { t.caddy with released := [(0, 0)] } } with ccyc := 1 }
/-- A schedule entry that writes stage words of core 1. -/
def schedRing : SchedEnt := ⟨wd (2 ^ 27 + 6), wd (sPtr 0 0 0), wd (sPtr 1 4 0x10000), wd 64⟩
/-- A state in which it is released. -/
def sRing : State := { (sRel 0).modBind 0 fun b => { b with sched := [schedRing] } with xfers := [xf (sPtr 0 0 0) (sPtr 0 0 0x1000) 2 none] }
/-- A state whose F-space page of FP32 elements holds a published buffer's second half at 0x80. -/
def sAlt : State := sCad.modBind 0 fun b => { b with
  pages := [(wd (2 ^ 63 + 2 ^ 55 + 2 ^ 56), wd (6 * 2 ^ 60))], pubs := [⟨wd (3 * 2 ^ 60 + 0x8000), wd (3 * 2 ^ 60 + 0x80), false, false, 64⟩] }

/-- A source outside F-space reads no second half. -/
theorem readsAlt_other (s : State) (k : XKind) (src : Word) (n : Nat) (dec : Bool) (h : ptrTag src.toNat ≠ 3) :
    ¬ Spec.readsAlt s k src n dec := by
  rintro ⟨x, -, -, hs, -, -, hr⟩
  simp [Bind.readsAlt, hs, h] at hr

theorem wit_PublishedSources :
    Spec.readsAlt sAlt .copy (wd (3 * 2 ^ 60)) 256 true ∧ Spec.readsAlt sAlt .slot (wd (3 * 2 ^ 60)) 16384 false ∧
    sAlt.caddySpan 0 0 true (3 * 2 ^ 60) 64 = true ∧ ¬ Spec.readsAlt sCad .copy (wd (sPtr 0 0 0)) 256 false ∧
    ¬ Spec.readsAlt sCad .slot (wd (sPtr 0 0 0x80)) (Spec.tileBytes 0) false ∧
    Spec.offAlt (sXf (xf (3 * 2 ^ 60) (sPtr 0 0 0) 2 none)) 0 (3 * 2 ^ 60 + 256) 256 := by
  refine ⟨⟨{ xf (3 * 2 ^ 60) 0 2 none with bytes := 256, dec := true }, rfl, rfl, rfl, rfl, rfl, by decide +kernel⟩,
    ⟨{ xf (3 * 2 ^ 60) 0 2 none with bytes := 16384, kind := .slot }, rfl, rfl, rfl, rfl, rfl, by decide +kernel⟩,
    by decide +kernel, readsAlt_other _ _ _ _ _ (by decide), readsAlt_other _ _ _ _ _ (by decide), ?_⟩
  unfold Spec.offAlt
  decide +kernel

theorem wit_EntryRuns :
    sAway.entryDue 0 .x = some 0 ∧ Spec.postsAway sAway (((sAway).bindAt 0).sched.getD 0 ⟨0, 0, 0, 0⟩) ∧
    (∀ e < 16, (vget Posted.init sAway.my.psj e).isOpen = true) ∧
    sAway.xferFault (sAway.entryXfer 0 .x 0 (sAway.mcyc 0) ((sAway.bindAt 0).sched.getD 0 ⟨0, 0, 0, 0⟩)) = none ∧
    (sRel 1).xferFault ((sRel 1).entryXfer 0 .x 0 ((sRel 1).mcyc 0) (sched0 3 5)) = none ∧
    sRing.entryDue 0 .x = some 0 ∧ Spec.postsAway sRing schedRing ∧ sKind schedRing.w2.toNat = 4 ∧
    sRing.caddySpan 0 0 false schedRing.w2.toNat 64 = true ∧ Spec.freeEntry sRing 0 ∧ sRing.orderOk 0 0b01000 = false ∧
    (sRing.stream 0 .x).run ∉ [Run.ended, .absent, .stopped] ∧ ¬ Spec.readsAlt sGo .copy (wd (sPtr 0 0 0)) 64 false := by
  unfold Spec.postsAway Spec.freeEntry
  refine ⟨?_, ⟨?_, ?_⟩, ?_, ?_, ?_, ?_, ⟨?_, ?_⟩, ?_, ?_, ?_, ?_, ?_, readsAlt_other _ _ _ _ _ (by decide)⟩
  all_goals decide +kernel

theorem wit_UntimedBeats :
    (sHost [8]).xfers.find? (·.id == 9) = some (xf (sPtr 0 0 0) (3 * 2 ^ 60) 2 none) ∧ (sHost [8]).cur.xfer = 9 ∧
    (sHost [8]).cur.beat = 1 ∧ 1 ∈ (xf (sPtr 0 0 0) (3 * 2 ^ 60) 2 none).hostTodo ∧ (sHost [8]).beatUnderWay 9 1 = false ∧
    1 ∈ (sHost [8]).hostWrites (xf (sPtr 0 0 0) (3 * 2 ^ 60) 2 none) ∧
    (sHost [8]).hostWrites { xf (sPtr 0 0 0) (3 * 2 ^ 60 + 512) 2 none with id := 8 } ≠ [] ∧
    ((sHost [8]).stream 0 .x).caddy.batches = [⟨0, [8], 0, 0⟩] ++ ⟨1, [9], 0, 0⟩ :: [] ∧
    1 ∉ (sXf (xf (3 * 2 ^ 60) (sPtr 0 0 0) 2 none)).hostWrites (xf (3 * 2 ^ 60) (sPtr 0 0 0) 2 none) ∧
    (xf (3 * 2 ^ 60) (sPtr 0 0 0) 2 none).failed = 0 ∧ ptrTag (3 * 2 ^ 60) = 3 ∧ 3 * 2 ^ 60 % 64 = 0 ∧ 512 % 64 = 0 ∧ 256 * 1 < 512 ∧
    ptrTag (sPtr 0 0 0x1000 + 256 * 1) ≠ 3 ∧
    (sXf (xf (3 * 2 ^ 60) (sPtr 0 0 0) 2 (some 1))).missAddr (xf (3 * 2 ^ 60) (sPtr 0 0 0) 2 (some 1)) = none ∧
    (sXf (xf (3 * 2 ^ 60 + 2 ^ 16) (sPtr 0 0 0) 2 (some 1))).missAddr (xf (3 * 2 ^ 60 + 2 ^ 16) (sPtr 0 0 0) 2 (some 1)) ≠ none ∧
    (xf 0 0 2 (some 1)).installed = false ∧ ((sXf (xf 0 0 2 (some 1))).bindAt 0).ending = none ∧ (xf 0 0 2 none).kind ≠ .slot ∧
    (sXf (xf (3 * 2 ^ 60) (sPtr 0 0 0) 2 (some 1))).headDue = none := by
  and_intros <;> decide +kernel

theorem wit_TransferEvents :
    (sXf (xf (sPtr 0 0 0) (sPtr 0 0 0x1000) 2 none)).xfers.find? (·.id == 9) = some (xf (sPtr 0 0 0) (sPtr 0 0 0x1000) 2 none) ∧
    ptrTag (sPtr 0 0 0x1100) = 1 ∧ sKind (sPtr 0 0 0x1100) = 0 ∧ sPtr 0 0 0x1100 % 64 = 0 ∧ (List.replicate 256 (1 : Byte)).length % 64 = 0 ∧
    sOff (sPtr 0 0 0x1100) + 256 ≤ 0x40000 ∧ Spec.unpublished (sXf (xf 0 0 2 none)) 0 (sPtr 0 0 0x1100) 256 ∧
    sCore (sPtr 1 0 0x1100) ≠ (xf 0 0 1 none).core ∧ ((sXf (xf 0 0 2 none)).core 1).bound = none ∧
    (xf (3 * 2 ^ 60) (sPtr 0 0 0x1000) 2 none).hostTodo.Nodup ∧ 256 * 1 < (xf 0 0 2 none).bytes ∧
    (∀ k < 256, (sXf (xf 0 0 2 none)).fByte ⟨0, 0, 0, false, false⟩ ((sXf (xf 0 0 2 none)).fRoute 0 false
      ((3 * 2 ^ 60 + 256 + k / 64 * 64) % 2 ^ 48) + k % 64) true = .byte 0 false) ∧
    (sXf (xf (3 * 2 ^ 60 + 2 ^ 16) (sPtr 0 0 0x1000) 2 (some 0))).missAddr (xf (3 * 2 ^ 60 + 2 ^ 16) (sPtr 0 0 0x1000) 2 (some 0)) = some (2 ^ 16) ∧
    ((sXf (xf 0 0 2 none)).bindAt 0).mode 3 = false ∧ ((sXf (xf 0 0 2 none)).bindAt 0).ending = none ∧
    ((sXf (xf 0 0 2 none)).bindAt 0).overflow.find? (fun it => pageHit (it.w0, it.w1) (2 ^ 16)) = some ⟨wd (2 ^ 63 + 2 ^ 16), 0, 1⟩ ∧
    (∀ e ∈ ((sXf (xf 0 0 2 none)).bindAt 0).window 0, e.1 = 1 ∨ e.2.1.getLsbD 63 = false ∨
      pageBase e.2.1 + pageSize e.2.1 ≤ pageBase (wd (2 ^ 63 + 2 ^ 16)) ∨
      pageBase (wd (2 ^ 63 + 2 ^ 16)) + pageSize (wd (2 ^ 63 + 2 ^ 16)) ≤ pageBase e.2.1) ∧
    (sRel 0).entryDue 0 .x = some 0 ∧
    (sGo.entryDue 0 .x = some 0 ∧ sGo.caddySpan 0 0 true (sched0 0 (sPtr 0 0 0x1000)).w1.toNat 64 = true ∧
      sGo.caddySpan 0 0 false (sched0 0 (sPtr 0 0 0x1000)).w2.toNat 64 = true ∧ sPtr 0 0 0x1000 % 64 = 0) ∧
    (sRel 0).caddySpan 0 0 false (sched0 0 0).w2.toNat 64 = false ∧ Spec.fieldOf (sched0 0 0).w0 63 62 = 0 ∧ ptrTag (sched0 0 0).w2.toNat ≠ 1 ∧
    (sRel 1).entryDue 0 .x = some 1 ∧ 2 ≤ Spec.fieldOf (sched0 3 5).w0 63 62 ∧
    (tget OpSlot.init ((sRel 1).octet 0).slots (Spec.fieldOf (sched0 3 5).w2 5 0)).claim ≠ some 0 ∧ ((sRel 1).stream 0 .x).caddy.err = 0 := by
  unfold Spec.unpublished
  and_intros <;> decide +kernel

/-! ### Stratus -/

/-- A registry entry of a buffer of sixteen beats, in a state, for group 3. -/
def reg0 (st : RegSt) (epoch : Nat) : RegEnt :=
  { st := st, last := 0, epoch := epoch, sbase := wd (3 * 2 ^ 60), dbase := wd (3 * 2 ^ 60 + 2 ^ 20), ord := 0, op := 0, et := 6,
    len := 4096, dln := 2, grp := 3 }
/-- Core 0's X-stream with the descriptors of `sname` of name 1 and a start of name 0, with group 3 of devices 0 and 2. -/
def sStr : State :=
  ((withRegs sMat fun r => { r with oxX := eight [3 * 2 ^ 60, 2 ^ 56 + 6 * 2 ^ 40 + 4096, 3 * 2 ^ 60 + 2 ^ 20, 2 * 2 ^ 16 + 3,
    0, sPtr 0 0 0x200, 2] }).modPart 0 fun p =>
    { p with groups := [(3, [0, 2])], registry := [(0, reg0 .ready 5), (2, reg0 .running 5)] })

theorem wit_StratusWords :
    sStr.clear false ∧ Spec.onSlot sStr 5 (Spec.slotOf sStr 1 5) ∧ Spec.slotLegal 0 4 1 5 ∧
    (let w := Spec.oxOf sStr 1; let f := Spec.fieldOf w
     f 55 52 = 0 ∧ f 51 48 ≤ 3 ∧ f 47 44 ≤ 2 ∧ f 43 40 = 6 ∧ f 39 0 ≠ 0 ∧ f 39 0 % 4096 = 0 ∧ (Spec.entry sStr (f 63 56)).st ≠ .running) ∧
    Spec.fieldOf (Spec.oxOf sStr 3) 63 48 = 0 ∧ Spec.fieldOf (Spec.oxOf sStr 3) 47 16 ≠ 0 ∧
    (Spec.oxOf sStr 0).toNat / 2 ^ 48 = 3 * 2 ^ 12 ∧ (Spec.oxOf sStr 2).toNat / 2 ^ 48 = 3 * 2 ^ 12 ∧
    (Spec.oxOf sStr 2).toNat % 65536 = 0 ∧ tfind (sStr.partAt 0).groups 3 = some [0, 2] ∧ sStr.dev.id ∈ [0, 2] ∧
    Spec.oxOf sStr 4 = 0 ∧ sStr.reach 0 0 .load 1 (sPtr 0 0 0x200) 8 ≠ none ∧ (Spec.entry sStr 0).st = .ready ∧
    (Spec.entry sStr 2).st = .running ∧ Spec.oxOf sStr 6 = 2 ∧ sStr.legalE [] [0] ∧ sStr.gives false 0 [] sStr [] ∧
    sStr.takes 0 (wd (2 * 2 ^ 60 + 5)) ∧ altHit (sStr.pubs (sStr.bindOf 0)) (3 * 2 ^ 60) (Spec.fieldOf (Spec.oxOf sStr 1) 39 0) = false ∧
    altHit (sStr.pubs (sStr.bindOf 0)) (3 * 2 ^ 60 + 2 ^ 20) (Spec.fieldOf (Spec.oxOf sStr 1) 39 0) = false ∧ ptrTag (sPtr 0 0 0x200) = 1 := by
  unfold State.clear Spec.onSlot Spec.slotLegal State.legalE State.legalX State.legalA State.gives State.takes srcOkX dstOkX srcOkA
    dstOkA
  and_intros <;> decide +kernel

/-- A collective of name 2 in group 3, two chunks of sixteen beats, after `votes` votes. -/
def coll0 (v : Verb) (votes : Nat) : Coll :=
  { cmd := { part := 0, nid := 2, core := 0, half := .x, bind := 0, abort := false, verb := v, kind := 0, root := 0,
             cw := wd (sPtr 0 0 0x200), ent := { reg0 .running 5 with len := 8192 } },
    accept := 0, deadline := 2048, extended := false, expired := false, shadow := [], passed := [], written := [], lost := false,
    voted := [], votes := votes, inbox := [], held := [], assisted := false, faultSent := false, lock := none, struck := [], decided := none, entered := none, reported := [], crossed := 0 }
/-- A group of device `src` for that collective. -/
def grp0 (src beat : Nat) : FlitGroup := ⟨4, 0, BitVec.ofNat 32 beat, BitVec.ofNat 16 src, 2, 5, 2⟩
/-- A state of device `id` with that collective, a page of HBM that Stratus may read and write, and an up link that expects
SEQ 4 and holds one group with SEQ 6. -/
def sColl (id : Nat) (k : Coll) : State :=
  let s := sStr.modBind 0 fun b => { b with pages :=
    [(wd (2 ^ 63 + 2 ^ 54 + 2 ^ 55 + 2 ^ 56 + 2 ^ 20), 0), (wd (2 ^ 63 + 2 ^ 54 + 2 ^ 56), 1)] }
  { (s.modPart 0 fun p => { p with keys := [1], pages := [(wd (2 ^ 63 + 2 ^ 56), 0), (wd (2 ^ 63 + 2 ^ 56 + 2 ^ 16), 1)] }) with
    colls := [k], dev := { s.dev with id := id, links := [(0, { Link.init with up := true, rxSeq := 4, replay := [(6, 0, grp0 0 6)] })] } }
/-- What an accepted group of device 2 leaves of the link. -/
def sGot (k : Coll) : State :=
  { sColl 0 k with dev := { (sColl 0 k).dev with links := tset (sColl 0 k).dev.links 0 { (sColl 0 k).link 0 with rxSeq := 5 } },
                   reports := (sColl 0 k).reports ++ [.linkControl 0 false 4] }
/-- The address of line `i` of beat 16 of the destination. -/
def dLine (s : State) (i : Nat) : Nat := s.fRoute 0 true ((3 * 2 ^ 60 + 2 ^ 20 + 256 * 16 + 64 * i) % 2 ^ 48)

/-- The first collective of a state with one is the one that a group names. -/
theorem theColl_of (s : State) (g : FlitGroup) (k : Coll) (h : s.colls = [k]) (hn : Spec.names k g) : Spec.theColl s g k :=
  ⟨[], [], h, hn, fun _ hq => nomatch hq⟩

theorem wit_GroupOfAnother :
    Spec.theColl (sGot (coll0 .sred 15)) (grp0 2 16) (coll0 .sred 15) ∧
    Spec.theColl (sGot (coll0 .sgath 3)) (grp0 2 16) (coll0 .sgath 3) ∧
    Spec.accepted (sColl 0 (coll0 .sred 15)) (grp0 2 16) (sGot (coll0 .sred 15)) ∧
    Spec.groupOf (sGot (coll0 .sred 15)) (coll0 .sred 15) = [0, 2] ∧ Spec.rank [0, 2] 0 = 0 ∧ Spec.rank [0, 2] 2 = 1 ∧
    (∃ j ∈ (coll0 .sred 15).inputs [0, 2] 0 15, [0, 2][j]? = some 2) ∧ (∀ j ∈ (coll0 .sred 15).inputs [0, 2] 0 16, [0, 2][j]? ≠ some 2) ∧
    (coll0 .sgath 3).receives [0, 2] 0 16 = true ∧
    ({ coll0 .sred 3 with cmd := { (coll0 .sred 3).cmd with kind := 1 } } : Coll).receives [0, 2] 0 16 = false ∧
    31 < 8192 / 256 ∧ 8192 / 256 ≤ 32 ∧ Spec.working (sGot (coll0 .sgath 3)) (coll0 .sgath 3) ∧
    ¬ Spec.working (sGot { coll0 .sgath 3 with lost := true }) { coll0 .sgath 3 with lost := true } ∧
    (coll0 .sgath 3).inputs [0, 2] 0 16 = [] ∧ (coll0 .sgath 3).written = [] ∧
    (∀ i < 4, (sGot (coll0 .sgath 3)).translate ⟨0, 0, 0, true, true⟩ (dLine (sGot (coll0 .sgath 3)) i) = .hbm (4096 + 64 * i) 1 ∧
      tget 0 (sGot (coll0 .sgath 3)).unitKeys ((4096 + 64 * i) / 256) = 0) ∧
    (sStr.modPart 0 fun p => { p with keys := [] }).translate ⟨0, 0, 0, true, true⟩ (dLine sStr 0) ≠ .hbm 4096 1 ∧
    Spec.coordinates (sGot (coll0 .sred 15)) (coll0 .sred 15) ∧ (coll0 .sred 15).votes + 1 = 8 * 2 ∧ (coll0 .sred 3).votes + 1 ≠ 8 * 2 ∧
    ¬ Spec.coordinates (sColl 2 (coll0 .sred 15)) (coll0 .sred 15) := by
  refine ⟨theColl_of _ _ _ (by decide +kernel) ?_, theColl_of _ _ _ (by decide +kernel) ?_, ?_⟩
  · unfold Spec.names; decide +kernel
  · unfold Spec.names; decide +kernel
  · unfold Spec.accepted Spec.coordinates Spec.working
    and_intros <;> decide +kernel

/-- A collective whose beats are all folded, passed on and written, some dies having voted. -/
def doneColl (voted : List (Nat × Nat)) : Coll :=
  { coll0 .sred 15 with passed := List.range 32, written := List.range 32, voted := voted }

theorem wit_OwnWork :
    Spec.accepted (sColl 0 (coll0 .sred 3)) (grp0 0 16) (sColl 0 (coll0 .sred 3)) ∧
    Spec.theColl (sColl 0 (coll0 .sred 3)) (grp0 0 16) (coll0 .sred 3) ∧ Spec.working (sColl 0 (coll0 .sred 3)) (coll0 .sred 3) ∧
    ((sColl 0 (coll0 .sred 3)).ownBeat (coll0 .sred 3) 16).isSome = true ∧
    ((coll0 .sred 3).inputs [0, 2] 0 16).mapM ((sColl 0 (coll0 .sred 3)).contribution (coll0 .sred 3) [0, 2] 16) =
      some ((List.replicate 256 0, []) :: []) ∧
    (coll0 .sred 3).parent [0, 2] 0 16 = some 1 ∧ [0, 2].getD 1 0 ≠ 0 ∧
    ((sColl 0 (coll0 .sred 3)).link (tget 0 (sColl 0 (coll0 .sred 3)).dev.routes (16 % 8 * 65536 + 2))).up = true ∧
    (∀ b < 32, b % 8 = 0 → (b ∈ (doneColl []).passed) ∧ b ∈ (doneColl []).written) ∧ (∀ v ∈ (doneColl []).voted, v.1 ≠ 0) ∧
    (∃ v ∈ (doneColl [(0, 5)]).voted, v.1 = 0) ∧ (doneColl []).votes + 1 = 8 * 2 ∧
    Spec.coordinates (sColl 0 (doneColl [])) (doneColl []) ∧ ¬ Spec.coordinates (sColl 2 (doneColl [])) (doneColl []) ∧ (0 : Nat) ≠ 2 ∧
    Spec.theColl (sColl 2 (doneColl [])) (grp0 2 0) (doneColl []) := by
  refine ⟨?_, theColl_of _ _ _ (by decide +kernel) ?_, ?_, ?_, ?_, ?_, ?_, ?_, ?_, ?_, ?_, ?_, ?_, ?_, ?_,
    theColl_of _ _ _ (by decide +kernel) ?_⟩
  all_goals try unfold Spec.names
  all_goals try unfold Spec.accepted
  all_goals try unfold Spec.coordinates
  all_goals try unfold Spec.working
  all_goals try and_intros
  all_goals decide +kernel

theorem wit_EarlyGroups :
    (∀ q ∈ ({ sColl 0 (coll0 .sred 3) with colls := [] } : State).colls, ¬ Spec.names q (grp0 2 16)) ∧
    Spec.accepted (sColl 0 (coll0 .sred 3)) { grp0 0 16 with ep := 6 } (sColl 0 (coll0 .sred 3)) ∧
    ¬ Spec.names (coll0 .sred 3) { grp0 0 16 with ep := 6 } ∧ Spec.tooEarly (sColl 0 (coll0 .sred 3)) { grp0 0 16 with ep := 6 } ∧
    Spec.tooEarly (sColl 0 (coll0 .sred 3)) { grp0 0 16 with ep := 132 } ∧
    ¬ Spec.tooEarly (sColl 0 (coll0 .sred 3)) { grp0 0 16 with ep := 133 } ∧
    Spec.tooEarly (sColl 0 (coll0 .sred 3)) { grp0 0 16 with nid := 9, ep := 1 } ∧
    (tget RegEnt.init ((sColl 0 (coll0 .sred 3)).partAt 0).registry 9).st = .free ∧
    (Spec.byRank (sColl 0 (coll0 .sred 3)) 0 3).head? = some 0 ∧ (sColl 0 (coll0 .sred 3)).dev.early = [] := by
  refine ⟨?_, ?_, ?_, ⟨by decide +kernel, .inl (by decide +kernel)⟩, ⟨by decide +kernel, .inl (by decide +kernel)⟩, ?_,
    ⟨by decide +kernel, .inl (by decide +kernel)⟩, ?_⟩
  · intro q h; exact absurd h (List.not_mem_nil)
  · unfold Spec.accepted; decide +kernel
  · unfold Spec.names; decide +kernel
  · rintro ⟨-, h | ⟨h, -⟩⟩ <;> revert h <;> decide +kernel
  · and_intros <;> decide +kernel

theorem wit_LinkEvents :
    ((sColl 0 (coll0 .sred 0)).link 0).up = true ∧ (((sColl 0 (coll0 .sred 0)).link 0).replay.dropWhile fun r => r.1 != 6) ≠ [] ∧
    (((sColl 0 (coll0 .sred 0)).link 0).replay.dropWhile fun r => r.1 != 7) = [] ∧
    tget 0 ({ Link.init with resends := [(6, 14)] } : Link).resends 6 + 1 < 16 ∧
    ¬ tget 0 ({ Link.init with resends := [(6, 15)] } : Link).resends 6 + 1 < 16 ∧
    (({ sColl 0 (coll0 .sred 0) with ccyc := 3500 } : State).dev.links.find? fun l =>
      l.2.up && !l.2.replay.isEmpty && l.2.lastAck + 3500 * (sColl 0 (coll0 .sred 0)).dev.clock.n / 16 ≤ 3500).isSome = true ∧
    2 ^ 31 ≤ ((3 : BitVec 32) - BitVec.ofNat 32 ((sColl 0 (coll0 .sred 0)).link 0).rxSeq).toNat ∧
    2 ^ 31 ≤ (BitVec.ofNat 32 (2 ^ 31 + 4) - BitVec.ofNat 32 4).toNat ∧ Spec.later 5 4 ∧ ((5 : BitVec 32) - 4).toNat ≠ 2 ^ 31 ∧
    Spec.later 7 6 ∧ ¬ Spec.later 6 6 ∧ Link.init.up = false ∧ Link.init.failed = false ∧ (grp0 2 0).src.toNat ≠ (sColl 0 (coll0 .sred 0)).dev.id ∧
    2 ≤ (({ Link.init with retrains := [0, 1] } : Link).retrains.filter fun c => 2 < c + 3600 * 1750000000 * 16 / 16).length ∧
    15 < 16 ∧ (grp0 0 0).data.getLsbD 32 = false ∧ ({ grp0 0 0 with data := BitVec.ofNat 2048 (2 ^ 32) } : FlitGroup).data.getLsbD 32 = true := by
  unfold Spec.later
  and_intros <;> decide +kernel

/-- A collective that has expired, and one that has been decided and has entered. -/
def lateColl (v : Verb) : Coll := { coll0 v 0 with expired := true, voted := [(3, 0)] }

theorem wit_CollectiveEvents :
    ({ sStr with agenda := [⟨0, 8, 0, .stratus (coll0 .sred 0).cmd⟩] } : State).agenda = ⟨0, 8, 0, .stratus (coll0 .sred 0).cmd⟩ :: [] ∧
    (coll0 .sred 0).cmd.abort = false ∧ (coll0 .sred 0).cmd.kind < 3 ∧ sStr.dev.early = [] ∧
    ({ (coll0 .sred 0).cmd with abort := true } : StratusCmd).abort = true ∧ Spec.coordinates (sColl 0 (coll0 .sred 0)) (coll0 .sred 0) ∧
    (sColl 0 (coll0 .sred 0)).colls = [] ++ coll0 .sred 0 :: [] ∧
    (coll0 .sred 0).deadline ≤ ({ sColl 0 (coll0 .sred 0) with ccyc := 2048 } : State).ccyc ∧
    (coll0 .sred 0).assisted = false ∧ ({ lateColl .sred with assisted := true } : Coll).assisted = true ∧ (lateColl .sred).expired = true ∧
    (lateColl .sred).entered = none ∧ (lateColl .sred).extended = false ∧
    ((3, 0) ∈ (lateColl .sred).voted ∧ 3 ∉ (lateColl .sred).reported ∧ 0 + 2 * (lateColl .sred).cmd.ent.dln * 1024 ≤ 4096) ∧
    (4095 + 1) % 2 ^ Config.cmlog = 0 ∧ ({ coll0 .sred 0 with entered := some 9, decided := some 1 } : Coll).entered ≠ none ∧
    ((sColl 0 (coll0 .sred 0)).bindAt 0).freeze = none ∧ (sColl 0 (coll0 .sred 0)).partOfCore 0 = some 0 := by
  refine ⟨rfl, ?_⟩
  unfold Spec.coordinates
  and_intros <;> decide +kernel

/-! ### The Steep field -/

/-- Core 0's X-stream with the descriptor of `fdecl`, numbers for the other words, and a tile of the domain's field 0. -/
def sTile (f : Tile → Tile) (start : Option Nat) : State :=
  (((withRegs sMat fun r => { r with oxX := eight [lPtr 0 0, 2 ^ 49 + 2 ^ 33 + 2 ^ 17 + 2, 0, lPtr 0 0x1000, sPtr 0 0 0x300, 2, 16, 1] }).modBind
    0 fun b => { b with fields := [{ FieldRun.placed with start := start }], pubs := [⟨wd (lPtr 0 0x1000), wd (lPtr 0 0x2000), false, false, 128⟩],
                        record := [0, 0, 0, 2] }).modCore 0 fun k =>
    { k with tile := f { Tile.placed with cbase := wd (lPtr 0 0x1000), tbase := wd (lPtr 0 0) } })

theorem wit_SteepWords :
    let s := sTile id none
    let t (st : TileSt) : State := sTile (fun k => { k with st := st }) none
    s.clear true ∧ s.cur.half = .x ∧
    (let d := Spec.declared (Spec.oxOf s 0) (Spec.oxOf s 1) (Spec.oxOf s 2) (Spec.oxOf s 3) (Spec.oxOf s 4)
     d.nb ≤ 2 ∧ d.sf ≤ 2 ∧ (d.sf = 1 ↔ d.ncat ≠ 0) ∧ 1 ≤ d.th ∧ 1 ≤ d.tw ∧ d.x0 + d.tw ≤ d.lw ∧ d.y0 + d.th ≤ d.lh ∧
      Spec.inColumn s false d.tbase (Spec.tileSize d) ∧ Spec.inColumn s true d.cbase (32 * (d.th * d.tw)) ∧
      d.tbase.toNat % 32 = 0 ∧ d.cbase.toNat % 32 = 0 ∧ d.sw.toNat / 2 ^ 40 = 2 ^ 20 ∧ sCore d.sw.toNat = 0 ∧ sKind d.sw.toNat = 0 ∧
      sOff d.sw.toNat + 8 ≤ 0x40000 ∧ d.sw.toNat % 8 = 0 ∧ altHit (s.pubs 0) d.sw.toNat 8 = false ∧ d.foreign.length ≤ 2048 ∧
      (s.fieldOf 0 d.fkey).isSome = true ∧ (∀ k ∈ s.fieldCores 0 d.fkey, k ≠ 0 → d.fits (s.core k).tile = true)) ∧
    (t .declared).my.tile.st = .declared ∧ Spec.fieldOf (Spec.oxOf s 5) 2 0 = 2 ∧ (if s.my.tile.nb = 1 then 4 else 2) = 2 ∧ (t .declared).my.tile.wrap = false ∧
    Spec.fieldOf (Spec.oxOf s 7) 31 0 < (s.bindAt 0).klen ∧ s.my.sx.rcnt ≤ 12 ∧ s.my.ql2 = [] ∧ (t .declared).my.tile.colours ≠ 0 ∧
    Spec.fieldOf (Spec.oxOf s 6) 4 0 ≤ 16 ∧ (s.fieldOf 0 0).map (·.rnum) = some 16 ∧ (t .bound).my.tile.rateNext.getD (t .bound).my.tile.rate ≠ 0 ∧
    (s.fieldOf 0 0).map (·.start) = some none ∧ (t .stopping).my.tile.st = .stopping ∧ Spec.pubOf s s.my.tile.cbase 0 ⟨wd (lPtr 0 0x1000), wd (lPtr 0 0x2000), false, false, 128⟩ ∧
    s.orderOk 0 0b01100 = true ∧ (t .faulted).my.tile.st = .faulted ∧ (∀ d ∈ (t .bound).fieldCores 0 0, ((t .bound).core d).tile.st ≠ .running) ∧
    ((sTile id (some 0)).fieldOf 0 0).map (·.start) = some (some 0) ∧ (sTile (fun k => { k with st := .bound, rate := 0 }) none).my.tile.rate = 0 ∧ Spec.slotLegal 3 1 1 1 ∧ Spec.onSlot s 1 (Spec.slotOf s 1 1) ∧ Spec.inColumn s true (Spec.oxOf s 3) 1 ∧
    s.my.tile.snapPend = none ∧ s.my.tile.snapCopy = false ∧ Spec.tileSize s.my.tile ≤ 128 := by
  unfold State.clear Spec.inColumn Spec.pubOf Spec.slotLegal Spec.onSlot
  dsimp only
  and_intros
  all_goals decide +kernel

/-- The sweep stream in an update, with the value 1 in `sw0` and a neighbour's value in the halo. -/
def sUpd (f : Tile → Tile) : State := sW.modCore 0 fun k =>
  { k with sx := Stream.ready, tile := f { k.tile with tbase := wd (lPtr 0 0), cbase := wd (lPtr 0 0x1000) } }

theorem wit_RoutineWords :
    (sUpd id).clear true ∧ (sUpd id).cur.half = .w ∧ (sUpd id).my.routineBound = true ∧ ((sUpd id).siteNow 0).map (·.1) = some 0 ∧
    (sUpd id).my.tile.sf ≤ 2 ∧ (sUpd id).my.occupancy 2 0 < 8 ∧ poisoned (sUpd id).ecc (ptrKey (lPtr 0 0x1000)) 2 = false ∧
    poisoned (sUpd id).ecc (ptrKey (lPtr 0 0)) 1 = false ∧ Spec.beside (sUpd id).my.tile 0 1 = some (1, 0) ∧
    Spec.beside (sUpd id).my.tile 0 0 = none ∧
    Spec.beside (sUpd fun t => { t with lw := 4, x0 := 2, halo := [(1, 5)] }).my.tile 0 0 = some (1, 0) ∧
    tfind ((sUpd fun t => { t with lw := 4, x0 := 2, halo := [(1, 5)] }).my.tile.halo) (0 * 4 + 1) = some 5 ∧
    8 ≤ ((sUpd id).modCore 0 fun k => { k with ql2 := List.replicate 8 qe }).my.occupancy 2 1 ∧
    4 ≤ (sUpd fun t => { t with draws := 4 }).my.tile.draws ∧ srcOkX .w true 0 ∧ (sUpd id).gives true 0 [0] (sUpd id) [0] ∧
    ((sUpd id).core 0).ql2 = [] ∧ (sUpd id).my.tile.routine = .code 0 ∧
    ((sUpd fun t => { t with sf := 1, ncat := 0 }).my.tile.sf = 1 ∧ 0 < (1 : Word).toNat % 256) := by
  unfold State.clear State.gives srcOkX
  and_intros <;> decide +kernel

/-- The last cycle of a colour window: an update that is not finished, or one that is. -/
def sWin (site ccyc : Nat) : State :=
  let s := sUpd fun t => { t with site := site }
  { s with ccyc := ccyc, cur := { s.cur with bind := 0, fkey := 0 } }

/-- The same at the last cycle of the second colour, which is a sweep boundary. -/
def sEnd (flip : Bool) (snap : Option SnapReq) : State :=
  (sWin 4 31).modCore 0 fun k => { k with tile := { k.tile with flipPend := flip, snapPend := snap } }

theorem wit_FieldEvents :
    (sWin 4 15).fieldOf 0 0 = some FieldRun.placed ∧ (sWin 4 15).haloDue 0 FieldRun.placed = true ∧
    (sWin 4 15).overrunAt 0 FieldRun.placed 15 = false ∧ (sWin 4 15).fieldPlace 0 FieldRun.placed 15 = some ⟨15, 0, 0⟩ ∧
    15 + 1 = FieldRun.placed.win ∧ (sWin 0 13).haloDue 0 FieldRun.placed = true ∧ (sWin 0 13).overrunAt 0 FieldRun.placed 13 = true ∧
    (sWin 0 13).windowEnd 0 FieldRun.placed 13 = false ∧ (sWin 0 13).fieldPlace 0 FieldRun.placed 12 = some ⟨12, 0, 0⟩ ∧
    (sWin 0 13).sweepers 0 0 = [0] ∧ ((((sWin 0 13).core 0).tile.nextSite 0 0).isSome = true) ∧ ((sWin 0 13).core 0).sw.run ≠ .stopped ∧ ((sWin 0 13).core 0).sx.run = .due ∧
    (sEnd true none).boundaryDue 0 FieldRun.placed = true ∧ (sEnd true none).fieldOf 0 0 = some FieldRun.placed ∧
    (sEnd true none).sweepers 0 0 = [0] ∧ ((sEnd true none).sweepers 0 0).Nodup ∧ ((sEnd true none).core 0).tile.snapPend = none ∧
    (sEnd true none).swept 0 0 = [0] ∧ ((sEnd false (some ⟨0, true⟩)).core 0).tile.snapPend = some ⟨0, true⟩ ∧
    ((sEnd true none).core 0).tile.st ≠ .undeclared ∧
    ((sEnd true none).modBind 0 fun b => { b with pubs := [⟨wd (lPtr 0 0x1000), 0, false, false, 0⟩] }).pubAt 0 ((sEnd true none).core 0).tile.cbase = some 0 ∧
    ((sUpd fun t => { t with routine := .builtin }).siteNow 0).isSome = true ∧ (sUpd id).my.tile.lastUpdate ≠ (sUpd id).mcyc 0 + 1 := by
  and_intros <;> decide +kernel

/-! ### Domains -/

/-- A state at a domain mark, the domain changed. -/
def sMark (f : Bind → Bind) : State := sX.modBind 0 fun b => f { b with lastMark := 0 }
/-- A freeze whose image is complete in cycle 326. -/
def frz (why : FreezeWhy) (mark : Nat) (restore : Option Nat) : Freeze :=
  { why := why, mark := mark, at_ := 0, waits := [], drain := some 0, saved := true, evicted := false, resumeReq := false, restore := restore,
    heldFor := none }
/-- A frozen domain in a cycle. -/
def sFrz (f : Freeze) (ccyc : Nat) : State :=
  { sX.modBind 0 fun b => { b with st := .frozen, freeze := some f } with ccyc := ccyc }
/-- A merged region of one page at F-space page 1, merged every 1,024 cycles. -/
def mreg : MergeReg := ⟨1, false, 10, 0, 0, 1, 1, 1⟩

theorem wit_DomainMarks :
    (sMark id).domainMarkDue 0 = true ∧ ((sMark id).bindAt 0).fields = [] ∧ ((sMark id).heldCores 0).Nodup ∧
    ((sMark id).bindAt 0).st = .running ∧ ((sMark id).bindAt 0).release = false ∧
    (sMark fun b => { b with st := .held, release := true }).domainMarkDue 0 = true ∧
    ((sMark fun b => { b with fault := some ⟨1, 0, .x, 0, 0, 0⟩ }).bindAt 0).fault ≠ none ∧
    ((sMark fun b => { b with preempt := some 0 }).bindAt 0).preempt ≠ none ∧
    ((sMark fun b => { b with brk := [⟨1, 0, .x, 6⟩, ⟨2, 0, .a, 8⟩] }).bindAt 0).brk = [⟨1, 0, .x, 6⟩, ⟨2, 0, .a, 8⟩] ∧
    ((sMark id).modStream 0 .x fun t => { t with run := .ended }).clean 0 0 = true ∧ (sCad.modStream 0 .x fun t => { t with caddy := { t.caddy with unsealed := [3] } }).clean 0 0 = false ∧
    (sMark fun b => { b with fields := [{ FieldRun.placed with start := none, startReq := true }] }).domainMarkDue 0 = true ∧
    ((sTile (fun k => { k with st := .bound }) none).core 0).tile.st = .bound ∧
    (∃ r ∈ [mreg], 1024 % 2 ^ r.qlog = 0) ∧ ({ sMark id with ccyc := 1024 } : State).mcycOf 0 = 1024 := by
  and_intros <;> decide +kernel

theorem wit_DomainEvents :
    (∀ c ∈ (sX.modStream 0 .x fun t => { t with run := .ended }).heldCores 0, Spec.gone ((sX.modStream 0 .x fun t => { t with run := .ended }).core c).sa ∧
      Spec.gone ((sX.modStream 0 .x fun t => { t with run := .ended }).core c).sx ∧
      ((sX.modStream 0 .x fun t => { t with run := .ended }).core c).tile.sweeping = false) ∧
    (sX.bindAt 0).st = .running ∧ (sX.bindAt 0).ending = none ∧ (0 + 2 ^ 24 ≤ ({ sX with ccyc := 2 ^ 24 } : State).ccyc) ∧
    ((sFrz { frz .brk 0 none with saved := false } 0).bindAt 0).freeze = some { frz .brk 0 none with saved := false } ∧
    Spec.complete (frz .brk 0 none) (327 - 1) ∧ ((sFrz (frz .brk 0 none) 327).bindAt 0).freeze = some (frz .brk 0 none) ∧
    (0 + 327 ≤ 4096 ∧ 4096 % 2 ^ Config.cmlog = (frz .brk 0 (some 0)).mark % 2 ^ Config.cmlog) ∧
    ((sX.modBind 0 fun b => { b with ending := some 2 }).drained 0 = true) ∧
    ((sX.modBind 0 fun b => { b with st := .ended, ended := true }).bindAt 0).st = .ended ∧
    ((sX.modBind 0 fun b => { b with st := .held }).bindAt 0).st = .held ∧
    Spec.firmwareEnds (Bind.placed 0 .x) ⟨2, 0, .x, 0, 0, 0⟩ ∧ ¬ Spec.firmwareEnds (Bind.placed 0 .x) ⟨5, 0, .x, 0, 0, 0⟩ ∧
    Spec.firmwareEnds (Bind.placed 0 .x) ⟨1, 0, .x, 0, 0, 0⟩ ∧
    ¬ Spec.firmwareEnds { Bind.placed 0 .x with record := List.replicate 14 0 ++ [4] } ⟨1, 0, .x, 0, 0, 0⟩ ∧
    ((sColl 0 (coll0 .sred 0)).colls = [coll0 .sred 0] ∧ (coll0 .sred 0).cmd.bind = 0 ∧ (coll0 .sred 0).voted.length < 8 ∧ (coll0 .sred 0).entered = none) := by
  unfold Spec.gone Spec.complete Spec.firmwareEnds
  and_intros
  all_goals first | exact ⟨0, rfl, by decide⟩ | decide +kernel

/-- Task `n` at the merge of interval 1, with the byte 7 written at `a`. -/
def taskAt (n a : Nat) : Bind :=
  { Bind.placed 0 .x with
    st := .frozen, task := n, freeze := some (frz .merge 1024 none), merges := [mreg], view := [⟨1, a, .hbm a 1, [7], []⟩], viewPages := 1,
    pages := [(wd (2 ^ 63 + 2 ^ 55 + 2 ^ 56 + 2 ^ 16), 0)] }
/-- A state with those tasks as its domains. -/
def sMerge (l : List Bind) : State :=
  { (sX.modPart 0 fun p => { p with keys := [1] }) with
    binds := l.zipIdx.map fun b => (b.2, b.1), cur := { sX.cur with part := 0, region := 1 } }

theorem wit_MergeEvents :
    (sMerge [taskAt 1 0x10000]).mergeReady 0 1 = true ∧ (sMerge [taskAt 1 0x10000]).mergeTasks 0 1 = [taskAt 1 0x10000] ∧
    (taskAt 1 0x10000).region 1 = some mreg ∧ tfind (lastBytes ((taskAt 1 0x10000).writesIn mreg)) 0x10000 = some ⟨7, false, .hbm 0x10000 1⟩ ∧
    Spec.spot (.hbm 0x10000 1) = some (hbmKey 0x10000) ∧ tget 0 (sMerge [taskAt 1 0x10000]).unitKeys (0x10000 / 256) = 0 ∧
    conflicts ([taskAt 1 0x10000, taskAt 2 0x10000].map fun k => (k, lastBytes (k.writesIn mreg))) = [(0x10000, [1, 2])] ∧
    (sMerge [taskAt 1 0x10000, taskAt 2 0x10000]).mergeReady 0 1 = true ∧
    (sMerge [taskAt 1 0x10000]).groupEntries 0 1 = [(0, taskAt 1 0x10000)] ∧
    ({ taskAt 1 0x10000 with record := List.replicate 14 0 ++ [128] } : Bind).mode 7 = true ∧
    ({ taskAt 1 0x10000 with fault := some ⟨3, 0, .x, 0, 0, 0⟩ } : Bind).fault.map (·.fc) = some 3 ∧
    ({ taskAt 1 0x10000 with merges := [{ mreg with next := 2 }] } : Bind).waits 1024 = false ∧ Spec.complete (frz .merge 1024 none) 326 := by
  unfold Spec.complete
  and_intros
  all_goals first | exact ⟨0, rfl, by decide⟩ | decide +kernel

/-! ### Launches and tenancy -/

/-- A launch record of one core, pinned to core 0, with its image at 0x1000 and its slot table at 0x1100. -/
def rec0 (sig : Word) : List Word :=
  [wd (2 ^ 56), wd (2 ^ 60), wd 0x1000, 2, 0, wd 0x1100] ++ List.replicate 7 0 ++ [wd (4 * 2 ^ 48)] ++ List.replicate 11 0 ++ [sig] ++
    List.replicate 6 0
/-- The lists of that record. -/
def lists0 : Lists := ⟨[0, 0, 0, 0], [wd (2 ^ 40 + 0x80A), 0, 0], [], [], [], [], [], []⟩
/-- Host memory: the record at 0, its slot table. -/
def host0 (sig : Word) : State :=
  ((sX.write (hostKey 0) ((rec0 sig).map fun w => leBytes 8 w.toNat).flatten).write64 (hostKey 0x1100) (wd (2 ^ 40 + 0x80A)))
/-- A partition that owns octet 0 and a page of host memory, with the record in its queue 3, mapped to window 4. -/
def sQ (sig : Word) : State :=
  { (host0 sig).modPart 0 fun p => { p with pages := [(wd (2 ^ 63 + 2 ^ 60 + 2 ^ 56), 0)], queues := [(3, ⟨0, 2, 0, 1, 1, 0⟩)] } with
    dev := { sX.dev with windows := [(4, (0, 3))] }, cur := { sX.cur with part := 0, window := 5 } }
/-- The signature of the record. -/
def sig0 : Word := signature (rec0 0) lists0 0
/-- The record, accepted. -/
def acc0 : Accepted :=
  { bind := bindOfRecord 0 (.queue 3) (rec0 sig0) lists0, image := [0, 0, 0, 0], prio := 0, queue := 3, status := none,
    statusCore := 0, seq := 0, parent := 0, passed := 0, entry := none }
/-- A held child launch of task 4, under trace 9. -/
def held0 : HeldLaunch := ⟨rec0 0, 0, 4, true, 9, 0⟩
/-- A trace of one entry at 0x2000 in host memory, of a launch of queue 3, and the record that replays it. -/
def recT : List Word := ((rec0 0).set 0 (wd (2 ^ 56 + 2 ^ 50))).set 26 (wd 0x2000)
/-- A state with that trace. -/
def sTrace (origin : Nat) : State :=
  (((sQ 0).write64 (hostKey 0x2000) (wd 1)).write64 (hostKey 0x2008) 0).write64 (hostKey 0x2020) (wd (7 * 2 ^ 48 + origin))
/-- A state whose cores are free, where that record waits. -/
def sWait : State :=
  { (sQ 0).modPart 0 fun p => { p with waiting := [acc0] } with binds := [], cores := [] }
/-- The copies of an evicted domain of one core. -/
def ev0 : Evicted := ⟨64, [], [], [], [], [(0, Core.init)], 0⟩
/-- A record of PRIO 3 that waits in the partition's queue 3 and names the unit of core 0. -/
def acc3 : Accepted := { acc0 with prio := 3, bind := { acc0.bind with record := (acc0.bind.record.set 1 (wd (2 ^ 60))) } }
/-- A state with that record, in which a domain of PRIO 0 runs there. -/
def sVictim : State := { (sQ 0).modPart 0 fun p => { p with waiting := [acc3] } with binds := [(0, Bind.placed 0 .x)], cores := [] }
/-- A state in which an evicted domain is asked to resume. -/
def sEvict : State :=
  { sWait.modPart 0 fun p => { p with waiting := [], eviction := [ev0] } with
    binds := [(64, { Bind.placed 0 .x with freeze := some { frz .preempt 0 none with evicted := true, resumeReq := true } })] }

/-- A partition that is not there. -/
def sNone1 : State := { sQ 0 with cur := { (sQ 0).cur with part := 1 } }

theorem wit_LaunchRecords :
    ((sQ 0).partAt 0).present = true ∧ Spec.queue (sQ 0) 15 = none ∧ Spec.queue (sQ 0) 3 = some ⟨0, 2, 0, 1, 1, 0⟩ ∧
    tfind (sQ 0).dev.windows 31 = none ∧ (∀ e ∈ sX.dev.windows, e.2 ≠ (0, 3)) ∧ ((sQ 0).partAt 0).tdisp = .run ∧
    (∃ e ∈ (sQ 0).dev.windows, e.2 = (0, 3)) ∧ (sQ sig0).fwWords 0 0 32 = some (rec0 sig0) ∧
    (sQ sig0).checkRecord 0 3 (.queue 3) (rec0 sig0) (rec0 sig0) 0 0 none 0 = .inr acc0 ∧ (sQ 0).readLists 0 (rec0 0) = some lists0 ∧
    signature (rec0 0) lists0 0 ≠ (rec0 0).getD 25 0 ∧ (sQ 0).readLists 0 [0, 0, wd 0x100000, 2] = none ∧
    Spec.fieldOf ((0 :: (rec0 0).tail).getD 0 0) 63 56 ≠ 1 ∧
    ((sQ 0).modCore 0 fun k => { k with launches := [held0] }).core 0 = { (sQ 0).core 0 with launches := [held0] } ∧
    (sQ 0).partOfCore 0 = some 0 ∧ (sWait.bindAt 0).st = .free ∧ sWait.candidates = [.record acc0] ∧
    sWait.unitFor acc0 = some (0, 0) ∧ sWait.replayLate acc0 = false ∧ sWait.misfit acc0 0 0 = false ∧
    held0.words.length = 32 ∧ held0.trid < 2 ^ 32 ∧ ((sTrace 0).traceRead 0 ((recT).set 25 0)).map (·.length) = some 1 ∧
    ((sTrace 0).traceRead 0 (recT.set 25 0)).map (fun t => t.map fun e => e.1.toNat % 2 ^ 48) = some [0] ∧ originWord 3 0 0 ≠ 0 ∧
    ((sQ sig0).partAt 0).reset = none ∧ 0 < (1 + 2 ^ 32 - 0) % 2 ^ 32 ∧ (1 + 2 ^ 32 - 0) % 2 ^ 32 < 2 ^ 31 ∧
    sWait.caddyCount 0 = 0 ∧ sWait.cirrusCount 0 = 0 ∧ (rec0 sig0).getD 26 0 = 0 ∧
    ((sEvict.bindAt 64).freeze.map (·.evicted)) = some true ∧
    sEvict.candidates = [.evicted ev0] ∧ sEvict.seatOf (.evicted ev0) = some (0, 0) ∧ (ev0.cores.map (·.1)).Nodup ∧
    sVictim.candidates = [.record acc3] ∧ acc3.prio = 3 ∧ sVictim.unitFor acc3 = none ∧ sVictim.recordUnits acc3 = [(0, 0)] ∧
    (sVictim.partAt 0).holdsUnit acc3.bind.level 0 0 = true ∧ (sVictim.bindAt 0).st = .running ∧
    bindsMeet { acc3.bind with layer := 0, unit := 0 } (sVictim.bindAt 0) = true ∧
    Spec.fieldOf ((sVictim.bindAt 0).rec_ 0) 52 51 ≤ 1 ∧ (∀ c ∈ sVictim.candidates, sVictim.seatOf c = none) ∧
    (∀ c ∈ sWait.candidates, sWait.candPrio c ≠ 3) ∧ (sNone1.partAt 1).present = false := by
  and_intros
  all_goals decide +kernel

/-- A booted device in which `cur` names partition 1, which is not there. -/
def sNone : State := { sX with cur := { sX.cur with part := 1 } }
/-- A configuration of octet 1 with one page of HBM. -/
def cfg1 : PartCfg := ⟨[1], [(wd (2 ^ 63 + 2 ^ 57 + 2 ^ 56), wd (2 ^ 60))], [4], 1, 2, 3, 4, [], 0⟩

theorem wit_TenancyEvents :
    Spec.serves sNone ∧ sNone.cfgOk sNone.cur.part cfg1 = true ∧ (sX.partAt sX.cur.part).present = true ∧
    (sX.partAt sX.cur.part).tdisp = .run ∧
    (sX.partAt sX.cur.part).reset = none ∧ ((sX.modPart 0 fun p => { p with reset := some (4, true) }).partAt 0).reset = some (4, true) ∧
    ((sX.modPart 0 fun p => { p with tdisp := .configUnlocked }).partAt 0).tdisp = .configUnlocked ∧
    ((sX.modPart 0 fun p => { p with tdisp := .configLocked }).partAt 0).tdisp = .configLocked := by
  unfold Spec.serves
  and_intros <;> decide +kernel

/-! ### Endpoints, messages, contrails and pages -/

/-- A directory entry of the name 9: its generation, where it is live, its task and its locations. -/
def dir0 (live : Option Nat) (task : Nat) (locs : List Nat) : Tab DirEnt := [(9, ⟨2, live, task, locs⟩)]
/-- A state with that directory and messages in the network. -/
def sNet (d : Tab DirEnt) (l : List NetMsg) : State :=
  { sAcc.modPart 0 (fun p => { p with directory := d }) with net := l, cur := { sAcc.cur with part := 0 } }
/-- A message of core 1 to the name 9, or a report. -/
def msg (kind gen target hops : Nat) : NetMsg := ⟨0, 1, kind, 9, gen, 0, [5], target, hops, 0⟩
/-- Core 0 with a message in its send buffer, on its partition's token slot. -/
def sSend : State :=
  { (sNet (dir0 (some 0) 1 [0]) []).modCore 0 (fun k => { k with sendBuf := [⟨9, 2, [5], 0, some 0, 0⟩] }) with ccyc := 64 }

theorem wit_MessagesArrive :
    ({ sNet [] [] with agenda := [⟨0, 1, 0, .epnt 0 (wd (2 ^ 61 + 9 * 256))⟩] } : State).agenda =
      [⟨0, 1, 0, .epnt 0 (wd (2 ^ 61 + 9 * 256))⟩] ∧
    Spec.fieldOf (wd (2 ^ 61 + 9 * 256)) 31 8 = 9 ∧ (wd (2 ^ 61 + 9 * 256)).getLsbD 61 = true ∧
    tfind (dir0 (some 1) 1 [1]) 9 = some ⟨2, some 1, 1, [1]⟩ ∧ ((sNet [] []).bindAt 0).task = 1 ∧
    tfind (dir0 none 1 [1]) 9 = some ⟨2, none, 1, [1]⟩ ∧ (dir0 (some 0) 1 [0]).length < 4096 ∧
    sSend.tokenDue 0 = true ∧ sSend.nextSender 0 = some 0 ∧ (sSend.core 0).sendBuf = [⟨9, 2, [5], 0, some 0, 0⟩] ∧
    (sNet (dir0 (some 0) 1 [0]) [msg 0 2 0 0]).arrivalDue = some 0 ∧
    (dir0 (some 0) 1 [0, 3, 0])[0]?.map (·.2.locs[1]?) = some (some 3) ∧ ([0, 3, 0] : List Nat).idxOf 3 = 0 + 1 ∧
    4 ≤ (msg 0 2 3 4).hops ∧ (msg 0 2 0 0).gen = 2 ∧ (msg 0 1 0 0).gen ≠ 2 ∧ Spec.room (sNet [] []) 0 ∧
    ¬ Spec.room ((sNet [] []).write64 (spKey 0 0x30000) 127) 0 ∧
    (((sNet [] []).modCore 0 fun k => { k with ctl := { k.ctl with epSt := 1 } }).core 0).ctl.epSt = 1 ∧
    Spec.endpoint (sNet (dir0 (some 0) 1 [0]) []) 0 ∧ Spec.heldBy (sNet (dir0 (some 0) 1 [0]) []) 0 = some (9, ⟨2, some 0, 1, [0]⟩) ∧
    ¬ Spec.endpoint (sNet [] []) 0 ∧ Spec.backAt { Part.init with reportToken := 2 } 0 68 ∧ Spec.backAt { Part.init with reportToken := 0 } 0 128 ∧
    (msg 1 2 0 0).kind ≠ 0 ∧ (msg 1 2 0 0).name < 2 ^ 24 := by
  unfold Spec.room Spec.endpoint Spec.backAt
  and_intros <;> decide +kernel

/-- Core 1 follows core 0, which issued a word at address 6 in cycle 0 and may have ended with it; its stream is in a state. -/
def sFol (ends : Bool) (run : Run) : State :=
  let s := sX.modStream 0 .x fun t => { t with issued := [⟨0, 6, 0x43, true, ends⟩] }
  { s.modCore 1 fun k => { k with ctl := { k.ctl with role := 2, hop := 1 }, bound := some 0,
                                  sx := { Stream.ready with run := run, follows := true } } with
    ccyc := 1, cur := { sX.cur with core := 1, half := .x } }

theorem wit_ContrailEvents :
    (sFol false .due).followDue 1 .x = true ∧ (sFol true .due).arriving 1 .x = some ⟨0, 6, 0x43, true, true⟩ ∧
    (sFol false .await).followDue 1 .x = true ∧ (sFol false .await).me.run ≠ .due ∧ (sFol true .await).followDue 1 .x = true ∧
    (sFol true .await).me.follows = true ∧ (sFol false .due).mayIssue 1 .x = true ∧
    ((sFol false .due).modCore 1 fun k => { k with tile := { Tile.placed with rate := 16 }, sw := Stream.ready }).mayIssue 1 .x = false := by
  and_intros <;> decide +kernel

theorem wit_HostPageEvents :
    let x := xf (3 * 2 ^ 60 + 2 ^ 17) (sPtr 0 0 0x1000) 2 (some 0)
    (sXf x).xfer (sXf x).cur.xfer = some x ∧ (sXf x).hostMiss x = true ∧
    (∀ e ∈ ((sXf x).bindAt 0).window 0, e.1 ≠ 1 → e.2.1.getLsbD 63 = true →
      pageBase e.2.1 + pageSize e.2.1 ≤ pageBase (wd (2 ^ 63 + 2 ^ 17)) ∨
        pageBase (wd (2 ^ 63 + 2 ^ 17)) + pageSize (wd (2 ^ 63 + 2 ^ 17)) ≤ pageBase e.2.1) ∧
    (0, wd (2 ^ 63 + 2 ^ 60 + 2 ^ 55 + 2 ^ 56), wd 0) ∈ ((sXf x).bindAt 0).window 0 ∧
    pageBase (wd (2 ^ 63 + 2 ^ 60 + 2 ^ 55 + 2 ^ 56)) < pageBase (wd (2 ^ 63)) + pageSize (wd (2 ^ 63)) ∧ ((sXf x).bindAt 0).fault = none ∧
    ((sXf x).bindAt 0).st = .running ∧ ((sXf x).bindAt 0).ending = none := by
  dsimp only
  and_intros <;> decide +kernel

/-! ### Boot, clock, dispatch, soft errors and fabric -/

/-- A firmware image. -/
def img0 : BootImage :=
  { bytes := [1, 2, 3], modulus := 35, exponent := 5, signature := 0, svn := 3, rlvl := 4, trains := true, badCores := [],
    wiring := [(0, (2, 0))], routes := [(0, 2, 0)], code := [] }
/-- The machine in a phase of boot, with the image fetched. -/
def sBoot (phase : Nat) : State :=
  { State.reset with dev := { State.reset.dev with boot := { State.reset.dev.boot with phase := phase, image := some img0 } } }

theorem wit_BootEvents :
    State.reset.dev.boot.phase = 0 ∧ State.reset.dev.fuseMapOk = true ∧ (sBoot 1).dev.boot.phase = 1 ∧
    (sBoot 2).dev.boot.image = some img0 ∧ img0.trains = true ∧ img0.badCores = [] ∧ img0.bytes.length ≤ 2 ^ 24 ∧ ¬ Spec.signed img0 ∧
    (∀ c ∈ img0.badCores ++ (sBoot 4).dev.failing, ¬ Spec.hopeless (sBoot 4) c) ∧
    Spec.hopeless ({ sBoot 4 with dev := { (sBoot 4).dev with fuses := [(33, ⟨true, true, 7⟩)] } } : State) (1, 1, 8) ∧
    ¬ Spec.hopeless ({ sBoot 4 with dev := { (sBoot 4).dev with fuses := [(33, ⟨true, true, 7⟩)] } } : State) (1, 1, 7) ∧
    (sColl 0 (coll0 .sred 0)).dev.boot.phase = 5 ∧ ((sColl 0 (coll0 .sred 0)).link 0).up = true ∧ ((sColl 0 (coll0 .sred 0)).link 0).rxSeq < 2 ^ 32 ∧
    (grp0 2 0).seq - BitVec.ofNat 32 ((sColl 0 (coll0 .sred 0)).link 0).rxSeq = 0 ∧
    ({ grp0 2 0 with seq := 5 } : FlitGroup).seq - BitVec.ofNat 32 ((sColl 0 (coll0 .sred 0)).link 0).rxSeq ≠ 0 ∧ (sBoot 15).dev.boot.phase = 15 ∧
    (sBoot 1).dev.boot.fibre = none ∧ Spec.seconds (sBoot 1) 10 ≤ ({ sBoot 1 with ccyc := 17500000000 } : State).ccyc ∧
    (3 < 4 ∧ 31 < 32 ∧ 32 < 33) ∧ (tget Fuse.init State.reset.dev.fuses 127).skip = false := by
  unfold Spec.hopeless
  and_intros
  all_goals first | exact fun h => absurd h.2 (by decide +kernel) | decide +kernel

/-- Core 0's stream due in the cycle of a chip mark that is not taken. -/
def sChip : State := { sX with dev := { sX.dev with lastChip := 0 } }

theorem wit_ClockEvents :
    Spec.chipMark sChip ∧ Spec.serves sChip ∧ ¬ Spec.chipMark { sChip with dev := { sChip.dev with lastChip := 1, lastClock := 0 } } ∧
    Spec.clockMark { sChip with dev := { sChip.dev with lastChip := 1, lastClock := 0 } } ∧
    ¬ Spec.clockMark { sChip with dev := { sChip.dev with lastChip := 1, lastClock := 1 } } ∧ (∃ e ∈ [(7, List.range 9)], 32 - 24 < e.2.length) ∧
    (8 ≤ 8 ∧ 16 ≤ 16 ∧ 127 < 128 ∧ 31 < 32) ∧ sChip.dev.heaterHost = false ∧
    (Spec.counted { sChip with dev := { sChip.dev with thermal := ⟨100, 0⟩ } } 91 0 3399).upFor = 101 ∧ sChip.dev.clock.n = 16 ∧
    (110 ≤ 110 ∨ 105 ≤ 0) ∧ ¬ (110 ≤ 101 ∨ 105 ≤ 0 ∨ 1000 < (Spec.counted sChip 101 0 0).downFor) := by
  unfold Spec.chipMark Spec.clockMark Spec.serves
  and_intros
  all_goals first | exact ⟨_, List.mem_singleton.2 rfl, by decide⟩ | decide +kernel

/-- A pending domain of core 0 at a chip mark. -/
def sPend : State :=
  { sChip.modCore 0 fun k => { k with bound := none } with
    ccyc := 4096
    binds := [(0, { Bind.init with st := .pending, task := 1, record := rec0 0 })] }

theorem wit_DispatchEvents :
    (let s : State := { sPend with binds := [(0, { Bind.init with st := .running, ended := true })] }
     Spec.chipMark s ∧ (∀ e ∈ s.binds, e.2.st ≠ .pending) ∧ (s.bindAt 0).ended = true ∧ (s.bindAt 0).ending = none ∧
       (s.bindAt 0).st = .running) ∧ Spec.chipMark sPend ∧ sPend.dev.removals = [] ∧ sPend.dev.wavelengths = [] ∧
    ((sPend.binds.filter fun e => e.1 < 64 && e.2.st == .pending).map (·.1)) = [0] ∧ (sPend.bindAt 0).st = .pending ∧
    (sPend.bindAt 0).freeze = none ∧ (sPend.bindAt 0).cores = [0] ∧ Spec.coreDone sPend 0 ∧ (sPend.bindAt 0).cores.Nodup ∧
    (sPend.bindAt 0).boundAt < sPend.ccyc ∧ ¬ Spec.coreDone sX 0 ∧
    (Spec.fieldOf (({ Bind.init with record := List.replicate 13 0 ++ [wd (2 ^ 47)] } : Bind).rec_ 13) 47 40).testBit 7 = true := by
  dsimp only
  unfold Spec.chipMark Spec.coreDone
  and_intros <;> decide +kernel

theorem wit_SoftErrorEvents :
    (63 < 64 ∧ 15 < 16 ∧ 1023 < 1024) ∧ (sAcc.core 0).queue 3 = [qe] ∧ spKey 0 0 / 2 ^ 60 ∈ [1, 2, 3, 4, 6] ∧
    ¬ hostKey 0 / 2 ^ 60 ∈ [1, 2, 3, 4, 6] ∧ tfind sAcc.ecc (spKey 0 0 / 8) = none := by
  and_intros <;> decide +kernel

/-- A fabric of the devices 0, 2 and 3 in which device 2 has missed one heartbeat, and device 3 tells of its link to it. -/
def sCut (works : Bool) : State :=
  { sX with dev := { sX.dev with
    wiring := [(0, 2, 0)], links := [(0, { Link.init with failed := true })]
    fabric := { members := [0, 2, 3], missed := [(2, 1)], dead := [], replaced := [], links := [(3, [(2, works)])], phase := 0, spare := false, lastBeat := 0 } } }
/-- A fabric of the devices 0 and 2, with device 2 dead or having missed two heartbeats. -/
def sFab (dead : List Nat) (phase : Nat) (spare : Bool := false) : State :=
  { sX with dev := { sX.dev with fabric := { members := [0, 2], missed := [(2, 2)], dead := dead, replaced := [], links := [], phase := phase, spare := spare, lastBeat := 0 } } }

theorem wit_FabricEvents :
    (∀ x ∈ (sFab [] 0).dev.fabric.members, (sFab [] 0).dev.id ≤ x) ∧ (sFab [] 0).dev.fabric.members.Nodup ∧
    2 ∈ (sFab [] 0).dev.fabric.members ∧ 2 ∉ (sFab [] 0).dev.fabric.dead ∧ 2 ≠ (sFab [] 0).dev.id ∧
    3 ≤ tget 0 (sFab [] 0).dev.fabric.missed 2 + 1 ∧ (sFab [2] 1).dev.fabric.phase = 1 ∧ 2 ∈ (sFab [2] 1).dev.fabric.dead ∧
    ¬ (∀ x ∈ [0, 2], (5 : Nat) ≤ x) ∧ (sFab [2] 5 true).dev.fabric.spare = true ∧ (sFab [2] 3).dev.id = 0 ∧ (sFab [2] 3).dev.fabric.phase = 3 ∧
    (sCut false).cutOff 2 = true ∧ (sCut true).cutOff 2 = false ∧ (∀ x ∈ [0, 2, 3], (sCut false).dev.id ≤ x) ∧
    tget 0 (sCut false).dev.fabric.missed 2 + 1 < 3 ∧ ([2].filter fun d => !([] : List Nat).contains d) = [2] ∧
    ([2, 3].filter fun d => !([] : List Nat).contains d) = [2, 3] ∧
    Spec.serves sNone ∧ sNone.cfgOk 1 cfg1 = true ∧
    ((sQ 0).partAt 0).pageAt 8 = some (wd (2 ^ 63 + 2 ^ 60 + 2 ^ 56), 0) ∧ (wd (2 ^ 63 + 2 ^ 60 + 2 ^ 56)).getLsbD 60 = true ∧
    (let k : Bind := { Bind.placed 0 .x with level := 5, record := [0, 3], st := .held }
     k.level = 5 ∧ k.ending = none ∧ Spec.fieldOf (k.rec_ 1) 15 0 = 3 ∧ 2 ∈ tget [] (sStr.partAt k.part).groups 3) := by
  dsimp only
  unfold Spec.serves
  and_intros <;> decide +kernel

/-! ### Steps -/

/-- Whether an outcome is a next state. -/
def ran : Host.Outcome State Fault Refusal → Bool
  | .next _ => true
  | _ => false

theorem wit_StepRunsDecodedWord :
    Spec.quiet sX ∧ Spec.first sX 0 .x ∧ (sX.stream 0 .x).taken = none ∧ decodeBytes (Spec.imageAt sX 0 0) = some (decode 4, 2) ∧
    0 + 2 / 2 ≤ (sX.bindAt 0).klen ∧ isWord (decode 4) = true ∧ Spec.quiet (sUpd id) ∧
    Spec.quiet (withX sX fun t => { t with pc := 2 }) ∧ (sX.bindAt 0).klen ≤ (2 : BitVec 32).toNat ∧
    ((State.reset.placeWord (2 ^ 16 + 4)).bindAt 0).klen = 1 + 1 := by
  refine ⟨?_, ⟨⟨[(0, .a)], [(0, .w)], by decide +kernel, by decide +kernel⟩, by decide +kernel, by decide +kernel⟩, ?_⟩
  all_goals (try unfold Spec.quiet)
  all_goals (and_intros <;> decide +kernel)

theorem wit_CycleEnds : sX.nextInput = none ∧ (parked .await).nextAct = none := by
  decide +kernel

theorem wit_EncodingRoundTrip :
    isWord (.addiH false 1 0xF) = true ∧ (Instr.addiH false 1 0xF).wf = true ∧ 0xC016819D < 2 ^ (16 * wordLen 0xC016819D) ∧
    decode 0xC016819D = .amadd false 1 0 2 3 1 24 := by
  decide +kernel

theorem wit_StepKeepsMemoryCanonical : sX.memOk ∧ ran (step sX) = true := by
  unfold State.memOk
  decide +kernel

theorem wit_WordFrame : isWord (decode 4) = true ∧ ran (exec (decode 4) sX) = true := by
  decide +kernel

/-- The values of the three ranks as lists of ranks: on the ring of chunk 0, and in the tree of fan-in 2. -/
def vRing (r : Nat) : List Nat := [[1, 2, 0], [1], [1, 2]].getD r []
/-- The same of the tree. -/
def vTree (r : Nat) : List Nat := [[0, 1, 2], [1], [2]].getD r []
/-- A reduction with an ORD. -/
def redColl (ord : Nat) : Coll := { coll0 .sred 0 with cmd := { (coll0 .sred 0).cmd with ent := { reg0 .running 5 with ord := ord } } }

theorem wit_ReductionOrders :
    (∀ ord ∈ [0, 3], (redColl ord).cmd.verb = .sred ∧ (redColl ord).cmd.ent.ord < 4) ∧
    (∀ r < 3, ∀ v ∈ [(redColl 0, vRing), (redColl 1, vTree)], (v.1.inputs [0, 2, 5] r 0 ≠ []) ∧
      v.2 r = ((v.1.inputs [0, 2, 5] r 0).map fun i => if i = r then [i] else v.2 i).flatten) ∧
    Spec.ring (· ++ ·) (fun i => [i]) 3 0 = vRing 0 ∧ (0x7F800000 < 0x7F800001 % 2 ^ 31 ∧ 0x7F80 < 0xFF81 % 2 ^ 15) := by
  and_intros <;> decide +kernel

/-! ### Landings and what cycles end with -/

theorem wit_Landings :
    (due (.ctl 0 0x04 64)).agenda = [⟨0, 1, 0, .ctl 0 0x04 64⟩] ∧ (due (.release (spKey 0 0x200) 1)).agenda = [⟨0, 1, 0, .release (spKey 0 0x200) 1⟩] ∧
    (due (.rcvp 0 1)).agenda = [⟨0, 1, 0, .rcvp 0 1⟩] ∧ (due (.mirror 0 2 (reg0 .running 5))).agenda = [⟨0, 1, 0, .mirror 0 2 (reg0 .running 5)⟩] ∧
    (∀ e ∈ [Ev.claim 0 1 (some 0), .tag 0 1 8, .accCfg 0 7 0 1 false true, .accCfg 0 0 0 1 true false, .accZero 0 7 (some 0)],
      (due e).agenda = ⟨0, 1, 0, e⟩ :: [] ∧ (⟨0, 1, 0, e⟩ : AEnt).due ≤ (due e).ccyc) ∧ 7 < 8 ∧ 0x10000 = 65536 := by
  and_intros <;> decide +kernel

/-- The state with the published buffer, in which an event lands. -/
def sFlip (e : Ev) : State := { sCad with agenda := [⟨0, 1, 0, e⟩] }

theorem wit_FlipLandings :
    (∀ e ∈ [Ev.flip 0 0, .snapFlip 0 0 0], (sFlip e).agenda = ⟨0, 1, 0, e⟩ :: [] ∧ ((sFlip e).pubs 0)[0]? = some pub0) ∧
    (pub0.base.toNat ≤ sPtr 0 0 0x803F ∧ sPtr 0 0 0x803F < pub0.base.toNat + pub0.len) ∧
    ¬ sPtr 0 0 0x8040 < pub0.base.toNat + pub0.len := by
  and_intros <;> decide +kernel

theorem wit_SiteLandings :
    ({ sUpd id with agenda := [⟨0, 1, 0, .fset 0 0 1⟩] } : State).agenda = ⟨0, 1, 0, .fset 0 0 1⟩ :: [] ∧
    (⟨0, 1, 0, .fset 0 0 1⟩ : AEnt).due ≤ (sUpd id).ccyc ∧ (∃ i v, Ev.fset 0 0 1 = .fset 0 i v ∧ [(0, 1)] = [(i, v.toNat)]) ∧
    ({ sUpd id with agenda := [⟨0, 1, 0, .sitePut 0 [(0, 1), (1, 0)]⟩] } : State).agenda = ⟨0, 1, 0, .sitePut 0 [(0, 1), (1, 0)]⟩ :: [] :=
  ⟨rfl, by decide, ⟨0, 1, rfl, rfl⟩, rfl⟩

theorem wit_ContextLandings :
    (∀ e ∈ [Ev.ctxLine 0 0, .ctxFill 0 15, .ctxSave 0 0, .ctxSave 0 31, .ctxSave 0 11, .ctxLand 0 31 (List.replicate 256 1) [8], .ctxLoad 0 31],
      (due e).agenda = ⟨0, 1, 0, e⟩ :: [] ∧ (⟨0, 1, 0, e⟩ : AEnt).due ≤ (due e).ccyc) ∧
    (∀ j ∈ [0, 7, 8, 9, 10, 11, 12, 13, 14, 15, 16, 31], j < 32 ∧
      (due (.ctxSet 0 j (List.replicate 256 0) [])).agenda = ⟨0, 1, 0, .ctxSet 0 j (List.replicate 256 0) []⟩ :: []) ∧
    (List.replicate 256 (0 : Byte)).length = 256 ∧
    ((sFrz (frz .preempt 0 (some 0)) 0).bindAt (sX.bindOf 0)).freeze = some (frz .preempt 0 (some 0)) ∧
    (frz .preempt 0 (some 0)).restore = some 0 := by
  and_intros <;> decide +kernel

/-- A collective that messages have reached in the cycle. -/
def inColl (inbox : List Nat) (votes : Nat) : Coll := { coll0 .sred votes with inbox := inbox }

theorem wit_CollectiveCloses :
    (∀ k ∈ [inColl [5, 8] 3, inColl [2] 15, inColl [2] 3, { inColl [6] 3 with decided := some 1 }],
      (sColl 0 k).colls = [] ++ k :: [] ∧ k.inbox ≠ [] ∧
      (let b := (sColl 0 k).bindAt k.cmd.bind; b.fault = none ∧ b.ended = false ∧ b.ending = none)) ∧
    Spec.firstStatus [5, 8] = some 2 ∧ Spec.firstStatus [7, 6, 5] = some 3 ∧ Spec.firstStatus [7, 6] = some 4 ∧ Spec.firstStatus [7] = some 5 ∧
    Spec.firstStatus [2] = none ∧ (inColl [2] 15).votes + (inColl [2] 15).inbox.count 2 = 8 * [0, 2].length ∧
    (inColl [2] 3).votes + (inColl [2] 3).inbox.count 2 ≠ 8 * [0, 2].length ∧ ((sColl 0 (inColl [5] 3)).bindAt 0).freeze = none ∧
    (inColl [5] 3).held = [] ∧ (inColl [5] 3).cmd.bind = 0 ∧ ({ inColl [2] 3 with held := [[5]] } : Coll).held = [[5]] ∧
    Spec.firstStatus [5] = some 3 ∧
    (let s := (sColl 0 (inColl [5] 3)).modBind 0 fun b => { b with freeze := some (frz .preempt 0 none) }
     (s.bindAt 0).freeze ≠ none ∧ s.colls = [] ++ inColl [5] 3 :: [] ∧
       (s.bindAt 0).fault = none ∧ (s.bindAt 0).ended = false ∧ (s.bindAt 0).ending = none) := by
  and_intros <;> decide +kernel

/-- An abort of device 0 for the collective, which waits for its start here. -/
def early0 : FlitGroup := { grp0 2 0 with data := 3 }

theorem wit_EarlyAbort :
    (let s : State := { sStr with agenda := [⟨0, 8, 0, .stratus (coll0 .sred 0).cmd⟩], dev := { sStr.dev with early := [(4, early0)] } }
     s.agenda = ⟨0, 8, 0, .stratus (coll0 .sred 0).cmd⟩ :: [] ∧ s.colls = [] ∧ s.dev.early = [(4, early0)]) ∧
    (coll0 .sred 0).cmd.abort = false ∧ (coll0 .sred 0).cmd.kind < 3 ∧ early0.part.toNat = (coll0 .sred 0).cmd.part ∧
    early0.nid.toNat = (coll0 .sred 0).cmd.nid ∧ early0.ep.toNat = (coll0 .sred 0).cmd.ent.epoch % 256 ∧
    (∀ l r : List AEnt, ∀ a : AEnt, [a] = l ++ a :: r → a.ev = .mirror 0 2 (reg0 .running 5) →
      ∀ e ∈ l ++ r, ∀ x, e.ev ≠ .mirror 0 2 x) ∧ (sColl 0 { coll0 .sred 0 with entered := some 0 }).partOfCore 600 ≠ some 0 := by
  refine ⟨by decide +kernel, by decide, by decide, by decide, by decide, by decide, ?_, by decide +kernel⟩
  intro l r a h _ e he
  have h : 1 = l.length + (r.length + 1) := by simpa using congrArg List.length h
  rw [List.length_eq_zero_iff.1 (by omega : l.length = 0), List.length_eq_zero_iff.1 (by omega : r.length = 0)] at he
  cases he

theorem wit_LinkReplays :
    (let k : Link := { Link.init with up := true, acked := 6, txSeq := 7, replay := [(6, 0, grp0 0 6)] }
     k.acked < 2 ^ 32 ∧ k.txSeq < 2 ^ 32 ∧ ¬ Spec.later k.acked 6 ∧ Spec.later k.txSeq 6 ∧ Spec.later k.acked 5 ∧ ¬ Spec.later k.txSeq 7 ∧
     (∃ r ∈ k.replay, r.1 = k.acked) ∧ (k.up && k.acked != k.txSeq && k.lastAck + 3500 * sX.dev.clock.n / 16 ≤ 3500) = true) ∧
    sX.dev.boot.serving = none := by
  unfold Spec.later
  and_intros <;> decide +kernel

/-- Core 0's X-stream while the domain ends, with a transfer on a host page of which one beat has reached the link. -/
def sLink : State := sXf { xf (3 * 2 ^ 60) (sPtr 0 0 0) 2 none with hostTodo := [0, 1], linked := [(0, ⟨[(0, 5)], [], []⟩)] }

theorem wit_LateBeats :
    (let x : Xfer := { xf (3 * 2 ^ 60) (sPtr 0 0 0) 2 none with hostTodo := [0, 1], linked := [(0, ⟨[(0, 5)], [], []⟩)] }
     (sLink.xfers.find? (·.id == 9) = some x ∧ (∀ i ∈ x.hostTodo, i < 1 → ∃ d ∈ x.linked, d.1 = i) ∧ (∀ d ∈ x.linked, d.1 ≠ 1) ∧
      x.linked.find? (·.1 == 0) = some (0, ⟨[(0, 5)], [], []⟩) ∧ (∀ i ∈ x.hostTodo, i < 0 → ∃ d ∈ x.linked, d.1 = i))) ∧
    (sAdv false true).nextInput = none ∧ (∀ n < 16, ¬ Spec.freeEntry (sAdv false true) n) := by
  unfold Spec.freeEntry
  and_intros <;> decide +kernel

/-- A record that is a replay's, with its origin: the trace of `sTrace`, whose signature is the record's. -/
def recR (s : State) : List Word := recT.set 25 (signature (recT.set 25 0) lists0 s.dev.boot.rlvl)
/-- The trace's state with that signature in its header, and a replay that has ended. -/
def sReplay (stopped : Bool) : State :=
  let s := (sTrace (originWord 3 0 0)).write64 (hostKey 0x2008) ((recR (sQ 0)).getD 25 0)
  s.modPart 0 fun p => { p with replays := [(0, ⟨0, [], stopped⟩)] }
/-- A record that waits in a replay, to join its region's group at the entry's merge. -/
def accR (join : Nat) : Accepted :=
  { acc0 with bind := { acc0.bind with merges := [mreg] }, entry := some (0, wd (7 * 2 ^ 48), wd (2 ^ 32 * 0 + join)) }
/-- A state whose cores are free, where that record waits, and whose group has applied some merges. -/
def sLate (join applied : Nat) : State :=
  { (sQ 0).modPart 0 fun p => { p with waiting := [accR join], mergeCount := [(1, applied)] } with binds := [], cores := [] }

theorem wit_Replays :
    (∀ b ∈ [true, false], let s := sReplay b; let r := recR (sQ 0)
      s.readLists 0 r = some lists0 ∧ signature r lists0 s.dev.boot.rlvl = r.getD 25 0 ∧ recordBad r = false ∧
      s.listsBad 0 lists0 (bindOfRecord 0 (.queue 3) r lists0) = false ∧ shapeBad s.dev.id (s.partAt 0) r = false ∧
      (r.getD 0 0).getLsbD 50 = true ∧ ((s.traceRead 0 r).bind (·.head?)).map (fun e => e.1.toNat % 2 ^ 48) = some (originWord 3 0 0) ∧
      (tget Replay.init (s.partAt 0).replays 0).taken = [] ∧ (tget Replay.init (s.partAt 0).replays 0).stopped = b) ∧
    (sLate 1 1).replayLate (accR 1) = true ∧ (sLate 2 1).replayLate (accR 2) = false ∧ (sLate 1 1).candidates = [.record (accR 1)] ∧
    (sLate 1 1).unitFor (accR 1) = some (0, 0) ∧ (accR 1).status = none ∧ (sLate 2 1).misfit (accR 2) 0 0 = false := by
  dsimp only
  and_intros <;> decide +kernel

theorem wit_NoFreeEntry :
    let s : State := { sEvict with binds := sEvict.binds ++ (List.range 64).map fun i => (i, { Bind.placed 0 .x with part := 1, unit := 900 }) }
    s.candidates = [.evicted ev0] ∧ s.candPrio (.evicted ev0) ≠ 3 ∧ (∀ i < 64, ¬ (s.bindAt i).st = .free) ∧
    ((sMark fun b => { b with merges := [mreg], st := .held }).bindAt 0).ended = false := by
  dsimp only
  and_intros <;> decide +kernel

/-- Device 2 with a collective whose partition 0 stops: its link to the coordinator is up. -/
def sQuit : State := (sColl 2 (coll0 .sred 0)).modPart 0 fun p => { p with reset := some (0, false), present := true }

theorem wit_Quits :
    sQuit.runningColls 0 = [coll0 .sred 0] ∧ (Spec.groupOf sQuit (coll0 .sred 0)).headD 0 ≠ sQuit.dev.id ∧
    (sQuit.link (tget 0 sQuit.dev.routes 0)).up = true ∧ ¬ Spec.coordinates sQuit (coll0 .sred 0) ∧
    ({ sQuit with colls := [], agenda := [⟨9, 8, 0, .stratus (coll0 .sred 0).cmd⟩] } : State).runningColls 0 ≠ [] := by
  unfold Spec.coordinates
  and_intros <;> decide +kernel

/-- A device that has asked for an image over fibre 0, of which two beats have come. -/
def sFetch : State :=
  let s := sBoot 1
  { s with dev := { s.dev with
      boot := { s.dev.boot with fibre := some 0, fetched := List.replicate 512 0 }, links := [(0, { Link.init with up := true })] } }
/-- A device in service that answers for its own key digest. -/
def sServe : State :=
  let s := sColl 0 (coll0 .sred 0)
  { s with dev := { s.dev with bootService := true, links := [(0, { Link.init with up := true, rxSeq := 4 })] } }

theorem wit_BootBeats :
    sFetch.dev.boot.phase = 1 ∧ sFetch.dev.boot.fibre ≠ none ∧ sFetch.cur.link = 0 ∧
    256 * ({ grp0 2 2 with seq := 0 } : FlitGroup).beat.toNat = sFetch.dev.boot.fetched.length ∧
    ({ grp0 2 2 with seq := 0 } : FlitGroup).seq - BitVec.ofNat 32 (sFetch.link 0).rxSeq = 0 ∧
    Spec.beatsOf (List.replicate 300 (0 : Byte)) = sFetch.dev.boot.fetched ∧ Spec.beatsOf [1] ≠ sFetch.dev.boot.fetched ∧
    sServe.dev.boot.phase = 5 ∧ sServe.dev.boot.leaving = none ∧ sServe.dev.bootService = true ∧
    (grp0 2 0).data.extractLsb' 16 256 = sServe.dev.boot.keyDigest ∧ (sServe.link sServe.cur.link).up = true ∧
    (grp0 2 0).seq - BitVec.ofNat 32 (sServe.link 0).rxSeq = 0 ∧ (sServe.link 0).acked = (sServe.link 0).txSeq ∧
    (List.replicate 128 (1 : Byte) ≠ [] ∧ 128 % 64 = 0 ∧ 128 ≤ 16512) := by
  and_intros <;> decide +kernel

theorem wit_Heartbeats :
    (let s : State := { sFab [] 0 with ccyc := 2 ^ 30 }
     Spec.serves s ∧ (∀ x ∈ s.dev.fabric.members, s.dev.id ≤ x) ∧
       s.dev.fabric.lastBeat + 175000000 * s.dev.clock.n / 16 ≤ s.ccyc) ∧
    ¬ (sFab [] 0).dev.fabric.lastBeat + 175000000 * (sFab [] 0).dev.clock.n / 16 ≤ (sFab [] 0).ccyc ∧
    (let k : Coll := { coll0 .sred 0 with struck := [(2, 0, 2047)] }
     k.struck = [(2, 0, 2047)] ∧ 2047 < 2048 ∧ 2 ∉ [0] ∧ 2 ∈ [0, 2] ∧ [0, 2].length = [List.replicate 256 (1 : Byte), List.replicate 256 2].length) := by
  unfold Spec.serves
  and_intros <;> decide +kernel

/-! ### Every word of the opcode table, with distinct fields, written from 04's encodings -/

/-- Whether each word decodes to the instruction beside it. -/
def decodes (l : List (Nat × Instr)) : Bool := l.all fun e => decode e.1 == e.2

/-- Words of scalar and control (04 R71 to R91). -/
theorem test_decode_scalar_control_1 : decodes [
    (0x0006, .nop true), (0x5186, .nopHint true 3 5), (0xBF0A, .mod true 1 1 1 1 0xb), (0x518E, .movH true 3 5),
    (0x5192, .addH true 3 5), (0x5196, .subH true 3 5), (0x519A, .andH true 3 5), (0x519E, .orH true 3 5),
    (0x51A2, .xorH true 3 5), (0x51A6, .addiH true 3 5), (0x51AA, .shliH true 3 5), (0x51AE, .shriH true 3 5),
    (0x51B2, .sraiH true 3 5), (0x51B6, .liH true 3 5), (0x51BA, .skipz true 3 5), (0x51BE, .skipnz true 3 5)] = true := by decide +kernel

/-- Words of scalar and control (04 R71 to R91). -/
theorem test_decode_scalar_control_2 : decodes [
    (0x01C2, .setixH true 3), (0x3046, .addixH true 3), (0x004A, .ret true), (0x51CE, .amovH true 3 5),
    (0x51D2, .aaddiH true 3 5), (0x001CA307, .addW true 3 5 7), (0x009CA307, .subW true 3 5 7),
    (0x011CA307, .mul true 3 5 7), (0x019CA307, .mulh true 3 5 7), (0x021CA307, .mulhn true 3 5 7),
    (0x029CA307, .div true 3 5 7), (0x031CA307, .divn true 3 5 7), (0x039CA307, .rem true 3 5 7),
    (0x041CA307, .remn true 3 5 7), (0x049CA307, .andW true 3 5 7), (0x051CA307, .orW true 3 5 7)] = true := by decide +kernel

/-- Words of scalar and control (04 R71 to R91). -/
theorem test_decode_scalar_control_3 : decodes [
    (0x059CA307, .xorW true 3 5 7), (0x061CA307, .andn true 3 5 7), (0x069CA307, .shl true 3 5 7),
    (0x071CA307, .shr true 3 5 7), (0x079CA307, .sra true 3 5 7), (0x081CA307, .cmpeq true 3 5 7),
    (0x089CA307, .cmplt true 3 5 7), (0x091CA307, .cmpltn true 3 5 7), (0x099CA307, .min true 3 5 7),
    (0x0A1CA307, .max true 3 5 7), (0x0A9CA307, .minn true 3 5 7), (0x0B1CA307, .maxn true 3 5 7),
    (0x0B80A307, .abs true 3 5), (0x0C00A307, .neg true 3 5), (0x0C80A307, .clz true 3 5),
    (0x0D00A307, .ctz true 3 5)] = true := by decide +kernel

/-- Words of scalar and control (04 R71 to R91). -/
theorem test_decode_scalar_control_4 : decodes [
    (0x0D80A307, .popc true 3 5), (0x0E1CA307, .sext true 3 5 7), (0x0E9CA307, .zext true 3 5 7),
    (0x0F00A307, .movW true 3 5), (0x049CA30B, .sel true 3 5 7 9), (0x5A3CA30F, .addiW true 3 5 0x168f),
    (0x5A3CA313, .cmpeqi true 3 5 0x168f), (0x5A3CA317, .cmplti true 3 5 0x168f), (0x0380A31B, .shliW true 3 5 7),
    (0x4380A31B, .shriW true 3 5 7), (0x8380A31B, .sraiW true 3 5 7), (0xD1E0031F, .liW true 3 0x3478),
    (0x5A3CA323, .lui true 3 5 0x168f), (0x091CA327, .bfx true 3 5 7 9), (0x091CA32B, .bfi true 3 5 7 9),
    (0x0000A32F, .oxset true 3 5)] = true := by decide +kernel

/-- Words of scalar and control (04 R71 to R91). -/
theorem test_decode_scalar_control_5 : decodes [
    (0xD1E00333, .oxli true 3 0x3478), (0x02800337, .movx true 3 5), (0x42806037, .movxw true 3 5),
    (0x82806037, .setixW true 3 5), (0xC1800037, .addixW true 3), (0xC5A3C147, .br true 0xc5a3c1),
    (0xC5A3C14B, .call4 true 0xc5a3c1), (0xC5A3C14F, .call8 true 0xc5a3c1), (0xC5A3C153, .call12 true 0xc5a3c1),
    (0xD1E06057, .brz true 3 0x3478), (0xD1E0605B, .brnz true 3 0x3478), (0xD1E0035F, .loop true 3 0x3478),
    (0x00006063, .jr true 3), (0x00806063, .callr4 true 3), (0x01006063, .callr8 true 3),
    (0x01806063, .callr12 true 3)] = true := by decide +kernel

/-- Words of scalar and control (04 R71 to R91). -/
theorem test_decode_scalar_control_6 : decodes [
    (0x001CA36B, .aadd true 3 5 7), (0x5A3CA36F, .aaddiW true 3 5 0x168f), (0x0000A373, .amovW true 3 5),
    (0x0000A377, .kset true 3 5)] = true := by decide +kernel

/-- Words of system (04 R71 to R91). -/
theorem test_decode_system_1 : decodes [
    (0x005E, .rpt true), (0x0062, .resync true), (0x01E6, .rejoin 3), (0x006A, .rtt true), (0x306E, .brk true 3),
    (0x0072, .wsave true), (0x0076, .wrest true), (0x01FA, .launch true 3), (0xD1E0033B, .mfs true 3 0x3478),
    (0xD1E0603F, .mts true 3 0x3478), (0x8F040043, .trap true 0x23c1), (0xD1E06067, .hold true 3 0x3478),
    (0x0056, .mark), (0x005A, .await)] = true := by decide +kernel

/-- Words of access (04 R71 to R91). -/
theorem test_decode_access_1 : decodes [
    (0xD1E0037B, .kloop true 3 0x3478), (0x2D1F4D83, .lds true 3 5 7 0x2d1), (0x2D1F4E83, .ldl true 3 5 7 0x2d1),
    (0x2D1F4D87, .sts true 3 5 7 0x2d1), (0x2D1F4E87, .stl true 3 5 7 0x2d1), (0x2D1F4D8B, .vlds true 3 5 7 0x2d1),
    (0x2D1F4E8B, .vldl true 3 5 7 0x2d1), (0x2D1F4D8F, .vsts true 3 5 7 0x2d1), (0x2D1F4E8F, .vstl true 3 5 7 0x2d1),
    (0x8BB3D793, .vgath true 3 5 7 1 0xb 0x8b), (0x8BB3D797, .vscat true 3 5 7 1 0xb 0x8b),
    (0xD10F4D9B, .ldt true 3 5 7 0xd1), (0x6813D79F, .amadd true 3 5 7 1 1 0xd),
    (0x6833D79F, .amswp true 3 5 7 1 1 0xd), (0x7D53D79F, .amcas true 3 5 7 1 1 5 0xf),
    (0x6873D79F, .amand true 3 5 7 1 1 0xd)] = true := by decide +kernel

/-- Words of access (04 R71 to R91). -/
theorem test_decode_access_2 : decodes [
    (0x6893D79F, .amor true 3 5 7 1 1 0xd), (0x6813D7A3, .amminI true 3 5 7 1 1 0xd),
    (0x6833D7A3, .amminN true 3 5 7 1 1 0xd), (0x6853D7A3, .ammaxI true 3 5 7 1 1 0xd),
    (0x6873D7A3, .ammaxN true 3 5 7 1 1 0xd), (0x5811D7A7, .ldacq true 3 5 7 1 0xb),
    (0x5831D7A7, .strel true 3 5 7 1 0xb), (0x184000A7, .fence true 3), (0x38714DA7, .stacq true 3 5 7),
    (0x38914DA7, .strls true 3 5 7), (0x07014DAB, .send true 3 5 7), (0x00214DAB, .rcvp true 3 5)] = true := by decide +kernel

/-- Words of vector (04 R71 to R91). -/
theorem test_decode_vector_1 : decodes [
    (0x0D2753C3, .vadd true 3 5 7 9 3), (0x2D2753C3, .vsub true 3 5 7 9 3), (0x4D2753C3, .vmul true 3 5 7 9 3),
    (0x6D2753C3, .vmin true 3 5 7 9 3), (0x8D2753C3, .vmax true 3 5 7 9 3), (0xA4E053C3, .vabs true 3 5 7 1),
    (0xC4E053C3, .vneg true 3 5 7 1), (0xE12753C3, .vsel true 3 5 7 9), (0x0D2753C7, .vand true 3 5 7 9 3),
    (0x2D2753C7, .vor true 3 5 7 9 3), (0x4D2753C7, .vxor true 3 5 7 9 3), (0x6D2753C7, .vandn true 3 5 7 9 3),
    (0x8D2753C7, .vshl true 3 5 7 9 3), (0xAD2753C7, .vshr true 3 5 7 9 3), (0xCD2753C7, .vsra true 3 5 7 9 3),
    (0x0D2753CB, .vfma true 3 5 7 9 3)] = true := by decide +kernel

/-- Words of vector (04 R71 to R91). -/
theorem test_decode_vector_2 : decodes [
    (0x2D2753CB, .vfms true 3 5 7 9 3), (0x4D2753CB, .vfnma true 3 5 7 9 3), (0x64E530CB, .vredSum true 3 5 7 1),
    (0x64E531CB, .vredMin true 3 5 7 1), (0x64E532CB, .vredMax true 3 5 7 1), (0x8CA003CB, .vrng true 3 5),
    (0xA4E530CB, .vmsk true 3 5 7 1), (0x0D2753CF, .vcmpEq true 3 5 7 9 3), (0x2D2753CF, .vcmpNe true 3 5 7 9 3),
    (0x4D2753CF, .vcmpLt true 3 5 7 9 3), (0x6D2753CF, .vcmpLe true 3 5 7 9 3), (0x0D2753D3, .vperm true 3 5 7 9 3),
    (0x2D2753D3, .vbcast true 3 5 7 9 3), (0x4D2753D3, .vslide true 3 5 7 9 3), (0x64E530D3, .vext true 3 5 7 1),
    (0x84E503D3, .vins true 3 5 7 1)] = true := by decide +kernel

/-- Words of vector (04 R71 to R91). -/
theorem test_decode_vector_3 : decodes [
    (0xA4E503D3, .vsplat true 3 5 7 1), (0x04E053D7, .vrcp true 3 5 7 1), (0x24E053D7, .vrsq true 3 5 7 1),
    (0x44E053D7, .vexp2 true 3 5 7 1), (0x64E053D7, .vlog2 true 3 5 7 1), (0x357753DB, .vcvt true 3 5 7 1 0xb 0xd),
    (0x757753DB, .vscl true 3 5 7 1 0xb 0xd), (0xA4E253DB, .vbpk true 3 5 7), (0xC8E953DB, .vbupk true 3 5 7),
    (0x2D2753DF, .vdot16 true 3 5 7 9 0xb)] = true := by decide +kernel

/-- Words of matrix (04 R71 to R91). -/
theorem test_decode_matrix_1 : decodes [
    (0xA00030E3, .mcfg true 3 5), (0xA80030E3, .mcfgDrop true 3 5), (0xA00181E3, .mclaim true 3 5),
    (0xA00182E3, .mfree true 3 5), (0xA00183E3, .mfill true 3 5), (0x68E2B4E3, .mma true 3 5 7 1 3),
    (0x68E2B5E3, .mmaz true 3 5 7 1 3), (0xA00036E3, .mrd true 3 5), (0xA00037E3, .mwb true 3 5),
    (0xA00038E3, .mzero true 3 5), (0xA00039E3, .mchk true 3 5), (0xE0A18AE3, .mtr true 3 5 7)] = true := by decide +kernel

/-- Words of engines (04 R71 to R91). -/
theorem test_decode_engines_1 : decodes [
    (0xD1F600E7, .ccopy true 3 1 0x68f), (0xD1F601E7, .cdist true 3 1 0x68f), (0xD1F602E7, .cslot true 3 1 0x68f),
    (0x000603E7, .cseal true 3), (0x000034E7, .cchk true 3), (0x000035E7, .cwait 3), (0x000006E7, .cadv true),
    (0x000607E7, .cpub true 3), (0x000038E7, .cstat true 3), (0xD1F600EB, .sname true 3 1 0x68f),
    (0xD1F601EB, .sred true 3 1 0x68f), (0xD1F602EB, .sgath true 3 1 0x68f), (0xD1F603EB, .sbc true 3 1 0x68f),
    (0x000A34EB, .sstat true 3 5), (0xD1F605EB, .sabort true 3 1 0x68f), (0x000600EF, .fdecl true 3)] = true := by decide +kernel

/-- Words of engines (04 R71 to R91). -/
theorem test_decode_engines_2 : decodes [
    (0x000601EF, .fbind true 3), (0x000602EF, .fcol true 3), (0x000603EF, .frate true 3), (0x0007B4EF, .fget true 3),
    (0x000035EF, .fset true 3), (0x000006EF, .fnext true), (0xD1F607EF, .fsnap true 3 1 0x68f),
    (0x000008EF, .fpub true), (0x000009EF, .fstop true), (0x00000AEF, .fgo true)] = true := by decide +kernel

/-! ### Ill-formed terms -/

theorem test_wf_refuses :
    [Instr.nopHint true 0 1, .nopHint true 8 1, .clockStepRequest 7, .clockStepRequest 17, .forcedRefresh 8 0 0,
      .forcedRefresh 0 16 0, .notifyWindowMap 16, .domainEnd 0, .domainEnd 7, .fuseRepair 4 0 0, .fuseRepair 0 32 0,
      .fuseRepair 0 0 33, .wavelengthRemoval 128 0, .wavelengthRemoval 0 32, .launchQueueCreate 16 0 1,
      .launchQueueCreate 0 0 0, .launchQueueCreate 0 0 13, .launchRecordAccept (.queue 16), .launchRecordAccept (.child 4096),
      .partitionCreate ⟨[512], [], [], 0, 0, 0, 0, [], 0⟩, .partitionCreate ⟨[], [], [32], 0, 0, 0, 0, [], 0⟩,
      .partitionCreate ⟨[], [], [], 32, 0, 0, 0, [], 0⟩, .unassignedEncoding .illegal].all (fun i => !i.wf) = true := by
  decide +kernel

theorem test_wf_refuses_errors :
    [SoftError.window 4096 0, .window 0 65536, .sweepWindow 4096 0, .sweepWindow 0 16, .queue 4096 0 0, .queue 0 5 0, .queue 0 0 8,
      .word 1 true, .slot 512 0 0, .slot 0 64 0, .slot 0 0 17408, .array 512, .vector 4096 0 0, .vector 0 16 0, .vector 0 0 1024,
      .unchecked 0 8, .staging 0 2048, .reduction 0 0 0 0 2048, .crossing 0 64].all (fun e => !(Instr.softError e).wf) = true := by
  decide +kernel

/-! ### Single steps, with results worked out by hand or given by the spec -/

/-- Whether an instruction completes and the next state has a property. -/
def after (i : Instr) (s : State) (p : State → Bool) : Bool :=
  match exec i s with
  | .next t => p t
  | _ => false

/-- The results that are under way, by their cycle. -/
def results (s : State) : List (Nat × Ev) := s.agenda.map fun e => (e.due, e.ev)

/-- The largest number plus one is zero, one cycle later (05 R96). -/
theorem test_add_wraps :
    after (.addW false 2 0 1) (withRegs sX fun r => { r with win := vput (vput r.win 0 (wd (2 ^ 64 - 1))) 1 1 })
      (fun t => results t == [(1, .reg 0 .x (.stack 2) 0)]) = true := by
  decide +kernel

/-- A signed compare of -1 and 1 (05 R97). -/
theorem test_cmplt_signed :
    after (.cmplt false 2 0 1) (withRegs sX fun r => { r with win := vput (vput r.win 0 (wd (2 ^ 64 - 1))) 1 1 })
      (fun t => results t == [(1, .reg 0 .x (.stack 2) 1)]) = true := by
  decide +kernel

/-- A fault saves the faulting word's address, turns to privileged mode, and the handler's word at TVEC.BASE + 0x20 CODE
issues two cycles later (09 R188; 09 R187: an illegal instruction has CODE 1). -/
theorem test_trap_entry :
    after (.unassignedEncoding .illegal) (withX sX fun t => { t with pc := 5, traps := { t.traps with tvec := 0x400 } })
      (fun t => t.me.traps.priv && t.me.traps.tpc == 5 && t.me.pc == 0x420 && t.me.wake == 2 && t.me.traps.tcyc == 1) = true := by
  decide +kernel

/-- `trap 3` saves the address of the word after it, with CODE 0x20 and TVAL 3 (09 R191). -/
theorem test_trap_word :
    after (decode 0x000C0043) (State.reset.placeWord 0x000C0043)
      (fun t => t.me.traps.tpc == 2 && t.me.traps.code == 0x20 && t.me.traps.tval == 3) = true := by
  decide +kernel

/-- `rtt` restores the mode and the count, and goes back (09 R190). -/
theorem test_rtt :
    after (.rtt true) (withX (priv sX) fun t => { t with traps := { t.traps with pPriv := false, scnt := 9, tpc := 1 } })
      (fun t => !t.me.traps.priv && t.me.pc == 1 && t.me.scnt == 9 && t.me.wake == 1) = true := by
  decide +kernel

/-- 07 R152's example: the sixteen E4M3 pairs of 03, with `v4` zero. -/
theorem test_vdot16_example :
    after (decode 0x220654DD) (withRegs sX fun r => { r with v := vput (vput r.v 5 0x8308D858) 6 0x39085858 })
      (fun t => match results t with
        | [(6, .vec 0 .x false 4 m v)] => m == BitVec.ofNat 1024 (2 ^ 256 - 1) && v &&& m == 0xBBE00000
        | _ => false) = true := by
  decide +kernel

/-- The value of an element at a rank, as the devices of a group of four fold it, by the values at the ranks. -/
def rankVal (k : Coll) (beat : Nat) (xs : List Nat) : Nat → Nat → Nat
  | 0, r => xs.getD r 0
  | n + 1, r =>
    match (k.inputs [0, 2, 5, 7] r beat).map fun i => if i = r then xs.getD i 0 else rankVal k beat xs n i with
    | [] => 0
    | a :: l => l.foldl (redStep 6 0) a

/-- 18 R314's table: 2^24, 1, 1 and -2^24 by ring in chunks 0 and 3, and by trees of fan-in 2 and 4. -/
theorem test_reduction_orders :
    let xs := [0x4B800000, 0x3F800000, 0x3F800000, 0xCB800000]
    [rankVal (redColl 0) 0 xs 4 0, rankVal (redColl 0) 48 xs 4 3, rankVal (redColl 1) 0 xs 4 0, rankVal (redColl 2) 0 xs 4 0] =
      [0x40000000, 0, 0x3F800000, 0] := by
  decide +kernel

/-- SHA-256 of the three bytes "abc" (the first example of FIPS 180-4). -/
theorem test_sha256_abc : (ofBytes (sha256 [0x61, 0x62, 0x63]).reverse) =
    0xba7816bf8f01cfea414140de5dae2223b00361a396177a9cb410ff61f20015ad := by
  decide +kernel

/-- The CRC-32 of the digits 1 to 9 (18 R311). -/
theorem test_crc32 : crc32 ((List.range 9).map (0x31 + ·)) = 0xCBF43926 := by decide +kernel

/-- A BF16 tie goes to the even significand: 1 + 2^-8 (03 R48). -/
theorem test_bf16_tie : packIeee bf16 .even false (.fin false 257 (-8)) = 0x3F80 := by decide +kernel

/-- A byte store at the last byte of the scratchpad lands there (06 R119). -/
theorem test_store_last_byte :
    after .storeLanding { sAcc with agenda := [⟨0, 2, 0, .store 0 .a [(sPtr 0 0 0x3FFFF, [0xAB])]⟩] }
      (fun t => t.mem.read (spKey 0 0x3FFFF) == 0xAB && t.agenda == []) = true := by
  decide +kernel

/-- A word on its slot in the next cycle slips with cause 1 (02 R38): the slip counter rises (09 R181). -/
theorem test_slip_counts :
    after (.mzero true 0 3) (withRegs sMat fun r => { r with oxX := vput r.oxX 3 6 })
      (fun t => (t.core 0).ctl.slipCnt == 1 && t.agenda == []) = true := by
  decide +kernel

end Sys2Proof.Tests
end

section
/-!
O23 (03 R47 to R49): rounding into FP32 and BF16.

The bits of a magnitude, read as a number, rise with the value they stand for (`magVal_mono`), so the bits `c` and `c + 1`
stand for neighbours of the format. `roundMag` cuts the exact value to the bits `c` with the value in between, and takes
one of the two neighbours (`roundMag_brackets`); every claim about a rounding mode follows from that.
-/

namespace Sys2Proof.Machine

open Sys2Proof.Spec

/-! ### The value of a magnitude's bits -/

/-- The value of the exponent and fraction bits of a format that has no upper bound. -/
def magVal (f : Fmt) (b : Nat) : ℚ :=
  ((b - (b / 2 ^ (f.p - 1) - 1) * 2 ^ (f.p - 1) : Nat) : ℚ) * 2 ^ (f.emin + (b / 2 ^ (f.p - 1) - 1 : Nat))

theorem magVal_nonneg (f : Fmt) (b : Nat) : 0 ≤ magVal f b := by
  unfold magVal; positivity

/-- Bits of binade `k` with significand `r`; `r` may be a whole binade's end, which is the next binade's start. -/
theorem magVal_binade (f : Fmt) {k r : Nat} (hk : k = 0 ∨ 2 ^ (f.p - 1) ≤ r) (hr : r ≤ 2 * 2 ^ (f.p - 1)) :
    magVal f (k * 2 ^ (f.p - 1) + r) = r * 2 ^ (f.emin + k) := by
  unfold magVal
  generalize hP : 2 ^ (f.p - 1) = P at *
  have hpos : 0 < P := hP ▸ Nat.two_pow_pos _
  have hdiv : (k * P + r) / P = k + r / P := by rw [Nat.add_comm, Nat.add_mul_div_right _ _ hpos, Nat.add_comm]
  rcases hr.lt_or_eq with hlt | rfl
  · have hk' : k + r / P - 1 = k := by
      have h2 : r / P < 2 := (Nat.div_lt_iff_lt_mul hpos).2 hlt
      rcases hk with rfl | hle
      · omega
      · have := Nat.div_pos hle hpos
        omega
    rw [hdiv, hk', Nat.add_sub_cancel_left]
  · have hk' : k + 2 * P / P - 1 = k + 1 := by rw [Nat.mul_div_cancel _ hpos]; omega
    have hsub : k * P + 2 * P - (k + 1) * P = P := by
      rw [← Nat.add_mul, ← Nat.sub_mul, show k + 2 - (k + 1) = 1 by omega, Nat.one_mul]
    rw [hdiv, hk', hsub, Nat.cast_add, ← add_assoc, zpow_add₀ two_ne_zero]
    push_cast
    ring

/-- Every bit pattern lies in a binade; the subnormals belong to the first. -/
theorem exists_binade (f : Fmt) (b : Nat) :
    ∃ k r, b = k * 2 ^ (f.p - 1) + r ∧ (k = 0 ∨ 2 ^ (f.p - 1) ≤ r) ∧ r < 2 * 2 ^ (f.p - 1) := by
  generalize hP : 2 ^ (f.p - 1) = P
  have hpos : 0 < P := hP ▸ Nat.two_pow_pos _
  have hmod := Nat.mod_lt b hpos
  have hb : b / P * P + b % P = b := Nat.div_add_mod' b P
  cases hq : b / P with
  | zero => exact ⟨0, b % P, by simpa [hq] using hb.symm, .inl rfl, by omega⟩
  | succ k => exact ⟨k, P + b % P, by rw [hq, Nat.succ_mul] at hb; omega, .inr (by omega), by omega⟩

theorem magVal_mono (f : Fmt) : Monotone (magVal f) := by
  refine monotone_nat_of_le_succ fun b => ?_
  obtain ⟨k, r, rfl, hk, hr⟩ := exists_binade f b
  rw [add_assoc, magVal_binade f hk hr.le, magVal_binade f (hk.imp_right Nat.le_succ_of_le) hr]
  gcongr
  exact Nat.le_succ r

theorem magVal_magBits (f : Fmt) {q : Int} {r : Nat} (hq : f.emin ≤ q) (hn : q = f.emin ∨ 2 ^ (f.p - 1) ≤ r)
    (hr : r ≤ 2 * 2 ^ (f.p - 1)) : magVal f (magBits f (r, q)) = r * 2 ^ q := by
  rw [magBits, magVal_binade f (hn.imp_left fun h => by simp [h]) hr, Int.toNat_of_nonneg (by omega)]
  simp

/-- The number that finite bits stand for: a sign and a magnitude (03 R47, R48). -/
theorem rat_unpackIeee (f : Fmt) {b : Nat} (h : b % (256 * 2 ^ (f.p - 1)) < 255 * 2 ^ (f.p - 1)) :
    rat (unpackIeee f b) =
      (if b / (256 * 2 ^ (f.p - 1)) % 2 = 1 then -1 else 1) * magVal f (b % (256 * 2 ^ (f.p - 1))) := by
  unfold unpackIeee
  generalize b / (256 * 2 ^ (f.p - 1)) % 2 = sgn
  have hpos : 0 < 2 ^ (f.p - 1) := Nat.two_pow_pos _
  rw [← Nat.mod_mul_left_mod b 256, ← Nat.mod_mul_left_div_self]
  generalize b % (256 * 2 ^ (f.p - 1)) = c at *
  have hex : c / 2 ^ (f.p - 1) < 255 := (Nat.div_lt_iff_lt_mul hpos).2 h
  have hfr := Nat.mod_lt c hpos
  have hc : c / 2 ^ (f.p - 1) * 2 ^ (f.p - 1) + c % 2 ^ (f.p - 1) = c := Nat.div_add_mod' c _
  simp only [hex.ne, if_false]
  cases hk : c / 2 ^ (f.p - 1) with
  | zero =>
    have hval : magVal f c = (c % 2 ^ (f.p - 1) : Nat) * 2 ^ f.emin := by
      have := magVal_binade f (k := 0) (.inl rfl) (by omega : c % 2 ^ (f.p - 1) ≤ 2 * 2 ^ (f.p - 1))
      rw [hk] at hc
      rwa [hc, Nat.cast_zero, add_zero] at this
    simp [rat, hval]
  | succ k =>
    have hval : magVal f c = (2 ^ (f.p - 1) + c % 2 ^ (f.p - 1) : Nat) * 2 ^ (f.emin + k) := by
      rw [← magVal_binade f (.inr (Nat.le_add_right _ _)) (by omega), ← add_assoc, ← Nat.succ_mul,
        ← Nat.add_one, ← hk, hc]
    rw [hval, ← mul_assoc]
    simp [rat, ← add_assoc]

theorem abs_rat_unpackIeee (f : Fmt) {b : Nat} (h : b % (256 * 2 ^ (f.p - 1)) < 255 * 2 ^ (f.p - 1)) :
    |rat (unpackIeee f b)| = magVal f (b % (256 * 2 ^ (f.p - 1))) := by
  rw [rat_unpackIeee f h, abs_mul, abs_of_nonneg (magVal_nonneg f _)]
  split <;> simp

/-! ### The significand that rounding starts from -/

/-- The exponent of the last place that the format keeps of `m * 2^e`. -/
def roundExp (f : Fmt) (m : Nat) (e : Int) : Int := max (e + bitLen m - f.p) f.emin

/-- How many low bits of `m` lie below that place. -/
def roundShift (f : Fmt) (m : Nat) (e : Int) : Nat := (roundExp f m e - e).toNat

/-- The significand that is left of `m * 2^e` when those bits are cut off. -/
def truncSig (f : Fmt) (m : Nat) (e : Int) : Nat :=
  if roundExp f m e ≤ e then m * 2 ^ (e - roundExp f m e).toNat else m / 2 ^ roundShift f m e

/-- Whether rounding adds one in the last place. -/
def roundInc (f : Fmt) (r : Rnd) (n : Bool) (m : Nat) (e : Int) : Bool :=
  roundsUp r f.n n (truncSig f m e) (m % 2 ^ roundShift f m e) (roundShift f m e)

theorem lt_two_pow_bitLen {m : Nat} (hm : m ≠ 0) : m < 2 ^ bitLen m := by
  rw [bitLen, if_neg hm]
  exact Nat.lt_log2_self

theorem two_pow_bitLen_le {m k : Nat} (hm : m ≠ 0) (hk : k < bitLen m) : 2 ^ k ≤ m := by
  rw [bitLen, if_neg hm] at hk
  exact (Nat.pow_le_pow_right two_pos (by omega)).trans (Nat.log2_self_le hm)

theorem emin_le_roundExp (f : Fmt) (m : Nat) (e : Int) : f.emin ≤ roundExp f m e := le_max_right _ _

theorem truncSig_lt (f : Fmt) {m : Nat} (e : Int) (hm : m ≠ 0) : truncSig f m e < 2 ^ f.p := by
  have hq : e + bitLen m - f.p ≤ roundExp f m e := le_max_left _ _
  have hlt := lt_two_pow_bitLen hm
  unfold truncSig
  split
  · calc m * 2 ^ (e - roundExp f m e).toNat < 2 ^ bitLen m * 2 ^ (e - roundExp f m e).toNat := by gcongr
      _ = 2 ^ (bitLen m + (e - roundExp f m e).toNat) := (pow_add ..).symm
      _ ≤ 2 ^ f.p := Nat.pow_le_pow_right two_pos (by omega)
  · refine Nat.div_lt_of_lt_mul (hlt.trans_le ?_)
    rw [roundShift, ← pow_add]
    exact Nat.pow_le_pow_right two_pos (by omega)

theorem truncSig_normal (f : Fmt) {m : Nat} (e : Int) (hp : 0 < f.p) (hm : m ≠ 0) :
    roundExp f m e = f.emin ∨ 2 ^ (f.p - 1) ≤ truncSig f m e := by
  refine (max_choice (e + bitLen m - f.p : Int) f.emin).symm.imp id fun (hq : roundExp f m e = _) => ?_
  have hbl : 0 < bitLen m := by simp [bitLen, hm]
  unfold truncSig
  split
  · calc 2 ^ (f.p - 1) = 2 ^ (bitLen m - 1) * 2 ^ (e - roundExp f m e).toNat := by rw [← pow_add]; congr 1; omega
      _ ≤ m * 2 ^ (e - roundExp f m e).toNat := by gcongr; exact two_pow_bitLen_le hm (by omega)
  · rw [Nat.le_div_iff_mul_le (Nat.two_pow_pos _), roundShift, ← pow_add]
    exact two_pow_bitLen_le hm (by omega)

theorem magBits_add (f : Fmt) (a k : Nat) (q : Int) : magBits f (a + k, q) = magBits f (a, q) + k :=
  (Nat.add_assoc ..).symm

/-- A significand that rounds up to the next binade has the bits of the next binade's start. -/
theorem magBits_carry (f : Fmt) {q : Int} (hp : 0 < f.p) (hq : f.emin ≤ q) :
    magBits f (2 ^ (f.p - 1), q + 1) = magBits f (2 ^ f.p, q) := by
  obtain ⟨p, hp⟩ : ∃ p, f.p = p + 1 := ⟨f.p - 1, by omega⟩
  simp only [magBits, hp, Nat.add_sub_cancel, show (q + 1 - f.emin).toNat = (q - f.emin).toNat + 1 by omega]
  ring

theorem roundsUp_zero (r : Rnd) (k : Nat) (n : Bool) (m0 sh : Nat) : roundsUp r k n m0 0 sh = false := by
  cases r <;> simp [roundsUp, (Nat.two_pow_pos sh).ne]

theorem roundMag_exact {f : Fmt} {m : Nat} {e : Int} (h : roundExp f m e ≤ e) (r : Rnd) (n : Bool) :
    roundMag f r n m e = (truncSig f m e, roundExp f m e) := by
  rw [truncSig, if_pos h]
  exact if_pos h

theorem roundMag_cut {f : Fmt} {m : Nat} {e : Int} (h : ¬ roundExp f m e ≤ e) (r : Rnd) (n : Bool) :
    roundMag f r n m e =
      if truncSig f m e + (roundInc f r n m e).toNat = 2 ^ f.p then (2 ^ (f.p - 1), roundExp f m e + 1)
      else (truncSig f m e + (roundInc f r n m e).toNat, roundExp f m e) := by
  rw [roundInc, truncSig, if_neg h]
  refine (if_neg h).trans ?_
  rw [← roundExp, ← roundShift]
  cases roundsUp r f.n n (m / 2 ^ roundShift f m e) (m % 2 ^ roundShift f m e) (roundShift f m e) <;> rfl

/-- The bits of the rounded magnitude are those of the significand left, or the next. -/
theorem magBits_roundMag (f : Fmt) (r : Rnd) (n : Bool) (m : Nat) (e : Int) (hp : 0 < f.p) :
    magBits f (roundMag f r n m e) = magBits f (truncSig f m e, roundExp f m e) + (roundInc f r n m e).toNat := by
  by_cases hle : roundExp f m e ≤ e
  · have hsh : roundShift f m e = 0 := Int.toNat_of_nonpos (by omega)
    rw [roundMag_exact hle]
    simp [roundInc, hsh, Nat.mod_one, roundsUp_zero]
  · rw [roundMag_cut hle]
    split
    next ha => rw [magBits_carry f hp (emin_le_roundExp f m e), ← ha, magBits_add]
    next => rw [magBits_add]

/-- What is kept and what is cut off make up the exact magnitude. -/
theorem truncSig_add_rest (f : Fmt) (m : Nat) (e : Int) :
    (m : ℚ) * 2 ^ e =
      (truncSig f m e + (m % 2 ^ roundShift f m e : Nat) / 2 ^ roundShift f m e) * 2 ^ roundExp f m e := by
  by_cases hle : roundExp f m e ≤ e
  · have hsh : roundShift f m e = 0 := Int.toNat_of_nonpos (by omega)
    have hexp : (2 : ℚ) ^ e = 2 ^ (e - roundExp f m e).toNat * 2 ^ roundExp f m e := by
      rw [← zpow_natCast, ← zpow_add₀ two_ne_zero]
      congr 1
      omega
    simp [hsh, Nat.mod_one, truncSig, hle, hexp, mul_assoc]
  · have hulp : (2 : ℚ) ^ roundExp f m e = 2 ^ roundShift f m e * 2 ^ e := by
      rw [roundShift, ← zpow_natCast, ← zpow_add₀ two_ne_zero]
      congr 1
      omega
    have hm : (m : ℚ) = (m / 2 ^ roundShift f m e : Nat) * 2 ^ roundShift f m e + (m % 2 ^ roundShift f m e : Nat) := by
      exact_mod_cast (Nat.div_add_mod' m _).symm
    rw [truncSig, if_neg hle, hulp, ← mul_assoc, add_mul, div_mul_cancel₀ _ (by positivity), ← hm]

/-! ### Which of the two neighbours a mode takes -/

/-- The modes that take the neighbour nearer to zero, for a sign (03 R49). -/
def Rnd.inward (r : Rnd) (n : Bool) : Bool :=
  match r with
  | .zero => true
  | .up => n
  | .down => !n
  | _ => false

/-- The modes that take the neighbour farther from zero, for a sign (03 R49). -/
def Rnd.outward (r : Rnd) (n : Bool) : Bool :=
  match r with
  | .up => !n
  | .down => n
  | _ => false

theorem Rnd.inward_of_outward {r : Rnd} {n : Bool} (h : r.outward n) : r.inward n = false := by
  cases r <;> simp_all [Rnd.outward, Rnd.inward]

theorem roundsUp_inward {r : Rnd} {n : Bool} (h : r.inward n) (k m0 rem sh : Nat) :
    roundsUp r k n m0 rem sh = false := by
  cases r <;> simp_all [Rnd.inward, roundsUp]

theorem roundsUp_outward {r : Rnd} {n : Bool} (h : r.outward n) (k m0 rem sh : Nat) :
    roundsUp r k n m0 rem sh = (rem != 0) := by
  cases r <;> simp_all [Rnd.outward, roundsUp]

theorem le_of_roundsUp_even {k m0 rem sh : Nat} {n : Bool} (h : roundsUp .even k n m0 rem sh = true) :
    2 ^ sh ≤ rem * 2 := by
  simp only [roundsUp, Bool.or_eq_true, Bool.and_eq_true, decide_eq_true_eq, beq_iff_eq] at h
  omega

theorem le_of_not_roundsUp_even {k m0 rem sh : Nat} {n : Bool} (h : roundsUp .even k n m0 rem sh = false) :
    rem * 2 ≤ 2 ^ sh := by
  simp only [roundsUp, Bool.or_eq_false_iff, decide_eq_false_iff_not] at h
  omega

/-- The bits `B` are a rounding of the magnitude `x` in the mode `r`: `x` lies between the values of the neighbours `c` and
`c + 1`, and `B` is the one that the mode takes. -/
structure Brackets (f : Fmt) (r : Rnd) (n : Bool) (x : ℚ) (c B : Nat) : Prop where
  lower : magVal f c ≤ x
  upper : x < magVal f (c + 1)
  pick : (B = c ∧ (r = .even → x - magVal f c ≤ magVal f (c + 1) - x) ∧ (r.outward n → x = magVal f c)) ∨
    (B = c + 1 ∧ magVal f c < x ∧ (r = .even → magVal f (c + 1) - x ≤ x - magVal f c) ∧ ¬ r.inward n)

/-- A rest of `rem / 2^sh` of the step `u` between two neighbours, rounded by `roundsUp`. -/
theorem brackets_of_rest {f : Fmt} {r : Rnd} {n : Bool} {x u : ℚ} {c B k m0 rem sh : Nat} (hu : 0 < u)
    (hrem : rem < 2 ^ sh) (hx : x = magVal f c + rem / 2 ^ sh * u) (hc : magVal f (c + 1) = magVal f c + u)
    (hB : B = c + (roundsUp r k n m0 rem sh).toNat) : Brackets f r n x c B := by
  have hpow : (0 : ℚ) < 2 ^ sh := by positivity
  have hrest : (rem : ℚ) / 2 ^ sh < 1 := (div_lt_one hpow).2 (by exact_mod_cast hrem)
  have hbelow : x - magVal f c = rem / 2 ^ sh * u := by rw [hx]; ring
  have habove : magVal f (c + 1) - x = (1 - rem / 2 ^ sh) * u := by rw [hx, hc]; ring
  refine ⟨sub_nonneg.1 (hbelow ▸ by positivity), sub_pos.1 (habove ▸ mul_pos (sub_pos.2 hrest) hu), ?_⟩
  rw [hbelow, habove]
  cases hup : roundsUp r k n m0 rem sh with
  | false =>
    refine .inl ⟨by simpa [hup] using hB, ?_, fun hout => ?_⟩
    · rintro rfl
      have hhalf : (rem : ℚ) * 2 ≤ 2 ^ sh := by exact_mod_cast le_of_not_roundsUp_even hup
      have : (rem : ℚ) / 2 ^ sh ≤ 1 / 2 := (div_le_iff₀ hpow).2 (by linarith)
      gcongr
      linarith
    · rw [roundsUp_outward hout, bne_eq_false_iff_eq] at hup
      simpa [hup] using hx
  | true =>
    refine .inr ⟨by simpa [hup] using hB, ?_, ?_, fun hin => ?_⟩
    · have hpos : 0 < rem := Nat.pos_of_ne_zero fun h0 => by simp [h0, roundsUp_zero] at hup
      exact sub_pos.1 (hbelow ▸ by positivity)
    · rintro rfl
      have hhalf : (2 : ℚ) ^ sh ≤ rem * 2 := by exact_mod_cast le_of_roundsUp_even hup
      have : 1 / 2 ≤ (rem : ℚ) / 2 ^ sh := (le_div_iff₀ hpow).2 (by linarith)
      gcongr
      linarith
    · simp [roundsUp_inward hin] at hup

/-- Rounding takes a neighbour of the exact magnitude, and the one that the mode says (03 R47 to R49). -/
theorem roundMag_brackets (f : Fmt) (r : Rnd) (n : Bool) {m : Nat} (e : Int) (hp : 0 < f.p) (hm : m ≠ 0) :
    Brackets f r n (m * 2 ^ e) (magBits f (truncSig f m e, roundExp f m e)) (magBits f (roundMag f r n m e)) := by
  have hq := emin_le_roundExp f m e
  have hnorm := truncSig_normal f e hp hm
  have hlt : truncSig f m e < 2 * 2 ^ (f.p - 1) := by
    rw [← pow_succ', Nat.sub_add_cancel hp]
    exact truncSig_lt f e hm
  have hlow := magVal_magBits f hq hnorm hlt.le
  have hnext : magVal f (magBits f (truncSig f m e, roundExp f m e) + 1) =
      (truncSig f m e + 1 : Nat) * 2 ^ roundExp f m e :=
    magVal_magBits f hq (hnorm.imp_right Nat.le_succ_of_le) hlt
  refine brackets_of_rest (u := 2 ^ roundExp f m e) (by positivity) (Nat.mod_lt m (Nat.two_pow_pos _)) ?_ ?_
    (magBits_roundMag f r n m e hp)
  · rw [hlow, truncSig_add_rest f m e, add_mul]
  · rw [hnext, hlow]
    push_cast
    ring

/-! ### What follows for magnitudes -/

section
variable {f : Fmt} {r : Rnd} {n : Bool} {x : ℚ} {c B : Nat} (h : Brackets f r n x c B)
include h

theorem Brackets.nearest (hr : r = .even) (b : Nat) : |magVal f B - x| ≤ |magVal f b - x| := by
  obtain ⟨hlo, hhi, hpick⟩ := h
  have hdist : |magVal f B - x| ≤ x - magVal f c ∧ |magVal f B - x| ≤ magVal f (c + 1) - x := by
    rcases hpick with ⟨rfl, heven, -⟩ | ⟨rfl, -, heven, -⟩
    · rw [abs_sub_comm, abs_of_nonneg (sub_nonneg.2 hlo)]
      exact ⟨le_rfl, heven hr⟩
    · rw [abs_of_nonneg (sub_nonneg.2 hhi.le)]
      exact ⟨heven hr, le_rfl⟩
  rcases Nat.lt_or_ge c b with hb | hb
  · exact hdist.2.trans ((sub_le_sub_right (magVal_mono f hb) x).trans (le_abs_self _))
  · exact hdist.1.trans ((sub_le_sub_left (magVal_mono f hb) x).trans (abs_sub_comm _ x ▸ le_abs_self _))

theorem Brackets.inward_eq (hr : r.inward n) : B = c := by
  rcases h.pick with ⟨hB, -⟩ | ⟨-, -, -, hnot⟩
  · exact hB
  · exact absurd hr hnot

theorem Brackets.inward_le (hr : r.inward n) : magVal f B ≤ x := h.inward_eq hr ▸ h.lower

theorem Brackets.inward_greatest (hr : r.inward n) (b : Nat) (hb : magVal f b ≤ x) : magVal f b ≤ magVal f B := by
  rcases Nat.lt_or_ge B b with hlt | hge
  · rw [h.inward_eq hr] at hlt
    exact absurd hb (not_le.2 (h.upper.trans_le (magVal_mono f hlt)))
  · exact magVal_mono f hge

theorem Brackets.outward_ge (hr : r.outward n) : x ≤ magVal f B := by
  rcases h.pick with ⟨rfl, -, heq⟩ | ⟨rfl, -⟩
  · exact (heq hr).le
  · exact h.upper.le

theorem Brackets.outward_least (hr : r.outward n) (b : Nat) (hb : x ≤ magVal f b) : magVal f B ≤ magVal f b := by
  rcases h.pick with ⟨rfl, -, heq⟩ | ⟨rfl, hlt, -⟩
  · exact heq hr ▸ hb
  · have hcb : c < b := not_le.1 fun hle => ((magVal_mono f hle).trans_lt hlt).not_ge hb
    exact magVal_mono f hcb

end

/-! ### Where the format ends -/

/-- The exponent and fraction bits that rounding into FP32 or BF16 gives: those of the greatest finite value, or an
infinity's, where the rounded magnitude is too great (03 R49). -/
def packMag (f : Fmt) (r : Rnd) (n : Bool) (m : Nat) (e : Int) : Nat :=
  if magBits f (roundMag f r n m e) < 255 * 2 ^ (f.p - 1) then magBits f (roundMag f r n m e)
  else if r.inward n then 255 * 2 ^ (f.p - 1) - 1 else 255 * 2 ^ (f.p - 1)

theorem packIeee_fin (f : Fmt) (r : Rnd) (n : Bool) {m : Nat} (e : Int) (hm : m ≠ 0) :
    packIeee f r false (.fin n m e) = (if n then 256 * 2 ^ (f.p - 1) else 0) + packMag f r n m e := by
  simp only [packIeee, packMag, if_neg hm, Bool.false_or]
  split
  · rfl
  · cases r <;> rfl

theorem packMag_lt (f : Fmt) (r : Rnd) (n : Bool) (m : Nat) (e : Int) : packMag f r n m e < 256 * 2 ^ (f.p - 1) := by
  have hpos : 0 < 2 ^ (f.p - 1) := Nat.two_pow_pos _
  unfold packMag
  split_ifs <;> omega

theorem packIeee_mod (f : Fmt) (r : Rnd) (n : Bool) {m : Nat} (e : Int) (hm : m ≠ 0) :
    packIeee f r false (.fin n m e) % (256 * 2 ^ (f.p - 1)) = packMag f r n m e := by
  have hlt := packMag_lt f r n m e
  rw [packIeee_fin f r n e hm]
  cases n
  · simpa using Nat.mod_eq_of_lt hlt
  · simpa using Nat.mod_eq_of_lt hlt

/-- A finite result has the sign of the exact value. -/
theorem rat_packIeee (f : Fmt) (r : Rnd) (n : Bool) {m : Nat} (e : Int) (hm : m ≠ 0)
    (hfin : packMag f r n m e < 255 * 2 ^ (f.p - 1)) :
    rat (unpackIeee f (packIeee f r false (.fin n m e))) = (if n then -1 else 1) * magVal f (packMag f r n m e) := by
  have hlt := packMag_lt f r n m e
  have hmod := packIeee_mod f r n e hm
  rw [rat_unpackIeee f (hmod ▸ hfin), hmod, packIeee_fin f r n e hm]
  cases n
  · simp [Nat.div_eq_of_lt hlt]
  · simp [Nat.add_div_left, Nat.div_eq_of_lt hlt]

section
variable {f : Fmt} {r : Rnd} {n : Bool} {m : Nat} {e : Int} (hfin : packMag f r n m e < 255 * 2 ^ (f.p - 1))
include hfin

/-- Within the format, or past its end and rounded toward zero. -/
theorem packMag_cases : packMag f r n m e = magBits f (roundMag f r n m e) ∨
    r.inward n ∧ packMag f r n m e + 1 = 255 * 2 ^ (f.p - 1) ∧ packMag f r n m e < magBits f (roundMag f r n m e) := by
  unfold packMag at *
  split_ifs at * with hfits hin
  · exact .inl rfl
  · exact .inr ⟨hin, by omega, by omega⟩
  · exact absurd hfin (lt_irrefl _)

theorem packMag_of_not_inward (hr : r.inward n = false) : packMag f r n m e = magBits f (roundMag f r n m e) :=
  (packMag_cases hfin).resolve_right fun h => by simp [hr] at h

variable (hp : 0 < f.p) (hm : m ≠ 0)
include hp hm

theorem packMag_nearest (hr : r = .even) (b : Nat) :
    |magVal f (packMag f r n m e) - m * 2 ^ e| ≤ |magVal f b - m * 2 ^ e| := by
  rw [packMag_of_not_inward hfin (hr ▸ rfl)]
  exact (roundMag_brackets f r n e hp hm).nearest hr b

theorem packMag_outward (hr : r.outward n) : (m : ℚ) * 2 ^ e ≤ magVal f (packMag f r n m e) ∧
    ∀ b, (m : ℚ) * 2 ^ e ≤ magVal f b → magVal f (packMag f r n m e) ≤ magVal f b := by
  have hbr := roundMag_brackets f r n e hp hm
  rw [packMag_of_not_inward hfin (Rnd.inward_of_outward hr)]
  exact ⟨hbr.outward_ge hr, hbr.outward_least hr⟩

theorem packMag_inward (hr : r.inward n) : magVal f (packMag f r n m e) ≤ m * 2 ^ e ∧
    ∀ b < 255 * 2 ^ (f.p - 1), magVal f b ≤ m * 2 ^ e → magVal f b ≤ magVal f (packMag f r n m e) := by
  have hbr := roundMag_brackets f r n e hp hm
  rcases packMag_cases hfin with heq | ⟨-, hmax, hlt⟩
  · rw [heq]
    exact ⟨hbr.inward_le hr, fun b _ => hbr.inward_greatest hr b⟩
  · exact ⟨(magVal_mono f hlt.le).trans (hbr.inward_le hr), fun b hb _ => magVal_mono f (by omega)⟩

end

/-! ### Signs -/

theorem abs_sign_mul (n : Bool) (x : ℚ) : |(if n then -1 else 1) * x| = |x| := by
  cases n <;> simp

/-- Of values with the sign of the exact one, what is nearest among magnitudes is nearest. -/
theorem nearest_of_magnitude (n : Bool) {x g o : ℚ} (hx : 0 ≤ x) (h : |g - x| ≤ |(|o|) - x|) :
    |(if n then -1 else 1) * g - (if n then -1 else 1) * x| ≤ |o - (if n then -1 else 1) * x| := by
  rw [← mul_sub, abs_sign_mul]
  calc |g - x| ≤ |(|o|) - x| := h
    _ = abs (|o| - |(if n then -1 else 1) * x|) := by rw [abs_sign_mul, abs_of_nonneg hx]
    _ ≤ |o - (if n then -1 else 1) * x| := abs_abs_sub_abs_le _ _

/-- Up from a positive value is away from zero; down from a negative one is the same of the negated values. -/
theorem least_above_of_magnitude {x g o : ℚ} (hx : 0 < x) (h : x ≤ |o| → g ≤ |o|) (ho : x ≤ o) : g ≤ o := by
  rw [abs_of_nonneg (hx.le.trans ho)] at h
  exact h ho

/-- Down from a positive value is toward zero; up from a negative one is the same of the negated values. -/
theorem greatest_below_of_magnitude {x g o : ℚ} (hg : 0 ≤ g) (h : |o| ≤ x → |o| ≤ g) (ho : o ≤ x) : o ≤ g := by
  rcases le_total o 0 with hneg | hpos
  · exact hneg.trans hg
  · rw [abs_of_nonneg hpos] at h
    exact h ho

/-- Settles O23: the rounded magnitude is a neighbour of the exact one, the one that the mode and the sign say. -/
theorem roundingResults : Obligations.RoundingResults := by
  unfold Obligations.RoundingResults
  intro f n m e r b' hf hm exact inf sign b got other hb hb' hother
  have hp : 0 < f.p := by rcases hf with rfl | rfl <;> decide
  have hfin : packMag f r n m e < 255 * 2 ^ (f.p - 1) := packIeee_mod f r n e hm ▸ hb
  have hx : (0 : ℚ) < m * 2 ^ e := by positivity
  have hexact : exact = (if n then -1 else 1) * (m * 2 ^ e) := mul_assoc ..
  have hgot : got = (if n then -1 else 1) * magVal f (packMag f r n m e) := rat_packIeee f r n e hm hfin
  have hmag : |other| = magVal f (b' % sign) := abs_rat_unpackIeee f hother
  have hg := magVal_nonneg f (packMag f r n m e)
  rw [hexact, hgot]
  refine ⟨fun hr => ?_, fun hr => ?_, fun hr => ?_, fun hr => ?_⟩
  · exact nearest_of_magnitude n hx.le (hmag ▸ packMag_nearest hfin hp hm hr _)
  · obtain ⟨hle, hall⟩ := packMag_inward hfin hp hm (hr ▸ rfl)
    rw [abs_sign_mul, abs_sign_mul, abs_of_nonneg hg, abs_of_nonneg hx.le, hmag]
    exact ⟨hle, hall _ hother⟩
  · subst hr
    cases n with
    | false =>
      obtain ⟨hge, hall⟩ := packMag_outward hfin hp hm rfl
      simp only [Bool.false_eq_true, if_false, one_mul]
      exact ⟨hge, least_above_of_magnitude hx (hmag ▸ hall _)⟩
    | true =>
      obtain ⟨hle, hall⟩ := packMag_inward hfin hp hm rfl
      simp only [if_true, neg_one_mul]
      rw [neg_le (b := other), neg_le (b := other)]
      exact ⟨neg_le_neg hle, greatest_below_of_magnitude hg (by rw [abs_neg, hmag]; exact hall _ hother)⟩
  · subst hr
    cases n with
    | false =>
      obtain ⟨hle, hall⟩ := packMag_inward hfin hp hm rfl
      simp only [Bool.false_eq_true, if_false, one_mul]
      exact ⟨hle, greatest_below_of_magnitude hg (hmag ▸ hall _ hother)⟩
    | true =>
      obtain ⟨hge, hall⟩ := packMag_outward hfin hp hm rfl
      simp only [if_true, neg_one_mul]
      rw [le_neg (a := other), le_neg (a := other)]
      exact ⟨neg_le_neg hge, least_above_of_magnitude hx (by rw [abs_neg, hmag]; exact hall _)⟩

end Sys2Proof.Machine
end

section
/-!
O59 (04 R71 to R92) and O54: the decoder and the encoder agree; sample words.

`layout` writes each word's fields down as the maps of 04 do, from bit 0 up, each with its width. Fields make up a word
(`word`) and a word is cut into fields (`cut`), and the two are inverse (`word_cut`, `cut_word`); that is all the arithmetic
there is. The rest says that both sides of the model keep to the table: the encoder gives the word that the layout makes
up (`encode_of_layout`), a word cut as a layout says decodes to that layout's instruction (`decode_of_layout`), and what any
word decodes to has a layout that the word's own fields fill (`decode_reads`).
-/

namespace Sys2Proof.Encoding

open Sys2Proof.Machine

/-! ### Fields of a word -/

/-- A field of a word: its width and its bits. -/
abbrev Field := Σ n : Nat, BitVec n

/-- The word that fields make up, the first at bit 0. -/
def word : List Field → Nat
  | [] => 0
  | f :: r => f.2.toNat + 2 ^ f.1 * word r

/-- The widths of fields. -/
def widths (l : List Field) : List Nat := l.map Sigma.fst

/-- The fields of the widths given that a word holds from bit `p` up. -/
def cut (w : Nat) : Nat → List Nat → List Field
  | _, [] => []
  | p, n :: ns => ⟨n, .ofNat n (w / 2 ^ p)⟩ :: cut w (p + n) ns

theorem word_cut (w p : Nat) (ns : List Nat) : word (cut w p ns) = w / 2 ^ p % 2 ^ ns.sum := by
  induction ns generalizing p with
  | nil => simp [cut, word, Nat.mod_one]
  | cons n ns ih =>
    rw [cut, word, ih, BitVec.toNat_ofNat, List.sum_cons, Nat.pow_add, Nat.pow_add, ← Nat.div_div_eq_div_mul,
      Nat.mod_mul]

/-- `cut_word` behind `p` bits of other fields. -/
theorem cut_add_word (l : List Field) {x p : Nat} (hx : x < 2 ^ p) : cut (x + 2 ^ p * word l) p (widths l) = l := by
  induction l generalizing x p with
  | nil => rfl
  | cons f r ih =>
    have hdiv : (x + 2 ^ p * word (f :: r)) / 2 ^ p = word (f :: r) := by
      rw [Nat.add_mul_div_left _ _ (Nat.two_pow_pos p), Nat.div_eq_of_lt hx, Nat.zero_add]
    have hhead : BitVec.ofNat f.1 (word (f :: r)) = f.2 := BitVec.eq_of_toNat_eq (by simp [word])
    have hlow : x + 2 ^ p * f.2.toNat < 2 ^ (p + f.1) := by
      rw [Nat.pow_add]
      calc x + 2 ^ p * f.2.toNat < 2 ^ p * (f.2.toNat + 1) := by rw [Nat.mul_add]; omega
        _ ≤ 2 ^ p * 2 ^ f.1 := Nat.mul_le_mul_left _ f.2.isLt
    have hrest : x + 2 ^ p * word (f :: r) = x + 2 ^ p * f.2.toNat + 2 ^ (p + f.1) * word r := by
      rw [word, Nat.pow_add, Nat.mul_add, Nat.mul_assoc, Nat.add_assoc]
    change ⟨f.1, BitVec.ofNat f.1 (_ / 2 ^ p)⟩ :: cut _ (p + f.1) (widths r) = f :: r
    rw [hdiv, hhead, hrest, ih hlow]

theorem cut_word (l : List Field) : cut (word l) 0 (widths l) = l := by
  simpa using cut_add_word l (x := 0) (p := 0) Nat.one_pos

@[simp] theorem sum_widths_nil : (widths []).sum = 0 := rfl

@[simp] theorem sum_widths_cons (f : Field) (l : List Field) : (widths (f :: l)).sum = f.1 + (widths l).sum := rfl

@[simp] theorem cut_eq_nil (w p : Nat) : cut w p (widths []) = [] := rfl

@[simp] theorem cut_eq_cons {w p n : Nat} {v : BitVec n} {l : List Field} :
    cut w p (widths (⟨n, v⟩ :: l)) = ⟨n, v⟩ :: l ↔ BitVec.ofNat n (w / 2 ^ p) = v ∧ cut w (p + n) (widths l) = l := by
  simp [widths, cut]

/-- A field that must hold a given code, in the terms in which the decoder asks for it. -/
theorem ofNat_eq_literal {n x v : Nat} : BitVec.ofNat n x = BitVec.ofNat n v ↔ x % 2 ^ n = v % 2 ^ n := by
  rw [← BitVec.toNat_inj, BitVec.toNat_ofNat, BitVec.toNat_ofNat]

/-- The stop flag, in the terms in which the decoder reads it. -/
theorem ofNat_eq_ofBool {x : Nat} {b : Bool} : BitVec.ofNat 1 x = BitVec.ofBool b ↔ (x % 2 == 1) = b := by
  rw [← BitVec.toNat_inj, BitVec.toNat_ofNat, BitVec.toNat_ofBool]
  have := Nat.mod_two_eq_zero_or_one x
  cases b <;> simp

/-! ### The layout of every word -/

/-- An H-word (04 R71, R73): bit 0 clear, the stop flag and op5, and then the fields `r`. -/
def half (s : Bool) (op : BitVec 5) (r : List Field) : List Field := ⟨1, 0⟩ :: ⟨1, .ofBool s⟩ :: ⟨5, op⟩ :: r

/-- A W-word (04 R71, R74): bit 0 set, the stop flag and op6, and then the fields `r`. -/
def wide (s : Bool) (op : BitVec 6) (r : List Field) : List Field := ⟨1, 1⟩ :: ⟨1, .ofBool s⟩ :: ⟨6, op⟩ :: r

/-- The fields of each word of the opcode table; an event has none. -/
def layout : Instr → Option (List Field)
  -- H-words (04 R81, R82); where the stop flag is no operand it is set (R92)
  | .nop s => some (half s 1 [⟨5, 0⟩, ⟨4, 0⟩])
  | .nopHint s n m => some (half s 1 [⟨5, n⟩, ⟨4, m⟩])
  | .mod s b n k t c => some (half s 2 [⟨1, 0⟩, ⟨1, b⟩, ⟨1, n⟩, ⟨1, k⟩, ⟨1, t⟩, ⟨4, c⟩])
  | .movH s a b => some (half s 3 [⟨5, a⟩, ⟨4, b⟩])
  | .addH s a b => some (half s 4 [⟨5, a⟩, ⟨4, b⟩])
  | .subH s a b => some (half s 5 [⟨5, a⟩, ⟨4, b⟩])
  | .andH s a b => some (half s 6 [⟨5, a⟩, ⟨4, b⟩])
  | .orH s a b => some (half s 7 [⟨5, a⟩, ⟨4, b⟩])
  | .xorH s a b => some (half s 8 [⟨5, a⟩, ⟨4, b⟩])
  | .addiH s a i => some (half s 9 [⟨5, a⟩, ⟨4, i⟩])
  | .shliH s a n => some (half s 10 [⟨5, a⟩, ⟨4, n⟩])
  | .shriH s a n => some (half s 11 [⟨5, a⟩, ⟨4, n⟩])
  | .sraiH s a n => some (half s 12 [⟨5, a⟩, ⟨4, n⟩])
  | .liH s d i => some (half s 13 [⟨5, d⟩, ⟨4, i⟩])
  | .skipz s a n => some (half s 14 [⟨5, a⟩, ⟨4, n⟩])
  | .skipnz s a n => some (half s 15 [⟨5, a⟩, ⟨4, n⟩])
  | .setixH s a => some (half s 16 [⟨5, a⟩, ⟨4, 0⟩])
  | .addixH s i => some (half s 17 [⟨5, 0⟩, ⟨4, i⟩])
  | .ret s => some (half s 18 [⟨9, 0⟩])
  | .amovH s a b => some (half s 19 [⟨5, a⟩, ⟨4, b⟩])
  | .aaddiH s a i => some (half s 20 [⟨5, a⟩, ⟨4, i⟩])
  | .mark => some (half true 21 [⟨9, 0⟩])
  | .await => some (half true 22 [⟨9, 0⟩])
  | .rpt s => some (half s 23 [⟨9, 0⟩])
  | .resync s => some (half s 24 [⟨9, 0⟩])
  | .rejoin a => some (half true 25 [⟨5, a⟩, ⟨4, 0⟩])
  | .rtt s => some (half s 26 [⟨9, 0⟩])
  | .brk s n => some (half s 27 [⟨5, 0⟩, ⟨4, n⟩])
  | .wsave s => some (half s 28 [⟨9, 0⟩])
  | .wrest s => some (half s 29 [⟨9, 0⟩])
  | .launch s n => some (half s 30 [⟨3, n⟩, ⟨6, 0⟩])
  -- the ALU group (04 R85)
  | .addW s d a b => some (wide s 1 [⟨5, d⟩, ⟨5, a⟩, ⟨5, b⟩, ⟨9, 0⟩])
  | .subW s d a b => some (wide s 1 [⟨5, d⟩, ⟨5, a⟩, ⟨5, b⟩, ⟨9, 1⟩])
  | .mul s d a b => some (wide s 1 [⟨5, d⟩, ⟨5, a⟩, ⟨5, b⟩, ⟨9, 2⟩])
  | .mulh s d a b => some (wide s 1 [⟨5, d⟩, ⟨5, a⟩, ⟨5, b⟩, ⟨9, 3⟩])
  | .mulhn s d a b => some (wide s 1 [⟨5, d⟩, ⟨5, a⟩, ⟨5, b⟩, ⟨9, 4⟩])
  | .div s d a b => some (wide s 1 [⟨5, d⟩, ⟨5, a⟩, ⟨5, b⟩, ⟨9, 5⟩])
  | .divn s d a b => some (wide s 1 [⟨5, d⟩, ⟨5, a⟩, ⟨5, b⟩, ⟨9, 6⟩])
  | .rem s d a b => some (wide s 1 [⟨5, d⟩, ⟨5, a⟩, ⟨5, b⟩, ⟨9, 7⟩])
  | .remn s d a b => some (wide s 1 [⟨5, d⟩, ⟨5, a⟩, ⟨5, b⟩, ⟨9, 8⟩])
  | .andW s d a b => some (wide s 1 [⟨5, d⟩, ⟨5, a⟩, ⟨5, b⟩, ⟨9, 9⟩])
  | .orW s d a b => some (wide s 1 [⟨5, d⟩, ⟨5, a⟩, ⟨5, b⟩, ⟨9, 10⟩])
  | .xorW s d a b => some (wide s 1 [⟨5, d⟩, ⟨5, a⟩, ⟨5, b⟩, ⟨9, 11⟩])
  | .andn s d a b => some (wide s 1 [⟨5, d⟩, ⟨5, a⟩, ⟨5, b⟩, ⟨9, 12⟩])
  | .shl s d a b => some (wide s 1 [⟨5, d⟩, ⟨5, a⟩, ⟨5, b⟩, ⟨9, 13⟩])
  | .shr s d a b => some (wide s 1 [⟨5, d⟩, ⟨5, a⟩, ⟨5, b⟩, ⟨9, 14⟩])
  | .sra s d a b => some (wide s 1 [⟨5, d⟩, ⟨5, a⟩, ⟨5, b⟩, ⟨9, 15⟩])
  | .cmpeq s d a b => some (wide s 1 [⟨5, d⟩, ⟨5, a⟩, ⟨5, b⟩, ⟨9, 16⟩])
  | .cmplt s d a b => some (wide s 1 [⟨5, d⟩, ⟨5, a⟩, ⟨5, b⟩, ⟨9, 17⟩])
  | .cmpltn s d a b => some (wide s 1 [⟨5, d⟩, ⟨5, a⟩, ⟨5, b⟩, ⟨9, 18⟩])
  | .min s d a b => some (wide s 1 [⟨5, d⟩, ⟨5, a⟩, ⟨5, b⟩, ⟨9, 19⟩])
  | .max s d a b => some (wide s 1 [⟨5, d⟩, ⟨5, a⟩, ⟨5, b⟩, ⟨9, 20⟩])
  | .minn s d a b => some (wide s 1 [⟨5, d⟩, ⟨5, a⟩, ⟨5, b⟩, ⟨9, 21⟩])
  | .maxn s d a b => some (wide s 1 [⟨5, d⟩, ⟨5, a⟩, ⟨5, b⟩, ⟨9, 22⟩])
  | .abs s d a => some (wide s 1 [⟨5, d⟩, ⟨5, a⟩, ⟨5, 0⟩, ⟨9, 23⟩])
  | .neg s d a => some (wide s 1 [⟨5, d⟩, ⟨5, a⟩, ⟨5, 0⟩, ⟨9, 24⟩])
  | .clz s d a => some (wide s 1 [⟨5, d⟩, ⟨5, a⟩, ⟨5, 0⟩, ⟨9, 25⟩])
  | .ctz s d a => some (wide s 1 [⟨5, d⟩, ⟨5, a⟩, ⟨5, 0⟩, ⟨9, 26⟩])
  | .popc s d a => some (wide s 1 [⟨5, d⟩, ⟨5, a⟩, ⟨5, 0⟩, ⟨9, 27⟩])
  | .sext s d a w => some (wide s 1 [⟨5, d⟩, ⟨5, a⟩, ⟨5, w⟩, ⟨9, 28⟩])
  | .zext s d a w => some (wide s 1 [⟨5, d⟩, ⟨5, a⟩, ⟨5, w⟩, ⟨9, 29⟩])
  | .movW s d a => some (wide s 1 [⟨5, d⟩, ⟨5, a⟩, ⟨5, 0⟩, ⟨9, 30⟩])
  -- scalar and control W-words (04 R84)
  | .sel s d a b c => some (wide s 2 [⟨5, d⟩, ⟨5, a⟩, ⟨5, b⟩, ⟨5, c⟩, ⟨4, 0⟩])
  | .addiW s d a i => some (wide s 3 [⟨5, d⟩, ⟨5, a⟩, ⟨14, i⟩])
  | .cmpeqi s d a i => some (wide s 4 [⟨5, d⟩, ⟨5, a⟩, ⟨14, i⟩])
  | .cmplti s d a i => some (wide s 5 [⟨5, d⟩, ⟨5, a⟩, ⟨14, i⟩])
  | .shliW s d a n => some (wide s 6 [⟨5, d⟩, ⟨5, a⟩, ⟨5, 0⟩, ⟨6, n⟩, ⟨1, 0⟩, ⟨2, 0⟩])
  | .shriW s d a n => some (wide s 6 [⟨5, d⟩, ⟨5, a⟩, ⟨5, 0⟩, ⟨6, n⟩, ⟨1, 0⟩, ⟨2, 1⟩])
  | .sraiW s d a n => some (wide s 6 [⟨5, d⟩, ⟨5, a⟩, ⟨5, 0⟩, ⟨6, n⟩, ⟨1, 0⟩, ⟨2, 2⟩])
  | .liW s d i => some (wide s 7 [⟨5, d⟩, ⟨5, 0⟩, ⟨14, i⟩])
  | .lui s d a i => some (wide s 8 [⟨5, d⟩, ⟨5, a⟩, ⟨14, i⟩])
  | .bfx s d a l p => some (wide s 9 [⟨5, d⟩, ⟨5, a⟩, ⟨6, l⟩, ⟨6, p⟩, ⟨2, 0⟩])
  | .bfi s d a l p => some (wide s 10 [⟨5, d⟩, ⟨5, a⟩, ⟨6, l⟩, ⟨6, p⟩, ⟨2, 0⟩])
  | .oxset s n a => some (wide s 11 [⟨3, n⟩, ⟨2, 0⟩, ⟨5, a⟩, ⟨14, 0⟩])
  | .oxli s n i => some (wide s 12 [⟨3, n⟩, ⟨7, 0⟩, ⟨14, i⟩])
  | .movx s d k => some (wide s 13 [⟨5, d⟩, ⟨10, 0⟩, ⟨7, k⟩, ⟨2, 0⟩])
  | .movxw s a k => some (wide s 13 [⟨5, 0⟩, ⟨5, a⟩, ⟨5, 0⟩, ⟨7, k⟩, ⟨2, 1⟩])
  | .setixW s a k => some (wide s 13 [⟨5, 0⟩, ⟨5, a⟩, ⟨5, 0⟩, ⟨7, k⟩, ⟨2, 2⟩])
  | .addixW s k => some (wide s 13 [⟨15, 0⟩, ⟨7, k⟩, ⟨2, 3⟩])
  | .mfs s d n => some (wide s 14 [⟨5, d⟩, ⟨5, 0⟩, ⟨14, n⟩])
  | .mts s a n => some (wide s 15 [⟨5, 0⟩, ⟨5, a⟩, ⟨14, n⟩])
  | .trap s n => some (wide s 16 [⟨10, 0⟩, ⟨14, n⟩])
  | .br s i => some (wide s 17 [⟨24, i⟩])
  | .call4 s i => some (wide s 18 [⟨24, i⟩])
  | .call8 s i => some (wide s 19 [⟨24, i⟩])
  | .call12 s i => some (wide s 20 [⟨24, i⟩])
  | .brz s a i => some (wide s 21 [⟨5, 0⟩, ⟨5, a⟩, ⟨14, i⟩])
  | .brnz s a i => some (wide s 22 [⟨5, 0⟩, ⟨5, a⟩, ⟨14, i⟩])
  | .loop s d i => some (wide s 23 [⟨5, d⟩, ⟨5, 0⟩, ⟨14, i⟩])
  | .jr s a => some (wide s 24 [⟨5, 0⟩, ⟨5, a⟩, ⟨5, 0⟩, ⟨9, 0⟩])
  | .callr4 s a => some (wide s 24 [⟨5, 0⟩, ⟨5, a⟩, ⟨5, 0⟩, ⟨9, 1⟩])
  | .callr8 s a => some (wide s 24 [⟨5, 0⟩, ⟨5, a⟩, ⟨5, 0⟩, ⟨9, 2⟩])
  | .callr12 s a => some (wide s 24 [⟨5, 0⟩, ⟨5, a⟩, ⟨5, 0⟩, ⟨9, 3⟩])
  | .hold s a i => some (wide s 25 [⟨5, 0⟩, ⟨5, a⟩, ⟨14, i⟩])
  | .aadd s d a b => some (wide s 26 [⟨5, d⟩, ⟨5, a⟩, ⟨5, b⟩, ⟨9, 0⟩])
  | .aaddiW s d a i => some (wide s 27 [⟨5, d⟩, ⟨5, a⟩, ⟨14, i⟩])
  | .amovW s d a => some (wide s 28 [⟨5, d⟩, ⟨5, a⟩, ⟨14, 0⟩])
  | .kset s d a => some (wide s 29 [⟨5, d⟩, ⟨5, a⟩, ⟨14, 0⟩])
  | .kloop s d i => some (wide s 30 [⟨5, d⟩, ⟨5, 0⟩, ⟨14, i⟩])
  -- the access groups (04 R86)
  | .lds s q a t d => some (wide s 32 [⟨2, 1⟩, ⟨4, q⟩, ⟨3, a⟩, ⟨3, t⟩, ⟨12, d⟩])
  | .ldl s q a t d => some (wide s 32 [⟨2, 2⟩, ⟨4, q⟩, ⟨3, a⟩, ⟨3, t⟩, ⟨12, d⟩])
  | .sts s q a t d => some (wide s 33 [⟨2, 1⟩, ⟨4, q⟩, ⟨3, a⟩, ⟨3, t⟩, ⟨12, d⟩])
  | .stl s q a t d => some (wide s 33 [⟨2, 2⟩, ⟨4, q⟩, ⟨3, a⟩, ⟨3, t⟩, ⟨12, d⟩])
  | .vlds s q a m d => some (wide s 34 [⟨2, 1⟩, ⟨4, q⟩, ⟨3, a⟩, ⟨3, m⟩, ⟨12, d⟩])
  | .vldl s q a m d => some (wide s 34 [⟨2, 2⟩, ⟨4, q⟩, ⟨3, a⟩, ⟨3, m⟩, ⟨12, d⟩])
  | .vsts s q a m d => some (wide s 35 [⟨2, 1⟩, ⟨4, q⟩, ⟨3, a⟩, ⟨3, m⟩, ⟨12, d⟩])
  | .vstl s q a m d => some (wide s 35 [⟨2, 2⟩, ⟨4, q⟩, ⟨3, a⟩, ⟨3, m⟩, ⟨12, d⟩])
  | .vgath s p q a m x d => some (wide s 36 [⟨2, p⟩, ⟨4, q⟩, ⟨3, a⟩, ⟨3, m⟩, ⟨4, x⟩, ⟨8, d⟩])
  | .vscat s p q a m x d => some (wide s 37 [⟨2, p⟩, ⟨4, q⟩, ⟨3, a⟩, ⟨3, m⟩, ⟨4, x⟩, ⟨8, d⟩])
  | .ldt s q a y t => some (wide s 38 [⟨2, 1⟩, ⟨4, q⟩, ⟨3, a⟩, ⟨3, y⟩, ⟨4, 0⟩, ⟨8, t⟩])
  | .amadd s p q a g z o => some (wide s 39 [⟨2, p⟩, ⟨4, q⟩, ⟨3, a⟩, ⟨3, g⟩, ⟨1, z⟩, ⟨3, 0⟩, ⟨3, 0⟩, ⟨5, o⟩])
  | .amswp s p q a g z o => some (wide s 39 [⟨2, p⟩, ⟨4, q⟩, ⟨3, a⟩, ⟨3, g⟩, ⟨1, z⟩, ⟨3, 1⟩, ⟨3, 0⟩, ⟨5, o⟩])
  | .amcas s p q a g z h o => some (wide s 39 [⟨2, p⟩, ⟨4, q⟩, ⟨3, a⟩, ⟨3, g⟩, ⟨1, z⟩, ⟨3, 2⟩, ⟨3, h⟩, ⟨5, o⟩])
  | .amand s p q a g z o => some (wide s 39 [⟨2, p⟩, ⟨4, q⟩, ⟨3, a⟩, ⟨3, g⟩, ⟨1, z⟩, ⟨3, 3⟩, ⟨3, 0⟩, ⟨5, o⟩])
  | .amor s p q a g z o => some (wide s 39 [⟨2, p⟩, ⟨4, q⟩, ⟨3, a⟩, ⟨3, g⟩, ⟨1, z⟩, ⟨3, 4⟩, ⟨3, 0⟩, ⟨5, o⟩])
  | .amminI s p q a g z o => some (wide s 40 [⟨2, p⟩, ⟨4, q⟩, ⟨3, a⟩, ⟨3, g⟩, ⟨1, z⟩, ⟨3, 0⟩, ⟨3, 0⟩, ⟨5, o⟩])
  | .amminN s p q a g z o => some (wide s 40 [⟨2, p⟩, ⟨4, q⟩, ⟨3, a⟩, ⟨3, g⟩, ⟨1, z⟩, ⟨3, 1⟩, ⟨3, 0⟩, ⟨5, o⟩])
  | .ammaxI s p q a g z o => some (wide s 40 [⟨2, p⟩, ⟨4, q⟩, ⟨3, a⟩, ⟨3, g⟩, ⟨1, z⟩, ⟨3, 2⟩, ⟨3, 0⟩, ⟨5, o⟩])
  | .ammaxN s p q a g z o => some (wide s 40 [⟨2, p⟩, ⟨4, q⟩, ⟨3, a⟩, ⟨3, g⟩, ⟨1, z⟩, ⟨3, 3⟩, ⟨3, 0⟩, ⟨5, o⟩])
  | .ldacq s p q a z o => some (wide s 41 [⟨2, p⟩, ⟨4, q⟩, ⟨3, a⟩, ⟨3, 0⟩, ⟨1, z⟩, ⟨3, 0⟩, ⟨3, 0⟩, ⟨5, o⟩])
  | .strel s p q a z o => some (wide s 41 [⟨2, p⟩, ⟨4, q⟩, ⟨3, a⟩, ⟨3, 0⟩, ⟨1, z⟩, ⟨3, 1⟩, ⟨3, 0⟩, ⟨5, o⟩])
  | .fence s o => some (wide s 41 [⟨13, 0⟩, ⟨3, 2⟩, ⟨3, 0⟩, ⟨5, o⟩])
  | .stacq s q a o => some (wide s 41 [⟨2, 1⟩, ⟨4, q⟩, ⟨3, a⟩, ⟨4, 8⟩, ⟨3, 3⟩, ⟨3, 0⟩, ⟨5, o⟩])
  | .strls s q a o => some (wide s 41 [⟨2, 1⟩, ⟨4, q⟩, ⟨3, a⟩, ⟨4, 8⟩, ⟨3, 4⟩, ⟨3, 0⟩, ⟨5, o⟩])
  | .send s x a n => some (wide s 42 [⟨2, 1⟩, ⟨3, x⟩, ⟨1, 0⟩, ⟨3, a⟩, ⟨4, 0⟩, ⟨3, 0⟩, ⟨5, n⟩, ⟨3, 0⟩])
  | .rcvp s q a => some (wide s 42 [⟨2, 1⟩, ⟨4, q⟩, ⟨3, a⟩, ⟨4, 0⟩, ⟨3, 1⟩, ⟨8, 0⟩])
  -- the vector groups (04 R87)
  | .vadd s d a b m t => some (wide s 48 [⟨4, d⟩, ⟨4, a⟩, ⟨5, b⟩, ⟨5, m⟩, ⟨3, t⟩, ⟨3, 0⟩])
  | .vsub s d a b m t => some (wide s 48 [⟨4, d⟩, ⟨4, a⟩, ⟨5, b⟩, ⟨5, m⟩, ⟨3, t⟩, ⟨3, 1⟩])
  | .vmul s d a b m t => some (wide s 48 [⟨4, d⟩, ⟨4, a⟩, ⟨5, b⟩, ⟨5, m⟩, ⟨3, t⟩, ⟨3, 2⟩])
  | .vmin s d a b m t => some (wide s 48 [⟨4, d⟩, ⟨4, a⟩, ⟨5, b⟩, ⟨5, m⟩, ⟨3, t⟩, ⟨3, 3⟩])
  | .vmax s d a b m t => some (wide s 48 [⟨4, d⟩, ⟨4, a⟩, ⟨5, b⟩, ⟨5, m⟩, ⟨3, t⟩, ⟨3, 4⟩])
  | .vabs s d a m t => some (wide s 48 [⟨4, d⟩, ⟨4, a⟩, ⟨5, 0⟩, ⟨5, m⟩, ⟨3, t⟩, ⟨3, 5⟩])
  | .vneg s d a m t => some (wide s 48 [⟨4, d⟩, ⟨4, a⟩, ⟨5, 0⟩, ⟨5, m⟩, ⟨3, t⟩, ⟨3, 6⟩])
  | .vsel s d a b m => some (wide s 48 [⟨4, d⟩, ⟨4, a⟩, ⟨5, b⟩, ⟨5, m⟩, ⟨3, 0⟩, ⟨3, 7⟩])
  | .vand s d a b m t => some (wide s 49 [⟨4, d⟩, ⟨4, a⟩, ⟨5, b⟩, ⟨5, m⟩, ⟨3, t⟩, ⟨3, 0⟩])
  | .vor s d a b m t => some (wide s 49 [⟨4, d⟩, ⟨4, a⟩, ⟨5, b⟩, ⟨5, m⟩, ⟨3, t⟩, ⟨3, 1⟩])
  | .vxor s d a b m t => some (wide s 49 [⟨4, d⟩, ⟨4, a⟩, ⟨5, b⟩, ⟨5, m⟩, ⟨3, t⟩, ⟨3, 2⟩])
  | .vandn s d a b m t => some (wide s 49 [⟨4, d⟩, ⟨4, a⟩, ⟨5, b⟩, ⟨5, m⟩, ⟨3, t⟩, ⟨3, 3⟩])
  | .vshl s d a b m t => some (wide s 49 [⟨4, d⟩, ⟨4, a⟩, ⟨5, b⟩, ⟨5, m⟩, ⟨3, t⟩, ⟨3, 4⟩])
  | .vshr s d a b m t => some (wide s 49 [⟨4, d⟩, ⟨4, a⟩, ⟨5, b⟩, ⟨5, m⟩, ⟨3, t⟩, ⟨3, 5⟩])
  | .vsra s d a b m t => some (wide s 49 [⟨4, d⟩, ⟨4, a⟩, ⟨5, b⟩, ⟨5, m⟩, ⟨3, t⟩, ⟨3, 6⟩])
  | .vfma s d a b m t => some (wide s 50 [⟨4, d⟩, ⟨4, a⟩, ⟨5, b⟩, ⟨5, m⟩, ⟨3, t⟩, ⟨3, 0⟩])
  | .vfms s d a b m t => some (wide s 50 [⟨4, d⟩, ⟨4, a⟩, ⟨5, b⟩, ⟨5, m⟩, ⟨3, t⟩, ⟨3, 1⟩])
  | .vfnma s d a b m t => some (wide s 50 [⟨4, d⟩, ⟨4, a⟩, ⟨5, b⟩, ⟨5, m⟩, ⟨3, t⟩, ⟨3, 2⟩])
  | .vredSum s a b m t => some (wide s 50 [⟨4, 0⟩, ⟨4, a⟩, ⟨5, b⟩, ⟨5, m⟩, ⟨3, t⟩, ⟨3, 3⟩])
  | .vredMin s a b m t => some (wide s 50 [⟨4, 1⟩, ⟨4, a⟩, ⟨5, b⟩, ⟨5, m⟩, ⟨3, t⟩, ⟨3, 3⟩])
  | .vredMax s a b m t => some (wide s 50 [⟨4, 2⟩, ⟨4, a⟩, ⟨5, b⟩, ⟨5, m⟩, ⟨3, t⟩, ⟨3, 3⟩])
  | .vrng s d m => some (wide s 50 [⟨4, d⟩, ⟨9, 0⟩, ⟨5, m⟩, ⟨3, 3⟩, ⟨3, 4⟩])
  | .vmsk s a b m t => some (wide s 50 [⟨4, 0⟩, ⟨4, a⟩, ⟨5, b⟩, ⟨5, m⟩, ⟨3, t⟩, ⟨3, 5⟩])
  | .vcmpEq s d a b m t => some (wide s 51 [⟨4, d⟩, ⟨4, a⟩, ⟨5, b⟩, ⟨5, m⟩, ⟨3, t⟩, ⟨3, 0⟩])
  | .vcmpNe s d a b m t => some (wide s 51 [⟨4, d⟩, ⟨4, a⟩, ⟨5, b⟩, ⟨5, m⟩, ⟨3, t⟩, ⟨3, 1⟩])
  | .vcmpLt s d a b m t => some (wide s 51 [⟨4, d⟩, ⟨4, a⟩, ⟨5, b⟩, ⟨5, m⟩, ⟨3, t⟩, ⟨3, 2⟩])
  | .vcmpLe s d a b m t => some (wide s 51 [⟨4, d⟩, ⟨4, a⟩, ⟨5, b⟩, ⟨5, m⟩, ⟨3, t⟩, ⟨3, 3⟩])
  | .vperm s d a b m t => some (wide s 52 [⟨4, d⟩, ⟨4, a⟩, ⟨5, b⟩, ⟨5, m⟩, ⟨3, t⟩, ⟨3, 0⟩])
  | .vbcast s d a b m t => some (wide s 52 [⟨4, d⟩, ⟨4, a⟩, ⟨5, b⟩, ⟨5, m⟩, ⟨3, t⟩, ⟨3, 1⟩])
  | .vslide s d a b m t => some (wide s 52 [⟨4, d⟩, ⟨4, a⟩, ⟨5, b⟩, ⟨5, m⟩, ⟨3, t⟩, ⟨3, 2⟩])
  | .vext s a b x t => some (wide s 52 [⟨4, 0⟩, ⟨4, a⟩, ⟨5, b⟩, ⟨5, x⟩, ⟨3, t⟩, ⟨3, 3⟩])
  | .vins s d b x t => some (wide s 52 [⟨4, d⟩, ⟨4, 0⟩, ⟨5, b⟩, ⟨5, x⟩, ⟨3, t⟩, ⟨3, 4⟩])
  | .vsplat s d b m t => some (wide s 52 [⟨4, d⟩, ⟨4, 0⟩, ⟨5, b⟩, ⟨5, m⟩, ⟨3, t⟩, ⟨3, 5⟩])
  | .vrcp s d a m t => some (wide s 53 [⟨4, d⟩, ⟨4, a⟩, ⟨5, 0⟩, ⟨5, m⟩, ⟨3, t⟩, ⟨3, 0⟩])
  | .vrsq s d a m t => some (wide s 53 [⟨4, d⟩, ⟨4, a⟩, ⟨5, 0⟩, ⟨5, m⟩, ⟨3, t⟩, ⟨3, 1⟩])
  | .vexp2 s d a m t => some (wide s 53 [⟨4, d⟩, ⟨4, a⟩, ⟨5, 0⟩, ⟨5, m⟩, ⟨3, t⟩, ⟨3, 2⟩])
  | .vlog2 s d a m t => some (wide s 53 [⟨4, d⟩, ⟨4, a⟩, ⟨5, 0⟩, ⟨5, m⟩, ⟨3, t⟩, ⟨3, 3⟩])
  | .vcvt s d a y r m x => some (wide s 54 [⟨4, d⟩, ⟨4, a⟩, ⟨4, y⟩, ⟨1, r⟩, ⟨5, m⟩, ⟨4, x⟩, ⟨2, 0⟩])
  | .vscl s d a y r m x => some (wide s 54 [⟨4, d⟩, ⟨4, a⟩, ⟨4, y⟩, ⟨1, r⟩, ⟨5, m⟩, ⟨4, x⟩, ⟨2, 1⟩])
  | .vbpk s d a m => some (wide s 54 [⟨4, d⟩, ⟨4, a⟩, ⟨5, 2⟩, ⟨5, m⟩, ⟨4, 9⟩, ⟨2, 2⟩])
  | .vbupk s d a m => some (wide s 54 [⟨4, d⟩, ⟨4, a⟩, ⟨5, 9⟩, ⟨5, m⟩, ⟨4, 2⟩, ⟨2, 3⟩])
  | .vdot16 s d a b m f => some (wide s 55 [⟨4, d⟩, ⟨4, a⟩, ⟨5, b⟩, ⟨5, m⟩, ⟨4, f⟩, ⟨2, 0⟩])
  -- matrix, Caddy, Stratus and Steep words (04 R87)
  | .mcfg s c x => some (wide s 56 [⟨4, 0⟩, ⟨3, c⟩, ⟨12, 0⟩, ⟨1, 0⟩, ⟨1, 0⟩, ⟨3, x⟩])
  | .mcfgDrop s c x => some (wide s 56 [⟨4, 0⟩, ⟨3, c⟩, ⟨12, 0⟩, ⟨1, 1⟩, ⟨1, 0⟩, ⟨3, x⟩])
  | .mclaim s p x => some (wide s 56 [⟨4, 1⟩, ⟨3, 0⟩, ⟨6, p⟩, ⟨8, 0⟩, ⟨3, x⟩])
  | .mfree s p x => some (wide s 56 [⟨4, 2⟩, ⟨3, 0⟩, ⟨6, p⟩, ⟨8, 0⟩, ⟨3, x⟩])
  | .mfill s p x => some (wide s 56 [⟨4, 3⟩, ⟨3, 0⟩, ⟨6, p⟩, ⟨8, 0⟩, ⟨3, x⟩])
  | .mma s c p b h x => some (wide s 56 [⟨4, 4⟩, ⟨3, c⟩, ⟨6, p⟩, ⟨6, b⟩, ⟨2, h⟩, ⟨3, x⟩])
  | .mmaz s c p b h x => some (wide s 56 [⟨4, 5⟩, ⟨3, c⟩, ⟨6, p⟩, ⟨6, b⟩, ⟨2, h⟩, ⟨3, x⟩])
  | .mrd s c x => some (wide s 56 [⟨4, 6⟩, ⟨3, c⟩, ⟨14, 0⟩, ⟨3, x⟩])
  | .mwb s c x => some (wide s 56 [⟨4, 7⟩, ⟨3, c⟩, ⟨14, 0⟩, ⟨3, x⟩])
  | .mzero s c x => some (wide s 56 [⟨4, 8⟩, ⟨3, c⟩, ⟨14, 0⟩, ⟨3, x⟩])
  | .mchk s c x => some (wide s 56 [⟨4, 9⟩, ⟨3, c⟩, ⟨14, 0⟩, ⟨3, x⟩])
  | .mtr s p b x => some (wide s 56 [⟨4, 10⟩, ⟨3, 0⟩, ⟨6, p⟩, ⟨6, b⟩, ⟨2, 0⟩, ⟨3, x⟩])
  | .ccopy s o i l => some (wide s 57 [⟨4, 0⟩, ⟨5, 0⟩, ⟨3, o⟩, ⟨1, i⟩, ⟨11, l⟩])
  | .cdist s o i l => some (wide s 57 [⟨4, 1⟩, ⟨5, 0⟩, ⟨3, o⟩, ⟨1, i⟩, ⟨11, l⟩])
  | .cslot s o i l => some (wide s 57 [⟨4, 2⟩, ⟨5, 0⟩, ⟨3, o⟩, ⟨1, i⟩, ⟨11, l⟩])
  | .cseal s o => some (wide s 57 [⟨4, 3⟩, ⟨5, 0⟩, ⟨3, o⟩, ⟨12, 0⟩])
  | .cchk s n => some (wide s 57 [⟨4, 4⟩, ⟨5, n⟩, ⟨15, 0⟩])
  | .cwait n => some (wide true 57 [⟨4, 5⟩, ⟨5, n⟩, ⟨15, 0⟩])
  | .cadv s => some (wide s 57 [⟨4, 6⟩, ⟨20, 0⟩])
  | .cpub s o => some (wide s 57 [⟨4, 7⟩, ⟨5, 0⟩, ⟨3, o⟩, ⟨12, 0⟩])
  | .cstat s d => some (wide s 57 [⟨4, 8⟩, ⟨5, d⟩, ⟨15, 0⟩])
  | .sname s o i l => some (wide s 58 [⟨4, 0⟩, ⟨5, 0⟩, ⟨3, o⟩, ⟨1, i⟩, ⟨11, l⟩])
  | .sred s o i l => some (wide s 58 [⟨4, 1⟩, ⟨5, 0⟩, ⟨3, o⟩, ⟨1, i⟩, ⟨11, l⟩])
  | .sgath s o i l => some (wide s 58 [⟨4, 2⟩, ⟨5, 0⟩, ⟨3, o⟩, ⟨1, i⟩, ⟨11, l⟩])
  | .sbc s o i l => some (wide s 58 [⟨4, 3⟩, ⟨5, 0⟩, ⟨3, o⟩, ⟨1, i⟩, ⟨11, l⟩])
  | .sstat s d o => some (wide s 58 [⟨4, 4⟩, ⟨5, d⟩, ⟨3, o⟩, ⟨12, 0⟩])
  | .sabort s o i l => some (wide s 58 [⟨4, 5⟩, ⟨5, 0⟩, ⟨3, o⟩, ⟨1, i⟩, ⟨11, l⟩])
  | .fdecl s o => some (wide s 59 [⟨4, 0⟩, ⟨5, 0⟩, ⟨3, o⟩, ⟨12, 0⟩])
  | .fbind s o => some (wide s 59 [⟨4, 1⟩, ⟨5, 0⟩, ⟨3, o⟩, ⟨12, 0⟩])
  | .fcol s o => some (wide s 59 [⟨4, 2⟩, ⟨5, 0⟩, ⟨3, o⟩, ⟨12, 0⟩])
  | .frate s o => some (wide s 59 [⟨4, 3⟩, ⟨5, 0⟩, ⟨3, o⟩, ⟨12, 0⟩])
  | .fget s j => some (wide s 59 [⟨4, 4⟩, ⟨5, 27⟩, ⟨4, j⟩, ⟨11, 0⟩])
  | .fset s a => some (wide s 59 [⟨4, 5⟩, ⟨5, a⟩, ⟨15, 0⟩])
  | .fnext s => some (wide s 59 [⟨4, 6⟩, ⟨20, 0⟩])
  | .fsnap s o i l => some (wide s 59 [⟨4, 7⟩, ⟨5, 0⟩, ⟨3, o⟩, ⟨1, i⟩, ⟨11, l⟩])
  | .fpub s => some (wide s 59 [⟨4, 8⟩, ⟨20, 0⟩])
  | .fstop s => some (wide s 59 [⟨4, 9⟩, ⟨20, 0⟩])
  | .fgo s => some (wide s 59 [⟨4, 10⟩, ⟨20, 0⟩])
  | _ => none

/-- Every word has a layout; an event's encoding is 0. -/
theorem layout_isSome_or_encode_eq_zero (i : Instr) : ((layout i).isSome || encode i == 0) = true := by
  cases i <;> rfl

theorem exists_layout {i : Instr} (h : encode i ≠ 0) : ∃ l, layout i = some l := by
  rw [← Option.isSome_iff_exists]
  simpa [h] using layout_isSome_or_encode_eq_zero i

/-! ### Encoding and decoding by layouts -/

/-- Constructor by constructor, both are the same sum of fields. -/
theorem encode_of_layout {i : Instr} {l : List Field} (h : layout i = some l) : encode i = word l := by
  cases i
  all_goals cases h
  all_goals
    unfold encode
    simp only [word, half, wide, BitVec.ofNat_eq_ofNat, BitVec.toNat_ofNat, BitVec.toNat_ofBool, Bool.toNat_true]
    ring

/-- A hint code (04 R82) is no other op5 = 1 word. -/
theorem decodeH_hint {w : Nat} (hop : w / 4 % 32 = 1) (hlo : 1 ≤ w / 128 % 32) (hhi : w / 128 % 32 ≤ 7) :
    decodeH w = .nopHint (w / 2 % 2 == 1) (.ofNat 5 (w / 128)) (.ofNat 4 (w / 4096)) := by
  simp only [decodeH, hop, ↓reduceIte]
  rw [if_neg (by omega), if_pos (by omega)]

/-- The fields of the layout are what the decoder's tests ask for and what its operands read. -/
theorem decode_of_layout {w : Nat} {i : Instr} {l : List Field} (h : layout i = some l) (hwf : i.wf = true)
    (hc : cut w 0 (widths l) = l) : decode w = i := by
  cases i
  all_goals cases h
  all_goals
    simp only [half, wide, cut_eq_cons, cut_eq_nil, ofNat_eq_literal, ofNat_eq_ofBool, beq_iff_eq, and_true,
      BitVec.ofNat_eq_ofNat, Nat.zero_add, Nat.reduceAdd, Nat.reducePow, Nat.reduceMod, Nat.pow_zero, Nat.pow_one,
      Nat.div_one] at hc
  case nopHint =>
    obtain ⟨h0, rfl, hop, rfl, rfl⟩ := hc
    obtain ⟨hlo, hhi⟩ : 1 ≤ w / 128 % 32 ∧ w / 128 % 32 ≤ 7 := by simpa [Instr.wf] using hwf
    rw [decode, if_pos h0, decodeH_hint hop hlo hhi]
  all_goals
    simp only [decode, decodeH, decodeW, decodeAlu, decodeShift, decodeRel, decodeJump, decodeLd, decodeSt,
      decodeVld, decodeVst, decodeAtom, decodeAtomMm, decodeOrd, decodeMsg, decodeV30, decodeV31, decodeV32,
      decodeV33, decodeV34, decodeV35, decodeConv, decodeMat, decodeCaddy, decodeStratus, decodeSteep, hc,
      ↓reduceIte, Nat.reduceEqDiff, OfNat.ofNat_ne_zero, OfNat.ofNat_ne_one, one_ne_zero, and_self]

/-- The instruction is well formed, and its layout is `bits` bits long and filled by the fields of `w`. -/
def Fills (bits w : Nat) (i : Instr) : Prop :=
  i.wf = true ∧ ∃ l, layout i = some l ∧ (widths l).sum = bits ∧ cut w 0 (widths l) = l

/-- What a word of `bits` bits may decode to: nothing that is an instruction, or an instruction that the word fills. -/
@[irreducible] def Reads (bits w : Nat) (i : Instr) : Prop := (∃ why, i = .unassignedEncoding why) ∨ Fills bits w i

theorem Reads.unassigned {bits w : Nat} {why : EncFault} : Reads bits w (.unassignedEncoding why) := by
  unfold Reads
  exact .inl ⟨why, rfl⟩

theorem Reads.word {bits w : Nat} {i : Instr} (h : Fills bits w i) : Reads bits w i := by
  unfold Reads
  exact .inr h

section
variable {bits w : Nat} {c : Prop} {_ : Decidable c} {t e : Instr}

/-- A test of the decoder. (Its decision is a plain argument, so that trying this rule does not search for one.) -/
theorem Reads.ite (ht : c → Reads bits w t) (he : ¬ c → Reads bits w e) : Reads bits w (if c then t else e) := by
  split
  · exact ht ‹_›
  · exact he ‹_›

/-- A test of a code of many values, of which only the one that is met matters. -/
theorem Reads.ite_code (ht : c → Reads bits w t) (he : Reads bits w e) : Reads bits w (if c then t else e) :=
  .ite ht fun _ => he

end

theorem Reads.hint {w : Nat} (h0 : w % 2 = 0) (hop : w / 4 % 32 = 1) (hlo : ¬ w / 128 % 32 = 0)
    (hhi : w / 128 % 32 < 8) :
    Reads 16 w (.nopHint (w / 2 % 2 == 1) (.ofNat 5 (w / 128)) (.ofNat 4 (w / 4096))) := by
  refine .word ⟨?_, _, rfl, ?_⟩
  · simp [Instr.wf]
    omega
  · simp [half, ofNat_eq_literal, ofNat_eq_ofBool, *]

/-- Each test of the decoder is gone through, and each instruction it leads to has the layout of the fields tested and
read on the way. -/
theorem decodeH_reads {w : Nat} (h0 : w % 2 = 0) : Reads 16 w (decodeH w) := by
  unfold decodeH
  dsimp only
  repeat' refine Reads.ite (fun _ => ?_) (fun _ => ?_)
  any_goals exact .unassigned
  any_goals exact .hint h0 ‹_› ‹_› ‹_›
  all_goals refine .word ⟨rfl, _, rfl, ?_⟩
  all_goals simp [half, ofNat_eq_literal, ofNat_eq_ofBool, *]
  -- what is left is the stop flag of the parking words, known from its test to be set
  all_goals omega

theorem decodeMat_reads {w : Nat} (h0 : w % 2 = 1) (hop : w / 4 % 64 = 56) : Reads 32 w (decodeMat w) := by
  unfold decodeMat
  dsimp only
  repeat' refine Reads.ite (fun _ => ?_) (fun _ => ?_)
  any_goals exact .unassigned
  all_goals refine .word ⟨rfl, _, rfl, ?_⟩
  all_goals simp [wide, ofNat_eq_literal, ofNat_eq_ofBool, *]
  -- what is left is the bit that tells `mcfg.drop` from `mcfg`
  omega

theorem decodeCaddy_reads {w : Nat} (h0 : w % 2 = 1) (hop : w / 4 % 64 = 57) : Reads 32 w (decodeCaddy w) := by
  unfold decodeCaddy
  dsimp only
  repeat' refine Reads.ite (fun _ => ?_) (fun _ => ?_)
  any_goals exact .unassigned
  all_goals refine .word ⟨rfl, _, rfl, ?_⟩
  all_goals simp [wide, ofNat_eq_literal, ofNat_eq_ofBool, *]
  -- what is left is the stop flag of `cwait`
  omega

theorem decodeW_reads {w : Nat} (h0 : w % 2 = 1) : Reads 32 w (decodeW w) := by
  -- the two families with a test of a single bit are left closed, for their own lemmas
  have hmat := decodeMat_reads h0
  have hcaddy := decodeCaddy_reads h0
  unfold decodeW decodeAlu decodeShift decodeRel decodeJump decodeLd decodeSt decodeVld decodeVst decodeAtom
    decodeAtomMm decodeOrd decodeMsg decodeV30 decodeV31 decodeV32 decodeV33 decodeV34 decodeV35 decodeConv
    decodeStratus decodeSteep
  dsimp only
  generalize decodeMat w = mat at hmat ⊢
  generalize decodeCaddy w = caddy at hcaddy ⊢
  repeat' refine Reads.ite_code (fun _ => ?_) ?_
  any_goals exact .unassigned
  any_goals exact hmat ‹_›
  any_goals exact hcaddy ‹_›
  all_goals refine .word ⟨rfl, _, rfl, ?_⟩
  all_goals
    simp only [wide, sum_widths_cons, sum_widths_nil, cut_eq_cons, cut_eq_nil, ofNat_eq_literal, ofNat_eq_ofBool,
      BitVec.ofNat_eq_ofNat, Nat.zero_add, Nat.reduceAdd, Nat.reducePow, Nat.reduceMod, Nat.pow_zero, Nat.pow_one,
      Nat.div_one, and_self, *]

theorem decode_reads (w : Nat) : Reads (16 * wordLen w) w (decode w) := by
  unfold decode wordLen
  split
  · exact decodeH_reads ‹_›
  · exact decodeW_reads (Nat.mod_two_ne_zero.1 ‹_›)

/-! ### The round trip -/

theorem encode_ne_zero_of_isWord {i : Instr} (hi : isWord i = true) (hwf : i.wf = true) : encode i ≠ 0 := by
  unfold isWord at hi
  split at hi
  · exact absurd hwf Bool.false_ne_true
  · exact bne_iff_ne.1 hi

theorem isWord_of_encode_ne_zero {i : Instr} (h : encode i ≠ 0) : isWord i = true := by
  unfold isWord
  split
  · rfl
  · exact bne_iff_ne.2 h

theorem decode_encode {i : Instr} (hi : isWord i = true) (hwf : i.wf = true) : decode (encode i) = i := by
  obtain ⟨l, hl⟩ := exists_layout (encode_ne_zero_of_isWord hi hwf)
  exact decode_of_layout hl hwf (encode_of_layout hl ▸ cut_word l)

theorem encode_of_reads {bits w : Nat} {i : Instr} (hr : Reads bits w i) (hw : w < 2 ^ bits)
    (hd : ∀ why, i ≠ .unassignedEncoding why) : encode i = w ∧ i.wf = true := by
  unfold Reads at hr
  obtain ⟨why, rfl⟩ | ⟨hwf, l, hl, hb, hc⟩ := hr
  · exact absurd rfl (hd why)
  · refine ⟨?_, hwf⟩
    calc encode i = word (cut w 0 (widths l)) := by rw [encode_of_layout hl, hc]
      _ = w % 2 ^ bits := by rw [word_cut, hb, Nat.pow_zero, Nat.div_one]
      _ = w := Nat.mod_eq_of_lt hw

theorem encode_decode {w : Nat} (hw : w < 2 ^ (16 * wordLen w)) (hd : ∀ why, decode w ≠ .unassignedEncoding why) :
    encode (decode w) = w ∧ isWord (decode w) = true ∧ (decode w).wf = true := by
  obtain ⟨henc, hwf⟩ := encode_of_reads (decode_reads w) hw hd
  have hne : w ≠ 0 := by
    rintro rfl
    exact hd .illegal rfl
  exact ⟨henc, isWord_of_encode_ne_zero (henc.symm ▸ hne), hwf⟩

/-- Settles O59: layouts are filled by the words that they make up. -/
theorem encodingRoundTrip : Obligations.EncodingRoundTrip :=
  ⟨fun _ => decode_encode, fun _ => encode_decode⟩

/-- Settles O54: the decoder, run on each word. -/
theorem decodeSampleWords : Obligations.DecodeSampleWords := by
  unfold Obligations.DecodeSampleWords
  and_intros <;> rfl

end Sys2Proof.Encoding
end

section
/-!
O52 (04 R71; 02 R20, R22): a step runs the word that the bytes at the program counter decode to.

With nothing else due, the step is the issue of the first stream that has something to do (`step_of_first`), so what runs is
what that stream fetches; the `fetch2` lemmas say what this is by the bytes of the image.
-/

namespace Sys2Proof.Machine

/-! ### What is fetched -/

section
variable (s : State) (b p : Nat)

/-- The four bytes of the image at an address are those of the two halfwords from it on. -/
theorem imageAt_eq_bytes :
    ∃ b0 b1 b2 b3 : Byte, Spec.imageAt s b p = [b0, b1, b2, b3] ∧ s.halfword b p = b0.toNat + 256 * b1.toNat ∧
      s.halfword b (p + 1) = b2.toNat + 256 * b3.toNat :=
  ⟨_, _, _, _, rfl, rfl, rfl⟩

/-- A number is even or odd as its lowest byte is. -/
theorem even_of_byte {x : Byte} (n : Nat) : (x.toNat + 256 * n) % 2 = 0 ↔ x.toNat % 2 = 0 := by omega

end

section
variable {s : State} {b : Nat} {pc : BitVec 32}

theorem State.fetch2_outside (h : (s.bindAt b).klen ≤ pc.toNat) : s.fetch2 b pc = (0, true) := if_pos h

/-- A word inside the image is fetched whole. -/
theorem State.fetch2_inside {i : Instr} {len : Nat} (hd : decodeBytes (Spec.imageAt s b pc.toNat) = some (i, len))
    (hlen : pc.toNat + len / 2 ≤ (s.bindAt b).klen) :
    s.fetch2 b pc = (ofBytes ((Spec.imageAt s b pc.toNat).take len), false) ∧
      decode (ofBytes ((Spec.imageAt s b pc.toNat).take len)) = i := by
  obtain ⟨b0, b1, b2, b3, him, hlo, hhi⟩ := imageAt_eq_bytes s b pc.toNat
  simp only [him, decodeBytes] at hd ⊢
  simp only [State.fetch2, hlo, hhi, even_of_byte]
  split at hd
  · next heven =>
    obtain ⟨rfl, rfl⟩ : _ = i ∧ _ = len := by simpa using hd
    rw [if_neg (by omega), if_pos heven]
    simp [ofBytes]
  · next hodd =>
    obtain ⟨rfl, rfl⟩ : _ = i ∧ _ = len := by simpa using hd
    rw [if_neg (by omega), if_neg hodd, if_neg (by omega)]
    simp only [List.take_succ_cons, List.take_zero, ofBytes, Prod.mk.injEq, and_true]
    constructor
    · omega
    · congr 1
      omega

/-- A W-word whose second halfword lies outside the image is fetched as its first. -/
theorem State.fetch2_cut (hn : (s.bindAt b).klen = pc.toNat + 1)
    (hodd : ((Spec.imageAt s b pc.toNat).getD 0 0).getLsbD 0 = true) :
    s.fetch2 b pc = (ofBytes ((Spec.imageAt s b pc.toNat).take 2), true) := by
  obtain ⟨b0, b1, b2, b3, him, hlo, -⟩ := imageAt_eq_bytes s b pc.toNat
  have hb0 : ¬ b0.toNat % 2 = 0 := by
    simpa [him, BitVec.getLsbD, Nat.testBit_zero] using hodd
  simp only [State.fetch2, hlo, even_of_byte, him]
  rw [if_neg (by omega), if_neg hb0, if_pos (by omega)]
  simp [ofBytes]

end

/-! ### What a quiet state does -/

section
variable {s : State} {c : Nat} {h : Half}

theorem headAct_eq_none (hd : s.headDue = none) (p : Nat → Bool) : s.headAct p = none := by
  rw [State.headAct, hd]

theorem flipAct_of_quiet (hq : Spec.quiet s) : s.flipAct = none := by
  obtain ⟨-, hreset, hboundary, houtcome, hhead, -⟩ := hq
  simp only [State.flipAct, firstOf, hreset, hboundary, houtcome, headAct_eq_none hhead]

theorem nextAct_of_quiet (hq : Spec.quiet s) {a : Act} (ha : s.issueAct = some a) : s.nextAct = some a := by
  have hflip := flipAct_of_quiet hq
  obtain ⟨-, -, -, -, hhead, harrival, hmerge, hend, hboot, hwait, hfollow, hmark, hresync, hparked, hfield, hdomain,
    hscrub, hnet, hsched⟩ := hq
  simp only [State.nextAct, firstOf, hflip, headAct_eq_none hhead, harrival, hmerge, hend, hboot, hwait, hfollow, hmark,
    hresync, hparked, hfield, hdomain, hscrub, hnet, hsched, ha, when', Bool.false_eq_true, if_false]

/-- The word that the stream issues, in the state in which a sweep stream's update has begun. -/
def State.issuedWord (s : State) (c : Nat) (h : Half) : Nat × Bool := (if h = .w then s.beginUpdate c else s).nextWord c h

theorem issueAct_of_first (hf : Spec.first s c h) :
    s.issueAct = some ({ ofStream c h with bits := (s.issuedWord c h).1 }, fetched (s.issuedWord c h)) := by
  obtain ⟨⟨l, r, hheld, hbefore⟩, hprecise, hasync, hissue⟩ := hf
  have hact : s.streamAct c h = some ({ ofStream c h with bits := (s.issuedWord c h).1 }, fetched (s.issuedWord c h)) := by
    simp only [State.streamAct, hprecise, hasync, hissue, State.issuedWord, Bool.or_self, Bool.false_eq_true, if_false,
      if_true]
  rw [State.issueAct, hheld, List.findSome?_append, List.findSome?_eq_none_iff.2 hbefore, List.findSome?_cons, hact,
    Option.none_or]

/-- The step of a state in which a stream's word is what is next: it executes what the stream fetches. -/
theorem step_of_first (hq : Spec.quiet s) (hf : Spec.first s c h) (hw : isWord (fetched (s.issuedWord c h)) = true) :
    step s = exec (fetched (s.issuedWord c h))
      { (if h = .w then s.beginUpdate c else s) with
        cur := { Focus.init with core := c, half := h, bits := (s.issuedWord c h).1 } } := by
  have hchoose : s.choose = .run (fetched (s.issuedWord c h))
      (s.focus ({ ofStream c h with bits := (s.issuedWord c h).1 }, fetched (s.issuedWord c h))) := by
    simp only [State.choose, flipAct_of_quiet hq, hq.1, nextAct_of_quiet hq (issueAct_of_first hf)]
  simp only [step, hchoose, State.focus, hw, ofStream, and_true]

end

/-- Settles O52: the first stream's issue is the step, and what it fetches is the word at its address. -/
theorem stepRunsDecodedWord : Obligations.StepRunsDecodedWord := by
  unfold Obligations.StepRunsDecodedWord
  intro s c h hq hf s' b p n runs
  obtain ⟨pc, hpc, hword⟩ : ∃ pc : BitVec 32, p = pc.toNat ∧ s.issuedWord c h = s'.fetch2 b pc := by
    refine ⟨((s'.stream c h).taken.map (·.1)).getD (s'.stream c h).pc, ?_, rfl⟩
    simp only [p]
    cases (s'.stream c h).taken <;> rfl
  have hstep := step_of_first hq hf
  rw [hword] at hstep
  rw [hpc]
  refine ⟨fun i len hd hlen hi => ?_, fun hout => ?_, fun hn hodd => ?_⟩
  · obtain ⟨hfetch, rfl⟩ := State.fetch2_inside hd hlen
    rw [hfetch] at hstep
    exact hstep hi
  · rw [State.fetch2_outside hout] at hstep
    exact hstep rfl
  · rw [State.fetch2_cut hn hodd] at hstep
    exact hstep rfl

end Sys2Proof.Machine
end

section
/-!
How the scalar and control words issue (04 R93, 05 R96 to R112): the few shapes that O1, O4, O6, O7 and O9 share, said
once. A word whose checks pass comes to what its body gives: an effect with a next word, or a precise fault.
-/

namespace Sys2Proof.Machine

section
variable {s s' : State} {sf modable : Bool} {cls : Cls} {pre : State → Ctx → Pre} {body : State → Ctx → Res}

/-- A word with nothing to object to before its operands, whose body takes effect. -/
theorem issueWord_ok {nx : Next} (hc : s.clear sf) (hcls : classOk cls s.cur.half s.my.routineBound = true)
    (hp : pre (s.noted sf) s.ctx = {}) (hb : body (s.noted sf) s.ctx = .ok s' nx) (hn : nx ≠ .resync) :
    issueWord sf cls modable pre body s = .next (s'.went s.ctx sf nx) := by
  rw [issueWord_clear hc hcls (by rw [hp]) (by rw [hp]) (by simp [hp]), hb, finish_ok _ _ _ _ _ hn]

/-- A word with nothing to object to before its operands, whose body faults with nothing popped. -/
theorem issueWord_trap {code sub : Nat} {v : Word} (hc : s.clear sf)
    (hcls : classOk cls s.cur.half s.my.routineBound = true) (hp : pre (s.noted sf) s.ctx = {})
    (hb : body (s.noted sf) s.ctx = .trap (s.noted sf) code sub v) :
    issueWord sf cls modable pre body s = .next ((s.noted sf).raise s.ctx code sub v s.me.pc s.me.scnt) := by
  obtain ⟨l, hl⟩ := s.noted_me sf
  rw [issueWord_clear hc hcls (by rw [hp]) (by rw [hp]) (by simp [hp]), hb, finish, hl, State.ctx_addr]

/-- What a body makes of its sources, where they can be read. -/
theorem sources_of_gives {d : Nat} {srcs : List Nat} {l : List Word} (hg : s.gives sf d srcs s' l) :
    (s.noted sf).sources s.ctx d srcs = .vals s' l := hg

/-- A word without sources and with no queue as its destination reads nothing. -/
theorem sources_nil (s : State) (x : Ctx) : s.sources x 0 [] = .vals s [] := by
  simp [State.sources, withSeen, State.pushFull]

end

/-- A check that adds nothing to the reserved fields. -/
theorem pre_unreserved (pre : State → Ctx → Pre) {b : Bool} (hb : b = false) :
    (fun s x => { pre s x with reserved := (pre s x).reserved || b }) = pre := by
  subst hb
  simp only [Bool.or_false]

end Sys2Proof.Machine
end

section
/-!
O6 (05 R108, R110; 04 R82): `nop`, hints, skipped words and the skip words.

That a skipped word has no effect, whichever it is, follows from one fact about the table: every word is issued by
`issueWord` (`exec_eq_issueWord`), which looks at the skip count before anything of the word's own.
-/

namespace Sys2Proof.Machine

theorem nopResults : Spec.nopResults := by
  refine ⟨rfl, rfl, fun sf n k s hc => ⟨word_e hc rfl (by simp), fun ⟨hlo, hhi⟩ => ?_⟩⟩
  have h8 : ¬ 8 ≤ n.toNat := by omega
  have h0 : n.toNat ≠ 0 := by omega
  have hpre : ({ illegal := 8 ≤ n.toNat, reserved := n.toNat == 0 } : Pre) = {} := by
    rw [decide_eq_false h8, beq_eq_false_iff_ne.2 h0]
  exact issueWord_ok hc (classOk_e _ _) hpre rfl (by simp)

/-- Every word but one outside the kernel image is issued by `issueWord`, with its own checks and body. -/
theorem exec_eq_issueWord {i : Instr} (hw : isWord i = true) (ho : i ≠ .unassignedEncoding .outside) (s : State) :
    ∃ sf cls modable pre body, exec i s = issueWord sf cls modable pre body s := by
  cases i
  case unassignedEncoding why =>
    cases why
    case outside => exact absurd rfl ho
    all_goals exact ⟨_, _, _, _, _, rfl⟩
  -- the events, which no stream issues
  case clockStepRequest | hostPageItem | forcedRefresh | contribution | result | vote | commit | abort | expired |
      owner | fault | abortRequest | linkAck | linkNak | hostDeadlineExtend | linkRetrain | hostMergeDecision |
      domainEnd | notifyWrite | notifyWindowMap | launchRecordAccept | partitionCreate | boot | bootService |
      fuseRepair | heaterTuning | hostHeaterSettings | wavelengthRemoval | thermalEvaluation | fabricHeartbeat |
      fabricRecovery | flitGroupRejected | softError | launchQueueCreate | ideKm | epntWrite | resultLanding |
      storeLanding | atomicPerform | holdExpire | asyncTrapEntry | resyncResume | contrailFollowerIssue | domainMark |
      chipMark | kernelEnd | mmaBlockStep | mmaResultWrite | mwbOutputLanding | caddyBeatRead | caddyBeatLand |
      hostBeatLand | overflowPageInstall | staticCopyEntryRun | stratusWordAccept | replayTimeout | stratusDeadline |
      decisionTimeout | collectiveOutcome | haloExchange | sweepBoundary | builtinSiteUpdate | mergeApply |
      preemptionRequest | preemptionWithdraw | drainComplete | eviction | resumeRequest | timetableRestart |
      hostDomainResume | brkRelease | endStatusWrite | notifyWindowUnmap | launchPlacement | messageTokenSend |
      messageArrival | partitionReset | lockInterface | getDeviceInterfaceReport | startInterface | stopInterface |
      spdmAttestation | ideStreamFailure | bootFetchTimeout | hbmScrub | mfillContentsInPlace | mtrTransposeInPlace |
      interfaceConfigurationChange => exact absurd hw Bool.false_ne_true
  all_goals exact ⟨_, _, _, _, _, rfl⟩

theorem skippedWord : Spec.skippedWord := by
  intro i s hw ho hskip
  obtain ⟨sf, cls, modable, pre, body, hexec⟩ := exec_eq_issueWord hw ho s
  exact ⟨sf, hexec.trans (issueWord_skip hskip)⟩

/-- A skip word whose condition is read: it skips n words or none. -/
theorem skipOp_gives {s s' : State} {sf : Bool} {a : BitVec 5} {n : BitVec 4} {v : Word} (cond : Word → Bool)
    (hc : s.clear sf) (hl : s.legalE [a.toNat] []) (hlo : 1 ≤ n.toNat) (hhi : n.toNat < 8)
    (hg : s.gives sf 0 [a.toNat] s' [v]) :
    skipOp sf a n cond s = .next (s'.went s.ctx sf (if cond v then .skip n.toNat else .seq)) := by
  have h8 : ¬ 8 ≤ n.toNat := by omega
  have h0 : n.toNat ≠ 0 := by omega
  refine issueWord_ok hc (classOk_e _ _) ?_ ?_ (by split <;> simp)
  · simp only [usePre_e hl, decide_eq_false h8, beq_eq_false_iff_ne.2 h0, Bool.or_self]
  · simp only [sources_of_gives hg]
    rfl

theorem skipResults : Spec.skipResults := by
  intro sf a n s s' v hc hl hlo hhi hg
  have hz := skipOp_gives (· == 0) hc hl hlo hhi hg
  have hnz := skipOp_gives (· != 0) hc hl hlo hhi hg
  refine ⟨hz.trans ?_, hnz.trans ?_⟩
  · simp only [beq_iff_eq]
  · simp only [bne_iff_ne, ne_eq, ite_not]

/-- Settles O6: a word is looked at only after the skip count, and `nop` and the skip words come to their bodies. -/
theorem nopsAndSkips : Obligations.NopsAndSkips :=
  ⟨nopResults, skippedWord, skipResults⟩

end Sys2Proof.Machine
end

section
/-!
O1 (05 R95 to R97, R109; 06 R114): the integer, logic, shift, move, field and count words, and the address words.

Each word is `issueWord` with the register-use check and a body that reads its sources and delivers a value; the tables of
`Spec` give both (`exec_of_exact`, `exec_of_logic`, `exec_of_fields`, `exec_of_address`). An integer word computes its exact
value (`Spec.exact`), which a `mod` may finish; without one it wraps to the word that the spec writes (`exact_wraps`).
-/

namespace Sys2Proof.Machine

/-! ### Values -/

section
variable (x y : Word)

/-- The signed remainder is what the quotient leaves (05 R96); where y is 0, it is x. -/
theorem srem_eq_sub : srem x y = x.toInt - y.toInt * sdiv x y := by
  unfold srem sdiv
  split
  · simp
  · exact Int.tmod_def ..

theorem urem_eq_sub : urem x y = x.toNat - y.toNat * udiv x y := by
  unfold urem udiv
  split
  · simp
  · rw [Int.natCast_mod, Int.emod_def, Int.natCast_div]

theorem ofInt_sdiv : BitVec.ofInt 64 (sdiv x y) = Spec.quot x y := by
  unfold sdiv Spec.quot
  split <;> rfl

theorem ofInt_udiv : BitVec.ofInt 64 (udiv x y) = Spec.quotn x y := by
  unfold udiv Spec.quotn
  split
  · rfl
  · exact BitVec.ofInt_natCast ..

/-- A difference, wrapped, is the difference of the words (03 R46). -/
theorem ofInt_sub (p q : Int) : BitVec.ofInt 64 (p - q) = BitVec.ofInt 64 p - BitVec.ofInt 64 q := by
  rw [Int.sub_eq_add_neg, BitVec.ofInt_add, BitVec.ofInt_neg, BitVec.sub_eq_add_neg]

theorem ofInt_rem : BitVec.ofInt 64 (x.toInt - y.toInt * sdiv x y) = x - y * Spec.quot x y := by
  rw [ofInt_sub, BitVec.ofInt_mul, ofInt_sdiv, BitVec.ofInt_toInt, BitVec.ofInt_toInt]

theorem ofInt_toNat : BitVec.ofInt 64 (x.toNat : Int) = x := by
  rw [BitVec.ofInt_natCast, BitVec.ofNat_toNat, BitVec.setWidth_eq]

theorem ofInt_remn : BitVec.ofInt 64 (x.toNat - y.toNat * udiv x y) = x - y * Spec.quotn x y := by
  rw [ofInt_sub, BitVec.ofInt_mul, ofInt_udiv, ofInt_toNat, ofInt_toNat]

theorem ofInt_abs : BitVec.ofInt 64 |x.toInt| = if x.msb then -x else x := by
  rw [BitVec.msb_eq_toInt]
  by_cases h : x.toInt < 0
  · rw [abs_of_neg h, if_pos (decide_eq_true h), BitVec.ofInt_neg, BitVec.ofInt_toInt]
  · rw [abs_of_nonneg (by omega), if_neg (by simpa using h), BitVec.ofInt_toInt]

theorem sextLow_eq {n : Nat} (hn : 0 < n) : sextLow x n = (x.setWidth n).signExtend 64 := by
  obtain ⟨k, rfl⟩ : ∃ k, n = k + 1 := ⟨n - 1, by omega⟩
  have hsign : x.toNat % 2 ^ (k + 1) < 2 ^ k ↔ 2 * (x.toNat % 2 ^ (k + 1)) < 2 ^ (k + 1) := by omega
  unfold sextLow sval toWord BitVec.signExtend BitVec.toInt
  simp only [BitVec.toNat_setWidth, Nat.add_sub_cancel, hsign]

theorem zextLow_eq (n : Nat) : zextLow x n = (x.setWidth n).setWidth 64 := by
  unfold zextLow
  rw [← BitVec.toNat_setWidth, BitVec.ofNat_toNat]

theorem bitsOut_eq (p n : Nat) : bitsOut x p n = (x.extractLsb' p n).setWidth 64 := by
  unfold bitsOut
  rw [← BitVec.ofNat_toNat, BitVec.extractLsb'_toNat, Nat.shiftRight_eq_div_pow]

/-- Bit by bit: the field comes from x, the rest stays. -/
theorem getLsbD_bitsIn (d : Word) (p n : Nat) {i : Nat} (hi : i < 64) :
    (bitsIn d x p n).getLsbD i = if p ≤ i ∧ i < p + n then x.getLsbD (i - p) else d.getLsbD i := by
  have hm : (BitVec.ofNat 64 ((2 ^ n - 1) * 2 ^ p)).getLsbD i = decide (p ≤ i ∧ i < p + n) := by
    rw [BitVec.getLsbD_ofNat, Nat.testBit_mul_two_pow, Nat.testBit_two_pow_sub_one]
    grind
  unfold bitsIn
  simp only [BitVec.getLsbD_or, BitVec.getLsbD_and, BitVec.getLsbD_not, BitVec.getLsbD_shiftLeft, hm, hi, decide_true,
    Bool.true_and]
  split
  · next h => simp [h]
  · next h => simp [h]

end

/-- A search from 0 up finds the first place where `p` holds. -/
theorem find?_range_getD {p : Nat → Bool} {m n : Nat} (hn : n ≤ m) (hlo : ∀ k < n, p k = false)
    (hhi : n < m → p n = true) : ((List.range m).find? p).getD m = n := by
  rcases Nat.lt_or_eq_of_le hn with h | rfl
  · rw [List.find?_range_eq_some.2 ⟨hhi h, List.mem_range.2 h, fun k hk => by simp [hlo k hk]⟩, Option.getD_some]
  · rw [List.find?_range_eq_none.2 fun k hk => by simp [hlo k hk], Option.getD_none]

theorem popCount_eq_length (v n : Nat) : popCount v n = ((List.range n).filter fun k => v.testBit k).length := by
  induction n with
  | zero => rfl
  | succ n ih =>
    rw [popCount, ih, List.range_succ, List.filter_append, List.length_append, Nat.add_comm, ← Nat.toNat_testBit]
    cases h : v.testBit n <;> simp [h]

/-! ### What each word issues -/

section
variable {i : Instr} {w : Spec.Scalar} {u : Bool} {f : List Word → Int} (s : State)

theorem exists_exact (ha : Spec.arithmetic i = some w) : ∃ u f, Spec.exact i = some (u, f) := by
  cases i <;> cases ha <;> exact ⟨_, _, rfl⟩

/-- An integer word computes its exact value and may follow a `mod`. -/
theorem exec_of_exact (ha : Spec.arithmetic i = some w) (he : Spec.exact i = some (u, f)) :
    exec i s = issueWord w.sf .x true (usePre w.lat w.srcs [w.dst]) (numOp w.lat w.dst w.srcs (!u) f) s := by
  cases i <;> cases ha <;> cases he
  case rem => simp only [exec_rem, execRem, srem_eq_sub]; rfl
  case remn => simp only [exec_remn, execRemn, urem_eq_sub]; rfl
  case min => simp only [exec_min, execMin, min_def]; rfl
  case max => simp only [exec_max, execMax, max_def]; rfl
  case minn => simp only [exec_minn, execMinn, min_def, Nat.cast_ite]; rfl
  case maxn => simp only [exec_maxn, execMaxn, max_def, Nat.cast_ite]; rfl
  case abs => simp only [exec_abs, execAbs, Int.natCast_natAbs]; rfl
  all_goals rfl

/-- Without a `mod`, the exact value wraps to the word of 05 R96. -/
theorem exact_wraps (ha : Spec.arithmetic i = some w) (he : Spec.exact i = some (u, f)) (l : List Word) :
    BitVec.ofInt 64 (f l) = w.val l := by
  cases i <;> cases ha <;> cases he
  case addW | addH => simp only [BitVec.ofInt_add, BitVec.ofInt_toInt]
  case addiW | addiH => simp only [BitVec.ofInt_add, BitVec.ofInt_toInt]; rfl
  case subW | subH => simp only [ofInt_sub, BitVec.ofInt_toInt]
  case mul => simp only [BitVec.ofInt_mul, BitVec.ofInt_toInt]
  case mulh => rfl
  case mulhn => exact BitVec.ofInt_natCast ..
  case div => exact ofInt_sdiv ..
  case divn => exact ofInt_udiv ..
  case rem => exact (ofInt_rem ..)
  case remn => exact (ofInt_remn ..)
  case min | max => simp only [apply_ite (BitVec.ofInt 64), BitVec.ofInt_toInt, BitVec.sle_iff_toInt_le]
  case minn | maxn => simp only [apply_ite (BitVec.ofInt 64), ofInt_toNat, BitVec.ule_iff_toNat_le]
  case abs => exact ofInt_abs ..
  case neg => simp only [BitVec.ofInt_neg, BitVec.ofInt_toInt]

/-- The other words of the X map have the result of 05 R96, and no `mod` may precede them. -/
theorem exec_of_logic (h : Spec.logic i = some w) :
    exec i s = issueWord w.sf .x false (usePre w.lat w.srcs [w.dst]) (regOp w.lat w.dst w.srcs w.val) s := by
  cases i <;> cases h
  case shl | shr | sra => simp only [BitVec.toNat_setWidth]; rfl
  case cmpeq => simp only [exec_cmpeq, execCmpeq, boolWord, beq_iff_eq]; rfl
  case cmpeqi => simp only [exec_cmpeqi, execCmpeqi, boolWord, beq_iff_eq]; rfl
  case cmplt => simp only [exec_cmplt, execCmplt, boolWord, BitVec.slt_iff_toInt_lt]; rfl
  case cmplti d a i =>
    have hi : (i.signExtend 64).toInt = i.toInt := BitVec.toInt_signExtend_of_le (by decide)
    simp only [exec_cmplti, execCmplti, boolWord, BitVec.slt_iff_toInt_lt, hi]; rfl
  case cmpltn => simp only [exec_cmpltn, execCmpltn, boolWord, BitVec.ult_iff_toNat_lt]; rfl
  all_goals rfl

/-- A width code that is not reserved says how many low bits are extended. -/
theorem fields_sext {sf : Bool} {d a c : BitVec 5} (h : Spec.fields (.sext sf d a c) = some w) :
    c.toNat < 3 ∧ w = ⟨sf, 1, d.toNat, [a.toNat], fun l => sextLow (arg l 0) (widthOf c)⟩ := by
  simp only [Spec.fields] at h
  split at h
  case h_4 => cases h
  all_goals
    next hc => cases h; simp [hc, widthOf, sextLow_eq, arg, Spec.x]

theorem fields_zext {sf : Bool} {d a c : BitVec 5} (h : Spec.fields (.zext sf d a c) = some w) :
    c.toNat < 3 ∧ w = ⟨sf, 1, d.toNat, [a.toNat], fun l => zextLow (arg l 0) (widthOf c)⟩ := by
  simp only [Spec.fields] at h
  split at h
  case h_4 => cases h
  all_goals
    next hc => cases h; simp [hc, widthOf, zextLow_eq, arg, Spec.x]

theorem fields_bfx {sf : Bool} {d a : BitVec 5} {l p : BitVec 6} (h : Spec.fields (.bfx sf d a l p) = some w) :
    p.toNat + l.toNat + 1 ≤ 64 ∧
      w = ⟨sf, 1, d.toNat, [a.toNat], fun v => bitsOut (arg v 0) p.toNat (l.toNat + 1)⟩ := by
  obtain ⟨hfit, hw⟩ := Option.ite_none_right_eq_some.1 h
  cases hw
  simp only [bitsOut_eq]
  exact ⟨hfit, rfl⟩

theorem fields_bfi {sf : Bool} {d a : BitVec 5} {l p : BitVec 6} (h : Spec.fields (.bfi sf d a l p) = some w) :
    p.toNat + l.toNat + 1 ≤ 64 ∧ w = ⟨sf, 1, d.toNat, [a.toNat, d.toNat],
      fun v => bitsIn (arg v 1) (arg v 0) p.toNat (l.toNat + 1)⟩ := by
  obtain ⟨hfit, hw⟩ := Option.ite_none_right_eq_some.1 h
  cases hw
  refine ⟨hfit, ?_⟩
  congr 1
  funext v
  refine BitVec.eq_of_getLsbD_eq fun k hk => ?_
  have hrange : k ≤ p.toNat + l.toNat ↔ k < p.toNat + (l.toNat + 1) := by omega
  rw [getLsbD_bitsIn _ _ _ _ hk, BitVec.getLsbD_ofFnLE, dif_pos hk]
  exact if_congr (and_congr_right' hrange) rfl rfl

/-- The words with a width or a bit field, where the field is none that 04 R84 and R85 reserve. -/
theorem exec_of_fields (h : Spec.fields i = some w) :
    exec i s = issueWord w.sf .x false (usePre w.lat w.srcs [w.dst]) (regOp w.lat w.dst w.srcs w.val) s := by
  cases i
  case sext sf d a c =>
    obtain ⟨hc, rfl⟩ := fields_sext h
    exact congrArg (issueWord sf .x false · _ s) (pre_unreserved _ (decide_eq_false (by omega)))
  case zext sf d a c =>
    obtain ⟨hc, rfl⟩ := fields_zext h
    exact congrArg (issueWord sf .x false · _ s) (pre_unreserved _ (decide_eq_false (by omega)))
  case bfx sf d a l p =>
    obtain ⟨hfit, rfl⟩ := fields_bfx h
    exact congrArg (issueWord sf .x false · _ s) (pre_unreserved _ (decide_eq_false (by omega)))
  case bfi sf d a l p =>
    obtain ⟨hfit, rfl⟩ := fields_bfi h
    exact congrArg (issueWord sf .x false · _ s) (pre_unreserved _ (decide_eq_false (by omega)))
  all_goals cases h

/-- The address words of the A-half. -/
theorem exec_of_address (h : Spec.address i = some w) :
    exec i s = issueWord w.sf .a false (usePre w.lat w.srcs [w.dst]) (regOp w.lat w.dst w.srcs w.val) s := by
  cases i
  case aadd | aaddiW | aaddiH | amovW | amovH => cases h; rfl
  case kset sf d a =>
    obtain ⟨⟨hlo, hhi⟩, hw⟩ := Option.ite_none_right_eq_some.1 h
    cases hw
    have hd : notCounter d = false := by simp only [notCounter, Bool.or_eq_false_iff, decide_eq_false_iff_not]; omega
    exact congrArg (issueWord sf .a false · _ s) (pre_unreserved _ hd)
  all_goals cases h

end

/-! ### The statements -/

theorem arithmeticResults : Spec.arithmeticResults := by
  intro i w s s' l hi hc hl hg ht
  obtain ⟨u, f, he⟩ := exists_exact hi
  rw [exec_of_exact s hi he]
  exact numWord_x hc hl hg (exact_wraps hi he l) ht

theorem logicResults : Spec.logicResults := by
  intro i w s s' l hi hc hl hg ht
  rw [exec_of_logic s hi]
  exact regWord_x hc hl hg rfl ht

theorem fieldResults : Spec.fieldResults := by
  intro i w s s' l hi hc hl hg ht
  rw [exec_of_fields s hi]
  exact regWord_x hc hl hg rfl ht

theorem countResults : Spec.countResults := by
  intro sf d a s s' v n hc hl hg ht
  refine ⟨fun ⟨hn, hlo, hhi⟩ => regWord_x hc hl hg ?_ ht, fun ⟨hn, hlo, hhi⟩ => regWord_x hc hl hg ?_ ht,
    fun hn => regWord_x hc hl hg ?_ ht⟩
  · exact congrArg _ (find?_range_getD (p := fun k => v.getLsbD (63 - k)) hn hlo hhi)
  · exact congrArg _ (find?_range_getD hn hlo hhi)
  · exact congrArg _ ((popCount_eq_length v.toNat 64).trans hn.symm)

theorem addressResults : Spec.addressResults := by
  intro i w s s' l hi hc hl hg
  have ht : s.takes w.dst (w.val l) := fun ha => absurd hl.1 ha
  rw [exec_of_address s hi]
  exact issueWord_ok hc (by rw [hl.1]; rfl) (usePre_a hl) (regOp_gives hg ht) (by simp)

/-- Settles O1: each word computes the value of its table and delivers it. -/
theorem scalarResults : Obligations.ScalarResults :=
  ⟨arithmeticResults, logicResults, fieldResults, countResults, addressResults⟩

end Sys2Proof.Machine
end

section
/-!
O4 (05 R99, R100; 04 R88, R89): the numeric words under a `mod`.

A word that yields a numeric result is issued as without the `mod` (`issueWord_modified`), and its exact value
(`exec_of_exact`) is finished under the flags that waited for it (`finishInt_eq_finished`).
-/

namespace Sys2Proof.Machine

/-- A numeric word without a stop flag comes to its body though a `mod` waits for it (04 R89). -/
theorem issueWord_modified {s : State} {m : ModWord} {cls : Cls} {pre : State → Ctx → Pre} {body : State → Ctx → Res}
    (hc : Spec.clearUnder s m) (hcls : classOk cls s.cur.half s.my.routineBound = true)
    (hp : pre (s.noted false) s.ctx = {}) :
    issueWord false cls true pre body s =
      .next (finish (s.noted false) s.ctx false (body (s.noted false) s.ctx)) := by
  obtain ⟨l, hl⟩ := s.noted_me false
  obtain ⟨hskip, -, hcount, hpark⟩ := hc
  have hspacing : ¬ s.my.ctl.stopmax ≤ s.me.scnt + 1 := Nat.not_le.2 hcount
  have hnote : s.noteIssue s.ctx false = s.noted false := rfl
  simp [issueWord, issueNext, hnote, hl, hp, hcls, hskip, hspacing, hpark]

theorem ofNat_wrapBits (v : Int) : BitVec.ofNat 64 (wrapBits 64 v) = BitVec.ofInt 64 v := by
  apply BitVec.eq_of_toNat_eq
  simp [wrapBits, BitVec.toNat_ofInt, Int.emod_lt_of_pos]

/-- The bits of an integer result under a `mod` are those of 05 R99: the type's limits are where the model has them. -/
theorem finishInt_eq_finished (m : ModWord) (u : Bool) (v : Int) :
    BitVec.ofNat 64 (finishInt (some m) (!u) 64 v) = Spec.finished m u v := by
  simp only [finishInt, apply_ite (BitVec.ofNat 64), ofNat_wrapBits, Bool.or_eq_true, Nat.cast_pow, Nat.cast_ofNat,
    ModWord.scaleInt, limit, Int.natCast_natAbs]
  cases u <;> rfl

theorem modifiedResults : Spec.modifiedResults := by
  intro i w u f m s s' l ha he hsf hc hl hg ht
  obtain ⟨k, hk⟩ := s.noted_me w.sf
  rw [exec_of_exact s ha he]
  rw [hsf] at hg hk ⊢
  have hv : (fun l => BitVec.ofNat 64 (finishInt (some m) (!u) 64 (f l))) = fun l => Spec.finished m u (f l) :=
    funext fun l => finishInt_eq_finished m u (f l)
  have hbody : numOp w.lat w.dst w.srcs (!u) f (s.noted false) s.ctx =
      .ok (s'.put s.ctx w.lat w.dst (Spec.finished m u (f l))) .seq := by
    rw [numOp, hk, hc.2.1, hv]
    exact regOp_gives (f := fun l => Spec.finished m u (f l)) hg ht
  rw [issueWord_modified hc (classOk_x hl.1) (usePre_x hl), hbody, finish_ok _ _ _ _ _ (by simp)]

theorem modWaits : Spec.modWaits := fun _ _ _ _ _ _ _ hc => word_e hc rfl (by simp)

/-- Settles O4: a `mod` waits for the next word, and a numeric word's exact value is finished under it. -/
theorem modResults : Obligations.ModResults :=
  ⟨modifiedResults, modWaits⟩

end Sys2Proof.Machine
end

section
/-!
O7 (05 R98, R111; 02 R26): relative registers with their bounds fault, and the words that write the OX bank.

The relative words compare `ix` + k with the bounds before they touch a register (`relOk_noted`); `setix` and `addix`
deliver to `ix`, which takes only an index in bounds (`ixOp_takes`, `ixOp_out`).
-/

namespace Sys2Proof.Machine

section
variable {s s' : State} {sf : Bool} {srcs dsts : List Nat} {l : List Word}

/-! ### The X-half -/

theorem classOk_xOnly (hx : s.cur.half = .x) : classOk .xOnly s.cur.half s.my.routineBound = true := by
  rw [hx]
  rfl

/-- The registers of a word of latency 1 that only the X-stream issues. -/
theorem State.legalX_of_x (hx : s.cur.half = .x) (hs : ∀ r ∈ srcs, srcOkX .x s.my.routineBound r)
    (hd : ∀ r ∈ dsts, dstOkX .x r) : s.legalX 1 srcs dsts := by
  rw [← hx] at hs hd
  exact ⟨by simp [hx], hs, hd, by simp⟩

/-! ### Relative registers -/

/-- The bounds of 05 R111 are those of the issuing stream. -/
theorem relOk_noted (i : Int) :
    relOk (s.noted sf) s.ctx i = true ↔ 0 ≤ i ∧ i ≤ (s.me.wlimit : Int) - 1 := by
  obtain ⟨k, hk⟩ := s.noted_me sf
  simp [relOk, hk]

/-- Every destination but `ix` takes every value. -/
theorem State.takes_of_ne {d : Nat} {v : Word} (hd : d ≠ 24) : s.takes d v := fun _ hix => absurd hix hd

/-- A value that the destination does not take is an index out of bounds (05 R112). -/
theorem deliver_out {lat d : Nat} {v : Word} (ht : ¬ s.takes d v) :
    deliver (s.noted sf) s' s.ctx lat d v = .trap (s.noted sf) 0x07 0 v := by
  obtain ⟨k, hk⟩ := s.noted_me sf
  obtain ⟨ha, hd, hv⟩ : s.cur.half ≠ .a ∧ d = 24 ∧ ¬ (0 ≤ v.toInt ∧ v.toInt ≤ (s.me.wlimit : Int) - 1) := by
    simpa only [State.takes, Classical.not_imp] using ht
  have hout : ixOut (s.noted sf) s.ctx v = true := by
    simp only [ixOut, hk, Bool.or_eq_true, decide_eq_true_eq]
    omega
  simp [deliver, ha, hd, hout]

/-- A word that writes `ix` with an index in bounds. -/
theorem ixOp_takes {f : List Word → Word} {v : Word} (hc : s.clear sf) (hx : s.cur.half = .x)
    (hs : ∀ r ∈ srcs, srcOkX .x s.my.routineBound r) (hg : s.gives sf 24 srcs s' l)
    (hv : f l = v) (ht : s.takes 24 v) :
    ixOp sf srcs f s = .next ((s'.put s.ctx 1 24 v).went s.ctx sf .seq) := by
  subst hv
  exact issueWord_ok hc (classOk_xOnly hx) (usePre_x (State.legalX_of_x hx hs (by simp))) (regOp_gives hg ht) (by simp)

/-- A word that would write `ix` with an index out of bounds faults with that index, and pops nothing. -/
theorem ixOp_out {f : List Word → Word} {v : Word} (hc : s.clear sf) (hx : s.cur.half = .x)
    (hs : ∀ r ∈ srcs, srcOkX .x s.my.routineBound r) (hg : s.gives sf 24 srcs s' l)
    (hv : f l = v) (ht : ¬ s.takes 24 v) :
    ixOp sf srcs f s = .next ((s.noted sf).raise s.ctx 0x07 0 v s.me.pc s.me.scnt) := by
  subst hv
  refine issueWord_trap hc (classOk_xOnly hx) (usePre_x (State.legalX_of_x hx hs (by simp))) ?_
  rw [regOp, sources_of_gives hg]
  exact deliver_out ht

/-- `ix` as a source: it can always be read. -/
theorem gives_ix (hx : s.cur.half = .x) : s.gives sf 24 [24] (s.noted sf) [s.my.regs.ix] := by
  simp [State.gives, State.sources, withSeen, Core.srcEmpty, Core.srcParity, Core.srcVal, State.pushFull, isQl, hx]

/-- `movx` and `movxw`: with `ix` + k in bounds the word goes on, out of bounds it faults with that index. -/
theorem relWord {pre : State → Ctx → Pre} {body : Int → State → Ctx → Res} (k : Int) (hc : s.clear sf)
    (hx : s.cur.half = .x) (hp : pre (s.noted sf) s.ctx = {}) :
    let i := s.my.regs.ix.toInt + k
    let word := issueWord sf .xOnly false pre (fun s x =>
      let i := (s.core x.core).regs.ix.toInt + k
      if relOk s x i then body i s x else .trap s 0x07 0 (toWord i)) s
    ((0 ≤ i ∧ i ≤ (s.me.wlimit : Int) - 1) → ∀ s', body i (s.noted sf) s.ctx = .ok s' .seq →
      word = .next (s'.went s.ctx sf .seq)) ∧
    (¬ (0 ≤ i ∧ i ≤ (s.me.wlimit : Int) - 1) →
      word = .next ((s.noted sf).raise s.ctx 0x07 0 (BitVec.ofInt 64 i) s.me.pc s.me.scnt)) := by
  refine ⟨fun hi s' hb => issueWord_ok hc (classOk_xOnly hx) hp ?_ (by simp),
    fun hi => issueWord_trap hc (classOk_xOnly hx) hp ?_⟩
  · simp only [State.noted_regs, State.ctx_core]
    rw [if_pos ((relOk_noted _).2 hi), hb]
  · simp only [State.noted_regs, State.ctx_core]
    exact if_neg (mt (relOk_noted _).1 hi)

theorem indexWords : Spec.indexWords := by
  intro sf s s' l hc hx out
  refine ⟨fun d k hd => ?movx, fun a k ha => ?movxw, fun a k ha hg => ?setix, fun k j => ?addix⟩
  case movx =>
    have hp := usePre_x (sf := sf) (State.legalX_of_x (srcs := []) (dsts := [d.toNat]) hx (by simp) (by simpa using hd))
    obtain ⟨hin, hout⟩ := relWord (body := fun i => regOp 1 d.toNat [i.toNat] fun l => arg l 0) k.toInt hc hx hp
    exact ⟨fun hi hg ht => hin hi _ (regOp_gives hg ht), hout⟩
  case movxw =>
    have hp := usePre_x (sf := sf) (State.legalX_of_x (srcs := [a.toNat]) (dsts := []) hx (by simpa using ha) (by simp))
    obtain ⟨hin, hout⟩ := relWord (body := fun i => regOp 1 i.toNat [a.toNat] fun l => arg l 0) k.toInt hc hx hp
    refine ⟨fun hi hlt hg => ?_, hout⟩
    have hne : (s.my.regs.ix.toInt + k.toInt).toNat ≠ 24 := by omega
    exact hin hi _ (regOp_gives hg (State.takes_of_ne hne))
  case setix =>
    have hs : ∀ r ∈ [a.toNat], srcOkX .x s.my.routineBound r := by simpa using ha
    exact ⟨ixOp_takes hc hx hs hg rfl, ixOp_takes hc hx hs hg rfl, ixOp_out hc hx hs hg rfl, ixOp_out hc hx hs hg rfl⟩
  case addix =>
    have hs : ∀ r ∈ [24], srcOkX .x s.my.routineBound r := by simp [srcOkX]
    have hg := gives_ix (sf := sf) hx
    exact ⟨ixOp_takes hc hx hs hg rfl, ixOp_out hc hx hs hg rfl, ixOp_takes hc hx hs hg rfl, ixOp_out hc hx hs hg rfl⟩

/-! ### The OX bank -/

theorem classOk_eOnly (hw : s.cur.half ≠ .w) : classOk .eOnly s.cur.half s.my.routineBound = true := by
  cases h : s.cur.half
  case w => exact absurd h hw
  all_goals rfl

theorem oxPut_vals {n : Nat} {f : List Word → Word} (hg : (s.noted sf).sources s.ctx 0 srcs = .vals s' l) :
    oxPut n srcs f (s.noted sf) s.ctx = .ok (s'.land s.cur.core s.cur.half 1
      (if s.cur.half = .a then .oxA n else .oxX n) (f l)) .seq := by
  rw [oxPut, hg]
  rfl

theorem oxResults : Spec.oxResults := fun _ _ _ hc hw =>
  ⟨fun _ _ _ hl hg => issueWord_ok hc (classOk_eOnly hw) (usePre_e hl) (oxPut_vals hg) (by simp),
    fun _ => issueWord_ok hc (classOk_eOnly hw) rfl (oxPut_vals (sources_nil _ _)) (by simp)⟩

end

/-- Settles O7: the bounds are checked before the register is touched, and the OX words write their half's bank. -/
theorem indexAndOxWords : Obligations.IndexAndOxWords :=
  ⟨indexWords, oxResults⟩

end Sys2Proof.Machine
end

section
/-!
O9 (05 R103 to R107; 09 R193; 02 R29): calls and returns, the window after a slide, and the words that use its port.

A call or a return is decided by the window's numbers alone (`finish_callTo`, `ret_clear`); what a slide clears is said of
places of the window file, which stack registers r and r + 64 share (`clear_win`).
-/

namespace Sys2Proof.Machine

/-! ### Calls and returns -/

theorem wfld_eq_extract (w : Word) (hi lo : Nat) : wfld w hi lo = (w.extractLsb' lo (hi + 1 - lo)).toNat := by
  rw [wfld, fld, BitVec.extractLsb'_toNat, Nat.shiftRight_eq_div_pow]

/-- Reading sources pops queues and changes no control register. -/
theorem sources_ctl {s s' : State} {x : Ctx} {d : Nat} {srcs : List Nat} {l : List Word}
    (h : s.sources x d srcs = .vals s' l) : (s'.core x.core).ctl = (s.core x.core).ctl := by
  have hpop : ((s.core x.core).popSrcs x.now srcs).ctl = (s.core x.core).ctl := by
    refine foldl_keeps (fun k : Core => k.ctl = (s.core x.core).ctl) _ (fun k r hk => ?_) srcs _ rfl
    split
    · rw [← hk]; simp [Core.pop]
    · exact hk
  unfold State.sources at h
  dsimp only at h
  generalize (if x.half = .a then none else (withSeen srcs).find? ((s.core x.core).srcEmpty x.now)) = empty at h
  generalize (if x.half = .a then none else (withSeen srcs).find? ((s.core x.core).srcParity x.half x.now)) = bad at h
  cases empty with
  | some p => cases h
  | none =>
    cases hfull : s.pushFull x d with
    | true => simp [hfull] at h
    | false =>
      cases bad with
      | some p => simp [hfull] at h
      | none =>
        simp only [hfull, Bool.false_eq_true, if_false, Got.vals.injEq] at h
        rw [← h.1]
        split
        · rw [State.setCore_core, if_pos rfl, hpop]
        · rfl

/-- What a word comes to that would fault after it read its sources: the fault leaves them as they were. -/
def Res.unpopped (s0 : State) : Res → Res
  | .trap _ code sub v => .trap s0 code sub v
  | r => r

theorem callTo_unpopped (s : State) (x : Ctx) (target : BitVec 32) (n : Nat) :
    (callTo s x target n).unpopped s = callTo s x target n := by
  unfold callTo
  dsimp only
  split_ifs <;> rfl

/-- A call by the window's numbers (05 R105 to R107): the overflow fault, the slide, the window trap, or the spill. -/
theorem finish_callTo {s0 s : State} {x : Ctx} {target : BitVec 32} (sf : Bool) (n : Nat)
    (hw : 0 < (s.core x.core).ctl.wsize) :
    finish s0 x sf ((callTo s x target n).unpopped s0) = Spec.called s0 s x sf target n := by
  have hover : (s.core x.core).ctl.wsize < ((s.core x.core).sx.wptr + n) / 4 + 4 ↔
      (s.core x.core).ctl.wsize - 1 < ((s.core x.core).sx.wptr + n) / 4 + 3 := by omega
  have hcap : Spec.capacity = Core.capacity := rfl
  simp only [callTo, Spec.called, hover, hcap]
  split_ifs <;> rfl

section
variable {s s' : State} {sf : Bool}

theorem callOp_clear (n : Nat) (i : BitVec 24) (hc : s.clear sf) (hx : s.cur.half = .x) (hw : 0 < s.my.ctl.wsize) :
    callOp sf n i s =
      .next (Spec.called (s.noted sf) (s.noted sf) s.ctx sf (s.me.pc + i.signExtend 32) n) := by
  have hw' : 0 < ((s.noted sf).core s.ctx.core).ctl.wsize := by rwa [State.noted_ctl]
  rw [callOp, issueWord_clear hc (classOk_xOnly hx) rfl rfl (by simp [noPre]), ← finish_callTo sf n hw', callTo_unpopped]
  rfl

theorem callrOp_gives (n : Nat) {a : BitVec 5} {v : Word} (hc : s.clear sf) (hx : s.cur.half = .x)
    (hw : 0 < s.my.ctl.wsize) (ha : srcOkX .x s.my.routineBound a.toNat) (hg : s.gives sf 0 [a.toNat] s' [v]) :
    callrOp sf n a s = .next (Spec.called (s.noted sf) s' s.ctx sf (v.setWidth 32) n) := by
  have hw' : 0 < (s'.core s.ctx.core).ctl.wsize := by rwa [sources_ctl (sources_of_gives hg), State.noted_ctl]
  have hp : eSrc [a.toNat] (s.noted sf) s.ctx = {} :=
    usePre_x (State.legalX_of_x hx (by simpa using ha) (by simp))
  rw [callrOp, issueWord_clear hc (classOk_xOnly hx) (by rw [hp]) (by rw [hp]) (by simp [hp]), ← finish_callTo sf n hw']
  simp only [sources_of_gives hg]
  rfl

theorem ret_clear (hc : s.clear sf) (hx : s.cur.half = .x) :
    exec (.ret sf) s = .next (Spec.returned (s.noted sf) s.ctx sf) := by
  rw [exec_ret, execRet, issueWord_clear hc (classOk_xOnly hx) rfl rfl (by simp [noPre])]
  generalize s.noted sf = t
  generalize s.ctx = x
  simp only [Spec.returned, wfld_eq_extract, windowVal]
  split_ifs <;> rfl

end

theorem callResults : Spec.callResults := by
  intro sf s hc hx hw
  refine ⟨fun p hp i => ?_, fun p hp a s' v ha hg => ?_, ret_clear hc hx⟩
  · obtain rfl | rfl | rfl : p = (.call4, 4) ∨ p = (.call8, 8) ∨ p = (.call12, 12) := by
      simpa [Spec.calls] using hp
    · exact callOp_clear 4 i hc hx hw
    · exact callOp_clear 8 i hc hx hw
    · exact callOp_clear 12 i hc hx hw
  · obtain rfl | rfl | rfl : p = (.callr4, 4) ∨ p = (.callr8, 8) ∨ p = (.callr12, 12) := by
      simpa [Spec.callRs] using hp
    · exact callrOp_gives 4 hc hx hw ha hg
    · exact callrOp_gives 8 hc hx hw ha hg
    · exact callrOp_gives 12 hc hx hw ha hg

/-! ### `wsave` and `wrest` -/

theorem windowWords : Spec.windowWords := by
  intro sf s hc hx t count
  obtain ⟨k, hk⟩ := s.noted_me sf
  refine ⟨issueWord_ok hc (classOk_xOnly hx) rfl ?_ (by simp), fun hp => ?_⟩
  · simp only [hk, wfld_eq_extract, Bool.and_eq_true, beq_iff_eq]
    rfl
  · rw [exec_wrest, execWrest, issueWord_clear hc (classOk_xOnly hx) rfl rfl (fun _ => hp)]
    simp only [hk, wfld_eq_extract, beq_iff_eq]
    rfl

/-! ### Places of the window file -/

theorem mem_rangeFrom {lo n r : Nat} : r ∈ rangeFrom lo n ↔ lo ≤ r ∧ r < lo + n := by
  simp only [rangeFrom, List.mem_map, List.mem_range]
  exact ⟨fun ⟨k, hk, hr⟩ => by omega, fun h => ⟨r - lo, by omega, by omega⟩⟩

theorem rangeFrom_succ (lo n : Nat) : rangeFrom lo (n + 1) = rangeFrom lo n ++ [lo + n] := by
  simp only [rangeFrom, List.range_succ, List.map_append, List.map_cons, List.map_nil]

theorem Core.setWin_regs (k : Core) (n : Nat) (v : Word) : (k.setWin n v).regs =
    { k.regs with win := (k.setWin n v).regs.win, winBad := (k.setWin n v).regs.winBad } := rfl

theorem Core.setWin_win (k : Core) (n : Nat) (v : Word) (p : Nat) :
    vget 0 (k.setWin n v).regs.win p = if p = n % 64 then v else vget 0 k.regs.win p :=
  vget_vput _ _ _ _ _ (Nat.mod_lt _ (by decide))

/-- Registers cleared one after another: their places read zero, and every other place and part of the core stays. -/
theorem clear_win (k : Core) (lo n : Nat) :
    let t := (rangeFrom lo n).foldl (fun c r => c.setWin r 0) k
    t.sx = k.sx ∧ t.regs = { k.regs with win := t.regs.win, winBad := t.regs.winBad } ∧
      (∀ r, lo ≤ r → r < lo + n → vget 0 t.regs.win (r % 64) = 0) ∧
      ∀ p, (∀ r, lo ≤ r → r < lo + n → p ≠ r % 64) → vget 0 t.regs.win p = vget 0 k.regs.win p := by
  induction n with
  | zero => exact ⟨rfl, rfl, fun r _ _ => by omega, fun _ _ => rfl⟩
  | succ n ih =>
    obtain ⟨hsx, hregs, hzero, hkept⟩ := ih
    rw [rangeFrom_succ, List.foldl_append]
    refine ⟨hsx, ?_, fun r hlo hhi => ?_, fun p hp => ?_⟩
    · rw [List.foldl_cons, List.foldl_nil, Core.setWin_regs, hregs]
    · rw [List.foldl_cons, List.foldl_nil, Core.setWin_win]
      split
      · rfl
      · next hne => exact hzero r hlo (by by_contra hge; exact hne (by rw [show r = lo + n by omega]))
    · rw [List.foldl_cons, List.foldl_nil, Core.setWin_win, if_neg (hp _ (by omega) (by omega))]
      exact hkept p fun r hlo hhi => hp r hlo (by omega)

theorem Core.callSlide_sx (k : Core) (e n : Nat) : (k.callSlide e n).sx =
    { k.sx with wptr := k.sx.wptr + n, rbot := k.sx.rbot + e, rcnt := k.sx.rcnt + n / 4 - e } :=
  (clear_win ..).1

theorem windowSlides : Spec.windowSlides := by
  intro k e n hn
  obtain ⟨-, hregs, hzero, hkept⟩ := clear_win { k with sx := { k.sx with
    wptr := k.sx.wptr + n, rbot := k.sx.rbot + e, rcnt := k.sx.rcnt + n / 4 - e } } (k.sx.wptr + 16) n
  have hptr : (k.callSlide e n).sx.wptr = k.sx.wptr + n := by rw [Core.callSlide_sx]
  refine ⟨fun i hi => ?_, k.callSlide_sx e n, hregs, rfl⟩
  rw [hptr]
  by_cases h : i < 16 - n
  · rw [if_pos h, ← Nat.add_assoc]
    exact hkept _ fun r hlo hhi => by omega
  · rw [if_neg h]
    exact hzero _ (by omega) (by omega)

end Sys2Proof.Machine
end

section
/-!
O9, continued (05 R106; 09 R193; 02 R29, R31): the end of the window file's sixteen cycles.

The port works register by register: of the registers from `lo` on, `n` are done (`FilledFrom`, `SpilledFrom`), and each
step adds one. Stack registers r and r + 64 share a place of the window file, so a fill is of at most 64 registers; in the
image each register has its own eight bytes, which no other register's write touches.
-/

namespace Sys2Proof.Machine

/-! ### The image -/

theorem Core.imageKey_eq (k : Core) (r : Nat) : k.imageKey r = k.imageKey 0 + 8 * r := by
  simp only [Core.imageKey, colKey]
  omega

@[simp] theorem length_leBytes (n v : Nat) : (leBytes n v).length = n := by
  induction n generalizing v with
  | zero => rfl
  | succ n ih => rw [leBytes, List.length_cons, ih]

theorem leBytes_getD {n j : Nat} (v : Nat) (hj : j < n) : (leBytes n v).getD j 0 = BitVec.ofNat 8 (v / 256 ^ j) := by
  induction n generalizing v j with
  | zero => omega
  | succ n ih =>
    cases j with
    | zero => simp [leBytes]
    | succ j =>
      rw [leBytes, List.getD_cons_succ, ih _ (by omega), Nat.div_div_eq_div_mul, ← Nat.pow_succ']

/-- The bytes of a word in memory, little-endian (00 R6). -/
theorem leBytes_word (w : Word) {j : Nat} (hj : j < 8) : (leBytes 8 w.toNat).getD j 0 = w.extractLsb' (8 * j) 8 := by
  rw [leBytes_getD _ hj]
  apply BitVec.eq_of_toNat_eq
  rw [BitVec.toNat_ofNat, BitVec.extractLsb'_toNat, Nat.shiftRight_eq_div_pow, Nat.pow_mul]

/-! ### Poison -/

theorem mem_tset_self {α : Type} (t : Tab α) (k : Nat) (x : α) : (k, x) ∈ tset t k x := by
  induction t with
  | nil => simp [tset]
  | cons p r ih =>
    rw [tset]
    split_ifs <;> simp [ih]

/-- An entry of the value that is set stays, whichever key it is of. -/
theorem mem_tset_of_mem {α : Type} {t : Tab α} {q : Nat} {x : α} (k : Nat) (h : (q, x) ∈ t) : (q, x) ∈ tset t k x := by
  induction t with
  | nil => cases h
  | cons p r ih =>
    obtain ⟨i, y⟩ := p
    rw [tset]
    rcases List.mem_cons.1 h with h | h
    · cases h
      split_ifs <;> simp_all
    · split_ifs <;> simp [h, ih h]

theorem poisoned_of_mem {e : Tab Ecc} {key : Nat} (h : (key / 8, Ecc.poison) ∈ e) : poisoned e key 8 = true := by
  refine List.any_eq_true.2 ⟨_, List.mem_filter.2 ⟨h, ?_⟩, rfl⟩
  simp only [Bool.and_eq_true, decide_eq_true_eq]
  omega

/-- A write leaves the poison of a word that begins before it: it overwrites that word in part at most (06 R121). -/
theorem State.write_keeps_poison {s : State} {q key : Nat} (bs : List Byte) (hq : q * 8 < key)
    (h : (q, Ecc.poison) ∈ s.ecc) : (q, Ecc.poison) ∈ (s.write key bs).ecc := by
  unfold State.write
  split
  · refine List.mem_filter.2 ⟨h, ?_⟩
    have hpart : ¬ key ≤ q * 8 := Nat.not_le.2 hq
    simp [hpart]
  · exact h

theorem State.write_agenda (s : State) (key : Nat) (bs : List Byte) : (s.write key bs).agenda = s.agenda := by
  unfold State.write
  split <;> rfl

/-! ### Spilling -/

section
variable (s : State) (c n : Nat)

/-- One register written to the image: its eight bytes, and its poison where its parity is bad. -/
theorem State.spillReg_eq : s.spillReg c n =
    if (s.core c).regs.winBad.getLsbD (n % 64) then
      ((s.write ((s.core c).imageKey n) (leBytes 8 (vget 0 (s.core c).regs.win (n % 64)).toNat)).noteErr
        .window false (64 * c + n % 64)).markPoison ((s.core c).imageKey n)
    else s.write ((s.core c).imageKey n) (leBytes 8 (vget 0 (s.core c).regs.win (n % 64)).toNat) := rfl

/-- What the poison of a bad register leaves as it is. -/
theorem State.poison_frame (w : State) (bad : Bool) (reg key : Nat) :
    let t := if bad then (w.noteErr .window false reg).markPoison key else w
    t.mem = w.mem ∧ t.cores = w.cores ∧ t.agenda = w.agenda := by
  cases bad <;> exact ⟨rfl, rfl, rfl⟩

theorem State.spillReg_frame : (s.spillReg c n).mem =
      s.mem.write ((s.core c).imageKey n) (leBytes 8 (vget 0 (s.core c).regs.win (n % 64)).toNat) ∧
    (s.spillReg c n).cores = s.cores ∧ (s.spillReg c n).agenda = s.agenda := by
  rw [State.spillReg_eq]
  obtain ⟨hmem, hcores, hagenda⟩ := State.poison_frame
    (s.write ((s.core c).imageKey n) (leBytes 8 (vget 0 (s.core c).regs.win (n % 64)).toNat))
    ((s.core c).regs.winBad.getLsbD (n % 64)) (64 * c + n % 64) ((s.core c).imageKey n)
  exact ⟨hmem.trans (State.write_mem ..), hcores.trans (State.write_cores ..), hagenda.trans (State.write_agenda ..)⟩

theorem State.spillReg_poisons (hbad : (s.core c).regs.winBad.getLsbD (n % 64) = true) :
    ((s.core c).imageKey n / 8, Ecc.poison) ∈ (s.spillReg c n).ecc := by
  rw [State.spillReg_eq, if_pos hbad, State.markPoison_ecc]
  exact mem_tset_self ..

theorem State.spillReg_keeps_poison {q : Nat} (hq : q * 8 < (s.core c).imageKey n) (h : (q, Ecc.poison) ∈ s.ecc) :
    (q, Ecc.poison) ∈ (s.spillReg c n).ecc := by
  have hw := State.write_keeps_poison (leBytes 8 (vget 0 (s.core c).regs.win (n % 64)).toNat) hq h
  rw [State.spillReg_eq]
  split
  · rw [State.markPoison_ecc, State.noteErr_ecc]
    exact mem_tset_of_mem _ hw
  · exact hw

end

/-- `t` is `s` with `n` registers from `lo` on of core `c` written to the image. -/
structure SpilledFrom (s t : State) (c lo n : Nat) : Prop where
  cores : t.cores = s.cores
  agenda : t.agenda = s.agenda
  written : ∀ r, lo ≤ r → r < lo + n → ∀ j < 8, t.mem.read ((s.core c).imageKey r + j) =
    (vget 0 (s.core c).regs.win (r % 64)).extractLsb' (8 * j) 8
  kept : ∀ key, (key < (s.core c).imageKey lo ∨ (s.core c).imageKey (lo + n) ≤ key) → t.mem.read key = s.mem.read key
  poison : ∀ r, lo ≤ r → r < lo + n → (s.core c).regs.winBad.getLsbD (r % 64) = true →
    ((s.core c).imageKey r / 8, Ecc.poison) ∈ t.ecc

theorem SpilledFrom.step {s t : State} {c lo n : Nat} (h : SpilledFrom s t c lo n) :
    SpilledFrom s (t.spillReg c (lo + n)) c lo (n + 1) := by
  have hcore : t.core c = s.core c := by simp only [State.core, h.cores]
  have hkey := (s.core c).imageKey_eq
  have hread := Memory.read_write t.mem ((s.core c).imageKey (lo + n))
    (leBytes 8 (vget 0 (s.core c).regs.win ((lo + n) % 64)).toNat)
  simp only [length_leBytes] at hread
  obtain ⟨hmem, hcores, hagenda⟩ := t.spillReg_frame c (lo + n)
  rw [hcore] at hmem
  refine ⟨hcores.trans h.cores, hagenda.trans h.agenda,
    fun r hlo hhi j hj => ?_, fun key hout => ?_, fun r hlo hhi hbad => ?_⟩
  · rw [hmem, hread]
    by_cases hr : r < lo + n
    · rw [if_neg (by rw [hkey r, hkey (lo + n)]; omega)]
      exact h.written r hlo hr j hj
    · obtain rfl : r = lo + n := by omega
      rw [if_pos (by omega), Nat.add_sub_cancel_left, leBytes_word _ hj]
  · rw [hkey lo, hkey (lo + (n + 1))] at hout
    rw [hmem, hread, if_neg (by rw [hkey (lo + n)]; omega)]
    exact h.kept key (by rw [hkey lo, hkey (lo + n)]; omega)
  · by_cases hr : r < lo + n
    · refine State.spillReg_keeps_poison _ _ _ ?_ (h.poison r hlo hr hbad)
      rw [hcore, hkey r, hkey (lo + n)]
      omega
    · obtain rfl : r = lo + n := by omega
      rw [← hcore] at hbad ⊢
      exact State.spillReg_poisons _ _ _ hbad

theorem State.spillLines_from (s : State) (c l k : Nat) : SpilledFrom s (s.spillLines c l k) c (4 * l) (4 * k) := by
  unfold State.spillLines lineRegs
  induction 4 * k with
  | zero => exact ⟨rfl, rfl, fun r _ _ => by omega, fun _ _ => rfl, fun r _ _ => by omega⟩
  | succ n ih =>
    rw [rangeFrom_succ, List.foldl_append]
    exact ih.step

/-- Lines spilled: what 02 R29 and R31 say, also after the core's own change that follows in the same cycle. -/
theorem SpilledFrom.spilled {s t : State} {c l k : Nat} (f : Core → Core) (h : SpilledFrom s t c (4 * l) (4 * k)) :
    Spec.spilled s (t.modCore c f) c l k := by
  refine ⟨fun r hlo hhi => ⟨fun j hj => h.written r hlo (by omega) j hj, fun hbad => ?_⟩, fun key hout => ?_,
    fun c' hne => ?_⟩
  · exact poisoned_of_mem (h.poison r hlo (by omega) hbad)
  · exact h.kept key (by rwa [← Nat.mul_add])
  · rw [State.modCore_core_ne _ _ hne, State.core, h.cores]
    rfl

/-! ### Filling -/

/-- A stack register as it comes in from the image, of bad parity where its word is poisoned. -/
def Core.fillWin (k : Core) (n : Nat) (v : Word) (bad : Bool) : Core :=
  if bad then (k.setWin n v).spoilWin n else k.setWin n v

section
variable (k : Core) (n : Nat) (v : Word) (bad : Bool)

theorem Core.fillWin_eq : k.fillWin n v bad = { k with regs := { k.regs with
    win := (k.fillWin n v bad).regs.win, winBad := (k.fillWin n v bad).regs.winBad } } := by
  unfold Core.fillWin
  split <;> rfl

theorem Core.fillWin_win (p : Nat) :
    vget 0 (k.fillWin n v bad).regs.win p = if p = n % 64 then v else vget 0 k.regs.win p := by
  unfold Core.fillWin
  split <;> exact Core.setWin_win ..

theorem Core.fillWin_winBad {p : Nat} (hp : p < 64) :
    (k.fillWin n v bad).regs.winBad.getLsbD p = if p = n % 64 then bad else k.regs.winBad.getLsbD p := by
  have hbit : (BitVec.ofNat 64 (2 ^ (n % 64))).getLsbD p = decide (p = n % 64) := by
    rw [BitVec.getLsbD_ofNat, Nat.testBit_two_pow]
    simp [hp, eq_comm]
  unfold Core.fillWin Core.spoilWin Core.setWin
  cases bad
  all_goals
    simp only [if_true, Bool.false_eq_true, if_false, BitVec.getLsbD_or, BitVec.getLsbD_and, BitVec.getLsbD_not, hbit, hp,
      decide_true, Bool.true_and]
    by_cases h : p = n % 64 <;> simp [h]

end

theorem State.fillReg_core (s : State) (c n : Nat) : (s.fillReg c n).core c = (s.core c).fillWin n
    (s.read64 ((s.core c).imageKey n)) (poisoned s.ecc ((s.core c).imageKey n) 8) :=
  State.modCore_core_self ..

/-- Nothing but cores and the error log differs. -/
def State.onlyCoresLog (s t : State) : Prop :=
  ∃ cores log, t = { s with cores := cores, dev := { s.dev with log := log } }

theorem State.onlyCoresLog.trans {s t u : State} (h : s.onlyCoresLog t) (h' : t.onlyCoresLog u) : s.onlyCoresLog u := by
  obtain ⟨_, _, rfl⟩ := h
  obtain ⟨cores, log, rfl⟩ := h'
  exact ⟨cores, log, rfl⟩

theorem State.onlyCoresLog.mem_ecc {s t : State} (h : s.onlyCoresLog t) : t.mem = s.mem ∧ t.ecc = s.ecc := by
  obtain ⟨_, _, rfl⟩ := h
  exact ⟨rfl, rfl⟩

/-- `t` is `s` with `n` registers from `lo` on of core `c` read from the image. -/
structure FilledFrom (s t : State) (c lo n : Nat) : Prop where
  frame : s.onlyCoresLog t
  other : ∀ c', c' ≠ c → t.core c' = s.core c'
  core : t.core c = { s.core c with regs := (t.core c).regs }
  filled : ∀ r, lo ≤ r → r < lo + n → vget 0 (t.core c).regs.win (r % 64) = s.read64 ((s.core c).imageKey r) ∧
    (t.core c).regs.winBad.getLsbD (r % 64) = poisoned s.ecc ((s.core c).imageKey r) 8
  kept : ∀ p < 64, (∀ r, lo ≤ r → r < lo + n → r % 64 ≠ p) →
    vget 0 (t.core c).regs.win p = vget 0 (s.core c).regs.win p

theorem FilledFrom.step {s t : State} {c lo n : Nat} (hn : n < 64) (h : FilledFrom s t c lo n) :
    FilledFrom s (t.fillReg c (lo + n)) c lo (n + 1) := by
  obtain ⟨hmem, hecc⟩ := h.frame.mem_ecc
  have hkey : (t.core c).imageKey = (s.core c).imageKey := by rw [h.core]; rfl
  have hcore : (t.fillReg c (lo + n)).core c = (t.core c).fillWin (lo + n) (s.read64 ((s.core c).imageKey (lo + n)))
      (poisoned s.ecc ((s.core c).imageKey (lo + n)) 8) := by
    rw [State.fillReg_core, State.read64, State.read64, hmem, hecc, hkey]
  refine ⟨h.frame.trans ⟨_, _, rfl⟩, fun c' hne => ?_, ?_, fun r hlo hhi => ?_, fun p hp hout => ?_⟩
  · exact (State.modCore_core_ne _ _ hne).trans (h.other c' hne)
  · rw [hcore, Core.fillWin_eq, h.core]
  · rw [hcore, Core.fillWin_win, Core.fillWin_winBad _ _ _ _ (Nat.mod_lt _ (by decide))]
    by_cases hr : r < lo + n
    · have hne : r % 64 ≠ (lo + n) % 64 := by omega
      rw [if_neg hne, if_neg hne]
      exact h.filled r hlo hr
    · obtain rfl : r = lo + n := by omega
      exact ⟨if_pos rfl, if_pos rfl⟩
  · rw [hcore, Core.fillWin_win, if_neg (hout (lo + n) (by omega) (by omega)).symm]
    exact h.kept p hp fun r hlo hhi => hout r hlo (by omega)

theorem State.fillLines_from (s : State) (c l : Nat) {k : Nat} (hk : k ≤ 16) :
    FilledFrom s (s.fillLines c l k) c (4 * l) (4 * k) := by
  have hn : 4 * k ≤ 64 := by omega
  unfold State.fillLines lineRegs
  generalize 4 * k = n at hn
  induction n with
  | zero => exact ⟨⟨_, _, rfl⟩, fun _ _ => rfl, rfl, fun r _ _ => by omega, fun _ _ _ => rfl⟩
  | succ n ih =>
    rw [rangeFrom_succ, List.foldl_append]
    exact (ih (by omega)).step (by omega)

/-- A fill of any length changes registers of the core alone, and keeps the agenda. -/
theorem State.fillLines_frame (s : State) (c l k : Nat) :
    ((s.fillLines c l k).core c).sx = (s.core c).sx ∧ (s.fillLines c l k).agenda = s.agenda := by
  refine foldl_keeps (fun t : State => (t.core c).sx = (s.core c).sx ∧ t.agenda = s.agenda) (fun t n => t.fillReg c n)
    (fun t n h => ⟨?_, h.2⟩) _ _ ⟨rfl, rfl⟩
  rw [State.fillReg_core, Core.fillWin_eq]
  exact h.1

/-- Lines filled: what 02 R29 and R31 say, where the filling began in a state with another agenda and other numbers of the
core's window. -/
theorem FilledFrom.spec {s s1 t : State} {c l k : Nat} (h : FilledFrom s1 t c (4 * l) (4 * k))
    (hs : ∃ cores agenda, s1 = { s with cores := cores, agenda := agenda })
    (hother : ∀ c', c' ≠ c → s1.core c' = s.core c') (hcore : ∃ sx, s1.core c = { s.core c with sx := sx }) :
    Spec.filled s t c l k := by
  obtain ⟨cores, agenda, rfl⟩ := hs
  obtain ⟨sx, hcore⟩ := hcore
  obtain ⟨hframe, hkept, -, hfilled, hplaces⟩ := h
  rw [hcore] at hfilled hplaces
  refine ⟨?_, fun c' hne => (hkept c' hne).trans (hother c' hne), fun r hlo hhi => hfilled r hlo (by omega),
    fun p hp hout => hplaces p hp fun r hlo hhi => hout r hlo (by omega)⟩
  obtain ⟨cores', log, rfl⟩ := hframe
  rfl

/-- A change of the core that leaves its registers alone changes nothing of what a fill left. -/
theorem filled_modCore {s t : State} {c l k : Nat} {f : Core → Core} (h : Spec.filled s t c l k)
    (hf : ∀ k, (f k).regs = k.regs) : Spec.filled s (t.modCore c f) c l k := by
  obtain ⟨hframe, hother, hfilled, hplaces⟩ := h
  have hregs : ((t.modCore c f).core c).regs = (t.core c).regs := by rw [State.modCore_core_self, hf]
  refine ⟨?_, fun c' hne => (State.modCore_core_ne _ _ hne).trans (hother c' hne), ?_, ?_⟩
  · have hparts : ∃ agenda cores log, t = { s with agenda := agenda, cores := cores, dev := { s.dev with log := log } } :=
      ⟨_, _, _, hframe⟩
    obtain ⟨agenda, cores, log, rfl⟩ := hparts
    rfl
  · rw [hregs]
    exact hfilled
  · rw [hregs]
    exact hplaces

/-! ### The port's operations -/

section
variable (s : State) (c : Nat)

theorem State.winDone_agenda (op : WinOp) : (s.winDone c op).agenda = s.agenda := by
  cases op with
  | spill e n => exact (s.spillLines_from c _ e).agenda
  | fill f n => exact (State.fillLines_frame ..).2
  | wsave e => exact (s.spillLines_from c _ _).agenda
  | wrest f =>
    cases f with
    | none => exact (State.fillLines_frame ..).2
    | some f => exact (State.fillLines_frame ..).2

theorem State.spillLines_core (l k : Nat) : (s.spillLines c l k).core c = s.core c := by
  rw [State.core, (s.spillLines_from c l k).cores]
  rfl

/-- A spill writes its lines, and then the window slides. -/
theorem State.winDone_spill (rest : List AEnt) (e n : Nat) :
    let t := ({ s with agenda := rest } : State).winDone c (.spill e n)
    t.core c = (s.core c).callSlide e n ∧ Spec.spilled s t c (s.core c).sx.rbot e := by
  refine ⟨?_, (State.spillLines_from { s with agenda := rest } c (s.core c).sx.rbot e).spilled (·.callSlide e n)⟩
  exact (State.modCore_core_self ..).trans (congrArg (Core.callSlide · e n) (State.spillLines_core ..))

theorem State.winDone_wsave (rest : List AEnt) (e : Nat) :
    let t := ({ s with agenda := rest } : State).winDone c (.wsave e)
    t.core c = { s.core c with sx := { (s.core c).sx with
      rbot := (s.core c).sx.rbot + e, rcnt := (s.core c).sx.rcnt - e } } ∧
    Spec.spilled s t c (s.core c).sx.rbot (s.core c).sx.rcnt := by
  refine ⟨?_, (State.spillLines_from { s with agenda := rest } c (s.core c).sx.rbot (s.core c).sx.rcnt).spilled _⟩
  exact (State.modCore_core_self ..).trans (by rw [State.spillLines_core]; rfl)

/-- A fill slides the window back, and then reads its lines. -/
theorem State.winDone_fill (rest : List AEnt) (f n : Nat) :
    let t := ({ s with agenda := rest } : State).winDone c (.fill f n)
    (t.core c).sx = { (s.core c).sx with
      wptr := (s.core c).sx.wptr - n, rbot := (s.core c).sx.rbot - f, rcnt := (s.core c).sx.rcnt - n / 4 + f } ∧
    (f ≤ 16 → Spec.filled s t c ((s.core c).sx.rbot - f) f) := by
  have hback : (({ s with agenda := rest } : State).modCore c (·.retSlide f n)).core c = (s.core c).retSlide f n :=
    State.modCore_core_self ..
  unfold State.winDone
  dsimp only
  rw [hback]
  refine ⟨(State.fillLines_frame ..).1.trans (by rw [hback]; rfl), fun hf => ?_⟩
  exact (State.fillLines_from _ c _ hf).spec ⟨_, _, rfl⟩ (fun c' hne => State.modCore_core_ne _ _ hne) ⟨_, hback⟩

/-- `wrest` outside a fill handler reads the resident lines again. -/
theorem State.winDone_wrest (rest : List AEnt) :
    let t := ({ s with agenda := rest } : State).winDone c (.wrest none)
    (t.core c).sx = (s.core c).sx ∧
    ((s.core c).sx.rcnt ≤ 16 → Spec.filled s t c (s.core c).sx.rbot (s.core c).sx.rcnt) :=
  ⟨(State.fillLines_frame ..).1, fun hk =>
    (State.fillLines_from _ c _ hk).spec ⟨_, _, rfl⟩ (fun _ _ => rfl) ⟨_, rfl⟩⟩

/-- `wrest` in a fill handler reads the lines below RBOT, and then they are resident. -/
theorem State.winDone_wrestFill (rest : List AEnt) (f : Nat) :
    let t := ({ s with agenda := rest } : State).winDone c (.wrest (some f))
    (t.core c).sx = { (s.core c).sx with rbot := (s.core c).sx.rbot - f, rcnt := (s.core c).sx.rcnt + f } ∧
    (f ≤ 16 → Spec.filled s t c ((s.core c).sx.rbot - f) (min f (s.core c).sx.rbot)) := by
  have hsx : (((({ s with agenda := rest } : State).fillLines c ((s.core c).sx.rbot - f)
      (min f (s.core c).sx.rbot)).core c).sx) = (s.core c).sx := (State.fillLines_frame ..).1
  unfold State.winDone
  refine ⟨(congrArg Core.sx (State.modCore_core_self ..)).trans ?_, fun hf => filled_modCore ?_ ?_⟩
  · exact congrArg (fun t : Stream => { t with rbot := t.rbot - f, rcnt := t.rcnt + f }) hsx
  · exact (State.fillLines_from _ c _ (by omega)).spec ⟨_, _, rfl⟩ (fun _ _ => rfl) ⟨_, rfl⟩
  · exact fun _ => rfl

end

theorem portEnds : Spec.portEnds := by
  intro s a rest c op hagenda hdue hev k
  have hfire : s.fire .resultLanding = ({ s with agenda := rest } : State).winDone c op := by
    rw [fire_head hagenda hdue (by rw [hev]; rfl), hev]
    rfl
  refine ⟨_, congrArg Host.Outcome.next hfire, State.winDone_agenda .., ?_⟩
  cases op with
  | spill e n =>
    obtain ⟨hcore, hspilled⟩ := s.winDone_spill c rest e n
    refine ⟨by rw [hcore, Core.callSlide_sx], fun e' n' h => ?_, nofun, nofun, nofun, nofun⟩
    cases h
    exact ⟨hcore, hspilled⟩
  | fill f n =>
    obtain ⟨hsx, hfilled⟩ := s.winDone_fill c rest f n
    refine ⟨by rw [hsx], nofun, fun f' n' h hf => ?_, nofun, nofun, nofun⟩
    cases h
    exact ⟨hsx, hfilled hf⟩
  | wsave e =>
    obtain ⟨hcore, hspilled⟩ := s.winDone_wsave c rest e
    refine ⟨by rw [hcore], nofun, nofun, fun e' h => ?_, nofun, nofun⟩
    cases h
    exact ⟨hcore, hspilled⟩
  | wrest f =>
    cases f with
    | none =>
      obtain ⟨hsx, hfilled⟩ := s.winDone_wrest c rest
      exact ⟨by rw [hsx], nofun, nofun, nofun, fun _ hk => ⟨hsx, hfilled hk⟩, nofun⟩
    | some f =>
      obtain ⟨hsx, hfilled⟩ := s.winDone_wrestFill c rest f
      refine ⟨by rw [hsx], nofun, nofun, nofun, nofun, fun f' h hf => ?_⟩
      cases h
      exact ⟨hsx, hfilled hf⟩

/-- Settles O9: the window's numbers decide calls and returns, and the port works register by register. -/
theorem windowResults : Obligations.WindowResults :=
  ⟨callResults, windowSlides, portEnds, windowWords⟩

end Sys2Proof.Machine
end

section
/-!
O3 (05 R101, R102; 06 R115): the branch and loop words.

A branch offset counts halfwords from the word's own address (`target_eq`), so each word is its body with that target.
-/

namespace Sys2Proof.Machine

section
variable {s s' : State} {sf : Bool}

theorem classOk_a (ha : s.cur.half = .a) : classOk .a s.cur.half s.my.routineBound = true := by
  rw [ha]
  rfl

/-- The target of a branch is its own address plus the offset, sign-extended (04 R76). -/
theorem target_eq {n : Nat} (s : State) (i : BitVec n) : s.ctx.target i.toInt = s.me.pc + i.signExtend 32 := rfl

/-- A branch on a register that can be read is taken where its condition holds. -/
theorem branchOp_gives {a : BitVec 5} {v : Word} (cond : Word → Bool) (hc : s.clear sf) (hl : s.legalE [a.toNat] [])
    (hg : s.gives sf 0 [a.toNat] s' [v]) (i : BitVec 14) :
    branchOp sf a i cond s =
      .next (s'.went s.ctx sf (if cond v then .jump (s.me.pc + i.signExtend 32) else .seq)) := by
  refine issueWord_ok hc (classOk_e _ _) (usePre_e hl) ?_ (by split <;> simp)
  simp only [sources_of_gives hg, target_eq]
  rfl

theorem jr_gives {a : BitVec 5} {v : Word} (hc : s.clear sf) (hl : s.legalE [a.toNat] [])
    (hg : s.gives sf 0 [a.toNat] s' [v]) :
    exec (.jr sf a) s = .next (s'.went s.ctx sf (.jump (v.setWidth 32))) := by
  refine issueWord_ok hc (classOk_e _ _) (usePre_e hl) ?_ (by simp)
  simp only [sources_of_gives hg]
  rfl

/-- A counter that `loop` may name passes its checks: no queue, not `g0`, not `cy` (05 R102). -/
theorem loopPre_legal {r : Nat} (hl : s.legalX 1 [r] [r]) (hg0 : r ≠ 16) (hq : ¬ (25 ≤ r ∧ r ≤ 30)) :
    loopPre r (s.noted sf) s.ctx = {} := by
  have hallowed : loopForbidden s.cur.half s.my.routineBound r = false := by
    obtain ⟨ha, -, hd, -⟩ := hl
    obtain ⟨-, -, -, -, -, hw⟩ := hd r (by simp)
    cases hh : s.cur.half
    case a => exact absurd hh ha
    case x => simp [loopForbidden]; omega
    case w => have := hw hh; simp [loopForbidden]; omega
  have hallowed' : loopForbidden s.ctx.half ((s.noted sf).core s.ctx.core).routineBound r = false := by
    rw [State.noted_routineBound]
    exact hallowed
  rw [loopPre, hallowed', if_neg (by simp), if_neg (by simp; omega), usePre_x hl]

theorem loop_gives {a : BitVec 5} {v : Word} (hc : s.clear sf) (hl : s.legalX 1 [a.toNat] [a.toNat]) (hg0 : a ≠ 16)
    (hq : ¬ (25 ≤ a.toNat ∧ a.toNat ≤ 30)) (hg : s.gives sf 0 [a.toNat] s' [v]) (ht : s.takes a.toNat (v - 1))
    (i : BitVec 14) :
    exec (.loop sf a i) s = .next ((s'.put s.ctx 1 a.toNat (v - 1)).went s.ctx sf
      (if 0 < (v - 1).toInt then .jump (s.me.pc + i.signExtend 32) else .seq)) := by
  have hne : a.toNat ≠ 16 := fun h => hg0 (BitVec.eq_of_toNat_eq h)
  refine issueWord_ok hc (classOk_x hl.1) (loopPre_legal hl hne hq) ?_ (by split <;> simp)
  have hdeliver : deliver (s.noted sf) s' s.ctx 1 a.toNat (arg [v] 0 - 1) = _ := deliver_takes ht
  simp only [sources_of_gives hg, hdeliver, target_eq]
  rfl

theorem kloop_counts {a : BitVec 5} (hc : s.clear sf) (ha : s.cur.half = .a) (hlo : 8 ≤ a.toNat) (hhi : a.toNat < 12)
    (i : BitVec 14) :
    let k := vget 0 s.my.regs.k (a.toNat - 8)
    exec (.kloop sf a i) s = .next (if k = 0 then (s.noted sf).went s.ctx sf .seq
      else ((s.noted sf).put s.ctx 1 a.toNat ((k - 1).setWidth 64)).went s.ctx sf
        (if k = 1 then .seq else .jump (s.me.pc + i.signExtend 32))) := by
  intro k
  have hcounter : notCounter a = false := by simp [notCounter]; omega
  have hpre : ({ reserved := notCounter a } : Pre) = {} := by rw [hcounter]
  by_cases h0 : k = 0
  · rw [if_pos h0]
    refine issueWord_ok hc (classOk_a ha) hpre ?_ (by simp)
    simp only [State.noted_regs, State.ctx_core]
    exact if_pos h0
  · rw [if_neg h0]
    refine issueWord_ok hc (classOk_a ha) hpre ?_ (by split <;> simp)
    simp only [State.noted_regs, State.ctx_core]
    exact if_neg h0

end

/-- Settles O3: each word comes to its body, with the branch taken by its condition. -/
theorem branchResults : Obligations.BranchResults := by
  intro sf s s' v a hc
  refine ⟨fun i => word_e hc rfl (by simp), fun hl hg => ⟨fun i => ?brz, fun i => ?brnz, jr_gives hc hl hg⟩,
    fun hl hg0 hq hg ht => loop_gives hc hl hg0 hq hg ht, kloop_counts hc⟩
  case brz =>
    refine (branchOp_gives (· == 0) hc hl hg i).trans ?_
    simp only [beq_iff_eq]
  case brnz =>
    refine (branchOp_gives (· != 0) hc hl hg i).trans ?_
    simp only [bne_iff_ne, ne_eq, ite_not]

end Sys2Proof.Machine
end

section
/-!
What an access leaves alone (`Spec.kept`, `Spec.onward`, `Spec.queuesBut`), for O15, O16 and O19 to O21.

Each access is a few updates of the noted state, and then the stream goes on. `Aside c s t` says what every such update
leaves: all but the queues, the buffers and the bank and pop records of core `c`, the agenda and the error log.
-/

namespace Sys2Proof.Machine

/-- Nothing but the agenda, the error log, and the queues, buffers and bank and pop records of core `c` changes. -/
structure Aside (c : Nat) (s t : State) : Prop where
  kept : Spec.kept s t
  others : ∀ c', c' ≠ c → t.core c' = s.core c'
  streams : ∀ h, t.stream c h = s.stream c h
  regs : (t.core c).regs = (s.core c).regs
  ctl : (t.core c).ctl = (s.core c).ctl
  tile : (t.core c).tile = (s.core c).tile
  psj : (t.core c).psj = (s.core c).psj

theorem Spec.kept_trans {s t u : State} (h : Spec.kept s t) (h' : Spec.kept t u) : Spec.kept s u := by
  unfold Spec.kept at *
  rw [h'] at *
  rw [h]

theorem Spec.kept_cur {s t : State} (h : Spec.kept s t) : t.cur = s.cur := by rw [h]

theorem Aside.trans {c : Nat} {s t u : State} (h : Aside c s t) (h' : Aside c t u) : Aside c s u where
  kept := Spec.kept_trans h.kept h'.kept
  others := fun c' hc => (h'.others c' hc).trans (h.others c' hc)
  streams := fun k => (h'.streams k).trans (h.streams k)
  regs := h'.regs.trans h.regs
  ctl := h'.ctl.trans h.ctl
  tile := h'.tile.trans h.tile
  psj := h'.psj.trans h.psj

/-! ### The updates -/

/-- An update of the agenda and the error log, not of a core. -/
theorem Aside.of_cores {c : Nat} {s t : State} (hk : Spec.kept s t) (hc : t.cores = s.cores) : Aside c s t := by
  have hcore : ∀ c', t.core c' = s.core c' := fun c' => by rw [State.core, hc]; rfl
  exact ⟨hk, fun c' _ => hcore c', fun h => by simp only [State.stream, hcore], by rw [hcore], by rw [hcore],
    by rw [hcore], by rw [hcore]⟩

theorem Aside.refl (c : Nat) (s : State) : Aside c s s := .of_cores rfl rfl
theorem Aside.noteRead (c : Nat) (s : State) (ks : List (Nat × Nat)) : Aside c s (s.noteRead ks) := .of_cores rfl rfl
theorem Aside.post (c : Nat) (s : State) (due prio : Nat) (ev : Ev) : Aside c s (s.post due prio ev) := .of_cores rfl rfl
theorem Aside.release (c : Nat) (s : State) (due key : Nat) (v : Word) : Aside c s (s.release due key v) :=
  .of_cores rfl rfl

/-- An update of one core's queues, buffers or records. -/
theorem Aside.modCore {c : Nat} {s : State} {f : Core → Core} (hs : ∀ h, (f (s.core c)).stream h = (s.core c).stream h)
    (hregs : (f (s.core c)).regs = (s.core c).regs) (hctl : (f (s.core c)).ctl = (s.core c).ctl)
    (htile : (f (s.core c)).tile = (s.core c).tile) (hpsj : (f (s.core c)).psj = (s.core c).psj) :
    Aside c s (s.modCore c f) where
  kept := rfl
  others := fun _ hne => s.modCore_core_ne f hne
  streams := fun h => by rw [State.stream, State.modCore_core_self, hs]; rfl
  regs := by rw [State.modCore_core_self, hregs]
  ctl := by rw [State.modCore_core_self, hctl]
  tile := by rw [State.modCore_core_self, htile]
  psj := by rw [State.modCore_core_self, hpsj]

theorem Aside.noteBanks (c : Nat) (s : State) (bs : List Nat) : Aside c s (s.noteBanks c bs) := by
  unfold State.noteBanks
  split
  · exact .refl c s
  · exact .modCore (fun h => by cases h <;> rfl) rfl rfl rfl rfl

theorem Aside.push (c : Nat) (s : State) (h : Half) (q due : Nat) (v : Word) : Aside c s (s.push c h q due v) :=
  .trans (.modCore (f := fun k => k.setQueue q (k.queue q ++ [⟨v, s.ccyc, due, false, h, s.seq⟩]))
      (by simp) (by simp) (by simp) (by simp) (by simp))
    (.of_cores rfl rfl)

theorem Aside.pop (c : Nat) (s : State) (q now : Nat) : Aside c s (s.modCore c (·.pop q now)) :=
  .modCore (fun h => by cases h <;> simp [Core.pop, Core.stream]) (by simp [Core.pop]) (by simp [Core.pop])
    (by simp [Core.pop]) (by simp [Core.pop])

/-! ### The word's end -/

section
variable {s t : State} {sf : Bool}

theorem Spec.kept_noted (s : State) (sf : Bool) : Spec.kept s (s.noted sf) := by
  rcases s.noted_eq sf with h | ⟨l, h⟩ <;> rw [h] <;> rfl

theorem State.noted_core_ne {c : Nat} (hc : c ≠ s.cur.core) : (s.noted sf).core c = s.core c := by
  rcases s.noted_eq sf with h | ⟨l, h⟩ <;> rw [h]
  exact s.modStream_core_ne _ _ hc

theorem State.noted_stream_ne {h : Half} (hh : h ≠ s.cur.half) :
    (s.noted sf).stream s.cur.core h = s.stream s.cur.core h := by
  rcases s.noted_eq sf with e | ⟨l, e⟩ <;> rw [e]
  exact s.modStream_stream_ne _ (.inr hh)

/-- After a word that changed nothing else: all is kept. -/
theorem Aside.kept_went (h : Aside s.cur.core (s.noted sf) t) : Spec.kept s (t.went s.ctx sf .seq) :=
  Spec.kept_trans (Spec.kept_trans (Spec.kept_noted s sf) h.kept) rfl

/-- After a word that changed nothing else: its stream goes on and nothing else of its core changes. -/
theorem Aside.onward_went (h : Aside s.cur.core (s.noted sf) t) : Spec.onward s (t.went s.ctx sf .seq) sf := by
  have hcur : (t.went s.ctx sf .seq).cur = s.cur := Spec.kept_cur h.kept_went
  have hcore : (t.went s.ctx sf .seq).core s.cur.core =
      (t.core s.cur.core).setStream s.cur.half ((t.stream s.cur.core s.cur.half).advance s.ctx sf .seq) :=
    t.modStream_core_self ..
  obtain ⟨l, hl⟩ := s.noted_me sf
  refine ⟨fun c hc => ?_, fun k hk => ?_, ⟨l, ?_⟩, ?_, ?_, ?_, ?_⟩
  · exact (t.modStream_core_ne _ _ hc).trans ((h.others c hc).trans (State.noted_core_ne hc))
  · exact (t.modStream_stream_ne _ (.inr hk)).trans ((h.streams k).trans (State.noted_stream_ne hk))
  · have hme : t.stream s.cur.core s.cur.half = { s.me with issued := l } := (h.streams _).trans hl
    rw [State.me, hcur, State.stream, hcore, Core.setStream_stream, hme]
    rfl
  · rw [State.my, hcur, hcore, Core.setStream_regs, h.regs, State.noted_regs]
  · rw [State.my, hcur, hcore, Core.setStream_ctl, h.ctl, State.noted_ctl]
  · rw [State.my, hcur, hcore, Core.setStream_tile, h.tile, State.noted_tile]
  · rw [State.my, hcur, hcore, Core.setStream_psj, h.psj, State.noted_psj]

@[simp] theorem State.went_agenda (x : Ctx) (nx : Next) : (t.went x sf nx).agenda = t.agenda := rfl

/-- The issuing core after the word, but for its stream. -/
theorem Aside.my_went (h : Aside s.cur.core (s.noted sf) t) : (t.went s.ctx sf .seq).my =
    (t.core s.cur.core).setStream s.cur.half ((t.stream s.cur.core s.cur.half).advance s.ctx sf .seq) := by
  rw [State.my, Spec.kept_cur h.kept_went]
  exact t.modStream_core_self ..

theorem Aside.queue_went (h : Aside s.cur.core (s.noted sf) t) (q : Nat) :
    (t.went s.ctx sf .seq).my.queue q = (t.core s.cur.core).queue q := by
  rw [h.my_went, Core.setStream_queue]

theorem Aside.sendBuf_went (h : Aside s.cur.core (s.noted sf) t) :
    (t.went s.ctx sf .seq).my.sendBuf = (t.core s.cur.core).sendBuf := by
  rw [h.my_went, Core.setStream_sendBuf]

theorem Aside.launches_went (h : Aside s.cur.core (s.noted sf) t) :
    (t.went s.ctx sf .seq).my.launches = (t.core s.cur.core).launches := by
  rw [h.my_went, Core.setStream_launches]

/-- The queues but `q` after the word are those of the noted state where its updates left them. -/
theorem Aside.queuesBut_went {q : Nat} (h : Aside s.cur.core (s.noted sf) t)
    (hq : ∀ q' < 5, q' ≠ q → (t.core s.cur.core).queue q' = s.my.queue q') :
    Spec.queuesBut s (t.went s.ctx sf .seq) q := fun q' hlt hne => (h.queue_went q').trans (hq q' hlt hne)

end

/-! ### Queues -/

section
variable (k : Core)

theorem Core.setQueue_queue (q : Nat) (l : List QEnt) (hq : q < 5) (q' : Nat) (hq' : q' < 5) :
    (k.setQueue q l).queue q' = if q' = q then l else k.queue q' := by
  interval_cases q <;> interval_cases q' <;> rfl

theorem Core.setQueue_queue_self {q : Nat} (l : List QEnt) (hq : q < 5) : (k.setQueue q l).queue q = l := by
  rw [k.setQueue_queue q l hq q hq, if_pos rfl]

theorem Core.setQueue_queue_ne {q q' : Nat} (l : List QEnt) (hq : q < 5) (hq' : q' < 5) (h : q' ≠ q) :
    (k.setQueue q l).queue q' = k.queue q' := by
  rw [k.setQueue_queue q l hq q' hq', if_neg h]

theorem Core.pop_queue (q now q' : Nat) : (k.pop q now).queue q' = (k.setQueue q (k.queue q).tail).queue q' := rfl

end

section
variable (s : State) (c : Nat)

@[simp] theorem State.noteRead_core (ks : List (Nat × Nat)) (c : Nat) : (s.noteRead ks).core c = s.core c := rfl

@[simp] theorem State.noteBanks_agenda (bs : List Nat) : (s.noteBanks c bs).agenda = s.agenda := by
  unfold State.noteBanks; split <;> rfl
@[simp] theorem State.noteBanks_seq (bs : List Nat) : (s.noteBanks c bs).seq = s.seq := by
  unfold State.noteBanks; split <;> rfl
@[simp] theorem State.noteBanks_ccyc (bs : List Nat) : (s.noteBanks c bs).ccyc = s.ccyc := by
  unfold State.noteBanks; split <;> rfl

/-- The banks noted of a core are no part of its queues, its buffers or what it is bound to. -/
theorem State.noteBanks_core (bs : List Nat) (c' : Nat) :
    ∃ l n, (s.noteBanks c bs).core c' = { s.core c' with banks := l, bankCyc := n } := by
  unfold State.noteBanks
  split
  · exact ⟨(s.core c').banks, (s.core c').bankCyc, rfl⟩
  · rw [State.modCore_core]
    split
    · next h => rw [h]; exact ⟨_, _, rfl⟩
    · exact ⟨(s.core c').banks, (s.core c').bankCyc, rfl⟩

@[simp] theorem State.noteBanks_queue (bs : List Nat) (c' q : Nat) :
    ((s.noteBanks c bs).core c').queue q = (s.core c').queue q := by
  obtain ⟨l, n, h⟩ := s.noteBanks_core c bs c'
  rw [h]
  rfl
@[simp] theorem State.noteBanks_sendBuf (bs : List Nat) (c' : Nat) :
    ((s.noteBanks c bs).core c').sendBuf = (s.core c').sendBuf := by
  obtain ⟨l, n, h⟩ := s.noteBanks_core c bs c'
  rw [h]
@[simp] theorem State.noteBanks_launches (bs : List Nat) (c' : Nat) :
    ((s.noteBanks c bs).core c').launches = (s.core c').launches := by
  obtain ⟨l, n, h⟩ := s.noteBanks_core c bs c'
  rw [h]
@[simp] theorem State.noteBanks_regs (bs : List Nat) (c' : Nat) :
    ((s.noteBanks c bs).core c').regs = (s.core c').regs := by
  obtain ⟨l, n, h⟩ := s.noteBanks_core c bs c'
  rw [h]
@[simp] theorem State.noteBanks_bound (bs : List Nat) (c' : Nat) :
    ((s.noteBanks c bs).core c').bound = (s.core c').bound := by
  obtain ⟨l, n, h⟩ := s.noteBanks_core c bs c'
  rw [h]

theorem State.push_core (h : Half) (q due : Nat) (v : Word) : (s.push c h q due v).core c =
    (s.core c).setQueue q ((s.core c).queue q ++ [⟨v, s.ccyc, due, false, h, s.seq⟩]) :=
  s.modCore_core_self c fun k => k.setQueue q (k.queue q ++ [(⟨v, s.ccyc, due, false, h, s.seq⟩ : QEnt)])

/-- A push fixes the place of its entry at the end of its queue. -/
theorem State.push_queue (h : Half) {q : Nat} (hq : q < 5) (due : Nat) (v : Word) :
    ((s.push c h q due v).core c).queue q = (s.core c).queue q ++ [⟨v, s.ccyc, due, false, h, s.seq⟩] := by
  rw [State.push_core, Core.setQueue_queue_self _ _ hq]

theorem State.push_queue_ne (h : Half) {q q' : Nat} (hq : q < 5) (hq' : q' < 5) (hne : q' ≠ q) (due : Nat) (v : Word) :
    ((s.push c h q due v).core c).queue q' = (s.core c).queue q' := by
  rw [State.push_core, Core.setQueue_queue_ne _ _ hq hq' hne]

@[simp] theorem State.push_sendBuf (h : Half) (q due : Nat) (v : Word) :
    ((s.push c h q due v).core c).sendBuf = (s.core c).sendBuf := by
  rw [State.push_core, Core.setQueue_sendBuf]

@[simp] theorem State.push_launches (h : Half) (q due : Nat) (v : Word) :
    ((s.push c h q due v).core c).launches = (s.core c).launches := by
  rw [State.push_core, Core.setQueue_launches]

end

end Sys2Proof.Machine
end

section
/-!
O15 (06 R116 to R120, R123, R127): the load words.

Every load is `issueWord` with the queue's field checks and a body that, where the checks of `ldacq` pass, is that of a
scalar load (`exec_of_loads`); `loadRes_ok` says what state that leaves.
-/

namespace Sys2Proof.Machine

/-! ### Values and addresses -/

/-- The signed value of the low `n` bits, as a word, is their sign extension. -/
theorem toWord_sval {n : Nat} (v : Nat) (hn : 0 < n) : toWord (sval v n) = (BitVec.ofNat n v).signExtend 64 := by
  obtain ⟨k, rfl⟩ : ∃ k, n = k + 1 := ⟨n - 1, by omega⟩
  have hsign : v % 2 ^ (k + 1) < 2 ^ k ↔ 2 * (v % 2 ^ (k + 1)) < 2 ^ (k + 1) := by omega
  unfold toWord sval BitVec.signExtend BitVec.toInt
  simp only [BitVec.toNat_ofNat, Nat.add_sub_cancel, hsign]

theorem Spec.ea_eq (w : Spec.Access) (s : State) (h : w.a < 8) : w.ea s = s.ea s.ctx w.a w.disp :=
  (s.ea_a w.disp h).symm

/-- The address of an access whose base is an A register, as the model computes it in the noted state. -/
theorem noted_ea_toNat {w : Spec.Access} {s : State} {sf : Bool} (h : w.a < 8) :
    ((s.noted sf).ea s.ctx w.a w.disp).toNat = (w.ea s).toNat := by
  rw [State.noted_ea, Spec.ea_eq w s h]

theorem Spec.size_eq {t : BitVec 3} (h : t ≠ 7) : Spec.size t = tySize t.toNat := by
  revert t
  decide

theorem tySize_pos (t : Nat) : 0 < tySize t := by
  unfold tySize
  split <;> decide

/-- The entry that a load of a type code makes is the value of the bytes. -/
theorem tyVal_eq_loaded {w : Spec.Access} {t : BitVec 3} (hs : w.size = tySize t.toNat)
    (hsign : w.signed = decide (4 ≤ t.toNat)) (bs : List Byte) : tyVal t.toNat bs = Spec.loaded w bs := by
  unfold tyVal Spec.loaded
  rw [hs, hsign]
  by_cases h : 4 ≤ t.toNat
  · simp only [h, decide_true, if_true]
    exact toWord_sval _ (Nat.mul_pos (by decide) (tySize_pos _))
  · simp only [h, decide_false, if_false, Bool.false_eq_true]

/-! ### The fields -/

section
variable {s : State} {sf : Bool}

theorem qlPre_ok {q : Nat} (hq : q < 3) (hb : q = 2 → s.my.routineBound = false) :
    qlPre q false (s.noted sf) s.ctx = {} := by
  have hlt : ¬ 2 < q := by omega
  unfold qlPre
  rw [State.noted_routineBound, Bool.or_false, decide_eq_false hlt]
  by_cases h : q = 2
  · rw [show (s.core s.ctx.core).routineBound = false from hb h, Bool.and_false]
  · rw [beq_eq_false_iff_ne.2 h, Bool.false_and]

theorem qsPre_ok {q : Nat} (hq : q < 2) : qsPre q false (s.noted sf) s.ctx = {} := by
  have hlt : ¬ 1 < q := by omega
  rw [qsPre, Bool.or_false, decide_eq_false hlt]

theorem spBad_eq_false {p : BitVec 2} (h0 : p ≠ 0) (h3 : p ≠ 3) : spBad p = false := by
  revert p
  decide

/-- The fields of an ordered word that are not reserved (04 R86): its space, and a mask that is not empty. -/
theorem orderedFields_ok {o : BitVec 5} {p : BitVec 2} (h : ¬ (o = 0 ∨ p = 0 ∨ p = 3)) :
    (spBad p || o == 0) = false := by
  simp only [not_or] at h
  obtain ⟨ho, hp0, hp3⟩ := h
  rw [spBad_eq_false hp0 hp3, beq_eq_false_iff_ne.2 ho]
  rfl

/-- What `Spec.allowed` says, as the model's checks see it. -/
theorem accessAt_allowed {k : AccKind} {sp n al p : Nat} {delay : Place → Nat} {pl : Place}
    (h : Spec.allowed s k sp n al p delay pl) : accessAt s s.ctx k sp p n al delay = (pl, none) := by
  obtain ⟨hreach, hbank, halign, hcross⟩ := h
  exact accessAt_ok hreach hbank halign hcross

/-- An aligned access passes the checks of an unaligned one too. -/
theorem Spec.allowed_unaligned {k : AccKind} {sp n al p : Nat} {delay : Place → Nat} {pl : Place}
    (h : Spec.allowed s k sp n al p delay pl) : Spec.allowed s k sp n 1 p delay pl := by
  obtain ⟨hreach, hbank, -, hcross⟩ := h
  exact ⟨hreach, hbank, Nat.mod_one p, hcross⟩

end

/-! ### What each word issues -/

/-- The body of a load of type `t`, with what the word's checks before it come to: for `ldacq` its alignment, for the others
nothing. -/
def loadBody (w : Spec.Access) (t : Nat) (lat : Place → Nat) (body : State → Ctx → Res) : Prop :=
  ∀ u x pl, accessAt u x w.kind w.space (u.ea x w.a w.disp).toNat w.size w.align (fun _ => 0) = (pl, none) →
    body u x = loadRes u x w.kind w.space w.q t (u.ea x w.a w.disp).toNat lat (w.tag.map (·.toNat))

theorem exec_of_loads {i : Instr} {w : Spec.Access} (h : Spec.loads i = some w) :
    ∃ (t : BitVec 3) (lat : Place → Nat) (body : State → Ctx → Res),
      (∀ s, exec i s = issueWord w.sf .a false (qlPre w.q false) body s) ∧ loadBody w t.toNat lat body ∧
      w.a < 8 ∧ w.size = tySize t.toNat ∧ w.signed = decide (4 ≤ t.toNat) ∧ (∀ pl, lat pl = w.at_ pl) := by
  cases i
  case lds sf q a t d | ldl sf q a t d =>
    obtain ⟨ht, hw⟩ := Option.ite_none_left_eq_some.1 h
    cases hw
    exact ⟨t, Place.load, _,
      fun s => congrArg (fun b => issueWord sf .a false (qlPre q.toNat b) _ s) (beq_eq_false_iff_ne.2 ht),
      fun _ _ _ _ => rfl, a.isLt, Spec.size_eq ht, rfl, fun pl => by cases pl <;> rfl⟩
  case ldt sf q a t g =>
    obtain ⟨ht, hw⟩ := Option.ite_none_left_eq_some.1 h
    cases hw
    exact ⟨t, Place.load, _,
      fun s => congrArg (fun b => issueWord sf .a false (qlPre q.toNat b) _ s) (beq_eq_false_iff_ne.2 ht),
      fun _ _ _ _ => rfl, a.isLt, Spec.size_eq ht, rfl, fun pl => by cases pl <;> rfl⟩
  case ldacq sf p q a z o =>
    obtain ⟨hres, hw⟩ := Option.ite_none_left_eq_some.1 h
    cases hw
    refine ⟨if z = 1 then 3 else 2, Place.result, _,
      fun s => congrArg (fun b => issueWord sf .a false (qlPre q.toNat b) _ s) (orderedFields_ok hres),
      fun u x pl hacc => ?_, a.isLt, ?_, ?_, fun pl => by cases pl <;> rfl⟩
    · have hacc' : accessAt u x .ldacq p.toNat (u.ea x a.toNat 0).toNat (zSize z) (zSize z) (fun _ => 0) = (pl, none) :=
        hacc
      dsimp only
      rw [hacc', apply_ite BitVec.toNat]
      rfl
    · simp only [Spec.zsize]
      split <;> rfl
    · split <;> rfl
  all_goals cases h

/-! ### The statement -/

section
variable {s : State} {sf : Bool}

/-- The state after a load, before its stream goes on: what it read is logged, its banks are noted, its value is pushed. -/
def State.loadedInto (s : State) (sf : Bool) (p n q lat : Nat) (v : Word) : State :=
  (((s.noted sf).noteRead (s.visKeys (s.bindOf s.cur.core) p n)).noteBanks s.cur.core
    (s.banksOf (s.bindOf s.cur.core) p n)).push s.cur.core s.cur.half q (s.ccyc + lat) v

theorem loadedInto_aside (p n q lat : Nat) (v : Word) :
    Aside s.cur.core (s.noted sf) (s.loadedInto sf p n q lat v) :=
  ((Aside.noteRead _ _ _).trans (Aside.noteBanks _ _ _)).trans (Aside.push _ _ _ _ _ _)

theorem loadedInto_queue (p n lat : Nat) (v : Word) {q : Nat} (hq : q < 5) :
    ((s.loadedInto sf p n q lat v).core s.cur.core).queue q =
      s.my.queue q ++ [⟨v, s.ccyc, s.ccyc + lat, false, s.cur.half, s.seq⟩] := by
  simp [State.loadedInto, State.push_queue _ _ _ hq]

theorem loadedInto_queue_ne (p n lat : Nat) (v : Word) {q q' : Nat} (hq : q < 5) (hq' : q' < 5) (hne : q' ≠ q) :
    ((s.loadedInto sf p n q lat v).core s.cur.core).queue q' = s.my.queue q' := by
  simp [State.loadedInto, State.push_queue_ne _ _ _ hq hq' hne]

end

/-- Settles O15: a load's checks pass, and it pushes the value of its bytes. -/
theorem loadResults : Obligations.LoadResults := by
  intro i w s pl hi hc ha p b hq hbound hallowed hocc hpoison htag
  obtain ⟨t, lat, body, hexec, hbody, hlt, hsize, hsigned, hlat⟩ := exec_of_loads hi
  have hea : ((s.noted w.sf).ea s.ctx w.a w.disp).toNat = p := noted_ea_toNat hlt
  have hres : body (s.noted w.sf) s.ctx =
      .ok (s.loadedInto w.sf p w.size w.q (w.at_ pl) (Spec.loaded w (s.visBytes b p w.size))) .seq := by
    have hacc := accessAt_allowed hallowed
    have hacc1 := accessAt_allowed (Spec.allowed_unaligned hallowed)
    rw [hbody _ _ pl (by rw [State.noted_accessAt, hea]; exact hacc), hea]
    rw [hsize] at hpoison htag hacc1 ⊢
    rw [loadRes_ok hacc1 hocc hpoison htag, tyVal_eq_loaded hsize hsigned, hlat]
    rfl
  have haside := loadedInto_aside (s := s) (sf := w.sf) p w.size w.q (w.at_ pl) (Spec.loaded w (s.visBytes b p w.size))
  refine ⟨_, (hexec s).trans (issueWord_ok hc (classOk_a ha) (qlPre_ok hq hbound) hres (by simp)), haside.kept_went,
    haside.onward_went, haside.queuesBut_went fun q' hq' hne => loadedInto_queue_ne _ _ _ _ (by omega) hq' hne, ?_, ?_, ?_, ?_⟩
  · simp [State.loadedInto]
  · rw [haside.sendBuf_went]
    simp [State.loadedInto]
  · rw [haside.launches_went]
    simp [State.loadedInto]
  · rw [haside.queue_went, loadedInto_queue _ _ _ _ (by omega), ha]

end Sys2Proof.Machine
end

section
/-!
O16 (06 R119, R120, R127 to R129): the store words.

A store's bytes are cut at 64-byte lines (`bytesOf_lines`); put together again they are the low bytes of the entry,
little-endian (`bytesOf_leBytes`).
-/

namespace Sys2Proof.Machine

/-! ### The bytes of a store -/

theorem bytesOf_cons (g : Nat × List Byte) (l : List (Nat × List Byte)) :
    Spec.bytesOf (g :: l) = Spec.bytesOf [g] ++ Spec.bytesOf l := by
  simp [Spec.bytesOf]

/-- A piece cut in two writes the same bytes. -/
theorem bytesOf_append (p : Nat) (l l' : List Byte) :
    Spec.bytesOf [(p, l ++ l')] = Spec.bytesOf [(p, l)] ++ Spec.bytesOf [(p + l.length, l')] := by
  simp [Spec.bytesOf, List.zipIdx_append, List.zipIdx_eq_map_add (i := l.length), Nat.add_assoc, Function.comp_def]

theorem bytesOf_eq_map (p : Nat) (l : List Byte) :
    Spec.bytesOf [(p, l)] = (List.range l.length).map fun j => (p + j, l.getD j 0) := by
  refine List.ext_getElem (by simp [Spec.bytesOf]) fun j h h' => ?_
  simp only [List.length_map, List.length_range] at h'
  simp [Spec.bytesOf, h']

/-- Pieces of a span from `q` on, with enough fuel for its lines, write the bytes of the span. -/
theorem bytesOf_linePieces {p : Nat} {bs : List Byte} (f : Nat) {q m : Nat} (hf : m = 0 ∨ q % 64 + m ≤ 64 * f) (hp : p ≤ q)
    (hlen : q - p + m ≤ bs.length) :
    Spec.bytesOf ((linePieces f q m).map fun g => (g.1, (bs.drop (g.1 - p)).take g.2)) =
      Spec.bytesOf [(q, (bs.drop (q - p)).take m)] := by
  induction f generalizing q m with
  | zero =>
    obtain rfl : m = 0 := by omega
    rfl
  | succ f ih =>
    rw [linePieces]
    split
    · next h0 => rw [h0]; rfl
    · next h0 =>
      obtain ⟨k, hk⟩ : ∃ k, k = min m (64 - q % 64) := ⟨_, rfl⟩
      obtain ⟨r, rfl⟩ : ∃ r, m = k + r := ⟨m - k, by omega⟩
      have hpiece : ((bs.drop (q - p)).take k).length = k := by simp; omega
      have hrest : q + k - p = q - p + k := by omega
      rw [← hk, List.map_cons, bytesOf_cons, Nat.add_sub_cancel_left, ih (by omega) (by omega) (by omega),
        List.take_add, bytesOf_append, hpiece, List.drop_drop, hrest]

/-- A span cut at its lines writes the bytes of the span. -/
theorem bytesOf_lines (p : Nat) (bs : List Byte) :
    Spec.bytesOf ((lines p bs.length).map fun g => (g.1, (bs.drop (g.1 - p)).take g.2)) = Spec.bytesOf [(p, bs)] := by
  rw [lines, bytesOf_linePieces _ (by omega) le_rfl (by omega)]
  simp

/-- Byte `j` of a value is its bits from 8 j on. -/
theorem ofNat_div_eq_extract {w : Nat} (v : BitVec w) (j : Nat) :
    BitVec.ofNat 8 (v.toNat / 256 ^ j) = v.extractLsb' (8 * j) 8 := by
  apply BitVec.eq_of_toNat_eq
  rw [BitVec.toNat_ofNat, BitVec.extractLsb'_toNat, Nat.shiftRight_eq_div_pow, Nat.pow_mul]

/-- The low bytes of a value, from a pointer on. -/
theorem bytesOf_leBytes {w : Nat} (p n : Nat) (v : BitVec w) :
    Spec.bytesOf [(p, leBytes n v.toNat)] = (List.range n).map fun j => (p + j, v.extractLsb' (8 * j) 8) := by
  rw [bytesOf_eq_map, length_leBytes]
  refine List.map_congr_left fun j hj => ?_
  rw [leBytes_getD _ (List.mem_range.1 hj), ofNat_div_eq_extract]

/-- The pieces of a store of the low `n` bytes of a value, cut at 64-byte lines, as the model posts them. -/
def storePieces (p n : Nat) (v : Word) : List (Nat × List Byte) :=
  (lines p n).map fun g => (g.1, ((leBytes n v.toNat).drop (g.1 - p)).take g.2)

theorem bytesOf_storePieces (p n : Nat) (v : Word) :
    Spec.bytesOf (storePieces p n v) = (List.range n).map fun j => (p + j, Spec.byteOf v j) := by
  have hlines := bytesOf_lines p (leBytes n v.toNat)
  rw [length_leBytes] at hlines
  exact hlines.trans (bytesOf_leBytes p n v)

/-! ### What each word issues -/

theorem storeLat_eq : Spec.storeLat = Place.store := by
  funext pl
  cases pl <;> rfl

theorem exec_of_stores {i : Instr} {w : Spec.Access} (h : Spec.stores i = some w) :
    (∀ s, exec i s = issueWord w.sf .a false (qsPre w.q false) (fun s x =>
      storeRes s x w.kind w.space w.q w.size w.align (s.ea x w.a w.disp).toNat w.obs.toNat) s) ∧
      w.a < 8 ∧ w.lat = (1, 2, 3) := by
  cases i
  case sts sf q a t d | stl sf q a t d =>
    obtain ⟨ht, hw⟩ := Option.ite_none_left_eq_some.1 h
    cases hw
    rw [Spec.size_eq ht]
    exact ⟨fun s => congrArg (fun b => issueWord sf .a false (qsPre q.toNat b) _ s) (beq_eq_false_iff_ne.2 ht),
      a.isLt, rfl⟩
  case strel sf p q a z o =>
    obtain ⟨hres, hw⟩ := Option.ite_none_left_eq_some.1 h
    cases hw
    exact ⟨fun s => congrArg (fun b => issueWord sf .a false (qsPre q.toNat b) _ s) (orderedFields_ok hres),
      a.isLt, rfl⟩
  all_goals cases h

/-! ### The statement -/

section
variable {s : State} {sf : Bool} {q : Nat} {e : QEnt} {rest : List QEnt}

/-- The state after the head of store-data queue `q` is drained into an event, before the word's stream goes on. -/
def State.drainedInto (s : State) (sf : Bool) (q due : Nat) (ev : Ev) : State :=
  ((s.noted sf).modCore s.cur.core (·.pop (3 + q) s.ccyc)).post due 2 ev

theorem drainedInto_aside (due : Nat) (ev : Ev) : Aside s.cur.core (s.noted sf) (s.drainedInto sf q due ev) :=
  (Aside.pop _ _ _ _).trans (Aside.post _ _ _ _ _)

theorem drainedInto_agenda (due : Nat) (ev : Ev) :
    (s.drainedInto sf q due ev).agenda = Spec.posted s due 2 s.seq ev := by
  simp [State.drainedInto, Spec.posted]

theorem drainedInto_core (due : Nat) (ev : Ev) :
    (s.drainedInto sf q due ev).core s.cur.core = ((s.noted sf).core s.cur.core).pop (3 + q) s.ccyc :=
  (s.noted sf).modCore_core_self s.cur.core (·.pop (3 + q) s.ccyc)

theorem drainedInto_queue (due : Nat) (ev : Ev) (hq : q < 2) (he : s.my.queue (3 + q) = e :: rest) :
    ((s.drainedInto sf q due ev).core s.cur.core).queue (3 + q) = rest := by
  rw [drainedInto_core, Core.pop_queue, Core.setQueue_queue_self _ _ (by omega), State.noted_queue, he, List.tail_cons]

theorem drainedInto_queue_ne (due : Nat) (ev : Ev) (hq : q < 2) {q' : Nat} (hq' : q' < 5) (hne : q' ≠ 3 + q) :
    ((s.drainedInto sf q due ev).core s.cur.core).queue q' = s.my.queue q' := by
  rw [drainedInto_core, Core.pop_queue, Core.setQueue_queue_ne _ _ (by omega) hq' hne, State.noted_queue]

end

/-- Settles O16: a store's checks pass, its entry is popped, and its low bytes go to the agenda in pieces. -/
theorem storeResults : Obligations.StoreResults := by
  intro i w s pl e rest hi hc ha p hq hallowed he hdue hbad horder
  obtain ⟨hexec, hlt, hlat⟩ := exec_of_stores hi
  have hea : ((s.noted w.sf).ea s.ctx w.a w.disp).toNat = p := noted_ea_toNat hlt
  have hat : w.at_ pl = pl.store := by
    cases pl <;> simp only [Spec.Access.at_, hlat, Place.store]
  rw [storeLat_eq] at hallowed
  have hres := storeRes_ok (sf := w.sf) (accessAt_allowed hallowed) he hdue hbad horder
  have haside := drainedInto_aside (s := s) (sf := w.sf) (q := w.q) (s.ccyc + pl.store)
    (.store s.cur.core s.cur.half (storePieces p w.size e.val))
  refine ⟨_, storePieces p w.size e.val, (hexec s).trans (issueWord_ok hc (classOk_a ha) (qsPre_ok hq) ?_ (by simp)),
    haside.kept_went, haside.onward_went,
    haside.queuesBut_went fun q' hq' hne => drainedInto_queue_ne _ _ hq hq' hne, ?_, ?_, bytesOf_storePieces _ _ _⟩
  · rw [hea]
    exact hres
  · rw [haside.queue_went, drainedInto_queue _ _ hq he]
  · rw [State.went_agenda, drainedInto_agenda, hat, ha]

end Sys2Proof.Machine
end

section
/-!
Memory after writes, and O18 (06 R119; 02 R34; 14 R269): a store in its landing cycle.

Where no site update lands too, a landing store is its pieces written in order, each at the key that its pointer has now
(`landStore_eq`); what pieces written in order leave is said once (`writeAll_read_in`, `writeAll_read_out`).
-/

namespace Sys2Proof.Machine

/-! ### Writes -/

/-- Nothing but memory, its checks and the error log changes. -/
def State.onlyMem (s t : State) : Prop :=
  t = { s with mem := t.mem, ecc := t.ecc, dev := { s.dev with log := t.dev.log } }

section
variable {s t u : State}

theorem State.onlyMem_trans (h : s.onlyMem t) (h' : t.onlyMem u) : s.onlyMem u := by
  unfold State.onlyMem at *
  rw [h'] at *
  rw [h]

theorem State.write_onlyMem (s : State) (key : Nat) (bs : List Byte) : s.onlyMem (s.write key bs) := by
  obtain ⟨e, l, h⟩ := s.write_eq key bs
  rw [h]
  rfl

theorem State.onlyMem.core (h : s.onlyMem t) (c : Nat) : t.core c = s.core c := by rw [h]; rfl
theorem State.onlyMem.cores (h : s.onlyMem t) : t.cores = s.cores := by rw [h]
theorem State.onlyMem.agenda (h : s.onlyMem t) : t.agenda = s.agenda := by rw [h]
theorem State.onlyMem.binds (h : s.onlyMem t) : t.binds = s.binds := by rw [h]
theorem State.onlyMem.net (h : s.onlyMem t) : t.net = s.net := by rw [h]

/-- A byte after a write. -/
theorem State.write_read (s : State) (key : Nat) (bs : List Byte) (a : Nat) : (s.write key bs).mem.read a =
    if key ≤ a ∧ a < key + bs.length then bs.getD (a - key) 0 else s.mem.read a := by
  rw [State.write_mem, Memory.read_write]

theorem State.write_read_in (s : State) (key : Nat) (bs : List Byte) {j : Nat} (hj : j < bs.length) :
    (s.write key bs).mem.read (key + j) = bs.getD j 0 := by
  rw [State.write_read, if_pos (by omega), Nat.add_sub_cancel_left]

theorem State.write_read_out (s : State) {key a : Nat} {bs : List Byte} (h : ¬ (key ≤ a ∧ a < key + bs.length)) :
    (s.write key bs).mem.read a = s.mem.read a := by
  rw [State.write_read, if_neg h]

/-- A 64-bit word that is written: its eight bytes. -/
theorem State.write64_read_in (s : State) (key : Nat) (w : Word) {j : Nat} (hj : j < 8) :
    (s.write64 key w).mem.read (key + j) = w.extractLsb' (8 * j) 8 := by
  rw [State.write64, State.write_read_in _ _ _ (by rwa [length_leBytes]), leBytes_word w hj]

theorem State.write64_read_out (s : State) {key a : Nat} (w : Word) (h : a < key ∨ key + 8 ≤ a) :
    (s.write64 key w).mem.read a = s.mem.read a :=
  State.write_read_out s (by rw [length_leBytes]; omega)

/-! ### Pieces written in order -/

theorem State.writeAll_cons (s : State) (g : Nat × List Byte) (l : List (Nat × List Byte)) :
    s.writeAll (g :: l) = (s.write g.1 g.2).writeAll l := rfl

theorem State.writeAll_onlyMem (s : State) (l : List (Nat × List Byte)) : s.onlyMem (s.writeAll l) :=
  foldl_keeps s.onlyMem _ (fun t _ h => State.onlyMem_trans h (t.write_onlyMem _ _)) l s rfl

theorem State.writeAll_read_out (l : List (Nat × List Byte)) (s : State) {a : Nat}
    (h : ∀ g ∈ l, ¬ (g.1 ≤ a ∧ a < g.1 + g.2.length)) : (s.writeAll l).mem.read a = s.mem.read a := by
  induction l generalizing s with
  | nil => rfl
  | cons g l ih =>
    obtain ⟨hg, hl⟩ := List.forall_mem_cons.1 h
    rw [State.writeAll_cons, ih _ hl, State.write_read_out _ hg]

/-- Pieces that do not overlap are all there afterwards. -/
theorem State.writeAll_read_in (l : List (Nat × List Byte)) (s : State)
    (h : l.Pairwise fun g k => g.1 + g.2.length ≤ k.1 ∨ k.1 + k.2.length ≤ g.1) :
    ∀ g ∈ l, ∀ j < g.2.length, (s.writeAll l).mem.read (g.1 + j) = g.2.getD j 0 := by
  induction l generalizing s with
  | nil => simp
  | cons g l ih =>
    obtain ⟨hg, hl⟩ := List.pairwise_cons.1 h
    refine List.forall_mem_cons.2 ⟨fun j hj => ?_, ih _ hl⟩
    rw [State.writeAll_cons, State.writeAll_read_out, State.write_read_in _ _ _ hj]
    intro k hk
    have := hg k hk
    omega

/-! ### The keys of a landing -/

/-- The key of a pointer depends on the published buffers of the domain that holds the core. -/
theorem keyOf_congr {c : Nat} (hbinds : t.binds = s.binds) (hbound : (t.core c).bound = (s.core c).bound) (p : Nat) :
    Spec.keyOf t c p = Spec.keyOf s c p := by
  simp only [Spec.keyOf, State.pubs, State.bindAt, State.bindOf, hbinds, hbound]

theorem State.noteBanks_binds (s : State) (c : Nat) (bs : List Nat) : (s.noteBanks c bs).binds = s.binds := by
  unfold State.noteBanks; split <;> rfl
theorem State.noteBanks_mem (s : State) (c : Nat) (bs : List Nat) : (s.noteBanks c bs).mem = s.mem := by
  unfold State.noteBanks; split <;> rfl
theorem State.noteBanks_ecc (s : State) (c : Nat) (bs : List Nat) : (s.noteBanks c bs).ecc = s.ecc := by
  unfold State.noteBanks; split <;> rfl

/-- The state in which an access of core `c` lands: its entry is off the agenda and its banks are noted. -/
def State.landing (s : State) (rest : List AEnt) (c : Nat) (bs : List Nat) : State :=
  ({ s with agenda := rest } : State).noteBanks c bs

section
variable (s) (rest : List AEnt) (c : Nat) (bs : List Nat)

theorem State.landing_agenda : (s.landing rest c bs).agenda = rest := State.noteBanks_agenda ..
theorem State.landing_ccyc : (s.landing rest c bs).ccyc = s.ccyc := State.noteBanks_ccyc ..
theorem State.landing_mem : (s.landing rest c bs).mem = s.mem := State.noteBanks_mem ..
theorem State.landing_ecc : (s.landing rest c bs).ecc = s.ecc := State.noteBanks_ecc ..
theorem State.landing_regs (c' : Nat) : ((s.landing rest c bs).core c').regs = (s.core c').regs :=
  State.noteBanks_regs ..
theorem State.landing_queue (c' q : Nat) : ((s.landing rest c bs).core c').queue q = (s.core c').queue q :=
  State.noteBanks_queue ..
theorem State.landing_core_ne {c' : Nat} (h : c' ≠ c) : (s.landing rest c bs).core c' = s.core c' :=
  (Aside.noteBanks c _ bs).others c' h
theorem State.landing_keyOf (p : Nat) : Spec.keyOf (s.landing rest c bs) c p = Spec.keyOf s c p :=
  keyOf_congr (State.noteBanks_binds ..) (State.noteBanks_bound ..) p

end

/-- Where no site update is due, no byte of a store is lost (15 R278). -/
theorem siteLandings_eq_nil (h : ∀ e ∈ s.agenda, e.due ≤ s.ccyc →
    (∀ c i v, e.ev ≠ .fset c i v) ∧ ∀ c l, e.ev ≠ .sitePut c l) : s.siteLandings = [] := by
  refine List.flatMap_eq_nil_iff.2 fun e he => ?_
  split
  · next hdue =>
    obtain ⟨hfset, hput⟩ := h e he hdue
    split
    · next c i v hev => exact absurd hev (hfset c i v)
    · next c l hev => exact absurd hev (hput c l)
    · rfl
  · rfl

/-- A landing store of which no byte is lost: its pieces written in order, each at its key. -/
theorem landStore_eq (c : Nat) (segs : List (Nat × List Byte)) (hlost : s.siteLandings = []) :
    s.landStore c segs = s.writeAll (segs.map fun g => (Spec.keyOf s c g.1, g.2)) := by
  have hfold : ∀ t : State, s.onlyMem t →
      segs.foldl (fun t g => t.landPiece [] (t.visKey (t.bindOf c) g.1) g.2) t =
        t.writeAll (segs.map fun g => (Spec.keyOf s c g.1, g.2)) := by
    induction segs with
    | nil => exact fun _ _ => rfl
    | cons g l ih =>
      intro t ht
      have hkey : t.visKey (t.bindOf c) g.1 = Spec.keyOf s c g.1 := keyOf_congr ht.binds (by rw [ht.core c]) g.1
      have hstep := ih _ (State.onlyMem_trans ht (t.write_onlyMem (Spec.keyOf s c g.1) g.2))
      rw [List.foldl_cons, hkey]
      exact hstep
  unfold State.landStore
  rw [hlost]
  exact hfold s rfl

end

/-- Settles O18: the landing is the pieces written in order at their keys. -/
theorem storeLandings : Obligations.StoreLandings := by
  intro s x rest c h segs hagenda hdue hev hsites key
  let u := s.landing rest c ((Ev.store c h segs).banks { s with agenda := rest } c)
  have hfire : s.fire .storeLanding = u.landStore c segs := by
    rw [fire_head hagenda hdue (by rw [hev]; rfl), hev]
    rfl
  have hkeys : (segs.map fun g => (Spec.keyOf u c g.1, g.2)) = segs.map fun g => (key g, g.2) :=
    List.map_congr_left fun g _ => by rw [State.landing_keyOf]
  have hlost : u.siteLandings = [] := siteLandings_eq_nil <| by
    rw [State.landing_agenda, State.landing_ccyc]
    exact hsites
  have hland : u.landStore c segs = u.writeAll (segs.map fun g => (key g, g.2)) := by
    rw [landStore_eq c segs hlost, hkeys]
  have honly := u.writeAll_onlyMem (segs.map fun g => (key g, g.2))
  refine ⟨_, congrArg Host.Outcome.next (hfire.trans hland), ?_, fun c' => ?_, fun a ha => ?_, fun hdis g hg j hj => ?_⟩
  · rw [honly.agenda, State.landing_agenda]
  · rw [honly.core, State.landing_regs]
  · rw [State.writeAll_read_out _ _ (List.forall_mem_map.2 ha), State.landing_mem]
  · exact State.writeAll_read_in _ u (List.pairwise_map.2 hdis) (key g, g.2)
      (List.mem_map_of_mem (f := fun g => (key g, g.2)) hg) j hj

end Sys2Proof.Machine
end

section
/-!
O20 (06 R125 to R132, R136; 02 R28; 24 R371): the atomic words, `stacq`, `strls` and `fence`: their issue and where they
stop.

A word whose body faults or slips is `issueWord_fault` or `issueWord_slip`; where an access stops before its queue is said
once (`accessStops_of_body`).
-/

namespace Sys2Proof.Machine

/-! ### Words that stop -/

section
variable {s t : State} {sf modable : Bool} {cls : Cls} {pre : State → Ctx → Pre} {body : State → Ctx → Res}

/-- A word with nothing to object to before its operands, whose body faults. -/
theorem issueWord_fault {code sub : Nat} {v : Word} (hc : s.clear sf)
    (hcls : classOk cls s.cur.half s.my.routineBound = true) (hp : pre (s.noted sf) s.ctx = {})
    (hb : body (s.noted sf) s.ctx = .trap t code sub v) :
    issueWord sf cls modable pre body s = .next (t.raise s.ctx code sub v s.me.pc s.me.scnt) := by
  obtain ⟨l, hl⟩ := s.noted_me sf
  rw [issueWord_clear hc hcls (by rw [hp]) (by rw [hp]) (by simp [hp]), hb, finish, hl, State.ctx_addr]

/-- A word with nothing to object to before its operands, whose body slips. -/
theorem issueWord_slip {cause : Nat} (hc : s.clear sf) (hcls : classOk cls s.cur.half s.my.routineBound = true)
    (hp : pre (s.noted sf) s.ctx = {}) (hb : body (s.noted sf) s.ctx = .slip cause) :
    issueWord sf cls modable pre body s = .next ((s.noted sf).slip s.ctx cause) := by
  rw [issueWord_clear hc hcls (by rw [hp]) (by rw [hp]) (by simp [hp]), hb, finish]

end

section
variable {s : State} {k : AccKind} {sp p n al : Nat} {delay : Place → Nat} {pl : Place}

theorem accessAt_unreached (h : s.reach s.cur.core (s.bindOf s.cur.core) k sp p n = none) :
    ∃ pl, accessAt s s.ctx k sp p n al delay = (pl, some 0x08) := by
  unfold accessAt
  simp only [State.ctx_core, State.ctx_bind, h]
  exact ⟨_, rfl⟩

theorem accessAt_busy (h : s.reach s.cur.core (s.bindOf s.cur.core) k sp p n = some pl)
    (hb : s.bankFails s.ctx (s.ccyc + delay pl) p n = true) :
    accessAt s s.ctx k sp p n al delay = (pl, some 0x08) := by
  unfold accessAt
  simp only [State.ctx_core, State.ctx_bind, State.ctx_now, h, hb, if_true]

theorem accessAt_misaligned (h : s.reach s.cur.core (s.bindOf s.cur.core) k sp p n = some pl)
    (hb : s.bankFails s.ctx (s.ccyc + delay pl) p n = false)
    (ha : p % al ≠ 0 ∨ (ptrTag p = 2 ∧ p / 0x10000 ≠ (p + n - 1) / 0x10000)) :
    accessAt s s.ctx k sp p n al delay = (pl, some 0x09) := by
  have hcond : p % al ≠ 0 ∨ crossBank p n = true := by simpa [crossBank] using ha
  unfold accessAt
  simp only [State.ctx_core, State.ctx_bind, State.ctx_now, h, hb, Bool.false_eq_true, if_false, if_pos hcond]

/-- A word without a tag that answers the fault of its access check stops where 06 R136 says. -/
theorem accessStops_of_body {i : Instr} {w : Spec.Access} {pre : State → Ctx → Pre} {body : State → Ctx → Res}
    (hexec : exec i s = issueWord w.sf .a false pre body s) (hc : s.clear w.sf) (ha : s.cur.half = .a)
    (hp : pre (s.noted w.sf) s.ctx = {}) (htag : w.tag = none)
    (hbody : ∀ pl code, accessAt s s.ctx w.kind w.space (w.ea s).toNat w.size w.align delay = (pl, some code) →
      body (s.noted w.sf) s.ctx = .trap (s.noted w.sf) code 0 (w.ea s)) : Spec.accessStops i w s delay := by
  have hstop : ∀ pl code, accessAt s s.ctx w.kind w.space (w.ea s).toNat w.size w.align delay = (pl, some code) →
      exec i s = .next ((s.noted w.sf).raise s.ctx code 0 (w.ea s) s.me.pc s.me.scnt) :=
    fun pl code h => hexec.trans (issueWord_fault hc (classOk_a ha) hp (hbody pl code h))
  refine ⟨fun h => ?_, fun pl hpl => ⟨fun hb => hstop pl _ (accessAt_busy hpl hb), fun hb hal => ?_⟩⟩
  · obtain ⟨pl, hacc⟩ := accessAt_unreached h
    exact hstop pl _ hacc
  · refine hstop pl _ (accessAt_misaligned hpl hb ?_)
    simpa [htag] using hal

end

/-! ### What each word issues -/

/-- An operand of an atomic at its access's width of `n` bytes, from a g register (06 R125). -/
def operand (s : State) (x : Ctx) (n : Nat) (r : BitVec 3) : Word :=
  BitVec.ofNat 64 ((if r = 0 then 0 else vget 0 (s.core x.core).regs.g r.toNat : Word).toNat % 2 ^ (8 * n))

theorem gVal_eq_operand (s : State) (x : Ctx) (r : BitVec 3) (z : BitVec 1) :
    gVal s x r z = operand s x (zSize z) r := rfl

/-- The operands of 06 R125: the register's value, cut to its low half for a 32-bit access. -/
theorem operand_noted {s : State} {sf : Bool} {n : Nat} (hn : n = 4 ∨ n = 8) (r : BitVec 3) :
    operand (s.noted sf) s.ctx n r = if r = 0 then 0 else
      if n = 8 then vget 0 s.my.regs.g r.toNat else ((vget 0 s.my.regs.g r.toNat).setWidth 32).setWidth 64 := by
  unfold operand
  rw [State.noted_regs]
  split
  · simp
  · rcases hn with rfl | rfl
    · rw [if_neg (by decide), ← BitVec.ofNat_toNat, BitVec.toNat_setWidth]
      rfl
    · rw [if_pos rfl, Nat.mod_eq_of_lt (BitVec.isLt _), BitVec.ofNat_toNat, BitVec.setWidth_eq]
      rfl

theorem zSize_eq (z : BitVec 1) : zSize z = 4 ∨ zSize z = 8 := by
  unfold zSize
  split <;> simp

/-- What is common to the atomic words that push an old value. -/
structure AtomicWord (i : Instr) (w : Spec.Access) (op : AtOp) (g h : BitVec 3) : Prop where
  exec : ∀ s, exec i s = issueWord w.sf .a false (qlPre w.q false) (fun s x =>
    atomicRes s x w.kind op w.space w.q w.size (s.ea x w.a w.disp).toNat (operand s x w.size g) (operand s x w.size h)
      w.obs.toNat) s
  reg : w.a < 8
  lat : w.lat = (1, 2, 3)
  align : w.align = w.size
  size : w.size = 4 ∨ w.size = 8
  tag : w.tag = none

/-- An `am…` word whose fields are not reserved. -/
theorem atomicWord_am {i : Instr} {w : Spec.Access} {op op' : AtOp} {sf : Bool} {p : BitVec 2} {q : BitVec 4}
    {a g h g' h' : BitVec 3} {z : BitVec 1} {o : BitVec 5} (hi : ∀ s, exec i s = atomicOp op sf p q a g z h o s)
    (hw : Spec.atomics.at_ sf p q a z o op g h = some (w, op', g', h')) : AtomicWord i w op' g' h' := by
  obtain ⟨hres, hw⟩ := Option.ite_none_left_eq_some.1 hw
  cases hw
  exact ⟨fun s => (hi s).trans
      (congrArg (fun b => issueWord sf .a false (qlPre q.toNat b) _ s) (orderedFields_ok hres)),
    a.isLt, rfl, rfl, zSize_eq z, rfl⟩

theorem atomicWord_of {i : Instr} {w : Spec.Access} {op : AtOp} {g h : BitVec 3}
    (hi : Spec.atomics i = some (w, op, g, h)) : AtomicWord i w op g h := by
  cases i
  case amadd | amswp | amcas | amand | amor | amminI | amminN | ammaxI | ammaxN =>
    exact atomicWord_am (fun _ => rfl) hi
  case stacq sf q a o =>
    obtain ⟨ho, hw⟩ := Option.ite_none_left_eq_some.1 hi
    cases hw
    exact ⟨fun s => congrArg (fun b => issueWord sf .a false (qlPre q.toNat b) _ s) (beq_eq_false_iff_ne.2 ho),
      a.isLt, rfl, rfl, .inr rfl, rfl⟩
  all_goals cases hi

/-! ### At issue -/

section
variable {s : State} {sf : Bool}

/-- The state after an atomic is set for its perform cycle, before its stream goes on. -/
def State.performLater (s : State) (sf : Bool) (q lat due : Nat) (ev : Ev) : State :=
  ((s.noted sf).push s.cur.core s.cur.half q (s.ccyc + lat) 0).post due 7 ev

theorem performLater_aside (q lat due : Nat) (ev : Ev) :
    Aside s.cur.core (s.noted sf) (s.performLater sf q lat due ev) :=
  (Aside.push _ _ _ _ _ _).trans (Aside.post _ _ _ _ _)

theorem performLater_agenda (q lat due : Nat) (ev : Ev) :
    (s.performLater sf q lat due ev).agenda = Spec.posted s due 7 (s.seq + 1) ev := by
  simp [State.performLater, Spec.posted]

theorem performLater_queue (lat due : Nat) (ev : Ev) {q : Nat} (hq : q < 5) :
    ((s.performLater sf q lat due ev).core s.cur.core).queue q =
      s.my.queue q ++ [⟨0, s.ccyc, s.ccyc + lat, false, s.cur.half, s.seq⟩] := by
  simp [State.performLater, State.push_queue _ _ _ hq]

theorem performLater_queue_ne (lat due : Nat) (ev : Ev) {q q' : Nat} (hq : q < 5) (hq' : q' < 5) (hne : q' ≠ q) :
    ((s.performLater sf q lat due ev).core s.cur.core).queue q' = s.my.queue q' := by
  simp [State.performLater, State.push_queue_ne _ _ _ hq hq' hne]

end

theorem oldLat_eq : Spec.oldLat = Place.result := by
  funext pl
  cases pl <;> rfl

section
variable {s t : State} {sf : Bool} {k : AccKind} {op : AtOp} {sp q n p mask : Nat} {v w ea : Word} {pl : Place}

theorem atomicRes_stop {code : Nat} (hp : p = ea.toNat)
    (ha : accessAt s s.ctx k sp ea.toNat n n Place.store = (pl, some code)) :
    atomicRes (s.noted sf) s.ctx k op sp q n p v w mask = .trap (s.noted sf) code 0 ea := by
  rw [hp, atomicRes, State.noted_accessAt, ha, BitVec.ofNat_toNat, BitVec.setWidth_eq]

theorem atomicRes_full (hp : p = ea.toNat) (ha : accessAt s s.ctx k sp ea.toNat n n Place.store = (pl, none))
    (hq : 8 ≤ s.my.occupancy q s.ccyc) :
    atomicRes (s.noted sf) s.ctx k op sp q n p v w mask = .trap (s.noted sf) 0x0A (25 + q) 0 := by
  have hq' : 8 ≤ (s.core s.cur.core).occupancy q s.ccyc := hq
  simp only [hp, atomicRes, State.noted_accessAt, ha, State.ctx_core, State.ctx_now, State.noted_occupancy, hq',
    if_true, qSub]

theorem atomicRes_unordered (hp : p = ea.toNat) (ha : accessAt s s.ctx k sp ea.toNat n n Place.store = (pl, none))
    (hq : s.my.occupancy q s.ccyc < 8) (ho : s.orderOk s.cur.core mask = false) :
    atomicRes (s.noted sf) s.ctx k op sp q n p v w mask = .slip 6 := by
  have hq' : ¬ 8 ≤ (s.core s.cur.core).occupancy q s.ccyc := Nat.not_le.2 hq
  simp only [hp, atomicRes, State.noted_accessAt, ha, State.ctx_core, State.ctx_now, State.noted_occupancy, hq',
    State.noted_orderOk, ho, if_true, if_false]

end

/-! ### `strls` -/

/-- What `strls` comes to after its field checks. -/
def strlsRes (s : State) (x : Ctx) (q p mask : Nat) : Res :=
  match accessAt s x .stage 1 p 8 8 Place.store with
  | (_, some code) => .trap s code 0 (BitVec.ofNat 64 p)
  | (_, none) =>
    match (s.core x.core).entry (3 + q) 0 x.now with
    | none => .trap s 0x0B (qSub (3 + q)) 0
    | some e =>
      if e.bad then .trap ((s.modCore x.core (·.pop (3 + q) x.now)).noteErr .register false (64 * x.core + qSub (3 + q)))
        0x0C 0 (BitVec.ofNat 64 (2 ^ 63 + qSub (3 + q)))
      else if s.orderOk x.core mask = false then .slip 6
      else .ok ((s.modCore x.core (·.pop (3 + q) x.now)).post (x.now + 1) 2
        (.atomic x.core x.half .strls true p e.val 0 3 0)) .seq

theorem exec_strls_eq {sf : Bool} {q : BitVec 4} {a : BitVec 3} {o : BitVec 5} (ho : o ≠ 0) (s : State) :
    exec (.strls sf q a o) s = issueWord sf .a false (qsPre q.toNat false)
      (fun s x => strlsRes s x q.toNat (s.ea x a.toNat 0).toNat o.toNat) s :=
  congrArg (fun b => issueWord sf .a false (qsPre q.toNat b) _ s) (beq_eq_false_iff_ne.2 ho)

section
variable {s : State} {sf : Bool} {q p mask : Nat} {ea : Word} {pl : Place} {e : QEnt} {rest : List QEnt}

theorem strlsRes_stop {code : Nat} (hp : p = ea.toNat)
    (ha : accessAt s s.ctx .stage 1 ea.toNat 8 8 Place.store = (pl, some code)) :
    strlsRes (s.noted sf) s.ctx q p mask = .trap (s.noted sf) code 0 ea := by
  rw [hp, strlsRes, State.noted_accessAt, ha, BitVec.ofNat_toNat, BitVec.setWidth_eq]

theorem entry_of_nil {k : Core} {q now : Nat} (h : k.queue q = []) : k.entry q 0 now = none := by
  rw [Core.entry, h]
  rfl

theorem entry_of_cons {k : Core} {q now : Nat} (h : k.queue q = e :: rest) :
    k.entry q 0 now = if e.due ≤ now then some e else none := by
  rw [Core.entry, h]
  rfl

variable (hp : p = ea.toNat) (ha : accessAt s s.ctx .stage 1 ea.toNat 8 8 Place.store = (pl, none))
include hp ha

theorem strlsRes_empty (he : s.my.entry (3 + q) 0 s.ccyc = none) :
    strlsRes (s.noted sf) s.ctx q p mask = .trap (s.noted sf) 0x0B (28 + q) 0 := by
  have he' : (s.core s.cur.core).entry (3 + q) 0 s.ccyc = none := he
  simp only [hp, strlsRes, State.noted_accessAt, ha, State.ctx_core, State.ctx_now, State.noted_entry, he', qSub]
  rw [show 25 + (3 + q) = 28 + q by omega]

theorem strlsRes_bad (he : s.my.entry (3 + q) 0 s.ccyc = some e) (hb : e.bad = true) :
    strlsRes (s.noted sf) s.ctx q p mask =
      .trap (((s.noted sf).modCore s.cur.core (·.pop (3 + q) s.ccyc)).noteErr .register false
        (64 * s.cur.core + (28 + q))) 0x0C 0 (BitVec.ofNat 64 (2 ^ 63 + (28 + q))) := by
  have he' : (s.core s.cur.core).entry (3 + q) 0 s.ccyc = some e := he
  simp only [hp, strlsRes, State.noted_accessAt, ha, State.ctx_core, State.ctx_now, State.noted_entry, he', qSub, hb, if_true]
  rw [show 25 + (3 + q) = 28 + q by omega]

theorem strlsRes_unordered (he : s.my.entry (3 + q) 0 s.ccyc = some e) (hb : e.bad = false)
    (ho : s.orderOk s.cur.core mask = false) : strlsRes (s.noted sf) s.ctx q p mask = .slip 6 := by
  have he' : (s.core s.cur.core).entry (3 + q) 0 s.ccyc = some e := he
  simp only [hp, strlsRes, State.noted_accessAt, ha, State.ctx_core, State.ctx_now, State.noted_entry, he', hb,
    State.noted_orderOk, ho, Bool.false_eq_true, if_false, if_true]

theorem strlsRes_ok (he : s.my.entry (3 + q) 0 s.ccyc = some e) (hb : e.bad = false)
    (ho : s.orderOk s.cur.core mask = true) : strlsRes (s.noted sf) s.ctx q p mask =
      .ok (s.drainedInto sf q (s.ccyc + 1) (.atomic s.cur.core s.cur.half .strls true p e.val 0 3 0)) .seq := by
  have he' : (s.core s.cur.core).entry (3 + q) 0 s.ccyc = some e := he
  simp only [hp, strlsRes, State.noted_accessAt, ha, State.ctx_core, State.ctx_now, State.noted_entry, he', hb,
    State.noted_orderOk, ho, Bool.false_eq_true, Bool.true_eq_false, if_false]
  rfl

end

theorem fence_results {s : State} {sf : Bool} {o : BitVec 5} (hc : s.clear sf) (ha : s.cur.half = .a) (ho : o ≠ 0) :
    (s.orderOk s.cur.core o.toNat = true → exec (.fence sf o) s = .next ((s.noted sf).went s.ctx sf .seq)) ∧
    (s.orderOk s.cur.core o.toNat = false → exec (.fence sf o) s = .next ((s.noted sf).slip s.ctx 6)) := by
  have hpre : ({ reserved := o == 0 } : Pre) = {} := by rw [beq_eq_false_iff_ne.2 ho]
  refine ⟨fun hok => issueWord_ok hc (classOk_a ha) hpre ?_ (by simp), fun hno => issueWord_slip hc (classOk_a ha) hpre ?_⟩
  · simp only [State.noted_orderOk, State.ctx_core, hok, if_true]
  · simp only [State.noted_orderOk, State.ctx_core, hno, Bool.false_eq_true, if_false]

theorem atomicResults : Spec.atomicResults := by
  refine ⟨?am, ?strls, fun sf o s hc ha ho => fence_results hc ha ho⟩
  case am =>
    intro i w op g h s pl hi hc ha p opnd hq hbound hallowed hocc horder
    obtain ⟨hexec, hreg, hlat, halign, hsize, -⟩ := atomicWord_of hi
    have hea : ((s.noted w.sf).ea s.ctx w.a w.disp).toNat = p := noted_ea_toNat hreg
    have hat : w.at_ pl = pl.store := by
      cases pl <;> simp only [Spec.Access.at_, hlat, Place.store]
    rw [storeLat_eq, halign] at hallowed
    have hres := atomicRes_ok (sf := w.sf) (op := op) (v := opnd g) (w := opnd h) (accessAt_allowed hallowed) hocc horder
    have haside := performLater_aside (s := s) (sf := w.sf) w.q pl.result (s.ccyc + pl.store)
      (.atomic s.cur.core s.cur.half op (w.size == 8) p (opnd g) (opnd h) w.q s.seq)
    refine ⟨_, (hexec s).trans (issueWord_ok hc (classOk_a ha) (qlPre_ok hq hbound) ?_ (by simp)), haside.kept_went,
      haside.onward_went, haside.queuesBut_went fun q' hq' hne => performLater_queue_ne _ _ _ (by omega) hq' hne, ?_, ?_⟩
    · rw [hea, operand_noted hsize, operand_noted hsize]
      exact hres
    · rw [haside.queue_went, performLater_queue _ _ _ (by omega), ha, oldLat_eq]
    · rw [State.went_agenda, performLater_agenda, hat, ha]
  case strls =>
    intro sf q a o s e rest hc ha hq ho p hallowed he hdue hbad horder
    have hea : ((s.noted sf).ea s.ctx a.toNat 0).toNat = p :=
      (noted_ea_toNat (w := Spec.strlsAccess sf q a o) a.isLt).trans (congrArg BitVec.toNat (BitVec.add_zero _))
    rw [storeLat_eq] at hallowed
    have hentry : s.my.entry (3 + q.toNat) 0 s.ccyc = some e := by rw [entry_of_cons he, if_pos hdue]
    have hres := strlsRes_ok (sf := sf) (p := p) rfl (accessAt_allowed hallowed) hentry hbad horder
    have haside := drainedInto_aside (s := s) (sf := sf) (q := q.toNat) (s.ccyc + 1)
      (.atomic s.cur.core s.cur.half .strls true p e.val 0 3 0)
    refine ⟨_, (exec_strls_eq ho s).trans (issueWord_ok hc (classOk_a ha) (qsPre_ok hq) ?_ (by simp)), haside.kept_went,
      haside.onward_went, haside.queuesBut_went fun q' hq' hne => drainedInto_queue_ne _ _ hq hq' hne, ?_, ?_⟩
    · rw [hea]
      exact hres
    · rw [haside.queue_went, drainedInto_queue _ _ hq he]
    · rw [State.went_agenda, drainedInto_agenda, ha]

/-! ### Where they stop -/

theorem atomicStops : Spec.atomicStops := by
  refine ⟨?am, ?strls⟩
  case am =>
    intro i w op g h s hi hc ha hq hbound
    obtain ⟨hexec, hreg, -, halign, -, htag⟩ := atomicWord_of hi
    have hea : ((s.noted w.sf).ea s.ctx w.a w.disp).toNat = (w.ea s).toNat := noted_ea_toNat hreg
    have hpre := qlPre_ok (sf := w.sf) hq hbound
    rw [storeLat_eq]
    refine ⟨accessStops_of_body (hexec s) hc ha hpre htag fun pl code hacc => ?_, fun pl hallowed => ⟨fun hfull => ?_,
      fun hroom hno => ?_⟩⟩
    · rw [halign] at hacc
      exact atomicRes_stop hea hacc
    · rw [halign] at hallowed
      exact (hexec s).trans (issueWord_fault hc (classOk_a ha) hpre (atomicRes_full hea (accessAt_allowed hallowed) hfull))
    · rw [halign] at hallowed
      exact (hexec s).trans (issueWord_slip hc (classOk_a ha) hpre
        (atomicRes_unordered hea (accessAt_allowed hallowed) hroom hno))
  case strls =>
    intro sf q a o s hc ha hq ho w
    have hea : ((s.noted sf).ea s.ctx a.toNat 0).toNat = (w.ea s).toNat := noted_ea_toNat (w := w) a.isLt
    have hpre := qsPre_ok (s := s) (sf := sf) hq
    rw [storeLat_eq]
    refine ⟨accessStops_of_body (exec_strls_eq ho s) hc ha hpre rfl
      fun pl code hacc => strlsRes_stop hea hacc, fun pl hallowed => ?_⟩
    have hacc := accessAt_allowed hallowed
    have hexec := exec_strls_eq (sf := sf) (q := q) (a := a) ho s
    have hempty : s.my.entry (3 + q.toNat) 0 s.ccyc = none → _ := fun he =>
      hexec.trans (issueWord_fault hc (classOk_a ha) hpre (strlsRes_empty hea hacc he))
    refine ⟨fun he => hempty (entry_of_nil he), fun e rest he => ?_⟩
    have hentry : s.my.entry (3 + q.toNat) 0 s.ccyc = if e.due ≤ s.ccyc then some e else none := entry_of_cons he
    refine ⟨fun hlate => hempty (by rw [hentry, if_neg (by omega)]), fun hdue hbad => ?_, fun hdue hbad hno => ?_⟩
    · rw [if_pos hdue] at hentry
      exact hexec.trans (issueWord_fault hc (classOk_a ha) hpre (strlsRes_bad hea hacc hentry hbad))
    · rw [if_pos hdue] at hentry
      exact hexec.trans (issueWord_slip hc (classOk_a ha) hpre (strlsRes_unordered hea hacc hentry hbad hno))

end Sys2Proof.Machine
end

section
/-!
O20 (06 R126, R131, R132), the perform cycle: the new value's bytes are written and read back as the value
(`Memory.readLe_write`), and the model's arithmetic on numbers is that of words (`AtOp.apply_eq`).
-/

namespace Sys2Proof.Machine

/-! ### Values in memory -/

theorem ofBytes_lt (l : List Byte) : ofBytes l < 256 ^ l.length := by
  induction l with
  | nil => simp [ofBytes]
  | cons b r ih =>
    have hb := b.isLt
    rw [ofBytes, List.length_cons, Nat.pow_succ]
    omega

theorem ofBytes_leBytes (n v : Nat) : ofBytes (leBytes n v) = v % 256 ^ n := by
  induction n generalizing v with
  | zero => simp [leBytes, ofBytes, Nat.mod_one]
  | succ n ih =>
    rw [leBytes, ofBytes, ih, Nat.pow_succ', Nat.mod_mul, BitVec.toNat_ofNat]

theorem Memory.readLe_lt (m : Memory) (key n : Nat) : m.readLe key n < 256 ^ n := by
  simpa [Memory.readLe, Memory.readN] using ofBytes_lt (m.readN key n)

/-- The bytes of a span are those that a read of each place gives. -/
theorem Memory.readN_eq {m : Memory} {key : Nat} {bs : List Byte} (h : ∀ j < bs.length, m.read (key + j) = bs.getD j 0) :
    m.readN key bs.length = bs := by
  refine List.ext_getElem (by simp [Memory.readN]) fun j hj hj' => ?_
  simp only [Memory.readN, List.getElem_map, List.getElem_range, h j hj', List.getD_eq_getElem _ _ hj']

theorem Memory.readN_write (m : Memory) (key : Nat) (bs : List Byte) : (m.write key bs).readN key bs.length = bs :=
  Memory.readN_eq fun j hj => by rw [Memory.read_write, if_pos (by omega), Nat.add_sub_cancel_left]

/-- A number that is written reads back, cut to its bytes. -/
theorem Memory.readLe_write (m : Memory) (key n v : Nat) : (m.write key (leBytes n v)).readLe key n = v % 256 ^ n := by
  have h := m.readN_write key (leBytes n v)
  rw [length_leBytes] at h
  rw [Memory.readLe, h, ofBytes_leBytes]

/-! ### The new value -/

section
variable {w p q : Nat}

theorem toInt_ofNat_eq_sval (hw : 0 < w) (hp : p < 2 ^ w) : (BitVec.ofNat w p).toInt = sval p w := by
  obtain ⟨k, rfl⟩ : ∃ k, w = k + 1 := ⟨w - 1, by omega⟩
  have hhalf : 2 * p < 2 ^ (k + 1) ↔ p < 2 ^ k := by omega
  simp only [BitVec.toInt, sval, BitVec.toNat_ofNat, Nat.mod_eq_of_lt hp, Nat.add_sub_cancel, hhalf]

theorem toNat_ofNat_of_lt (hp : p < 2 ^ w) : (BitVec.ofNat w p).toNat = p := by
  rw [BitVec.toNat_ofNat, Nat.mod_eq_of_lt hp]

theorem ofNat_inj_of_lt (hp : p < 2 ^ w) (hq : q < 2 ^ w) : BitVec.ofNat w p = BitVec.ofNat w q ↔ p = q := by
  rw [← BitVec.toNat_inj, toNat_ofNat_of_lt hp, toNat_ofNat_of_lt hq]

theorem sle_ofNat_iff (hw : 0 < w) (hp : p < 2 ^ w) (hq : q < 2 ^ w) :
    (BitVec.ofNat w p).sle (BitVec.ofNat w q) = true ↔ sval p w ≤ sval q w := by
  rw [BitVec.sle_iff_toInt_le, toInt_ofNat_eq_sval hw hp, toInt_ofNat_eq_sval hw hq]

theorem ule_ofNat_iff (hp : p < 2 ^ w) (hq : q < 2 ^ w) :
    (BitVec.ofNat w p).ule (BitVec.ofNat w q) = true ↔ p ≤ q := by
  rw [BitVec.ule_iff_toNat_le, toNat_ofNat_of_lt hp, toNat_ofNat_of_lt hq]

end

/-- Setting the top bit of a 64-bit word (06 R131). -/
theorem toNat_setHeld {p : Nat} (hp : p < 2 ^ 64) :
    (BitVec.ofNat 64 p ||| BitVec.ofNat 64 (2 ^ 63)).toNat = if p < 2 ^ 63 then p + 2 ^ 63 else p := by
  have hadd : ∀ r < 2 ^ 63, r ||| 2 ^ 63 = r + 2 ^ 63 := fun r hr => by
    rw [Nat.or_comm, Nat.add_comm]
    exact (Nat.two_pow_add_eq_or_of_lt hr 1).symm
  rw [BitVec.toNat_or, toNat_ofNat_of_lt hp, toNat_ofNat_of_lt (by decide)]
  split
  · next h => exact hadd p h
  · next h =>
    have hset : p = (p - 2 ^ 63) ||| 2 ^ 63 := by
      rw [hadd _ (by omega)]
      omega
    rw [hset, Nat.or_assoc, Nat.or_self]

/-- The model's new value, cut to the access's width, is the spec's (06 R126, R131). -/
theorem AtOp.apply_eq {op : AtOp} (hop : op ≠ .strls) {w old x y : Nat} (hw : w = 32 ∨ w = 64) (ho : old < 2 ^ w)
    (hx : x < 2 ^ w) (hy : y < 2 ^ w) : op.apply w old x y % 2 ^ w =
      (Spec.newValue op w (BitVec.ofNat w old) (BitVec.ofNat w x) (BitVec.ofNat w y)).toNat := by
  have hpos : 0 < w := by omega
  cases op
  case add => simp [AtOp.apply, Spec.newValue]
  case swp => simp [AtOp.apply, Spec.newValue]
  case cas =>
    simp only [AtOp.apply, Spec.newValue, ofNat_inj_of_lt ho hx]
    split <;> simp
  case and => exact Nat.mod_eq_of_lt (BitVec.isLt _)
  case or => exact Nat.mod_eq_of_lt (BitVec.isLt _)
  case minI =>
    simp only [AtOp.apply, Spec.newValue, sle_ofNat_iff hpos ho hx]
    split <;> simp
  case maxI =>
    simp only [AtOp.apply, Spec.newValue, sle_ofNat_iff hpos ho hx]
    split <;> simp
  case minN =>
    simp only [AtOp.apply, Spec.newValue, ule_ofNat_iff ho hx, min_def]
    split <;> simp
  case maxN =>
    simp only [AtOp.apply, Spec.newValue, ule_ofNat_iff ho hx, max_def]
    split <;> simp
  case stacq =>
    rcases hw with rfl | rfl
    · simp only [AtOp.apply, Spec.newValue]
      rw [if_pos (by omega), show BitVec.ofNat 32 (2 ^ 63) = 0#32 by decide, BitVec.or_zero, toNat_ofNat_of_lt ho]
      omega
    · simp only [AtOp.apply, Spec.newValue, toNat_setHeld ho]
      split <;> omega
  case strls => exact absurd rfl hop

/-- The entry that `strls` writes is its value with HELD clear (06 R132). -/
theorem apply_strls_eq (g : Word) :
    AtOp.apply .strls 64 0 g.toNat 0 % 256 ^ 8 = (Spec.newValue .strls 64 0 g 0).toNat := by
  have hclear : (Spec.newValue .strls 64 0 g 0).toNat = g.toNat % 2 ^ 63 := by
    simp only [Spec.newValue]
    rw [BitVec.toNat_and, toNat_ofNat_of_lt (by decide), Nat.and_two_pow_sub_one_eq_mod]
  rw [hclear, AtOp.apply]
  omega

/-! ### The perform cycle -/

section
variable {s : State} {c : Nat} {op : AtOp} {wide : Bool} {p q id : Nat} {x y : Word}

/-- The bytes of an access (06 R125). -/
def accessBytes (wide : Bool) : Nat := if wide then 8 else 4

/-- The queue entry of a performed atomic takes its value and parity. -/
def State.setOld (s : State) (c q id : Nat) (v : Word) (bad : Bool) : State :=
  s.modCore c fun k => k.setQueue q (setEntry (k.queue q) id v bad)

theorem State.perform_strls : s.perform c .strls wide p x y q id =
    s.write (Spec.keyOf s c p) (leBytes (accessBytes wide) (AtOp.apply .strls 64 0 x.toNat 0)) := rfl

theorem State.perform_poisoned (hop : op ≠ .strls)
    (hp : poisoned s.ecc (Spec.keyOf s c p) (accessBytes wide) = true) :
    s.perform c op wide p x y q id = (s.noteErr .memory false (ptrKey p)).setOld c q id 0 true := by
  unfold State.perform
  exact (if_neg hop).trans (if_pos hp)

theorem State.perform_clean (hop : op ≠ .strls)
    (hp : poisoned s.ecc (Spec.keyOf s c p) (accessBytes wide) = false) : s.perform c op wide p x y q id =
      ((s.noteRead [(Spec.keyOf s c p, accessBytes wide)]).write (Spec.keyOf s c p)
        (leBytes (accessBytes wide) (op.apply (8 * accessBytes wide)
          (s.mem.readLe (Spec.keyOf s c p) (accessBytes wide)) x.toNat y.toNat))).setOld c q id
        (BitVec.ofNat 64 (s.mem.readLe (Spec.keyOf s c p) (accessBytes wide))) false := by
  unfold State.perform
  exact (if_neg hop).trans (if_neg (Bool.eq_false_iff.1 hp))

theorem State.setOld_queue (s : State) (c id : Nat) (v : Word) (bad : Bool) (hq : q < 5) :
    ((s.setOld c q id v bad).core c).queue q =
      ((s.core c).queue q).map fun e => if e.id = id then { e with val := v, bad := bad } else e := by
  rw [State.setOld, State.modCore_core_self, Core.setQueue_queue_self _ _ hq]
  rfl

theorem State.setOld_regs (s : State) (c id : Nat) (v : Word) (bad : Bool) :
    ((s.setOld c q id v bad).core c).regs = (s.core c).regs := by
  rw [State.setOld, State.modCore_core_self, Core.setQueue_regs]

theorem State.setOld_core_ne (s : State) (id : Nat) (v : Word) (bad : Bool) {c' : Nat} (h : c' ≠ c) :
    (s.setOld c q id v bad).core c' = s.core c' := s.modCore_core_ne _ h

theorem State.setOld_mem (s : State) (c q id : Nat) (v : Word) (bad : Bool) : (s.setOld c q id v bad).mem = s.mem := rfl

/-- What a performed atomic leaves: the agenda, registers, other cores, and every byte outside its word. -/
theorem State.perform_frame (s : State) (c : Nat) (op : AtOp) (wide : Bool) (p : Nat) (x y : Word) (q id : Nat) :
    let t := s.perform c op wide p x y q id
    let key := Spec.keyOf s c p
    t.agenda = s.agenda ∧ (t.core c).regs = (s.core c).regs ∧ (∀ c', c' ≠ c → t.core c' = s.core c') ∧
      ∀ a, a < key ∨ key + accessBytes wide ≤ a → t.mem.read a = s.mem.read a := by
  intro t key
  have hwrite : ∀ (u : State) (v a : Nat), u.mem = s.mem → a < key ∨ key + accessBytes wide ≤ a →
      (u.write key (leBytes (accessBytes wide) v)).mem.read a = s.mem.read a := fun u v a hu ha => by
    rw [State.write_read_out _ (by rw [length_leBytes]; omega), hu]
  by_cases hop : op = .strls
  · have ht : t = s.write key (leBytes (accessBytes wide) (AtOp.apply .strls 64 0 x.toNat 0)) := by
      simp only [t, hop, State.perform_strls]
      rfl
    have honly := s.write_onlyMem key (leBytes (accessBytes wide) (AtOp.apply .strls 64 0 x.toNat 0))
    rw [ht]
    exact ⟨honly.agenda, by rw [honly.core], fun c' _ => honly.core c', fun a ha => hwrite s _ a rfl ha⟩
  cases hpoison : poisoned s.ecc key (accessBytes wide) with
  | true =>
    have ht : t = _ := State.perform_poisoned hop hpoison
    rw [ht]
    exact ⟨rfl, State.setOld_regs .., fun c' h => State.setOld_core_ne _ _ _ _ h, fun _ _ => rfl⟩
  | false =>
    have ht : t = _ := State.perform_clean hop hpoison
    have honly := (s.noteRead [(key, accessBytes wide)]).write_onlyMem key (leBytes (accessBytes wide)
      (op.apply (8 * accessBytes wide) (s.mem.readLe key (accessBytes wide)) x.toNat y.toNat))
    rw [ht]
    refine ⟨honly.agenda, ?_, fun c' h => ?_, fun a ha => hwrite (s.noteRead _) _ a rfl ha⟩
    · rw [State.setOld_regs, honly.core]
      rfl
    · rw [State.setOld_core_ne _ _ _ _ h, honly.core]
      rfl

theorem pow_accessBytes (wide : Bool) : 256 ^ accessBytes wide = 2 ^ (8 * accessBytes wide) := by
  cases wide <;> rfl

/-- A performed atomic on a word that is not poisoned: the new value in memory, the old one in its entry. -/
theorem State.perform_clean_word (hop : op ≠ .strls) (hq : q < 5)
    (hp : poisoned s.ecc (Spec.keyOf s c p) (accessBytes wide) = false)
    (hx : wide = false → x.toNat < 2 ^ 32 ∧ y.toNat < 2 ^ 32) :
    let t := s.perform c op wide p x y q id
    let old := s.mem.readLe (Spec.keyOf s c p) (accessBytes wide)
    t.mem.readLe (Spec.keyOf s c p) (accessBytes wide) = (Spec.newValue op (8 * accessBytes wide) (BitVec.ofNat _ old)
        (BitVec.ofNat _ x.toNat) (BitVec.ofNat _ y.toNat)).toNat ∧
      (t.core c).queue q = ((s.core c).queue q).map fun e =>
        if e.id = id then { e with val := BitVec.ofNat 64 old, bad := false } else e := by
  intro t old
  have ht : t = _ := State.perform_clean hop hp
  have hold : old < 2 ^ (8 * accessBytes wide) := pow_accessBytes wide ▸ Memory.readLe_lt ..
  have hwidth : 8 * accessBytes wide = 32 ∨ 8 * accessBytes wide = 64 := by cases wide <;> simp [accessBytes]
  have hops : x.toNat < 2 ^ (8 * accessBytes wide) ∧ y.toNat < 2 ^ (8 * accessBytes wide) := by
    cases wide
    · exact hx rfl
    · exact ⟨x.isLt, y.isLt⟩
  rw [ht]
  refine ⟨?_, ?_⟩
  · rw [State.setOld_mem, State.write_mem, State.noteRead_mem, Memory.readLe_write, pow_accessBytes]
    exact AtOp.apply_eq hop hwidth hold hops.1 hops.2
  · rw [State.setOld_queue _ _ _ _ _ hq, (State.write_onlyMem ..).core, State.noteRead_core]

end

theorem atomicPerforms : Spec.atomicPerforms := by
  intro s e rest c h op wide p g k q id hagenda hdue hev hq hnarrow n key old
  let u := s.landing rest c ((Ev.atomic c h op wide p g k q id).banks { s with agenda := rest } c)
  have hfire : s.fire .atomicPerform = u.perform c op wide p g k q id := by
    rw [fire_head hagenda hdue (by rw [hev]; rfl), hev]
    rfl
  have hkey : Spec.keyOf u c p = key := State.landing_keyOf ..
  have hmem : u.mem = s.mem := State.landing_mem ..
  have hecc : u.ecc = s.ecc := State.landing_ecc ..
  have hqueue : (u.core c).queue q = (s.core c).queue q := State.landing_queue ..
  obtain ⟨hag, hregs, hothers, hreads⟩ := u.perform_frame c op wide p g k q id
  rw [hkey, hmem] at hreads
  refine ⟨_, congrArg Host.Outcome.next hfire, hag.trans (State.landing_agenda ..), hregs.trans (State.landing_regs ..),
    hreads, fun c' hc' => (hothers c' hc').trans (State.landing_core_ne _ _ _ _ hc'), ?strls, ?clean, ?poisoned⟩
  case strls =>
    rintro rfl rfl
    rw [State.perform_strls, hkey, State.write_mem]
    exact (Memory.readLe_write ..).trans (apply_strls_eq g)
  case clean =>
    intro hop hp
    have hword := State.perform_clean_word (s := u) (c := c) (p := p) (q := q) (id := id) (x := g) (y := k) hop hq
      (by rw [hecc, hkey]; exact hp) hnarrow
    rw [hkey, hmem, hqueue] at hword
    exact hword
  case poisoned =>
    intro hop hp
    rw [State.perform_poisoned hop (by rw [hecc, hkey]; exact hp), State.setOld_mem, State.setOld_queue _ _ _ _ _ hq]
    exact ⟨hmem, by rw [← hqueue]; rfl⟩

/-- Settles O20: the atomic words at issue, where they stop, and what they do in their perform cycle. -/
theorem atomicWords : Obligations.AtomicWords :=
  ⟨atomicResults, atomicStops, atomicPerforms⟩

end Sys2Proof.Machine
end

section
/-!
O19 (06 R124; 02 R27): vector loads and stores of a span, `vgath` and `vscat`.

The lanes that a mask enables are `Spec.enabled` (`lanesOf_mkMask`). A load's lanes come into one register value
(`lane_laneVec`) under a mask of their bits (`getLsbD_laneMask`); a store's go to the agenda lane by lane
(`bytesOf_laneSegs`).
-/

namespace Sys2Proof.Machine

/-! ### Lanes -/

theorem bitAt_eq_testBit (w i : Nat) : bitAt w i = w.testBit i := by
  rw [Nat.testBit_eq_decide_div_mod_eq]
  rfl

/-- A bit of elements of width `w` put together is one of its element. -/
theorem testBit_foldr_elems {w : Nat} (hw : 0 < w) (l : List Nat) (k : Nat) :
    (l.foldr (fun x a => x % 2 ^ w + 2 ^ w * a) 0).testBit k = (l.getD (k / w) 0).testBit (k % w) := by
  induction l generalizing k with
  | nil => simp
  | cons x l ih =>
    rw [List.foldr_cons, Nat.add_comm, Nat.testBit_two_pow_mul_add _ (Nat.mod_lt _ (by positivity))]
    split
    · next h =>
      rw [Nat.div_eq_of_lt h, Nat.mod_eq_of_lt h, List.getD_cons_zero, Nat.testBit_mod_two_pow, decide_eq_true h,
        Bool.true_and]
    · next h =>
      obtain ⟨r, rfl⟩ : ∃ r, k = r + w := ⟨k - w, by omega⟩
      rw [Nat.add_sub_cancel, ih, Nat.add_div_right _ hw, Nat.add_mod_right, List.getD_cons_succ]

/-- The bits of the lanes that a mask enables (02 R27). -/
theorem getLsbD_laneMask (m : BitVec 32) {k : Nat} (hk : k < 1024) : (laneMask m).getLsbD k = m.getLsbD (k / 32) := by
  have hlane : k / 32 < 32 := by omega
  have helem : ((List.range 32).map fun i => if bitAt m.toNat i then 2 ^ 32 - 1 else 0).getD (k / 32) 0 =
      if bitAt m.toNat (k / 32) then 2 ^ 32 - 1 else 0 := by
    rw [List.getD_eq_getElem _ _ (by simpa using hlane)]
    simp
  rw [laneMask, vecOf, BitVec.getLsbD_ofNat, decide_eq_true hk, Bool.true_and, testBit_foldr_elems (by decide), helem,
    bitAt_eq_testBit]
  cases hm : m.toNat.testBit (k / 32)
  · simp [BitVec.getLsbD, hm]
  · rw [if_pos rfl, Nat.testBit_two_pow_sub_one, decide_eq_true (Nat.mod_lt _ (by decide))]
    exact hm.symm

section
variable (s : State) (m : BitVec 3)

theorem getLsbD_mkMask {i : Nat} (hi : i < 32) : (mkMask s s.ctx m).getLsbD i = Spec.lanesOn s m i := by
  unfold mkMask Spec.lanesOn
  split
  · next h => rw [BitVec.getLsbD_allOnes, decide_eq_true hi, decide_eq_true h, Bool.true_or]
  · next h =>
    rw [BitVec.getLsbD_setWidth, decide_eq_true hi, decide_eq_false h, Bool.true_and, Bool.false_or]
    rfl

theorem lanesOf_mkMask : lanesOf (mkMask s s.ctx m) = Spec.enabled s m :=
  List.filter_congr fun _ hi => getLsbD_mkMask s m (List.mem_range.1 hi)

theorem laneMask_mkMask {k : Nat} (hk : k < 1024) :
    (laneMask (mkMask s s.ctx m)).getLsbD k = Spec.lanesOn s m (k / 32) := by
  rw [getLsbD_laneMask _ hk, getLsbD_mkMask s m (by omega)]

theorem mem_enabled {j : Nat} : j ∈ Spec.enabled s m ↔ j < 32 ∧ Spec.lanesOn s m j = true := by
  rw [Spec.enabled, List.mem_filter, List.mem_range]

end

/-- The sum by which `laneVec` puts the values of the lanes below `n` that `on` enables into place. -/
def laneSum (on : Nat → Bool) (v : Nat → Nat) (n : Nat) : Nat :=
  (((List.range n).filter on).map fun i => (i, v i)).foldl (fun a p => a + p.2 % 2 ^ 32 * 2 ^ (32 * p.1)) 0

theorem laneVec_eq_laneSum (on : Nat → Bool) (v : Nat → Nat) :
    laneVec (((List.range 32).filter on).map fun i => (i, v i)) = BitVec.ofNat 1024 (laneSum on v 32) := rfl

theorem laneSum_succ (on : Nat → Bool) (v : Nat → Nat) (n : Nat) :
    laneSum on v (n + 1) = laneSum on v n + (if on n then v n % 2 ^ 32 else 0) * 2 ^ (32 * n) := by
  unfold laneSum
  rw [List.range_succ, List.filter_append, List.map_append, List.foldl_append]
  cases h : on n <;> simp [h]

theorem laneSum_lt (on : Nat → Bool) (v : Nat → Nat) (n : Nat) : laneSum on v n < 2 ^ (32 * n) := by
  induction n with
  | zero => simp [laneSum]
  | succ n ih =>
    have hc : (if on n then v n % 2 ^ 32 else 0) ≤ 2 ^ 32 - 1 := by split <;> omega
    rw [laneSum_succ]
    calc _ < 2 ^ (32 * n) + (2 ^ 32 - 1) * 2 ^ (32 * n) := Nat.add_lt_add_of_lt_of_le ih (Nat.mul_le_mul_right _ hc)
      _ = 2 ^ (32 * (n + 1)) := by rw [Nat.mul_succ, Nat.pow_add]; omega

/-- Lane `j` of the sum. -/
theorem laneSum_lane (on : Nat → Bool) (v : Nat → Nat) {n j : Nat} (hj : j < n) (hon : on j = true) :
    laneSum on v n / 2 ^ (32 * j) % 2 ^ 32 = v j % 2 ^ 32 := by
  induction n with
  | zero => omega
  | succ n ih =>
    rw [laneSum_succ]
    by_cases h : j = n
    · subst h
      rw [if_pos hon, Nat.add_mul_div_right _ _ (by positivity), Nat.div_eq_of_lt (laneSum_lt on v j), Nat.zero_add,
        Nat.mod_mod]
    · obtain ⟨r, rfl⟩ : ∃ r, n = j + 1 + r := ⟨n - (j + 1), by omega⟩
      have hpow : 2 ^ (32 * (j + 1 + r)) = 2 ^ (32 * r) * 2 ^ 32 * 2 ^ (32 * j) := by
        rw [← Nat.pow_add, ← Nat.pow_add]
        congr 1
        omega
      rw [hpow, ← Nat.mul_assoc, ← Nat.mul_assoc, Nat.add_mul_div_right _ _ (by positivity), Nat.add_mul_mod_self_right,
        ih (by omega)]

/-- An element of width 32 is a lane. -/
theorem velem_eq_lane (v : Vec) (i : Nat) : velem v 32 i = (Spec.lane v i).toNat := by
  rw [Spec.lane, BitVec.extractLsb'_toNat, Nat.shiftRight_eq_div_pow]
  rfl

/-- A lane of a load's value is what was read for it. -/
theorem lane_laneVec (on : Nat → Bool) (v : Nat → Nat) {j : Nat} (hj : j < 32) (hon : on j = true) :
    Spec.lane (laneVec (((List.range 32).filter on).map fun i => (i, v i))) j = BitVec.ofNat 32 (v j) := by
  apply BitVec.eq_of_toNat_eq
  rw [← velem_eq_lane, laneVec_eq_laneSum, velem, toNat_ofNat_of_lt (laneSum_lt on v 32), laneSum_lane on v hj hon,
    BitVec.toNat_ofNat]

/-- The store pieces of lanes write each lane's bytes, little-endian. -/
theorem bytesOf_laneSegs (v : Vec) (l : List Nat) (addr : Nat → Nat) :
    Spec.bytesOf (laneSegs v (l.map fun i => (i, addr i))) = l.flatMap fun j => (List.range 4).map fun k =>
      (addr j + k, (Spec.lane v j).extractLsb' (8 * k) 8) := by
  induction l with
  | nil => rfl
  | cons i l ih =>
    have hpiece := bytesOf_leBytes (addr i) 4 (Spec.lane v i)
    rw [← velem_eq_lane] at hpiece
    rw [List.map_cons, laneSegs, List.map_cons, bytesOf_cons, hpiece, List.flatMap_cons, ← ih]
    rfl

/-! ### Loads and stores of lanes -/

section
variable {s : State} {sf : Bool}

/-- The state after a vector load, before its stream goes on: what it read is logged, its banks are noted, and its lanes
are on their way. -/
def State.lanesInto (s : State) (sf : Bool) (ks : List (Nat × Nat)) (bs : List Nat) (due : Nat) (ev : Ev) : State :=
  (((s.noted sf).noteRead ks).noteBanks s.cur.core bs).post due 1 ev

/-- Lanes that a vector load delivers `lat` cycles from now. -/
theorem landVec_eq_lanesInto (ks : List (Nat × Nat)) (bs : List Nat) (lat vd : Nat) (mask v : Vec) :
    (((s.noted sf).noteRead ks).noteBanks s.cur.core bs).landVec s.cur.core s.cur.half false lat vd mask v =
      s.lanesInto sf ks bs (s.ccyc + lat) (.vec s.cur.core s.cur.half false vd mask v) := by
  rw [State.landVec, State.noteBanks_ccyc, State.noteRead_ccyc, State.noted_ccyc]
  rfl

theorem lanesInto_aside (ks : List (Nat × Nat)) (bs : List Nat) (due : Nat) (ev : Ev) :
    Aside s.cur.core (s.noted sf) (s.lanesInto sf ks bs due ev) :=
  ((Aside.noteRead _ _ _).trans (Aside.noteBanks _ _ _)).trans (Aside.post _ _ _ _ _)

theorem lanesInto_agenda (ks : List (Nat × Nat)) (bs : List Nat) (due : Nat) (ev : Ev) :
    (s.lanesInto sf ks bs due ev).agenda = Spec.posted s due 1 s.seq ev := by
  simp [State.lanesInto, Spec.posted]

theorem lanesInto_queue (ks : List (Nat × Nat)) (bs : List Nat) (due : Nat) (ev : Ev) (q : Nat) :
    ((s.lanesInto sf ks bs due ev).core s.cur.core).queue q = s.my.queue q := by
  simp [State.lanesInto]

/-- The state after a vector store, before its stream goes on: nothing where no lane is enabled. -/
def State.lanesOut (s : State) (sf : Bool) (act : List (Nat × Nat)) (due : Nat) (v : Vec) : State :=
  if act.isEmpty then s.noted sf else (s.noted sf).post due 2 (.store s.cur.core s.cur.half (laneSegs v act))

theorem lanesOut_aside (act : List (Nat × Nat)) (due : Nat) (v : Vec) :
    Aside s.cur.core (s.noted sf) (s.lanesOut sf act due v) := by
  unfold State.lanesOut
  split
  · exact Aside.refl _ _
  · exact Aside.post _ _ _ _ _

theorem lanesOut_agenda (l : List Nat) (addr : Nat → Nat) (due : Nat) (v : Vec) :
    (s.lanesOut sf (l.map fun i => (i, addr i)) due v).agenda = if l = [] then s.agenda else
      Spec.posted s due 2 s.seq (.store s.cur.core s.cur.half (laneSegs v (l.map fun i => (i, addr i)))) := by
  unfold State.lanesOut
  cases l <;> simp [Spec.posted]

theorem lanesOut_queue (act : List (Nat × Nat)) (due : Nat) (v : Vec) (q : Nat) :
    ((s.lanesOut sf act due v).core s.cur.core).queue q = s.my.queue q := by
  unfold State.lanesOut
  split <;> simp

end

/-! ### Spans -/

theorem vloadLat_eq : Spec.vloadLat = Place.vload := by
  funext pl
  cases pl <;> rfl

theorem exec_of_spans {i : Instr} {st sf : Bool} {sp : Nat} {q : BitVec 4} {a m : BitVec 3} {d : BitVec 12}
    (h : Spec.spans i = some (st, sf, sp, q, a, m, d)) (s : State) :
    exec i s = issueWord sf .a false noPre (fun s x =>
      if st then vstoreRes s x sp q.toNat (s.ea x a.toNat d.toInt).toNat (mkMask s x m)
      else vloadRes s x sp q.toNat (s.ea x a.toNat d.toInt).toNat (mkMask s x m)) s := by
  cases i <;> cases h <;> rfl

section
variable {s : State} {sf : Bool} {sp vd p : Nat} {m : BitVec 3} {pl : Place}

theorem findSome?_lanes_eq_none {l : List Nat} {addr : Nat → Nat} {b : Nat}
    (h : ∀ j ∈ l, s.visPoison b (addr j) 4 = none) :
    (l.map fun i => (i, addr i)).findSome? (fun a => s.visPoison b a.2 4) = none :=
  List.findSome?_eq_none_iff.2 (List.forall_mem_map.2 h)

/-- What a load of lanes reads, as the value of a vector register. -/
def readLanes (s : State) (m : BitVec 3) (addr : Nat → Nat) : Vec :=
  laneVec ((Spec.enabled s m).map fun i => (i, ofBytes (s.visBytes (s.bindOf s.cur.core) (addr i) 4)))

theorem lane_readLanes (addr : Nat → Nat) {j : Nat} (hj : j ∈ Spec.enabled s m) :
    Spec.lane (readLanes s m addr) j = BitVec.ofNat 32 (ofBytes (s.visBytes (s.bindOf s.cur.core) (addr j) 4)) := by
  obtain ⟨hlt, hon⟩ := (mem_enabled s m).1 hj
  exact lane_laneVec (Spec.lanesOn s m) (fun i => ofBytes (s.visBytes (s.bindOf s.cur.core) (addr i) 4)) hlt hon

theorem vloadRes_ok (ha : accessAt s s.ctx .vload sp p 128 4 (fun _ => 0) = (pl, none))
    (hp : ∀ j ∈ Spec.enabled s m, s.visPoison (s.bindOf s.cur.core) (p + 4 * j) 4 = none) :
    vloadRes (s.noted sf) s.ctx sp vd p (mkMask s s.ctx m) =
      .ok (s.lanesInto sf (s.visKeys (s.bindOf s.cur.core) p 128) (s.banksOf (s.bindOf s.cur.core) p 128)
        (s.ccyc + pl.vload) (.vec s.cur.core s.cur.half false vd (laneMask (mkMask s s.ctx m))
          (readLanes s m fun i => p + 4 * i))) .seq := by
  unfold vloadRes
  simp only [State.noted_accessAt, ha, lanesOf_mkMask, State.ctx_bind, State.noted_visPoison,
    findSome?_lanes_eq_none hp, List.map_map, State.noted_visBytes, State.noted_visKeys, State.noted_banksOf,
    State.ctx_core, State.ctx_half]
  exact congrArg (Res.ok · Next.seq) (landVec_eq_lanesInto ..)

theorem vstoreRes_ok (ha : accessAt s s.ctx .vstore sp p 128 4 Place.store = (pl, none)) :
    vstoreRes (s.noted sf) s.ctx sp vd p (mkMask s s.ctx m) =
      .ok (s.lanesOut sf ((Spec.enabled s m).map fun i => (i, p + 4 * i)) (s.ccyc + pl.store)
        (vget 0 s.my.regs.v vd)) .seq := by
  unfold vstoreRes
  simp only [State.noted_accessAt, ha, lanesOf_mkMask, State.noted_regs, State.ctx_core, State.ctx_half, State.ctx_now]
  rfl

end

theorem spanResults : Spec.spanResults := by
  intro i st sf sp q a m d s pl hi hc ha p b hallowed
  have hexec := exec_of_spans hi s
  have hea : ((s.noted sf).ea s.ctx a.toNat d.toInt).toNat = p := by
    rw [State.noted_ea, State.ea_a _ _ a.isLt]
    rfl
  refine ⟨?load, ?store⟩
  case load =>
    rintro rfl hpoison
    have haside := lanesInto_aside (s := s) (sf := sf) (s.visKeys b p 128) (s.banksOf b p 128) (s.ccyc + pl.vload)
      (.vec s.cur.core s.cur.half false q.toNat (laneMask (mkMask s s.ctx m)) (readLanes s m fun i => p + 4 * i))
    refine ⟨_, _, _, hexec.trans (issueWord_ok hc (classOk_a ha) rfl ?_ (by simp)), haside.kept_went,
      haside.onward_went, haside.queuesBut_went fun _ _ _ => lanesInto_queue .., ?_, fun k hk => laneMask_mkMask s m hk,
      fun j hj => lane_readLanes _ hj⟩
    · rw [hea, State.noted_mkMask]
      exact vloadRes_ok (accessAt_allowed hallowed) hpoison
    · rw [State.went_agenda, lanesInto_agenda, vloadLat_eq, ha]
  case store =>
    rintro rfl
    rw [if_pos rfl, if_pos rfl, storeLat_eq] at hallowed
    have haside := lanesOut_aside (s := s) (sf := sf) ((Spec.enabled s m).map fun i => (i, p + 4 * i))
      (s.ccyc + pl.store) (vget 0 s.my.regs.v q.toNat)
    refine ⟨_, _, hexec.trans (issueWord_ok hc (classOk_a ha) rfl ?_ (by simp)), haside.kept_went, haside.onward_went,
      haside.queuesBut_went fun _ _ _ => lanesOut_queue .., ?_, bytesOf_laneSegs _ _ _⟩
    · rw [if_pos rfl, hea, State.noted_mkMask]
      exact vstoreRes_ok (accessAt_allowed hallowed)
    · rw [State.went_agenda, lanesOut_agenda, storeLat_eq, ha]

/-! ### Indexed accesses -/

section
variable {s : State} {sf : Bool}

/-- The address of a lane of an indexed access, as 06 R124 gives it. -/
def laneAddr (s : State) (a : BitVec 3) (x : BitVec 4) (d : BitVec 8) (j : Nat) : Nat :=
  (vget 0 s.my.regs.a a.toNat + d.signExtend 64 +
    (Spec.lane (vget 0 s.my.regs.v x.toNat) j).signExtend 64).toNat

/-- A displacement and a signed lane, added as integers and then wrapped, are added as words. -/
theorem toWord_add_lane (d : BitVec 8) (v : Vec) (j : Nat) :
    toWord (d.toInt + sval (velem v 32 j) 32) = d.signExtend 64 + (Spec.lane v j).signExtend 64 := by
  have hlane := toWord_sval (velem v 32 j) (show 0 < 32 by decide)
  rw [velem_eq_lane, BitVec.ofNat_toNat, BitVec.setWidth_eq] at hlane
  rw [toWord, BitVec.ofInt_add, velem_eq_lane]
  exact congrArg (d.signExtend 64 + ·) hlane

theorem indexed_noted (a m : BitVec 3) (x : BitVec 4) (d : BitVec 8) :
    indexed (s.noted sf) s.ctx a.toNat x.toNat d.toInt (mkMask s s.ctx m) =
      (Spec.enabled s m).map fun i => (i, laneAddr s a x d i) := by
  unfold indexed
  rw [lanesOf_mkMask, State.noted_regs]
  refine List.map_congr_left fun i _ => ?_
  rw [State.noted_ea, State.ea_a _ _ a.isLt, laneAddr, BitVec.add_assoc, ← toWord_add_lane]
  rfl

/-- Where every enabled lane may be accessed, no lane faults. -/
theorem lanesFault_eq_none {k : AccKind} {sp delay : Nat} {act : List (Nat × Nat)}
    (h : ∀ a ∈ act, ∃ pl, accessAt s s.ctx k sp a.2 4 4 (fun _ => delay) = (pl, none)) :
    lanesFault (s.noted sf) s.ctx k sp act delay = none := by
  have hcode : ∀ code, act.findSome? (fun a =>
      if (accessAt s s.ctx k sp a.2 4 4 (fun _ => delay)).2 = some code then some (code, a.2) else none) = none :=
    fun code => List.findSome?_eq_none_iff.2 fun a ha => by
      obtain ⟨pl, hpl⟩ := h a ha
      rw [hpl]
      rfl
  unfold lanesFault
  simp only [State.noted_accessAt, hcode]

theorem lanesFault_allowed {k : AccKind} {sp delay : Nat} {l : List Nat} {addr : Nat → Nat}
    (h : ∀ j ∈ l, ∃ pl, Spec.allowed s k sp 4 4 (addr j) (fun _ => delay) pl) :
    lanesFault (s.noted sf) s.ctx k sp (l.map fun i => (i, addr i)) delay = none :=
  lanesFault_eq_none <| List.forall_mem_map.2 fun j hj => (h j hj).imp fun _ hpl => accessAt_allowed hpl

theorem indexedPre_ok {sp : BitVec 2} (hsp : sp = 1 ∨ sp = 2) : ({ reserved := spBad sp } : Pre) = {} := by
  rcases hsp with rfl | rfl <;> rfl

end

theorem indexedResults : Spec.indexedResults := by
  intro sf sp q a m x d s hc ha hsp b addr
  have hpre := indexedPre_ok hsp
  refine ⟨fun hallowed hpoison => ?gath, fun hallowed => ?scat⟩
  case gath =>
    have haside := lanesInto_aside (s := s) (sf := sf)
      (((Spec.enabled s m).map fun j => s.visKeys b (addr j) 4).flatten)
      (((Spec.enabled s m).map fun j => s.banksOf b (addr j) 4).flatten.dedup) (s.ccyc + 8)
      (.vec s.cur.core s.cur.half false q.toNat (laneMask (mkMask s s.ctx m)) (readLanes s m addr))
    refine ⟨_, _, _, issueWord_ok hc (classOk_a ha) hpre ?_ (by simp), haside.kept_went, haside.onward_went,
      haside.queuesBut_went fun _ _ _ => lanesInto_queue .., ?_, fun k hk => laneMask_mkMask s m hk,
      fun j hj => lane_readLanes _ hj⟩
    · have hfault : lanesFault (s.noted sf) s.ctx .gath sp.toNat
          ((Spec.enabled s m).map fun i => (i, laneAddr s a x d i)) 0 = none := lanesFault_allowed hallowed
      have hclean : ((Spec.enabled s m).map fun i => (i, laneAddr s a x d i)).findSome?
          (fun a => s.visPoison (s.bindOf s.cur.core) a.2 4) = none := findSome?_lanes_eq_none hpoison
      simp only [State.noted_mkMask, indexed_noted, hfault, State.ctx_bind, State.noted_visPoison, hclean,
        State.noted_visKeys, State.noted_visBytes, State.noted_banksOf, List.map_map, Function.comp_def]
      exact congrArg (Res.ok · Next.seq) (landVec_eq_lanesInto ..)
    · rw [State.went_agenda, lanesInto_agenda, ha]
  case scat =>
    have haside := lanesOut_aside (s := s) (sf := sf) ((Spec.enabled s m).map fun i => (i, addr i))
      (s.ccyc + 4) (vget 0 s.my.regs.v q.toNat)
    refine ⟨_, _, issueWord_ok hc (classOk_a ha) hpre ?_ (by simp), haside.kept_went, haside.onward_went,
      haside.queuesBut_went fun _ _ _ => lanesOut_queue .., ?_, bytesOf_laneSegs _ _ _⟩
    · have hfault : lanesFault (s.noted sf) s.ctx .scat sp.toNat
          ((Spec.enabled s m).map fun i => (i, laneAddr s a x d i)) 4 = none := lanesFault_allowed hallowed
      simp only [State.noted_mkMask, indexed_noted, hfault, State.noted_regs]
      rfl
    · rw [State.went_agenda, lanesOut_agenda, ha]

/-- Settles O19: the lanes of a span and those of an index vector. -/
theorem vectorAccessResults : Obligations.VectorAccessResults :=
  ⟨spanResults, indexedResults⟩

end Sys2Proof.Machine
end

section
/-!
O21 (06 R133 to R135; 09 R194; 16 R281; 21 R338): `send`, `rcvp` and `launch`, and the landings of a ring's HEAD and of a
status word.

Each word reads what its core sees and puts one thing away: a message, a queue entry, a held launch. The name that a core
holds is the directory's (`heldName_eq_heldBy`).
-/

namespace Sys2Proof.Machine

/-! ### Names -/

theorem heldName_eq_heldBy (s : State) (c : Nat) : s.heldName c = Spec.heldBy s c := by
  have hpred : (fun e : Nat × DirEnt => e.2.live == some c && e.2.task == (s.bindAt (s.bindOf c)).task) =
      fun e => decide (e.2.live = some c ∧ e.2.task = (s.bindAt (s.bindOf c)).task) := by
    funext e
    rw [Bool.decide_and, beq_eq_decide, beq_eq_decide]
  unfold State.heldName Spec.heldBy
  rw [hpred]
  cases (s.core c).bound <;> rfl

section
variable (s : State) (sf : Bool) (c : Nat)

theorem State.noted_corePart : (s.noted sf).corePart c = s.corePart c := by simp [State.corePart]

theorem State.noted_heldName : (s.noted sf).heldName c = s.heldName c := by
  simp [State.heldName, State.noted_corePart]

theorem State.noted_ownName : (s.noted sf).ownName c = s.ownName c := by
  simp only [State.ownName, State.noted_heldName]

theorem State.noted_nameAt (part name : Nat) : (s.noted sf).nameAt part name = s.nameAt part name := by
  simp [State.nameAt]

theorem ownName_of_none (h : Spec.heldBy s c = none) : s.ownName c = 0 := by
  rw [State.ownName, heldName_eq_heldBy, h]

/-- A core's own name and generation as a message carries them (06 R133). -/
theorem ownName_of_some {e : Nat × DirEnt} (h : Spec.heldBy s c = some e) :
    s.ownName c = BitVec.ofNat 32 (e.1 % 2 ^ 24 * 2 ^ 8 + e.2.gen % 2 ^ 8) := by
  rw [State.ownName, heldName_eq_heldBy, h]
  have hgen : e.2.gen % 2 ^ 8 < 2 ^ 8 := Nat.mod_lt _ (by decide)
  apply BitVec.eq_of_toNat_eq
  rw [BitVec.toNat_append, BitVec.toNat_ofNat, BitVec.toNat_ofNat, ← Nat.shiftLeft_add_eq_or_of_lt hgen,
    Nat.shiftLeft_eq, BitVec.toNat_ofNat]
  omega

/-- The words that a core reads of a span of `n` of them. -/
theorem visWords_eq (b p n : Nat) : s.visWords b p (8 * n) =
    (List.range n).map fun k => BitVec.ofNat 64 (ofBytes (s.visBytes b (p + 8 * k) 8)) := by
  rw [State.visWords, Nat.mul_div_cancel_left _ (by decide)]

end

/-! ### `send` -/

section
variable {s : State} {sf : Bool}

/-- The message that a `send` puts into the buffer. -/
def sentMessage (s : State) (name : Word) (p n : Nat) : Message :=
  { name := name.extractLsb' 8 24, gen := name.setWidth 8, body := s.visWords (s.bindOf s.cur.core) p (8 * n),
    at_ := s.ccyc, dest := s.nameAt (s.corePart s.cur.core) (wfld name 31 8), own := s.ownName s.cur.core }

/-- The state after a `send`, before its stream goes on. -/
def State.buffered (s : State) (sf : Bool) (ks : List (Nat × Nat)) (m : Message) : State :=
  ((s.noted sf).noteRead ks).modCore s.cur.core fun k => { k with sendBuf := k.sendBuf ++ [m] }

theorem buffered_core (ks : List (Nat × Nat)) (m : Message) : (s.buffered sf ks m).core s.cur.core =
    { (s.noted sf).core s.cur.core with sendBuf := ((s.noted sf).core s.cur.core).sendBuf ++ [m] } :=
  ((s.noted sf).noteRead ks).modCore_core_self s.cur.core fun k => { k with sendBuf := k.sendBuf ++ [m] }

theorem buffered_aside (ks : List (Nat × Nat)) (m : Message) : Aside s.cur.core (s.noted sf) (s.buffered sf ks m) :=
  (Aside.noteRead _ _ _).trans (Aside.modCore (fun h => by cases h <;> rfl) rfl rfl rfl rfl)

theorem buffered_queue (ks : List (Nat × Nat)) (m : Message) (q : Nat) :
    ((s.buffered sf ks m).core s.cur.core).queue q = s.my.queue q := by
  rw [buffered_core]
  exact State.noted_queue ..

theorem buffered_agenda (ks : List (Nat × Nat)) (m : Message) : (s.buffered sf ks m).agenda = s.agenda := by
  simp [State.buffered]

theorem ox_a (n : BitVec 3) (ha : s.cur.half = .a) : s.ox s.ctx n.toNat = vget 0 s.my.regs.oxA n.toNat := by
  have hn := n.isLt
  simp only [State.ox, State.ctx_half, ha, if_true, Nat.mod_eq_of_lt (show n.toNat < 8 by omega)]
  rfl

theorem send_results {o a : BitVec 3} {n : BitVec 5} (hc : s.clear sf) (ha : s.cur.half = .a) :
    let p := (vget 0 s.my.regs.a a.toNat).toNat
    let name := vget 0 s.my.regs.oxA o.toNat
    name.extractLsb' 32 32 = 0 → Spec.allowed s .send 1 (8 * (n.toNat + 1)) 8 p (fun _ => 0) .scratch →
    s.my.sendBuf.length < 4 → s.visPoison (s.bindOf s.cur.core) p (8 * (n.toNat + 1)) = none →
    exec (.send sf o a n) s = .next ((s.buffered sf (s.visKeys (s.bindOf s.cur.core) p (8 * (n.toNat + 1)))
      (sentMessage s name p (n.toNat + 1))).went s.ctx sf .seq) := by
  intro p name hname hallowed hroom hpoison
  have hox : (s.noted sf).ox s.ctx o.toNat = name := by rw [State.noted_ox, ox_a o ha]
  have hea : ((s.noted sf).ea s.ctx a.toNat 0).toNat = p := by
    rw [State.noted_ea, State.ea_a _ _ a.isLt]
    exact congrArg BitVec.toNat (BitVec.add_zero _)
  have hfields : (wfld name 63 32 != 0) = false := by
    rw [wfld_eq_extract, hname]
    rfl
  have hroom' : ¬ 4 ≤ (s.core s.cur.core).sendBuf.length := Nat.not_le.2 hroom
  refine issueWord_ok hc (classOk_a ha) (by simp only [hox, hfields]) ?_ (by simp)
  simp only [hox, hea, State.noted_accessAt, accessAt_allowed hallowed, State.noted_sendBuf, State.ctx_core, if_neg hroom',
    State.ctx_bind, State.noted_visPoison, hpoison, State.noted_visKeys, State.noted_visWords, State.noted_corePart,
    State.noted_nameAt, State.noted_ownName, State.ctx_now]
  rfl

end

/-! ### `rcvp` -/

section
variable {s : State} {sf : Bool}

/-- The state after `rcvp` of an empty ring, before its stream goes on. -/
def State.ringEmpty (s : State) (sf : Bool) (q : Nat) : State :=
  ((s.noted sf).noteRead [(ringMsgKey s.cur.core 0, 16)]).push s.cur.core s.cur.half q (s.ccyc + 2) 0

/-- The state after `rcvp` of a ring that holds an entry, before its stream goes on. -/
def State.ringTaken (s : State) (sf : Bool) (q : Nat) (head v : Word) : State :=
  (((s.noted sf).noteRead [(ringMsgKey s.cur.core 0, 16)]).post (s.ccyc + 1) 2 (.rcvp s.cur.core head)).push s.cur.core
    s.cur.half q (s.ccyc + 2) v

theorem ringEmpty_aside (q : Nat) : Aside s.cur.core (s.noted sf) (s.ringEmpty sf q) :=
  (Aside.noteRead _ _ _).trans (Aside.push _ _ _ _ _ _)

theorem ringTaken_aside (q : Nat) (head v : Word) : Aside s.cur.core (s.noted sf) (s.ringTaken sf q head v) :=
  ((Aside.noteRead _ _ _).trans (Aside.post _ _ _ _ _)).trans (Aside.push _ _ _ _ _ _)

theorem ringEmpty_queue {q q' : Nat} (hq : q < 5) (hq' : q' < 5) :
    ((s.ringEmpty sf q).core s.cur.core).queue q' = if q' = q then
      s.my.queue q ++ [⟨0, s.ccyc, s.ccyc + 2, false, s.cur.half, s.seq⟩] else s.my.queue q' := by
  split
  · next h => subst h; simp [State.ringEmpty, State.push_queue _ _ _ hq]
  · next h => simp [State.ringEmpty, State.push_queue_ne _ _ _ hq hq' h]

theorem ringTaken_queue (head v : Word) {q q' : Nat} (hq : q < 5) (hq' : q' < 5) :
    ((s.ringTaken sf q head v).core s.cur.core).queue q' = if q' = q then
      s.my.queue q ++ [⟨v, s.ccyc, s.ccyc + 2, false, s.cur.half, s.seq + 1⟩] else s.my.queue q' := by
  split
  · next h => subst h; simp [State.ringTaken, State.push_queue _ _ _ hq]
  · next h => simp [State.ringTaken, State.push_queue_ne _ _ _ hq hq' h]

theorem ringEmpty_agenda (q : Nat) : (s.ringEmpty sf q).agenda = s.agenda := by
  simp [State.ringEmpty]

theorem ringTaken_agenda (q : Nat) (head v : Word) : (s.ringTaken sf q head v).agenda =
    Spec.posted s (s.ccyc + 1) 2 s.seq (.rcvp s.cur.core head) := by
  simp [State.ringTaken, Spec.posted]

/-- The pointer that `rcvp` pushes names ring entry `n` (06 R133). -/
theorem entryPtr_eq (c n : Nat) : sPtr c 6 (ringEntry n) =
    2 ^ 60 + c * 2 ^ 28 + 6 * 2 ^ 24 + 0x200 + 0x200 * (n % 127) := by
  rw [sPtr, ringEntry, ← Nat.add_assoc]

theorem rcvp_results {q : BitVec 4} {a : BitVec 3} (hc : s.clear sf) (ha : s.cur.half = .a) (hq : q.toNat < 3)
    (hbound : q.toNat = 2 → s.my.routineBound = false)
    (hallowed : Spec.allowed s .rcvp 1 8 1 (vget 0 s.my.regs.a a.toNat).toNat (fun _ => 0) .scratch)
    (hocc : s.my.occupancy q.toNat s.ccyc < 8) (hclean : poisoned s.ecc (ringMsgKey s.cur.core 0) 16 = false) :
    let tail := s.read64 (ringMsgKey s.cur.core 0)
    let head := s.read64 (ringMsgKey s.cur.core 0 + 8)
    exec (.rcvp sf q a) s = .next ((if tail = head then s.ringEmpty sf q.toNat else
      s.ringTaken sf q.toNat (head + 1) (BitVec.ofNat 64 (sPtr s.cur.core 6 (ringEntry head.toNat)))).went s.ctx sf .seq) := by
  intro tail head
  have hea : ((s.noted sf).ea s.ctx a.toNat 0).toNat = (vget 0 s.my.regs.a a.toNat).toNat := by
    rw [State.noted_ea, State.ea_a _ _ a.isLt]
    exact congrArg BitVec.toNat (BitVec.add_zero _)
  have hocc' : ¬ 8 ≤ (s.core s.cur.core).occupancy q.toNat s.ccyc := Nat.not_le.2 hocc
  have hread : ∀ k, (s.noted sf).read64 k = s.read64 k := fun k => by rw [State.read64, State.noted_mem]; rfl
  refine issueWord_ok hc (classOk_a ha) (qlPre_ok hq hbound) ?_ (by simp)
  simp only [hea, State.noted_accessAt, accessAt_allowed hallowed, State.noted_occupancy, State.ctx_core, State.ctx_now,
    if_neg hocc', State.noted_ecc, hclean, Bool.false_eq_true, if_false, hread]
  exact (apply_ite (Res.ok · Next.seq) (tail = head) _ _).symm

end

/-! ### `launch` -/

section
variable {s : State} {sf : Bool}

/-- The child launch that a `launch` hands to the interface (09 R194). -/
def heldLaunch (s : State) (rec_ st : Word) : HeldLaunch :=
  { words := s.visWords (s.bindOf s.cur.core) rec_.toNat 256, status := st, parent := (s.bindAt (s.bindOf s.cur.core)).task,
    rpl := ((s.bindAt (s.bindOf s.cur.core)).rec_ 0).getLsbD 50,
    trid := wfld ((s.bindAt (s.bindOf s.cur.core)).rec_ 24) 63 32, trc := (s.bindAt (s.bindOf s.cur.core)).rec_ 26 }

theorem State.release_core (t : State) (due key : Nat) (v : Word) (c : Nat) : (t.release due key v).core c = t.core c :=
  rfl

/-- The state after a `launch`, before its stream goes on. -/
def State.launched (s : State) (sf : Bool) (rec_ st : Word) : State :=
  (((s.noted sf).noteRead (s.visKeys (s.bindOf s.cur.core) rec_.toNat 256)).release (s.ccyc + 1)
    (Spec.keyOf s s.cur.core st.toNat) 0).modCore s.cur.core fun k =>
      { k with launches := k.launches ++ [heldLaunch s rec_ st] }

theorem launched_aside (rec_ st : Word) : Aside s.cur.core (s.noted sf) (s.launched sf rec_ st) :=
  ((Aside.noteRead _ _ _).trans (Aside.release _ _ _ _ _)).trans (Aside.modCore (fun h => by cases h <;> rfl) rfl rfl rfl rfl)

theorem launched_core (rec_ st : Word) : (s.launched sf rec_ st).core s.cur.core =
    { (s.noted sf).core s.cur.core with
      launches := ((s.noted sf).core s.cur.core).launches ++ [heldLaunch s rec_ st] } := by
  rw [State.launched, State.modCore_core_self, State.release_core, State.noteRead_core]

theorem launched_queue (rec_ st : Word) (q : Nat) :
    ((s.launched sf rec_ st).core s.cur.core).queue q = s.my.queue q := by
  rw [launched_core]
  exact State.noted_queue ..

theorem launched_agenda (rec_ st : Word) : (s.launched sf rec_ st).agenda =
    Spec.posted s (s.ccyc + 1) 4 (engineTie s.ccyc 0) (.release (Spec.keyOf s s.cur.core st.toNat) 0) := by
  simp [State.launched, Spec.posted]

theorem launchRes_ok {rec_ st : Word} (hrec : s.reach s.cur.core (s.bindOf s.cur.core) .load 1 rec_.toNat 256 ≠ none)
    (hst : s.reach s.cur.core (s.bindOf s.cur.core) .load 1 st.toNat 8 ≠ none) (harec : rec_.toNat % 64 = 0)
    (hast : st.toNat % 8 = 0) (hroom : s.my.launches.length < 2)
    (hclean : s.visPoison (s.bindOf s.cur.core) rec_.toNat 256 = none) (horder : s.orderOk s.cur.core 0b11101 = true) :
    launchRes (s.noted sf) s.ctx rec_ st = .ok (s.launched sf rec_ st) .seq := by
  have hroom' : ¬ 2 ≤ (s.core s.cur.core).launches.length := Nat.not_le.2 hroom
  have hrec' : (s.reach s.cur.core (s.bindOf s.cur.core) .load 1 rec_.toNat 256).isNone = false := by
    simpa using Option.ne_none_iff_isSome.1 hrec
  have hst' : (s.reach s.cur.core (s.bindOf s.cur.core) .load 1 st.toNat 8).isNone = false := by
    simpa using Option.ne_none_iff_isSome.1 hst
  unfold launchRes
  simp only [State.noted_reach, State.ctx_core, State.ctx_bind, hrec', hst', Bool.false_eq_true, if_false, harec, hast,
    ne_eq, not_true, State.noted_launches, if_neg hroom', State.noted_visPoison, hclean, State.noted_orderOk, horder,
    Bool.true_eq_false, State.noted_visKeys, State.noted_pubs, State.noted_bindAt, State.noted_visWords, State.ctx_now]
  rfl

/-- The OX bank of the half that issues `launch` (02 R26). -/
theorem ox_noted (n : Nat) : (s.noted sf).ox s.ctx n =
    vget 0 (if s.cur.half = .a then s.my.regs.oxA else s.my.regs.oxX) (n % 8) := by
  rw [State.noted_ox]
  rfl

end

/-! ### The statement -/

theorem messageWordResults : Spec.messageWordResults := by
  intro sf s hc
  refine ⟨?send, ?rcvp, ?launch⟩
  case send =>
    intro o a n ha p len name hname hallowed hroom hpoison
    have haside := buffered_aside (s := s) (sf := sf) (s.visKeys (s.bindOf s.cur.core) p len)
      (sentMessage s name p (n.toNat + 1))
    refine ⟨_, sentMessage s name p (n.toNat + 1), send_results hc ha hname hallowed hroom hpoison, haside.kept_went,
      haside.onward_went, haside.queuesBut_went fun _ _ _ => buffered_queue .., ?_, ?_, rfl, rfl, ?_,
      ownName_of_none s _, fun e => ownName_of_some s _, visWords_eq _ _ _ _⟩
    · rw [State.went_agenda, buffered_agenda]
    · rw [haside.sendBuf_went, buffered_core, State.noted_sendBuf]
    · simp only [sentMessage, wfld_eq_extract]
      rfl
  case rcvp =>
    intro q a ha hq hbound p k tail head hallowed hocc hclean
    have hexec : exec (.rcvp sf q a) s = .next ((if tail = head then s.ringEmpty sf q.toNat else
        s.ringTaken sf q.toNat (head + 1) (BitVec.ofNat 64 (sPtr s.cur.core 6 (ringEntry head.toNat)))).went s.ctx sf
          .seq) := rcvp_results hc ha hq hbound hallowed hocc hclean
    by_cases h : tail = head
    · have haside := ringEmpty_aside (s := s) (sf := sf) q.toNat
      rw [if_pos h] at hexec
      refine ⟨_, hexec, haside.kept_went, haside.onward_went, haside.queuesBut_went fun q' hq' hne => ?_,
        fun _ => ⟨?_, ?_⟩, fun hne => absurd h hne⟩
      · rw [ringEmpty_queue (by omega) hq', if_neg hne]
      · rw [State.went_agenda, ringEmpty_agenda]
      · rw [haside.queue_went, ringEmpty_queue (by omega) (by omega), if_pos rfl, ha]
    · have haside := ringTaken_aside (s := s) (sf := sf) q.toNat (head + 1)
        (BitVec.ofNat 64 (sPtr s.cur.core 6 (ringEntry head.toNat)))
      rw [if_neg h] at hexec
      refine ⟨_, hexec, haside.kept_went, haside.onward_went, haside.queuesBut_went fun q' hq' hne => ?_,
        fun heq => absurd heq h, fun _ => ⟨?_, ?_⟩⟩
      · rw [ringTaken_queue _ _ (by omega) hq', if_neg hne]
      · rw [State.went_agenda, ringTaken_agenda]
      · rw [haside.queue_went, ringTaken_queue _ _ (by omega) (by omega), if_pos rfl, ha, entryPtr_eq]
  case launch =>
    intro n hw bank rec_ st b hrec hst harec hast hroom hclean horder
    have haside := launched_aside (s := s) (sf := sf) rec_ st
    have hn : n.toNat % 8 = n.toNat := Nat.mod_eq_of_lt n.isLt
    refine ⟨_, issueWord_ok hc (classOk_eOnly hw) rfl ?_ (by simp), haside.kept_went,
      haside.onward_went, haside.queuesBut_went fun _ _ _ => launched_queue .., ?_, ?_⟩
    · rw [ox_noted, ox_noted, hn]
      exact launchRes_ok hrec hst harec hast hroom hclean horder
    · rw [State.went_agenda, launched_agenda]
    · rw [haside.launches_went, launched_core, State.noted_launches, heldLaunch, wfld_eq_extract,
        show (256 : Nat) = 8 * 32 by rfl, visWords_eq]

theorem headLanding : Spec.headLanding := by
  intro s e rest c v hagenda hdue hev
  let u : State := { s with agenda := rest }
  have hfire : s.fire .storeLanding = u.write64 (ringMsgKey c 8) v := by
    rw [fire_head hagenda hdue (by rw [hev]; rfl), hev]
    rfl
  refine ⟨_, congrArg Host.Outcome.next hfire, ?_, fun j hj => State.write64_read_in u _ v hj,
    fun a ha => State.write64_read_out u v ha⟩
  exact u.write_onlyMem _ _

theorem releaseLanding : Spec.releaseLanding := by
  intro s e rest key v hagenda hdue hev
  let u : State := { s with agenda := rest }
  have hfire : s.fire .resultLanding = u.write64 key v := by
    rw [fire_head hagenda hdue (by rw [hev]; rfl), hev]
    rfl
  refine ⟨_, congrArg Host.Outcome.next hfire, ?_, fun j hj => State.write64_read_in u _ v hj,
    fun a ha => State.write64_read_out u v ha⟩
  exact u.write_onlyMem _ _

/-- Settles O21: the message words at issue, and the landings of a HEAD and of a status word. -/
theorem messageWords : Obligations.MessageWords :=
  ⟨messageWordResults, headLanding, releaseLanding⟩

end Sys2Proof.Machine
end

section
/-!
O46 (22 R352), endpoint names: what a write of `EPNT` does to the partition's directory, case by case (`dirWrite_zero`,
`dirWrite_move`, `dirWrite_register`), and what that leaves of every name (`liveAt_dirPut`, `tfind_dirRetire`).
-/

namespace Sys2Proof.Machine

/-! ### Directories -/

theorem tfind_tset {α : Type} (t : Tab α) (k k' : Nat) (x : α) :
    tfind (tset t k x) k' = if k' = k then some x else tfind t k' := by
  induction t with
  | nil => simp [tset, tfind, eq_comm]
  | cons p r ih =>
    obtain ⟨i, y⟩ := p
    rw [tset]
    split
    · simp only [tfind, eq_comm]
    · split <;> simp only [tfind] <;> grind

theorem tfind_dirRetire (d : Tab DirEnt) (c task n : Nat) :
    tfind (dirRetire d c task) n = Spec.retired c task (tfind d n) := by
  induction d with
  | nil => rfl
  | cons p r ih =>
    obtain ⟨i, e⟩ := p
    unfold dirRetire at ih ⊢
    rw [List.map_cons]
    by_cases hi : i = n
    · by_cases he : e.live = some c ∧ e.task = task <;> simp [tfind, Spec.retired, hi, he]
    · by_cases he : e.live = some c ∧ e.task = task <;> simp [tfind, hi, he, ih]

/-- A name that becomes live at a core, and the core's own name before it retired. -/
theorem liveAt_dirPut (d : Tab DirEnt) (c name g task : Nat) :
    Spec.liveAt d (dirPut d c name g task) c task name g := by
  refine ⟨?_, fun n hn => ?_⟩
  · rw [dirPut, tfind_tset, if_pos rfl]
  · rw [dirPut, tfind_tset, if_neg hn, tfind_dirRetire]

section
variable {d : Tab DirEnt} {c task : Nat} {v : Word}

/-- Name 0 gives up the core's name. -/
theorem dirWrite_zero (h : wfld v 31 8 = 0) : dirWrite d c task v = (dirRetire d c task, 0, some 0) := if_pos h

/-- A move takes a name that is live for the task. -/
theorem dirWrite_move {q : DirEnt} (h : wfld v 31 8 ≠ 0) (hm : v.getLsbD 61 = true)
    (hq : tfind d (wfld v 31 8) = some q) (hl : q.live ≠ none) (ht : q.task = task) :
    dirWrite d c task v = (dirPut d c (wfld v 31 8) q.gen task, 1, some q.gen) := by
  obtain ⟨g, live, t, locs⟩ := q
  cases live with
  | none => exact absurd rfl hl
  | some o => simp only [dirWrite, if_neg h, hm, if_true, hq, if_pos ht]

/-- A move of a name that is not live for the task is refused. -/
theorem dirWrite_noMove (h : wfld v 31 8 ≠ 0) (hm : v.getLsbD 61 = true)
    (hno : ∀ q, tfind d (wfld v 31 8) = some q → q.live ≠ none → q.task ≠ task) :
    dirWrite d c task v = (d, 2, none) := by
  unfold dirWrite
  simp only [if_neg h, hm, if_true]
  split
  · next g o t locs hq => rw [if_neg (hno _ hq (by simp))]
  · rfl

/-- A name that is live at another core is refused. -/
theorem dirWrite_held {q : DirEnt} {o : Nat} (h : wfld v 31 8 ≠ 0) (hm : v.getLsbD 61 = false)
    (hq : tfind d (wfld v 31 8) = some q) (hl : q.live = some o) (ho : o ≠ c) :
    dirWrite d c task v = (d, 2, none) := by
  obtain ⟨g, live, t, locs⟩ := q
  cases hl
  simp only [dirWrite, if_neg h, hm, Bool.false_eq_true, if_false, hq, if_pos ho]

/-- A retired name comes back with the next generation. -/
theorem dirWrite_again {q : DirEnt} (h : wfld v 31 8 ≠ 0) (hm : v.getLsbD 61 = false)
    (hq : tfind d (wfld v 31 8) = some q) (hl : q.live = none) :
    dirWrite d c task v = (dirPut d c (wfld v 31 8) ((q.gen + 1) % 256) task, 1, some ((q.gen + 1) % 256)) := by
  obtain ⟨g, live, t, locs⟩ := q
  cases hl
  simp only [dirWrite, if_neg h, hm, Bool.false_eq_true, if_false, hq]

/-- A new name, or the core's own again, is generation 0 where the directory has room (log 47). -/
theorem dirWrite_new (h : wfld v 31 8 ≠ 0) (hm : v.getLsbD 61 = false)
    (hown : ∀ q, tfind d (wfld v 31 8) = some q → q.live = some c) :
    dirWrite d c task v = if 4096 ≤ d.length then (d, 3, none) else (dirPut d c (wfld v 31 8) 0 task, 1, some 0) := by
  unfold dirWrite
  simp only [if_neg h, hm, Bool.false_eq_true, if_false]
  split
  · next g t locs hq => exact absurd (hown _ hq) (by simp)
  · next g o t locs hq =>
    have ho : o = c := Option.some.inj (hown _ hq)
    rw [if_neg (not_not.2 ho)]
  · rfl

end

/-! ### The event -/

theorem mem_agendaInsert_self (e : AEnt) (l : List AEnt) : e ∈ agendaInsert e l := by
  induction l with
  | nil => simp [agendaInsert]
  | cons x r ih =>
    rw [agendaInsert]
    split <;> simp [ih]

section
variable (s : State) (c : Nat) (v : Word)

/-- What the write of `EPNT` does to the directory of its partition. -/
def State.epntResult : Tab DirEnt × Nat × Option Nat :=
  dirWrite (s.partAt (s.corePart c)).directory c (s.bindAt (s.bindOf c)).task v

/-- A write of `EPNT` changes the directory, and NAME, GEN and, a cycle later, ST of its core. -/
theorem State.epntApply_eq : s.epntApply c v =
    ((s.modPart (s.corePart c) fun q => { q with directory := (s.epntResult c v).1 }).modCore c fun k =>
      { k with ctl := { k.ctl with
          epMove := v.getLsbD 61, epName := v.extractLsb' 8 24,
          epGen := BitVec.ofNat 8 ((s.epntResult c v).2.2.getD k.ctl.epGen.toNat) } }).post
      (s.ccyc + 1) 1 (.epntSt c (BitVec.ofNat 2 (s.epntResult c v).2.1)) := rfl

theorem State.epntApply_core : (s.epntApply c v).core c =
    { s.core c with ctl := { (s.core c).ctl with
      epMove := v.getLsbD 61, epName := v.extractLsb' 8 24,
      epGen := BitVec.ofNat 8 ((s.epntResult c v).2.2.getD (s.core c).ctl.epGen.toNat) } } := by
  rw [State.epntApply_eq, State.post_core, State.modCore_core_self, State.modPart_core]

theorem State.epntApply_directory :
    ((s.epntApply c v).partAt (s.corePart c)).directory = (s.epntResult c v).1 := by
  have h := s.modPart_partAt_self (s.corePart c) fun q => { q with directory := (s.epntResult c v).1 }
  exact congrArg Part.directory h

end

theorem endpointEvents : Spec.endpointEvents := by
  refine ⟨?write, ?status⟩
  case write =>
    intro s e rest c v hagenda hdue hev p task d name
    let u : State := { s with agenda := rest }
    have hfire : s.fire .epntWrite = u.epntApply c v := by
      rw [fire_head hagenda hdue (by rw [hev]; rfl), hev]
      rfl
    have hname : wfld v 31 8 = name := wfld_eq_extract v 31 8
    have hcore := u.epntApply_core c v
    have hdir : ((u.epntApply c v).partAt p).directory = (u.epntResult c v).1 := u.epntApply_directory c v
    have hput : ∀ g, u.epntResult c v = (dirPut d c name g task, 1, some g) →
        Spec.liveAt d ((u.epntApply c v).partAt p).directory c task name g ∧
          BitVec.ofNat 2 (u.epntResult c v).2.1 = 1 ∧ ((u.epntApply c v).core c).ctl.epGen = BitVec.ofNat 8 g := by
      intro g hg
      rw [hdir, hcore, hg]
      exact ⟨liveAt_dirPut d c name g task, rfl, rfl⟩
    have hrefused : ∀ n, u.epntResult c v = (d, n, none) →
        ((u.epntApply c v).partAt p).directory = d ∧ BitVec.ofNat 2 (u.epntResult c v).2.1 = BitVec.ofNat 2 n := by
      intro n hn
      rw [hdir, hn]
      exact ⟨rfl, rfl⟩
    rw [← hname] at hput ⊢
    refine ⟨_, BitVec.ofNat 2 (u.epntResult c v).2.1, congrArg Host.Outcome.next hfire, rfl, by rw [hcore]; rfl,
      by rw [hcore, wfld_eq_extract], ⟨_, mem_agendaInsert_self _ _⟩, fun h0 => ?_,
      fun hn hm => ⟨fun q hq hl ht => ?_, fun hno => ?_⟩,
      fun hn hm => ⟨fun q o hq hl ho => ?_, fun q hq hl => ?_, fun hown => ⟨fun hlt => ?_, fun hge => ?_⟩⟩⟩
    · have hzero : u.epntResult c v = (dirRetire d c task, 0, some 0) := dirWrite_zero h0
      rw [hdir, hzero]
      exact ⟨fun n => tfind_dirRetire _ _ _ _, rfl⟩
    · exact hput _ (dirWrite_move hn hm hq hl ht)
    · exact hrefused 2 (dirWrite_noMove hn hm hno)
    · exact hrefused 2 (dirWrite_held hn hm hq hl ho)
    · exact hput _ (dirWrite_again hn hm hq hl)
    · exact hput _ ((dirWrite_new hn hm hown).trans (if_neg (by omega)))
    · exact hrefused 3 ((dirWrite_new hn hm hown).trans (if_pos hge))
  case status =>
    intro s e rest c st hagenda hdue hev
    let u : State := { s with agenda := rest }
    have hfire : s.fire .epntWrite = u.modCore c fun k => { k with ctl := { k.ctl with epSt := st } } := by
      rw [fire_head hagenda hdue (by rw [hev]; rfl), hev]
      rfl
    exact ⟨_, congrArg Host.Outcome.next hfire, rfl, fun c' hc' => u.modCore_core_ne _ hc', u.modCore_core_self _ _⟩

end Sys2Proof.Machine
end

section
/-!
O46 (06 R133, R134; 22 R352, R353), messages: the send on a token slot, which message arrives first, and the way of one that
arrives by the name's locations (`nextLocation`).
-/

namespace Sys2Proof.Machine

/-! ### Sending and fates -/

/-- The next slot of a token begins within a revolution. -/
theorem slotAfter_bounds (token now : Nat) :
    now < slotAfter token now ∧ slotAfter token now ≤ now + 64 ∧ slotAfter token now % 64 = 2 * token % 64 := by
  unfold slotAfter revolution
  omega

theorem fate_back (m : NetMsg) (p : Part) {kind : Nat} (hk : kind ≠ 0) (now : Nat) :
    Spec.backAt p now (m.fate p kind now).due := by
  have hdue : (m.fate p kind now).due = slotAfter p.reportToken now + 64 := by
    simp only [NetMsg.fate, NetMsg.cls, if_neg hk, Part.tokenOf]
    rfl
  obtain ⟨hlo, hhi, hmod⟩ := slotAfter_bounds p.reportToken now
  rw [hdue]
  exact ⟨by omega, by omega, by omega⟩

/-- The message that leaves a send buffer, on its way or lost at once. -/
def leaving (s : State) (p c : Nat) (m : Message) : NetMsg :=
  let n : NetMsg := { part := p, sender := c, kind := 0, name := m.name.toNat, gen := m.gen.toNat, own := m.own,
                      body := m.body, target := m.dest.getD c, hops := 0, due := s.ccyc + revolution }
  if m.dest.isSome then n else n.fate (s.partAt p) 3 s.ccyc

theorem sendMessage_eq {s : State} {p c : Nat} {m : Message} {rest : List Message} (hs : s.nextSender p = some c)
    (hb : (s.core c).sendBuf = m :: rest) : s.sendMessage p =
      ({ (s.modCore c fun k => { k with sendBuf := rest }) with net := s.net ++ [leaving s p c m] } : State).modPart p
        fun q => { q with lastSend := s.ccyc + 1 } := by
  unfold State.sendMessage
  rw [hs]
  simp only [hb]
  rfl

theorem tokenSend_results {s : State} {c : Nat} {m : Message} {rest : List Message} (ht : s.tokenDue s.cur.part = true)
    (hs : s.nextSender s.cur.part = some c) (hb : (s.core c).sendBuf = m :: rest) :
    ∃ t n, exec .messageTokenSend s = .next t ∧ t = { s with cores := t.cores, net := s.net ++ [n], parts := t.parts } ∧
      t.core c = { s.core c with sendBuf := rest } ∧ (∀ c', c' ≠ c → t.core c' = s.core c') ∧
      (∀ l, m.dest = some l → n = ⟨s.cur.part, c, 0, m.name.toNat, m.gen.toNat, m.own, m.body, l, 0, s.ccyc + 64⟩) ∧
      (m.dest = none → Spec.backAt (s.partAt s.cur.part) s.ccyc n.due ∧
        n = ⟨s.cur.part, c, 3, m.name.toNat, m.gen.toNat, m.own, m.body, c, 0, n.due⟩) := by
  have hexec : exec .messageTokenSend s = .next (s.sendMessage s.cur.part) := congrArg Host.Outcome.next (if_pos ht)
  rw [sendMessage_eq hs hb] at hexec
  refine ⟨_, leaving s s.cur.part c m, hexec, rfl, s.modCore_core_self c fun k => { k with sendBuf := rest },
    fun c' hc' => s.modCore_core_ne (fun k => { k with sendBuf := rest }) hc', fun l hl => ?_, fun hl => ?_⟩
  · simp only [leaving, hl]
    rfl
  · simp only [leaving, hl]
    exact ⟨fate_back _ _ (by decide) _, rfl⟩

/-! ### What arrives first -/

theorem arrivalDue_some {s : State} {i : Nat} (h : s.arrivalDue = some i) : ∃ m, s.net[i]? = some m ∧ m.due ≤ s.ccyc ∧
    (m.kind = 0 → ∀ j q, j < i → s.net[j]? = some q → q.kind = 0 → q.sender = m.sender → q.name ≠ m.name) := by
  obtain ⟨⟨m, k⟩, hfind, rfl⟩ := Option.map_eq_some_iff.1 h
  have hmem := List.mem_zipIdx_iff_getElem?.1 (List.mem_of_find?_eq_some hfind)
  have hpred := List.find?_some hfind
  simp only [Bool.and_eq_true, decide_eq_true_eq, Bool.not_eq_true', List.any_eq_false] at hpred
  refine ⟨m, hmem, hpred.1, fun hk j q hj hq hqk hsender hname => ?_⟩
  have hin : q ∈ s.net.take k := List.mem_of_getElem? (i := j) (by rw [List.getElem?_take, if_pos hj, hq])
  exact hpred.2 q hin (by simp [hk, hqk, hsender, hname])

/-! ### The way of a message -/

section
variable {locs : List Nat} {t : Nat}

theorem findIdx?_beq_eq (h : t ∈ locs) : locs.findIdx? (· == t) = some (locs.idxOf t) :=
  List.findIdx?_eq_some_of_exists ⟨t, h, beq_self_eq_true t⟩

/-- At an older location the next newer one follows. -/
theorem nextLocation_newer {j k : Nat} (ht : locs[j + 1]? = some t) (hi : locs.idxOf t = j + 1) (hk : locs[j]? = some k) :
    nextLocation locs t = some k := by
  unfold nextLocation
  rw [findIdx?_beq_eq (List.mem_of_getElem? ht), hi]
  exact hk

/-- At a location that is not listed the oldest one follows (log 47). -/
theorem nextLocation_unlisted {k : Nat} (ht : t ∉ locs) (hk : locs.getLast? = some k) : nextLocation locs t = some k := by
  have hnone : locs.findIdx? (· == t) = none := by
    rw [List.findIdx?_eq_none_iff]
    intro x hx
    simpa using fun hxt : x = t => ht (hxt ▸ hx)
  unfold nextLocation
  rw [hnone, hk]

/-- At the newest location the way ends. -/
theorem nextLocation_newest (ht : locs[0]? = some t) : nextLocation locs t = none := by
  obtain ⟨r, rfl⟩ : ∃ r, locs = t :: r := by
    cases locs with
    | nil => cases ht
    | cons x r => exact ⟨r, by cases ht; rfl⟩
  simp [nextLocation, List.findIdx?_cons]

end

end Sys2Proof.Machine
end

section
/-!
O46 (06 R133, R134; 22 R353), arrivals: the entry appended to a ring, and the fates of a message at its location.

An entry is 64 words written in order (`entryWords`); the reserved bytes and TAIL follow it and overlap no part of it.
-/

namespace Sys2Proof.Machine

/-! ### The bytes of words -/

/-- The bytes of words, in order. -/
def wordBytes (ws : List Word) : List Byte := (ws.map fun w => leBytes 8 w.toNat).flatten

theorem wordBytes_cons (w : Word) (ws : List Word) : wordBytes (w :: ws) = leBytes 8 w.toNat ++ wordBytes ws := rfl

theorem length_wordBytes (ws : List Word) : (wordBytes ws).length = 8 * ws.length := by
  induction ws with
  | nil => rfl
  | cons w ws ih =>
    rw [wordBytes_cons, List.length_append, length_leBytes, ih, List.length_cons]
    omega

/-- Byte `i` of word `j`. -/
theorem wordBytes_getD (ws : List Word) {j i : Nat} (hj : j < ws.length) (hi : i < 8) :
    (wordBytes ws).getD (8 * j + i) 0 = (leBytes 8 (ws.getD j 0).toNat).getD i 0 := by
  induction ws generalizing j with
  | nil => cases hj
  | cons w ws ih =>
    rw [wordBytes_cons]
    cases j with
    | zero => rw [List.getD_append _ _ _ _ (by rw [length_leBytes]; omega), Nat.mul_zero, Nat.zero_add, List.getD_cons_zero]
    | succ j =>
      rw [List.getD_append_right _ _ _ _ (by rw [length_leBytes]; omega), length_leBytes, List.getD_cons_succ,
        ← ih (Nat.lt_of_succ_lt_succ hj)]
      exact congrArg (List.getD _ · 0) (by omega)

/-- Bytes that are a number's read as that number. -/
theorem Memory.readLe_eq {m : Memory} {key n v : Nat} (h : ∀ i < n, m.read (key + i) = (leBytes n v).getD i 0) :
    m.readLe key n = v % 256 ^ n := by
  have hread := Memory.readN_eq (m := m) (key := key) (bs := leBytes n v) (by rwa [length_leBytes])
  rw [length_leBytes] at hread
  rw [Memory.readLe, hread, ofBytes_leBytes]

theorem Memory.readLe_word {m : Memory} {key : Nat} {w : Word}
    (h : ∀ i < 8, m.read (key + i) = (leBytes 8 w.toNat).getD i 0) : m.readLe key 8 = w.toNat := by
  rw [Memory.readLe_eq h]
  exact Nat.mod_eq_of_lt w.isLt

theorem State.toNat_read64 (s : State) (key : Nat) : (s.read64 key).toNat = s.mem.readLe key 8 :=
  toNat_ofNat_of_lt (s.mem.readLe_lt key 8)

/-! ### The entry -/

/-- The 64 words of an entry (06 R133; log 111). -/
def entryWords (header : Word) (body : List Word) : List Word := (header :: body) ++ List.replicate (63 - body.length) 0

theorem length_entryWords (header : Word) {body : List Word} (h : body.length ≤ 63) :
    (entryWords header body).length = 64 := by
  simp only [entryWords, List.length_append, List.length_cons, List.length_replicate]
  omega

theorem entryWords_getD (header : Word) (body : List Word) (j : Nat) :
    (entryWords header body).getD j 0 = (header :: body).getD j 0 := by
  by_cases hj : j < (header :: body).length
  · exact List.getD_append _ _ _ _ hj
  · rw [entryWords, List.getD_append_right _ _ _ _ (Nat.le_of_not_lt hj), List.getD_eq_default _ _ (Nat.le_of_not_lt hj)]
    exact List.getElem?_getD_replicate_default_eq ..

section
variable (s : State) (c : Nat) (header : Word) (body : List Word)

/-- A core's TAIL. -/
def State.ringTail : Nat := s.mem.readLe (spKey c 0x30000) 8

theorem appendEntry_eq : s.appendEntry c header body =
    (((s.noteRead [(spKey c 0x30000, 16)]).write (spKey c (Spec.entryAt (s.ringTail c)))
      (wordBytes (entryWords header body))).write (spKey c 0x30010) (List.replicate 0x1F0 0)).write64 (spKey c 0x30000)
        (s.read64 (spKey c 0x30000) + 1) := by
  have hkey : ringMsgKey c (ringEntry (s.read64 (ringMsgKey c 0)).toNat) = spKey c (Spec.entryAt (s.ringTail c)) := by
    rw [State.toNat_read64, ringMsgKey, ringEntry, Spec.entryAt, Nat.add_assoc]
    rfl
  rw [State.appendEntry, hkey]
  rfl

theorem appendEntry_onlyMem : s.onlyMem (s.appendEntry c header body) := by
  rw [appendEntry_eq]
  have hnoted : s.onlyMem (s.noteRead [(spKey c 0x30000, 16)]) := rfl
  exact State.onlyMem_trans (State.onlyMem_trans (State.onlyMem_trans hnoted (State.write_onlyMem ..))
    (State.write_onlyMem ..)) (State.write_onlyMem ..)

end

/-- The entry, the reserved bytes and TAIL lie apart in the ring. -/
theorem ring_apart (c n : Nat) : spKey c 0x30200 ≤ spKey c (Spec.entryAt n) ∧ spKey c 0x30010 + 0x1F0 = spKey c 0x30200 ∧
    spKey c 0x30000 + 8 = spKey c 0x30008 ∧ spKey c 0x30008 + 8 = spKey c 0x30010 ∧
    spKey c (Spec.entryAt n + 0x200) = spKey c (Spec.entryAt n) + 0x200 := by
  unfold spKey Spec.entryAt
  omega

theorem ringHeader_eq (kind len name gen : Nat) : ringHeader kind len name gen =
    BitVec.ofNat 64 (kind * 2 ^ 60 + len * 2 ^ 48 + name * 2 ^ 24 + gen * 2 ^ 16) := by
  have hsum : [(kind, 60), (len, 48), (name, 24), (gen, 16)].foldl (fun a (p : Nat × Nat) => a + p.1 * 2 ^ p.2) 0 =
      kind * 2 ^ 60 + len * 2 ^ 48 + name * 2 ^ 24 + gen * 2 ^ 16 := by
    rw [List.foldl_cons, List.foldl_cons, List.foldl_cons, List.foldl_cons, List.foldl_nil, Nat.zero_add]
  exact congrArg (BitVec.ofNat 64) hsum

/-- What an appended entry leaves in memory (06 R133). -/
theorem appendEntry_appended (s : State) (c kind len name gen : Nat) {body : List Word} (h : body.length ≤ 63) :
    Spec.appended s (s.appendEntry c (ringHeader kind len name gen) body) c kind len name gen body := by
  obtain ⟨hentry, hreserved, htail, hhead, hend⟩ := ring_apart c (s.ringTail c)
  have hlen : (wordBytes (entryWords (ringHeader kind len name gen) body)).length = 0x200 := by
    rw [length_wordBytes, length_entryWords _ h]
  have hzeros : (List.replicate 0x1F0 (0 : Byte)).length = 0x1F0 := List.length_replicate
  rw [appendEntry_eq]
  unfold Spec.appended
  rw [← State.ringTail, ← ringHeader_eq]
  refine ⟨fun j hj => ?_, ?_, fun a ha => ?_⟩
  · rw [← entryWords_getD]
    refine Memory.readLe_word fun i hi => ?_
    have hpos : spKey c (Spec.entryAt (s.ringTail c) + 8 * j) + i = spKey c (Spec.entryAt (s.ringTail c)) + (8 * j + i) := by
      simp only [spKey]
      omega
    rw [hpos, State.write64_read_out _ _ (by omega), State.write_read_out _ (by omega), State.write_read_in _ _ _ (by omega),
      wordBytes_getD _ (by rw [length_entryWords _ h]; exact hj) hi]
  · rw [State.write64, State.write_mem, Memory.readLe_write, BitVec.toNat_add, State.toNat_read64]
    exact Nat.mod_mod _ _
  · rw [State.write64_read_out _ _ (by omega), State.write_read_out _ (by omega), State.write_read_out _ (by omega),
      State.noteRead_mem]

/-! ### Endpoints and rings -/

section
variable (s : State) (c i : Nat) (n : Option NetMsg)

theorem ringRoom_iff : s.ringRoom c = true ↔ Spec.room s c := by
  have htail := s.mem.readLe_lt (spKey c 0x30000) 8
  have hhead := s.mem.readLe_lt (spKey c 0x30008) 8
  rw [State.ringRoom, decide_eq_true_iff, BitVec.toNat_sub, State.toNat_read64, State.toNat_read64]
  change (2 ^ 64 - s.mem.readLe (spKey c 0x30008) 8 + s.mem.readLe (spKey c 0x30000) 8) % 2 ^ 64 < 127 ↔ _
  rw [Spec.room]
  omega

theorem endpoint_none_iff : s.endpoint c none = true ↔ Spec.endpoint s c := by
  rw [State.endpoint, heldName_eq_heldBy, Spec.endpoint]
  cases Spec.heldBy s c <;> simp

theorem endpoint_some_iff (name : Nat) : s.endpoint c (some name) = true ↔ ∃ q, Spec.heldBy s c = some (name, q) := by
  rw [State.endpoint, heldName_eq_heldBy]
  rcases Spec.heldBy s c with _ | ⟨held, q⟩
  · simp
  · simp [eq_comm (a := name)]

theorem putNet_endpoint (name : Option Nat) : (s.putNet i n).endpoint c name = s.endpoint c name := by cases n <;> rfl

theorem putNet_ringRoom : (s.putNet i n).ringRoom c = s.ringRoom c := by cases n <;> rfl

end

/-! ### Arrivals -/

section
variable {s : State} {i : Nat} {m : NetMsg}

theorem messageArrival_eq (hi : s.arrivalDue = some i) (hm : s.net[i]? = some m) :
    exec .messageArrival s = .next (if m.kind = 0 then s.arriveMessage i m else s.arriveReport i m) := by
  change Host.Outcome.next s.arrive = _
  rw [State.arrive, hi]
  simp only [hm]

/-- A message or report that is appended leaves the net. -/
theorem appended_gone (s : State) (i c kind len name gen : Nat) {body : List Word} (h : body.length ≤ 63) :
    let t := (s.putNet i none).appendEntry c (ringHeader kind len name gen) body
    t.net = s.net.eraseIdx i ∧ t.cores = s.cores ∧ Spec.appended s t c kind len name gen body :=
  have honly := appendEntry_onlyMem (s.putNet i none) c (ringHeader kind len name gen) body
  ⟨honly.net, honly.cores, appendEntry_appended (s.putNet i none) c kind len name gen h⟩

theorem arriveReport_taken (he : Spec.endpoint s m.target) (hr : Spec.room s m.target) : s.arriveReport i m =
    (s.putNet i none).appendEntry m.target (ringHeader m.kind 0 m.name m.gen) [] :=
  if_pos ⟨by rw [putNet_endpoint, endpoint_none_iff]; exact he, by rw [putNet_ringRoom, ringRoom_iff]; exact hr⟩

theorem arriveReport_lost (h : ¬ Spec.endpoint s m.target ∨ ¬ Spec.room s m.target) :
    s.arriveReport i m = s.putNet i none := by
  refine if_neg fun ⟨he, hr⟩ => ?_
  rw [putNet_endpoint, endpoint_none_iff] at he
  rw [putNet_ringRoom, ringRoom_iff] at hr
  exact h.elim (· he) (· hr)

/-- The fate that goes back to the sender of a message. -/
def fated (s : State) (i : Nat) (m : NetMsg) (kind : Nat) : State :=
  s.putNet i (some (m.fate (s.partAt m.part) kind s.ccyc))

/-- What a message at its name's newest location comes to. -/
def settled (s : State) (i : Nat) (m : NetMsg) (e : DirEnt) : State :=
  if e.live ≠ some m.target then fated s i m 1
  else if e.gen ≠ m.gen then fated s i m 2
  else if !s.endpoint m.target (some m.name) then fated s i m 3
  else if !s.ringRoom m.target then fated s i m 4
  else (s.putNet i none).appendEntry m.target
    (ringHeader 0 (m.body.length - 1) (m.own.toNat / 256) (m.own.toNat % 256)) m.body

theorem arriveMessage_unknown (h : tfind (s.partAt m.part).directory m.name = none) :
    s.arriveMessage i m = fated s i m 3 := by
  rw [State.arriveMessage, h]
  rfl

theorem arriveMessage_onward {e : DirEnt} {k : Nat} (h : tfind (s.partAt m.part).directory m.name = some e)
    (hk : nextLocation e.locs m.target = some k) : s.arriveMessage i m = if 4 ≤ m.hops then fated s i m 3
      else s.putNet i (some { m with target := k, hops := m.hops + 1, due := s.ccyc + revolution }) := by
  rw [State.arriveMessage, h]
  simp only [hk]
  rfl

theorem arriveMessage_newest {e : DirEnt} (h : tfind (s.partAt m.part).directory m.name = some e)
    (hk : nextLocation e.locs m.target = none) : s.arriveMessage i m = settled s i m e := by
  rw [State.arriveMessage, h]
  simp only [hk]
  rfl

theorem fated_back {kind : Nat} (hk : kind ≠ 0) (he : exec .messageArrival s = .next (fated s i m kind)) :
    ∃ due, Spec.backAt (s.partAt m.part) s.ccyc due ∧ exec .messageArrival s =
      .next { s with net := s.net.set i { m with kind := kind, target := m.sender, hops := 0, due := due } } :=
  ⟨_, fate_back m _ hk s.ccyc, he⟩

section
variable {e : DirEnt}

theorem settled_retired (h : e.live ≠ some m.target) : settled s i m e = fated s i m 1 := if_pos h

theorem settled_stale (hl : e.live = some m.target) (h : m.gen ≠ e.gen) : settled s i m e = fated s i m 2 := by
  rw [settled, if_neg (not_not.2 hl), if_pos h.symm]

variable (hl : e.live = some m.target) (hg : m.gen = e.gen)
include hl hg

theorem settled_unheld (h : ¬ ∃ q, Spec.heldBy s m.target = some (m.name, q)) : settled s i m e = fated s i m 3 := by
  rw [← endpoint_some_iff, Bool.not_eq_true] at h
  simp only [settled, ne_eq, hl, hg, not_true_eq_false, if_false, h, Bool.not_false, if_true]

theorem settled_full (hh : ∃ q, Spec.heldBy s m.target = some (m.name, q)) (h : ¬ Spec.room s m.target) :
    settled s i m e = fated s i m 4 := by
  rw [← endpoint_some_iff] at hh
  rw [← ringRoom_iff, Bool.not_eq_true] at h
  simp only [settled, ne_eq, hl, hg, not_true_eq_false, if_false, hh, h, Bool.not_true, Bool.false_eq_true, Bool.not_false,
    if_true]

theorem settled_taken (hh : ∃ q, Spec.heldBy s m.target = some (m.name, q)) (h : Spec.room s m.target) :
    settled s i m e = (s.putNet i none).appendEntry m.target
      (ringHeader 0 (m.body.length - 1) (m.own.toNat / 256) (m.own.toNat % 256)) m.body := by
  rw [← endpoint_some_iff] at hh
  rw [← ringRoom_iff] at h
  simp only [settled, ne_eq, hl, hg, not_true_eq_false, if_false, hh, h, Bool.not_true, Bool.false_eq_true]

end

/-- A message that goes on: a hop, or lost after four of them. -/
theorem hop_results {e : DirEnt} {k : Nat} (hi : s.arrivalDue = some i) (hm : s.net[i]? = some m) (h0 : m.kind = 0)
    (h : tfind (s.partAt m.part).directory m.name = some e) (hk : nextLocation e.locs m.target = some k) :
    (m.hops < 4 → exec .messageArrival s =
      .next { s with net := s.net.set i { m with target := k, hops := m.hops + 1, due := s.ccyc + 64 } }) ∧
    (4 ≤ m.hops → ∃ due, Spec.backAt (s.partAt m.part) s.ccyc due ∧ exec .messageArrival s =
      .next { s with net := s.net.set i { m with kind := 3, target := m.sender, hops := 0, due := due } }) := by
  have hexec := messageArrival_eq hi hm
  rw [if_pos h0, arriveMessage_onward h hk] at hexec
  constructor
  · intro hhops
    rw [if_neg (Nat.not_le.2 hhops)] at hexec
    exact hexec
  · intro hhops
    rw [if_pos hhops] at hexec
    exact fated_back (by decide) hexec

end

theorem messageEvents : Spec.messageEvents := by
  intro s
  refine ⟨fun ht c m rest hs hb => tokenSend_results ht hs hb, fun i hi => arrivalDue_some hi, fun i m hi hm => ?_⟩
  have hexec := messageArrival_eq hi hm
  constructor
  · intro hkind
    rw [if_neg hkind] at hexec
    constructor
    · intro he hr _ _ _
      rw [arriveReport_taken he hr] at hexec
      obtain ⟨hnet, hcores, happ⟩ := appended_gone s i m.target m.kind 0 m.name m.gen (body := []) (Nat.zero_le _)
      exact ⟨_, ⟨hexec, hnet, hcores⟩, happ⟩
    · intro hlost
      rw [arriveReport_lost hlost] at hexec
      exact ⟨_, ⟨hexec, rfl, rfl⟩, rfl⟩
  · intro hkind
    rw [if_pos hkind] at hexec
    constructor
    · intro hunknown
      rw [arriveMessage_unknown hunknown] at hexec
      exact fated_back (by decide) hexec
    · intro e he
      refine ⟨fun k j ht hidx hk => hop_results hi hm hkind he (nextLocation_newer ht hidx hk),
        fun k ht hk => hop_results hi hm hkind he (nextLocation_unlisted ht hk), fun ht => ?_⟩
      rw [arriveMessage_newest he (nextLocation_newest ht)] at hexec
      refine ⟨fun hl => ?_, fun hl hg => ?_, fun hl hg hh => ?_, fun hl hg hh hr => ?_, fun hl hg hh hr _ hlen => ?_⟩
      · rw [settled_retired hl] at hexec
        exact fated_back (by decide) hexec
      · rw [settled_stale hl hg] at hexec
        exact fated_back (by decide) hexec
      · rw [settled_unheld hl hg hh] at hexec
        exact fated_back (by decide) hexec
      · rw [settled_full hl hg hh hr] at hexec
        exact fated_back (by decide) hexec
      · rw [settled_taken hl hg hh hr] at hexec
        obtain ⟨hnet, hcores, happ⟩ := appended_gone s i m.target 0 (m.body.length - 1) (m.own.toNat / 256)
          (m.own.toNat % 256) (body := m.body) (by omega)
        exact ⟨_, ⟨hexec, hnet, hcores⟩, happ⟩

/-- Settles O46: endpoint writes by the cases of the name's directory entry, messages by the cases of their arrival. -/
theorem messagesArrive : Obligations.MessagesArrive := ⟨endpointEvents, messageEvents⟩

end Sys2Proof.Machine
end

section
/-!
The elements of vector registers (07 R137) as the statements of O22 and O24 write them, and results in elements (03 R46 to
R51; 05 R99, R100): both sides of an integer result come to a bit vector of the element's width, and a floating-point
result fits its element.
-/

namespace Sys2Proof.Machine

/-! ### Elements -/

theorem velem_eq_el (v : Vec) (w e : Nat) : velem v w e = Spec.el v w e := by
  rw [Spec.el, BitVec.extractLsb'_toNat, Nat.shiftRight_eq_div_pow]
  rfl

theorem el_lt (v : Vec) (w e : Nat) : Spec.el v w e < 2 ^ w := BitVec.isLt _

/-- An element of a register lies inside it. -/
theorem elem_end_le {w e : Nat} (he : e < 1024 / w) : w * e + w ≤ 1024 := by
  calc w * e + w = w * (e + 1) := (Nat.mul_succ w e).symm
    _ ≤ w * (1024 / w) := Nat.mul_le_mul_left _ he
    _ ≤ 1024 := Nat.mul_div_le _ _

/-- An element of a register that is put together from a list. -/
theorem el_vecOf {w e : Nat} (l : List Nat) (he : e < 1024 / w) : Spec.el (vecOf w l) w e = l.getD e 0 % 2 ^ w := by
  have hw : 0 < w := Nat.pos_of_ne_zero (by rintro rfl; simp at he)
  have hend := elem_end_le he
  refine Nat.eq_of_testBit_eq fun i => ?_
  rw [Spec.el, BitVec.testBit_toNat, BitVec.getLsbD_extractLsb', Nat.testBit_mod_two_pow, vecOf, BitVec.getLsbD_ofNat,
    testBit_foldr_elems hw]
  by_cases hi : i < w
  · rw [Nat.mul_add_div hw, Nat.div_eq_of_lt hi, Nat.mul_add_mod, Nat.mod_eq_of_lt hi,
      decide_eq_true (show w * e + i < 1024 by omega), Bool.true_and, Nat.add_zero]
  · simp [hi]

theorem active_eq (m : BitVec 32) (w e : Nat) : active m w e = m.getLsbD (w * e / 32) := bitAt_eq_testBit _ _

/-- An active element of a result (07 R137). -/
theorem el_elems {w e : Nat} {m : BitVec 32} (f : Nat → Nat) (he : e < 1024 / w) (hm : m.getLsbD (w * e / 32) = true) :
    Spec.el (elems w (1024 / w) m f) w e = f e % 2 ^ w := by
  rw [elems, el_vecOf _ he, List.getD_eq_getElem _ _ (by simpa using he)]
  simp [active_eq, hm]

/-! ### Format codes -/

theorem fmtWidth_eq {t : Nat} (ht : t < 10) : fmtWidth t = Spec.width t := by
  interval_cases t <;> rfl

theorem fmtWidth_code (t : BitVec 3) : fmtWidth t.toNat = Spec.width t.toNat := fmtWidth_eq (by omega)

theorem width_cases {t : Nat} (ht : t < 10) : Spec.width t = 32 ∨ Spec.width t = 16 ∨ Spec.width t = 8 := by
  interval_cases t <;> decide

theorem width_pos {t : Nat} (ht : t < 10) : 0 < Spec.width t := by
  rcases width_cases ht with h | h | h <;> omega

theorem arithLat_eq (t : Nat) : arithLat t = if t < 6 then 2 else 4 := by simp [arithLat, fmtInt]

/-! ### Integers -/

theorem wrapBits_eq (w : Nat) (v : Int) : wrapBits w v = (BitVec.ofInt w v).toNat := by
  rw [BitVec.toNat_ofInt, wrapBits]

theorem wrapBits_lt (w : Nat) (v : Int) : wrapBits w v < 2 ^ w := wrapBits_eq w v ▸ BitVec.isLt _

theorem sval_eq {w v : Nat} (hw : 0 < w) (hv : v < 2 ^ w) : sval v w = (BitVec.ofNat w v).toInt :=
  (toInt_ofNat_eq_sval hw hv).symm

theorem intOf_eq {t v : Nat} (ht : t < 10) (hv : v < 2 ^ Spec.width t) : intOf t v = Spec.int t v := by
  unfold intOf Spec.int
  rw [fmtWidth_eq ht, sval_eq (width_pos ht) hv]
  simp [fmtSigned]

/-- An integer result of an element, wrapped or finished under a `mod` (05 R99, R100). -/
theorem finishInt_eq_finInt (md : Option ModWord) {t : Nat} (ht : t < 10) (v : Int) :
    finishInt md (fmtSigned t) (fmtWidth t) v = Spec.finInt md t v := by
  cases md with
  | none => simp [finishInt, Spec.finInt, wrapBits_eq, fmtWidth_eq ht]
  | some m =>
    simp only [finishInt, Spec.finInt, wrapBits_eq, fmtWidth_eq ht, ModWord.scaleInt, limit, fmtSigned, Nat.cast_pow,
      Nat.cast_ofNat, Int.natCast_natAbs, Bool.or_eq_true, decide_eq_true_eq]
    split <;> rfl

theorem finInt_lt (md : Option ModWord) (t : Nat) (v : Int) : Spec.finInt md t v < 2 ^ Spec.width t := by
  cases md <;> exact BitVec.isLt _

/-! ### Floating point -/

/-- Bits of FP32 or BF16 fit the format's width. -/
theorem packIeee_lt {f : Fmt} (hp : 2 ≤ f.p) (r : Rnd) (clamp : Bool) (v : FVal) :
    packIeee f r clamp v < 512 * 2 ^ (f.p - 1) := by
  have hhalf : 2 ^ (f.p - 1) = 2 * 2 ^ (f.p - 2) := by rw [← Nat.pow_succ']; congr 1; omega
  have hpos : 0 < 2 ^ (f.p - 2) := Nat.two_pow_pos _
  have hsign (n : Bool) : (if n then 256 * 2 ^ (f.p - 1) else 0) ≤ 256 * 2 ^ (f.p - 1) := by split <;> omega
  have hbig (b : Bool) : (if b then 255 * 2 ^ (f.p - 1) - 1 else 255 * 2 ^ (f.p - 1)) ≤ 255 * 2 ^ (f.p - 1) := by
    split <;> omega
  unfold packIeee
  cases v with
  | nan => simp only; omega
  | inf n => have := hsign n; have := hbig clamp; simp only; omega
  | fin n m e =>
    have := hsign n
    simp only
    split
    · omega
    · split
      · omega
      · exact lt_of_le_of_lt (Nat.add_le_add (hsign n) (hbig _)) (by omega)

theorem satIeee_lt {f : Fmt} {b n : Nat} (hb : b < n) : satIeee f b < n := by
  unfold satIeee
  simp only
  split_ifs <;> omega

theorem packE4m3_lt (r : Rnd) (ovf clamp : Bool) (v : FVal) : packE4m3 r ovf clamp v < 256 := by
  have hbig (n : Bool) : (if ovf && !clamp then 0x80 else if n then 0xFF else 0x7F) < 256 := by split_ifs <;> decide
  unfold packE4m3
  cases v with
  | nan => simp
  | inf n => exact hbig n
  | fin n m e =>
    simp only
    split_ifs <;> omega

theorem satE4m3_lt {b n : Nat} (hb : b < n) : satE4m3 b < n := by
  unfold satE4m3
  split_ifs <;> omega

/-- A floating-point result fits an element of its format. -/
theorem finishF_lt (md : Option ModWord) {t : Nat} (h6 : 6 ≤ t) (h8 : t ≤ 8) (r : Rnd) (ovf : Bool) (v : FVal) :
    finishF md t r ovf v < 2 ^ Spec.width t := by
  obtain rfl | rfl | rfl : t = 6 ∨ t = 7 ∨ t = 8 := by omega
  all_goals
    unfold finishF
    simp only
  · have hb (c : Bool) (v : FVal) := packIeee_lt (f := f32) (by decide) r c v
    split
    · exact satIeee_lt (hb _ _)
    · exact hb _ _
  · have hb (c : Bool) (v : FVal) := packIeee_lt (f := bf16) (by decide) r c v
    split
    · exact satIeee_lt (hb _ _)
    · exact hb _ _
  · have hb (c : Bool) (v : FVal) := packE4m3_lt r ovf c v
    split
    · exact satE4m3_lt (hb _ _)
    · exact hb _ _

end Sys2Proof.Machine
end

section
/-!
The issue of a vector word (04 R89, R93; 07 R138, R149, R155), with or without a `mod` before it, said once for O22 and
O24.
-/

namespace Sys2Proof.Machine

/-! ### What a vector word reads at issue -/

section
variable (s : State) (sf : Bool)

@[simp] theorem State.noted_vreg (n : Nat) : (s.noted sf).vreg s.ctx n = Spec.vr s n := by
  simp [State.vreg, Spec.vr]

@[simp] theorem State.noted_rnd : (s.noted sf).rnd s.ctx = Spec.rnd s := by
  obtain ⟨l, h⟩ := s.noted_me sf
  rw [State.rnd, h, Spec.rnd]

@[simp] theorem State.noted_pending : (s.ctx.stream (s.noted sf)).pending = s.me.pending := by
  obtain ⟨l, h⟩ := s.noted_me sf
  rw [h]

@[simp] theorem State.noted_ovf : (s.ctx.stream (s.noted sf)).ovf = s.me.ovf := by
  obtain ⟨l, h⟩ := s.noted_me sf
  rw [h]

variable {s}

theorem State.ox_x (hh : s.cur.half ≠ .a) (n : Nat) : s.ox s.ctx n = vget 0 s.my.regs.oxX (n % 8) := by
  simp [State.ox, hh]

theorem State.noted_draw (hh : s.cur.half ≠ .a) (e : Nat) : (s.noted sf).draw s.ctx e = Spec.draw s e := by
  simp [State.draw, State.rngBase, Spec.draw, State.ox_x hh, wfld_eq_extract]

theorem State.noted_rngBad (hh : s.cur.half ≠ .a) (h : (vget 0 s.my.regs.oxX 7).extractLsb' 48 16 = 0) :
    (s.noted sf).rngBad s.ctx = false := by
  rw [State.rngBad, State.noted_ox, State.ox_x hh, wfld_eq_extract, h]
  rfl

end

/-! ### Checks and sources -/

section
variable {s s' : State} {sf : Bool} {m : BitVec 5} {srcs dsts : List Nat} {l : List Word}

/-- A word that a `mod` may precede, or that none does, comes to what its body gives (04 R89). -/
theorem issueWord_ready {modable : Bool} {md : Option ModWord} {pre : State → Ctx → Pre} {body : State → Ctx → Res}
    (hr : Spec.ready s sf md) (hm : md ≠ none → modable = true) (hh : s.cur.half ≠ .a)
    (hp : pre (s.noted sf) s.ctx = {}) (hb : body (s.noted sf) s.ctx = .ok s' .seq) :
    issueWord sf .x modable pre body s = .next (s'.went s.ctx sf .seq) := by
  obtain ⟨hskip, hpend, hflag, hstop⟩ := hr
  cases md with
  | none => exact issueWord_ok ⟨hskip, hpend, hstop⟩ (classOk_x hh) hp hb (by simp)
  | some k =>
    obtain rfl : sf = false := hflag (by simp)
    obtain rfl : modable = true := hm (by simp)
    rw [issueWord_modified ⟨hskip, hpend, hstop⟩ (classOk_x hh) hp, hb, finish_ok _ _ _ _ _ (by simp)]

theorem ready_of_clear (hc : s.clear sf) : Spec.ready s sf none := by
  obtain ⟨hskip, hpend, hstop⟩ := hc
  exact ⟨hskip, hpend, by simp, hstop⟩

/-- Codes that the word accepts and registers that the map allows pass the checks (07 R138, R155). -/
theorem vecPre_ok {bad : Bool} {lat : Nat} (hl : s.legalX lat srcs dsts) (hb : bad = false) (hm : m.toNat < 24) :
    vecPre bad m lat srcs dsts (s.noted sf) s.ctx = {} := by
  simp [vecPre, usePre_x hl, hb, hm]

/-- What a word makes of its scalars and its mask, where they can be read. -/
theorem withMask_gives {k : State → List Word → BitVec 32 → Res}
    (hg : s.gives sf 0 (srcs ++ if m = 16 then [] else [m.toNat]) s' l) :
    withMask m srcs k (s.noted sf) s.ctx =
      k s' l (if m = 16 then BitVec.allOnes 32 else (l.getD srcs.length 0).setWidth 32) := by
  rw [withMask, maskSrc, sources_of_gives hg]
  rfl

/-- A source gives one value. -/
theorem length_of_gives {d : Nat} (hg : s.gives sf d srcs s' l) : l.length = srcs.length := by
  unfold State.gives State.sources at hg
  simp only at hg
  split at hg
  · cases hg
  · split at hg
    · cases hg
    · split at hg
      · cases hg
      · obtain ⟨-, rfl⟩ := Got.vals.inj hg
        simp [withSeen]

/-- A word of latency above 1 does not name `ix` as its destination (05 R112). -/
theorem takes_of_late {lat d : Nat} {v : Word} (hl : s.legalX lat [] [d]) (h1 : 1 < lat) : s.takes d v := by
  obtain ⟨-, -, -, hix⟩ := hl
  exact s.takes_of_ne fun h => hix h1 (by simp [h])

end

end Sys2Proof.Machine
end

section
/-!
O22 (07 R137 to R142, R145, R147 to R154): the words that write a vector register element by element.

Every such word is `issued` with a function that gives its elements (`Lanewise`), so that what it leaves is said once
(`exec_of_lanewise`). What is left for each family of words is that the function gives the element that the rule asks
for.
-/

namespace Sys2Proof.Machine

/-! ### The common shape -/

/-- The issue of the word `w` whose codes are refused as `bad` says and whose active elements are `f`. -/
def issued (w : Spec.VecWord) (bad : State → Ctx → Bool) (f : State → Ctx → List Word → Nat → Nat) (s : State) :
    Host.Outcome State Fault Refusal :=
  issueWord w.sf .x w.modable (fun s x => vecPre (bad s x) w.m 1 w.scalars [] s x)
    (fun s x => withMask w.m w.scalars (fun s' l mk =>
      .ok (s'.landVec x.core x.half false w.lat w.d (laneMask mk) (elems w.w (1024 / w.w) mk (f s x l))) .seq) s x) s

/-- `i` issues as the word `w`: it refuses no code that `w` allows, and its elements are those of `w`. -/
def Lanewise (i : Instr) (w : Spec.VecWord) : Prop :=
  ∃ bad f, (∀ s, exec i s = issued w bad f s) ∧
    ∀ s : State, s.cur.half ≠ .a →
      ((w.base = true → (vget 0 s.my.regs.oxX 7).extractLsb' 48 16 = 0) → bad (s.noted w.sf) s.ctx = false) ∧
      ∀ l, ∀ e < 1024 / w.w, f (s.noted w.sf) s.ctx l e % 2 ^ w.w = w.val s.me.pending s l e

/-- What O22 asks of a word. -/
theorem exec_of_lanewise {i : Instr} {w : Spec.VecWord} {md : Option ModWord} {s s' : State} {l : List Word}
    (h : Lanewise i w) (hr : Spec.ready s w.sf md) (hmod : md ≠ none → w.modable = true) (hl : s.legalX 1 w.scalars [])
    (hm : w.m.toNat < 24) (hb : w.base = true → (vget 0 s.my.regs.oxX 7).extractLsb' 48 16 = 0)
    (hg : s.gives w.sf 0 (w.scalars ++ if w.m = 16 then [] else [w.m.toNat]) s' l) :
    let on : BitVec 32 := if w.m = 16 then BitVec.allOnes 32 else (l.getD w.scalars.length 0).setWidth 32
    ∃ mask v, (∀ k < 1024, mask.getLsbD k = Spec.maskBits on k) ∧
      (∀ e < 1024 / w.w, on.getLsbD (w.w * e / 32) = true → Spec.el v w.w e = w.val md s l e) ∧
      exec i s = .next ((s'.landVec s.cur.core s.cur.half false w.lat w.d mask v).went s.ctx w.sf .seq) := by
  intro on
  obtain ⟨bad, f, hexec, hs⟩ := h
  obtain ⟨hbad, hval⟩ := hs s hl.1
  refine ⟨laneMask on, elems w.w (1024 / w.w) on (f (s.noted w.sf) s.ctx l), fun k hk => getLsbD_laneMask on hk,
    fun e he hon => ?_, ?_⟩
  · rw [el_elems _ he hon, hval l e he, hr.2.1]
  · rw [hexec, issued]
    exact issueWord_ready hr hmod hl.1 (vecPre_ok hl (hbad hb) hm) (withMask_gives hg)

/-- A word that refuses no code by the state and whose elements fit: what is left is their values. -/
theorem lanewise_of {i : Instr} {w : Spec.VecWord} {f : State → Ctx → List Word → Nat → Nat}
    (hexec : ∀ s, exec i s = issued w (fun _ _ => false) f s)
    (hval : ∀ s l, ∀ e < 1024 / w.w, f (s.noted w.sf) s.ctx l e % 2 ^ w.w = w.val s.me.pending s l e) :
    Lanewise i w :=
  ⟨_, f, hexec, fun s _ => ⟨fun _ => rfl, hval s⟩⟩

/-! ### Arithmetic (07 R139, R140) -/

section
variable {i : Instr} {sf : Bool} {d a : BitVec 4} {b m : BitVec 5} {t : BitVec 3}

/-- An element as an arithmetic word reads it (07 R139; log 94). -/
theorem elemInt_eq (md : Option ModWord) (ord : Bool) {v : Nat} (hv : v < 2 ^ Spec.width t.toNat) :
    elemInt md ord t.toNat v = if (ord || md.any fun k => k.sat || k.clamp) = true then Spec.int t.toNat v
      else (BitVec.ofNat (Spec.width t.toNat) v).toInt := by
  have ht : t.toNat < 10 := by omega
  have hmd : (md.map fun k => k.sat || k.clamp).getD false = md.any fun k => k.sat || k.clamp := by cases md <;> rfl
  rw [elemInt, hmd, intOf_eq ht hv, fmtWidth_eq ht, sval_eq (width_pos ht) hv]

/-- Element `e` of an arithmetic word over the registers `regs`, as the model computes it. -/
def arithElem (ord : Bool) (t : BitVec 3) (regs : List Nat) (fi : List Int → Int) (ff : Rnd → List FVal → FVal)
    (s : State) (x : Ctx) (e : Nat) : Nat :=
  arith (x.stream s).pending (s.rnd x) (x.stream s).ovf ord t.toNat fi (ff (s.rnd x))
    ((regs.map (s.vreg x)).map fun v => velem v (Spec.width t.toNat) e)

theorem lanewise_arith {bad ord : Bool} {regs : List Nat} {fi fi' : List Int → Int} {ff ff' : Rnd → List FVal → FVal}
    (hexec : ∀ s, exec i s = elemOp sf bad ord d regs m t.toNat fi ff s) (hbad : bad = false) (hfi : ∀ l, fi l = fi' l)
    (hff : ∀ r l, ff r l = ff' r l) : Lanewise i (Spec.arith sf d m t regs fi' ff' ord) := by
  obtain rfl : fi = fi' := funext hfi
  obtain rfl : ff = ff' := funext fun r => funext (hff r)
  subst hbad
  refine lanewise_of (f := fun s x _ => arithElem ord t regs fi ff s x) (fun s => ?_) fun s l e _ => ?_
  · rw [hexec, elemOp, fmtWidth_code, arithLat_eq]
    rfl
  · have ht : t.toNat < 10 := by omega
    simp only [Spec.arith, arithElem, arith, State.noted_pending, State.noted_rnd, State.noted_ovf, List.map_map,
      Function.comp_def, State.noted_vreg, velem_eq_el, elemInt_eq _ _ (el_lt ..), fmtInt, decide_eq_true_eq]
    split
    · rw [finishInt_eq_finInt _ ht, Nat.mod_eq_of_lt (finInt_lt ..)]
    · exact Nat.mod_eq_of_lt (finishF_lt _ (by omega) (by omega) ..)

theorem absElem_eq (v : Int) : absElem t.toNat v = |(BitVec.ofInt (Spec.width t.toNat) v).toInt| := by
  have ht : t.toNat < 10 := by omega
  rw [absElem, fmtWidth_eq ht, sval_eq (width_pos ht) (wrapBits_lt ..), wrapBits_eq, BitVec.ofNat_toNat,
    BitVec.setWidth_eq, Int.natCast_natAbs]

/-- The negated product of 07 R140. -/
theorem FVal.neg_mul (x y : FVal) : x.neg.mul y = (x.mul y).neg := by
  cases x with
  | nan => rfl
  | inf a =>
    cases y with
    | nan => rfl
    | inf b => simp only [FVal.neg, FVal.mul, Bool.not_xor]
    | fin b m e =>
      simp only [FVal.neg, FVal.mul, Bool.not_xor]
      split <;> rfl
  | fin a n q =>
    cases y with
    | nan => rfl
    | inf b =>
      simp only [FVal.neg, FVal.mul, Bool.not_xor]
      split <;> rfl
    | fin b m e => simp only [FVal.neg, FVal.mul, Bool.not_xor]

/-! ### Words on the elements' bits (07 R141, R142) -/

theorem lanewise_bits {w : Spec.VecWord} {bad : Bool} {g : Nat → Nat → Nat → Nat}
    {f : (n : Nat) → BitVec n → BitVec n → BitVec n} (h : Spec.bits sf d a b m t f = some w)
    (hexec : ∀ s, exec i s = bitOp sf bad d a b m t g s) (hbad : bad = false)
    (hg : ∀ (p q : BitVec (Spec.width t.toNat)), g (Spec.width t.toNat) p.toNat q.toNat = (f _ p q).toNat) :
    Lanewise i w := by
  obtain ⟨hb, h⟩ := Option.ite_none_right_eq_some.1 h
  cases h
  subst hbad
  refine lanewise_of (f := fun s x _ e => g (Spec.width t.toNat) (velem (s.vreg x a.toNat) (Spec.width t.toNat) e)
    (velem (s.vreg x b.toNat) (Spec.width t.toNat) e)) (fun s => ?_) fun s l e _ => ?_
  · rw [hexec, bitOp, fmtWidth_code, Bool.false_or, decide_eq_false (by omega)]
    rfl
  · dsimp only
    rw [State.noted_vreg, State.noted_vreg, velem_eq_el, velem_eq_el, Spec.el, Spec.el, hg,
      Nat.mod_eq_of_lt (BitVec.isLt _), BitVec.ofNat_toNat, BitVec.ofNat_toNat, BitVec.setWidth_eq, BitVec.setWidth_eq]

/-- Bits that are bits of a vector are that vector. -/
theorem bv_toNat {n : Nat} (p : BitVec n) : bv n p.toNat = p := by rw [bv, BitVec.ofNat_toNat, BitVec.setWidth_eq]

section
variable {n : Nat} (p q : BitVec n)

theorem toNat_shl_elem : (if n ≤ q.toNat then 0 else p.toNat * 2 ^ q.toNat % 2 ^ n) = (p <<< q).toNat := by
  rw [BitVec.shiftLeft_eq', BitVec.toNat_shiftLeft, Nat.shiftLeft_eq]
  split
  · next h => rw [Nat.mod_eq_zero_of_dvd ((Nat.pow_dvd_pow 2 h).mul_left _)]
  · rfl

theorem toNat_shr_elem : (if n ≤ q.toNat then 0 else p.toNat / 2 ^ q.toNat) = (p >>> q).toNat := by
  rw [BitVec.ushiftRight_eq', BitVec.toNat_ushiftRight, Nat.shiftRight_eq_div_pow]
  split
  · next h => rw [Nat.div_eq_of_lt (p.isLt.trans_le (Nat.pow_le_pow_right (by decide) h))]
  · rfl

/-- A count of the width or more leaves copies of the sign bit (07 R141). -/
theorem toNat_sra_elem (hn : 0 < n) :
    wrapBits n (sval p.toNat n / (2 ^ min q.toNat n : Nat)) = (p.sshiftRight q.toNat).toNat := by
  have hp : sval p.toNat n = p.toInt := by rw [sval_eq hn p.isLt, BitVec.ofNat_toNat, BitVec.setWidth_eq]
  have hshift : p.toInt / (2 ^ min q.toNat n : Nat) = p.toInt / (2 ^ q.toNat : Nat) := by
    obtain hq | hq := le_total q.toNat n
    · rw [Nat.min_eq_left hq]
    · have hpow : ((2 ^ n : Nat) : Int) ≤ (2 ^ q.toNat : Nat) := by 
        exact_mod_cast Nat.pow_le_pow_right (by decide) hq
      have hlo := BitVec.two_mul_toInt_lt (x := p)
      have hhi := BitVec.le_two_mul_toInt (x := p)
      rw [Nat.min_eq_right hq]
      obtain hneg | hpos := lt_or_ge p.toInt 0
      · rw [Int.ediv_eq_neg_one_of_neg_of_le hneg (by push_cast; omega),
          Int.ediv_eq_neg_one_of_neg_of_le hneg (by push_cast at hpow ⊢; omega)]
      · rw [Int.ediv_eq_zero_of_lt hpos (by push_cast; omega),
          Int.ediv_eq_zero_of_lt hpos (by push_cast at hpow ⊢; omega)]
  rw [wrapBits_eq, hp, hshift, ← Int.shiftRight_eq_div_pow, ← BitVec.toInt_sshiftRight, BitVec.ofInt_toInt]

end

theorem lanewise_cmp {w : Spec.VecWord} {fi : Int → Int → Bool} {ff : FVal → FVal → Bool}
    (hexec : ∀ s, exec i s = cmpOp sf d a b m t fi ff s) (h : Spec.cmp sf d a b m t fi ff = some w) :
    Lanewise i w := by
  refine lanewise_bits h hexec rfl fun p q => ?_
  have ht : t.toNat < 10 := by omega
  simp only [fmtInt, decide_eq_true_eq, intOf_eq ht p.isLt, intOf_eq ht q.isLt, Bool.ite_eq_true_distrib]
  rw [apply_ite BitVec.toNat, BitVec.toNat_allOnes]
  split_ifs <;> rfl

/-! ### Lane moves (07 R145) -/

theorem lanewise_move {f : Nat → Vec → Word → Nat → Nat} {g : State → Word → Nat → Nat}
    (hexec : ∀ s, exec i s = laneOp sf d a b m t f s)
    (hg : ∀ s r e, f (Spec.width t.toNat) (Spec.vr s a.toNat) r e % 2 ^ Spec.width t.toNat = g s r e) :
    Lanewise i (Spec.move sf d b m t g) := by
  refine lanewise_of (f := fun s x l e => f (Spec.width t.toNat) (s.vreg x a.toNat) (l.getD 0 0) e) (fun s => ?_)
    fun s l e _ => ?_
  · rw [hexec, laneOp, fmtWidth_code]
    rfl
  · rw [State.noted_vreg]
    exact hg s _ e

/-! ### Transcendental functions (07 R154) -/

/-- A transcendental word whose elements are the values `g` of those of `va`, rounded into format `k`. -/
def transWord (sf : Bool) (d a : BitVec 4) (m : BitVec 5) (k : Nat) (g : Nat → FVal) : Spec.VecWord :=
  { sf := sf, modable := true, lat := 8, d := d.toNat, m := m, w := Spec.width k
    val := fun md st _ e => finishF md k .even st.me.ovf (g (Spec.el (Spec.vr st a.toNat) (Spec.width k) e)) }

theorem lanewise_transWord {k : Nat} {g : Nat → FVal} (h6 : 6 ≤ k) (h8 : k ≤ 8)
    (hexec : ∀ s, exec i s = issued (transWord sf d a m k g) (fun _ _ => false) (fun s x _ e =>
      finishF (x.stream s).pending k .even (x.stream s).ovf (g (velem (s.vreg x a.toNat) (Spec.width k) e))) s) :
    Lanewise i (transWord sf d a m k g) := by
  refine lanewise_of hexec fun s l e _ => ?_
  rw [State.noted_pending, State.noted_ovf, State.noted_vreg, velem_eq_el]
  exact Nat.mod_eq_of_lt (finishF_lt _ h6 h8 ..)

theorem lanewise_trans {w : Spec.VecWord} {f : FVal → FVal} (h : Spec.trans sf d a m t f = some w)
    (hexec : ∀ s, exec i s = transOp sf d a m t f s) : Lanewise i w := by
  unfold Spec.trans at h
  split_ifs at h with h6 h7
  · subst h6
    cases h
    exact lanewise_transWord (k := 6) (g := fun v => f (unpackIeee f32 v)) (by decide) (by decide) hexec
  · subst h7
    cases h
    exact lanewise_transWord (k := 7) (g := fun v => unpackIeee f32 (packIeee f32 .even false (f (unpackIeee bf16 v))))
      (by decide) (by decide) hexec

end

/-! ### Permutations, random bits and conversions -/

section
variable {sf : Bool} {d a : BitVec 4} {m : BitVec 5}

theorem velem_mod (v : Vec) (w e : Nat) : velem v w e % 2 ^ w = Spec.el v w e := by
  rw [velem_eq_el, Nat.mod_eq_of_lt (el_lt ..)]

theorem lanewise_vperm {w : Spec.VecWord} {b : BitVec 5} {t : BitVec 3}
    (h : Spec.vector (.vperm sf d a b m t) = some w) : Lanewise (.vperm sf d a b m t) w := by
  obtain ⟨hb, h⟩ := Option.ite_none_right_eq_some.1 h
  cases h
  refine lanewise_of (f := fun s x _ e => velem (s.vreg x a.toNat) (Spec.width t.toNat)
    (velem (s.vreg x b.toNat) (Spec.width t.toNat) e % (1024 / Spec.width t.toNat))) (fun s => ?_) fun s l e _ => ?_
  · rw [exec_vperm, execVperm, fmtWidth_code, decide_eq_false (show ¬ 16 ≤ b.toNat by omega)]
    rfl
  · rw [State.noted_vreg, State.noted_vreg, velem_mod, velem_eq_el]

theorem lanewise_vrng {w : Spec.VecWord} (h : Spec.vector (.vrng sf d m) = some w) : Lanewise (.vrng sf d m) w := by
  cases h
  refine ⟨fun s x => s.rngBad x, fun s x _ e => s.draw x e, fun s => exec_vrng .., fun s hh =>
    ⟨fun hb => State.noted_rngBad sf hh (hb rfl), fun l e _ => ?_⟩⟩
  dsimp only
  rw [State.noted_draw sf hh]
  exact Nat.mod_eq_of_lt (BitVec.isLt _)

end

end Sys2Proof.Machine
end

section
/-!
O22, `vcvt` (07 R148), and what the words that convert by blocks rest on: lists of blocks, and the scale codes of 03 R55,
which fit a byte.
-/

namespace Sys2Proof.Machine

/-! ### Lists of blocks -/

theorem getD_map_range {α : Type} (f : Nat → α) (d : α) {n e : Nat} (he : e < n) :
    ((List.range n).map f).getD e d = f e := by
  rw [List.getD_eq_getElem _ _ (by simpa using he)]
  simp

/-- An element of blocks of `n` put one after another. -/
theorem getD_flatten {α : Type} {n : Nat} (hn : 0 < n) {L : List (List α)} (hL : ∀ l ∈ L, l.length = n) (e : Nat)
    (d : α) : L.flatten.getD e d = (L.getD (e / n) []).getD (e % n) d := by
  induction L generalizing e with
  | nil => simp
  | cons l L ih =>
    have hl : l.length = n := hL l (by simp)
    rw [List.flatten_cons]
    obtain he | he := lt_or_ge e n
    · rw [List.getD_append _ _ _ _ (by omega), Nat.div_eq_of_lt he, Nat.mod_eq_of_lt he, List.getD_cons_zero]
    · obtain ⟨r, rfl⟩ : ∃ r, e = r + n := ⟨e - n, by omega⟩
      rw [List.getD_append_right _ _ _ _ (by omega), hl, Nat.add_sub_cancel, ih fun q hq => hL q (by simp [hq]),
        Nat.add_div_right _ hn, Nat.add_mod_right, List.getD_cons_succ]

theorem getD_chunks {α : Type} {n i k : Nat} {l : List α} (hi : i < k) (hl : n * i < l.length) :
    (chunks n k l).getD i [] = (l.drop (n * i)).take n := by
  induction k generalizing i l with
  | zero => omega
  | succ k ih =>
    cases l with
    | nil => simp at hl
    | cons x l =>
      cases i with
      | zero => rfl
      | succ i =>
        rw [chunks, List.getD_cons_succ, ih (by omega) (by rw [List.length_drop]; rw [Nat.mul_succ] at hl; omega),
          List.drop_drop, Nat.mul_succ, Nat.add_comm]
        simp

/-! ### `vcvt` (07 R148) -/

theorem convert_eq (md : Option ModWord) (r : Rnd) (ovf : Bool) {y x v : Nat} (hy : y ≤ 8) (hx : x ≤ 8)
    (hv : v < 2 ^ Spec.width y) : convert md r ovf y x v = Spec.converted md r ovf y x v := by
  have hround (f : FVal) : wrapBits (fmtWidth x) (f.toInt r (intRange x).1 (intRange x).2) =
      (BitVec.ofInt (Spec.width x) (if x < 3 then f.toInt r (-2 ^ (Spec.width x - 1)) (2 ^ (Spec.width x - 1) - 1)
        else f.toInt r 0 (2 ^ Spec.width x - 1))).toNat := by
    rw [wrapBits_eq, fmtWidth_eq (by omega), intRange, fmtSigned, fmtWidth_eq (by omega)]
    split_ifs <;> simp_all
  unfold convert Spec.converted
  simp only [hround]
  simp only [intOf_eq (show y < 10 by omega) hv, wrapBits_eq, fmtWidth_eq (show x < 10 by omega), fmtInt,
    decide_eq_true_eq]
  split
  · cases md with
    | none => rfl
    | some k =>
      have hidle : k.idle = true ↔ ¬ k.abs ∧ ¬ k.neg ∧ ¬ k.sat ∧ ¬ k.clamp ∧ k.sc = 0 := by
        simp [ModWord.idle, and_assoc]
      simp only [hidle]
      rfl
  · rfl

theorem converted_lt (md : Option ModWord) (r : Rnd) (ovf : Bool) {y x v : Nat} (hx : x ≤ 8) :
    Spec.converted md r ovf y x v < 2 ^ Spec.width x := by
  unfold Spec.converted
  split
  · cases md
    · dsimp only
      split <;> exact BitVec.isLt _
    · dsimp only
      split_ifs <;> exact BitVec.isLt _
  · exact finishF_lt _ (by omega) hx ..

/-- Element `e` of a `vcvt`, as the model computes it. -/
def cvtElem (a y : BitVec 4) (r : BitVec 1) (x : BitVec 4) (s : State) (c : Ctx) (e : Nat) : Nat :=
  if e < 1024 / max (Spec.width y.toNat) (Spec.width x.toNat) then
    convert (c.stream s).pending (if r = 1 then .sto (s.draw c e) else s.rnd c) (c.stream s).ovf y.toNat x.toNat
      (velem (s.vreg c a.toNat) (Spec.width y.toNat) e)
  else 0

/-- A word that draws only where SR is 1 looks at `ox7` only then (07 R149). -/
theorem rngBad_of_sr {s : State} {sf : Bool} {r : BitVec 1} (hh : s.cur.half ≠ .a)
    (hb : (r == 1) = true → (vget 0 s.my.regs.oxX 7).extractLsb' 48 16 = 0) :
    (r == 1 && (s.noted sf).rngBad s.ctx) = false := by
  by_cases h1 : r = 1
  · rw [State.noted_rngBad sf hh (hb (by simp [h1])), Bool.and_false]
  · rw [beq_false_of_ne h1, Bool.false_and]

theorem lanewise_vcvt {w : Spec.VecWord} {sf : Bool} {d a y x : BitVec 4} {r : BitVec 1} {m : BitVec 5}
    (h : Spec.vector (.vcvt sf d a y r m x) = some w) : Lanewise (.vcvt sf d a y r m x) w := by
  obtain ⟨⟨hy, hx, hne, hr⟩, h⟩ := Option.ite_none_right_eq_some.1 h
  cases h
  have hwy := fmtWidth_eq (show y.toNat < 10 by omega)
  have hwx := fmtWidth_eq (show x.toNat < 10 by omega)
  have hbad : vcvtBad y x r = false := by
    simpa [vcvtBad, hne, Nat.not_lt.2 hy, Nat.not_lt.2 hx] using hr
  refine ⟨fun s c => vcvtBad y x r || (r == 1 && s.rngBad c), fun s c _ => cvtElem a y r x s c, fun s => ?_,
    fun s hh => ⟨fun hb => ?_, fun l e _ => ?_⟩⟩
  · rw [exec_vcvt, execVcvt, hwy, hwx]
    rfl
  · dsimp only at hb ⊢
    rw [hbad, Bool.false_or, rngBad_of_sr hh hb]
  · dsimp only
    rw [cvtElem, State.noted_draw sf hh, State.noted_rnd, State.noted_pending, State.noted_ovf, State.noted_vreg,
      velem_eq_el, convert_eq _ _ _ hy hx (el_lt ..)]
    split
    · exact Nat.mod_eq_of_lt (converted_lt _ _ _ hx)
    · exact Nat.zero_mod _

/-! ### Scale codes (03 R55; 07 R150) -/

theorem bitLen_le {m k : Nat} (h : m < 2 ^ k) : bitLen m ≤ k := by
  by_contra hlt
  have hm : m ≠ 0 := by rintro rfl; simp [bitLen] at hlt
  exact absurd (two_pow_bitLen_le hm (by omega : k < bitLen m)) (by omega)

/-- A magnitude of FP32 or BF16 lies below 2^128. -/
theorem unpackIeee_top {f : Fmt} {b m : Nat} {n : Bool} {e : Int} (hp : 0 < f.p) (h : unpackIeee f b = .fin n m e) :
    e + bitLen m ≤ f.emin + f.p + 253 := by
  have hfrac : b % 2 ^ (f.p - 1) < 2 ^ (f.p - 1) := Nat.mod_lt _ (Nat.two_pow_pos _)
  have hpow : 2 ^ f.p = 2 * 2 ^ (f.p - 1) := by rw [← Nat.pow_succ']; congr 1; omega
  unfold unpackIeee at h
  dsimp only at h
  split_ifs at h with h255 h0 h0
  · obtain ⟨-, rfl, rfl⟩ := FVal.fin.inj h
    have := bitLen_le hfrac
    omega
  · obtain ⟨-, rfl, rfl⟩ := FVal.fin.inj h
    have := bitLen_le (show 2 ^ (f.p - 1) + b % 2 ^ (f.p - 1) < 2 ^ f.p by omega)
    omega

theorem valOf_top {t v m : Nat} {n : Bool} {e : Int} (ht : t = 6 ∨ t = 7) (h : valOf t v = .fin n m e) :
    e + bitLen m ≤ 128 := by
  rcases ht with rfl | rfl
  · exact unpackIeee_top (f := f32) (by decide) h
  · exact unpackIeee_top (f := bf16) (by decide) h

theorem maxMag_top {l : List FVal} (h : ∀ (n : Bool) (m : Nat) (e : Int), .fin n m e ∈ l → e + bitLen m ≤ 128) :
    (maxMag l).2 + bitLen (maxMag l).1 ≤ 128 := by
  unfold maxMag
  refine List.foldlRecOn l _ (motive := fun a : Nat × Int => a.2 + bitLen a.1 ≤ 128) (by decide) fun a ha v hv => ?_
  cases v with
  | fin n m e =>
    dsimp only
    split
    · exact h n m e hv
    · exact ha
  | _ => exact ha

/-- Six bits fewer than the magnitude has fit a greatest element of 64 or more. -/
theorem fitsScale_top {fmax m : Nat} (e0 : Int) (hf : 64 ≤ fmax) : fitsScale fmax m e0 (e0 + bitLen m - 6) = true := by
  have hm : m < 2 ^ bitLen m := by
    by_cases h : m = 0
    · simp [h]
    · exact lt_two_pow_bitLen h
  unfold fitsScale
  rw [decide_eq_true_eq]
  obtain h6 | h6 := le_total 6 (bitLen m)
  · rw [min_eq_left (by omega), show (e0 - e0).toNat = 0 by omega,
      show (e0 + bitLen m - 6 - e0).toNat = bitLen m - 6 by omega]
    calc m * 2 ^ 0 ≤ 2 ^ bitLen m := by omega
      _ = 2 ^ 6 * 2 ^ (bitLen m - 6) := by rw [← Nat.pow_add]; congr 1; omega
      _ ≤ fmax * 2 ^ (bitLen m - 6) := Nat.mul_le_mul_right _ hf
  · rw [min_eq_right (by omega), show (e0 - (e0 + bitLen m - 6)).toNat = 6 - bitLen m by omega, Int.sub_self]
    calc m * 2 ^ (6 - bitLen m) ≤ 2 ^ bitLen m * 2 ^ (6 - bitLen m) := Nat.mul_le_mul_right _ hm.le
      _ = 2 ^ 6 := by rw [← Nat.pow_add]; congr 1; omega
      _ ≤ fmax * 2 ^ 0 := by omega

theorem scaleExp_le {fmax m : Nat} {e0 : Int} (hf : 64 ≤ fmax) (h : e0 + bitLen m ≤ 128) :
    scaleExp fmax m e0 ≤ 122 := by
  have hlo : e0 + bitLen m - 10 + Int.ofNat 4 = e0 + bitLen m - 6 := by norm_num; ring
  unfold scaleExp
  dsimp only
  refine max_le ?_ (by decide)
  split
  · next i hi =>
    obtain ⟨-, -, hfirst⟩ := List.find?_range_eq_some.1 hi
    have h4 : i ≤ 4 := by
      by_contra hlt
      have := hfirst 4 (by omega)
      rw [hlo, fitsScale_top e0 hf] at this
      cases this
    rw [Int.ofNat_eq_natCast]
    show (e0 + bitLen m - 10 + i : Int) ≤ 122
    omega
  · show (e0 + bitLen m - 10 : Int) ≤ 122
    omega

end Sys2Proof.Machine
end

section
/-!
O22, the words that convert a register by blocks of sixteen (07 R150, R151), and the statement.
-/

namespace Sys2Proof.Machine

/-! ### `vscl` (07 R150) -/

section
variable (bpn ovf : Bool) (rnd : Nat → Rnd) (l : List FVal)

theorem length_scaleBlock : (scaleBlock bpn ovf rnd l).2.length = l.length := by
  unfold scaleBlock
  dsimp only
  split_ifs <;> simp

theorem scaleBlock_elem_lt {x : Nat} (hx : x ∈ (scaleBlock bpn ovf rnd l).2) : x < 256 := by
  unfold scaleBlock at hx
  dsimp only at hx
  split at hx
  · obtain ⟨-, -, rfl⟩ := List.mem_map.1 hx
    split <;> decide
  · split at hx
    · obtain ⟨-, -, rfl⟩ := List.mem_map.1 hx
      decide
    · obtain ⟨p, -, rfl⟩ := List.mem_map.1 hx
      split
      · exact wrapBits_lt 8 _
      · exact packE4m3_lt ..

theorem scaleBlock_code_lt (h : ∀ (n : Bool) (m : Nat) (e : Int), .fin n m e ∈ l → e + bitLen m ≤ 128) :
    (scaleBlock bpn ovf rnd l).1 < 256 := by
  have hfmax : 64 ≤ if bpn then 127 else 480 := by split <;> decide
  have hexp := scaleExp_le hfmax (maxMag_top h)
  unfold scaleBlock
  dsimp only
  split
  · exact (by decide : 0xFF < 256)
  · split
    · exact (by decide : 0 < 256)
    · dsimp only
      omega

end

/-- A byte of a register that `vscl` writes: the blocks' elements, their codes, and zeros. -/
theorem getD_scaled (block : Nat → Nat × List Nat) (hlen : ∀ b, (block b).2.length = 16) (k e : Nat) :
    ((((List.range k).map block).map (·.2)).flatten ++ ((List.range k).map block).map (·.1)).getD e 0 =
      if e < 16 * k then (block (e / 16)).2.getD (e % 16) 0
      else if e < 16 * k + k then (block (e - 16 * k)).1 else 0 := by
  rw [List.map_map, List.map_map]
  have hL : ∀ q ∈ (List.range k).map ((·.2) ∘ block), q.length = 16 := by
    intro q hq
    obtain ⟨b, -, rfl⟩ := List.mem_map.1 hq
    exact hlen b
  have hflat : ((List.range k).map ((·.2) ∘ block)).flatten.length = 16 * k := by
    rw [List.length_flatten, List.map_congr_left hL, List.map_const', List.sum_replicate, List.length_map,
      List.length_range, smul_eq_mul, Nat.mul_comm]
  split
  · next he =>
    rw [List.getD_append _ _ _ _ (by omega), getD_flatten (by decide) hL, getD_map_range _ _ (by omega)]
    rfl
  · rw [List.getD_append_right _ _ _ _ (by omega), hflat]
    split
    · rw [getD_map_range _ _ (by omega)]
      rfl
    · exact List.getD_eq_default _ _ (by simp; omega)

section
variable {sf : Bool} {d a y x : BitVec 4} {r : BitVec 1} {m : BitVec 5}

/-- Block `b` of a register that `vscl` converts. -/
def sclBlock (a y : BitVec 4) (r : BitVec 1) (x : BitVec 4) (s : State) (c : Ctx) (b : Nat) : Nat × List Nat :=
  scaleBlock (x == 9) (c.stream s).ovf (fun i => if r = 1 then .sto (s.draw c (16 * b + i)) else s.rnd c)
    ((List.range 16).map fun i => valOf y.toNat (velem (s.vreg c a.toNat) (fmtWidth y.toNat) (16 * b + i)))

/-- Byte `e` of a `vscl`, as the model computes it: the blocks' elements, then their codes. -/
def sclElem (a y : BitVec 4) (r : BitVec 1) (x : BitVec 4) (s : State) (c : Ctx) (e : Nat) : Nat :=
  let blocks := (List.range (1024 / fmtWidth y.toNat / 16)).map (sclBlock a y r x s c)
  ((blocks.map (·.2)).flatten ++ blocks.map (·.1)).getD e 0

theorem length_sclBlock (s : State) (c : Ctx) (b : Nat) : (sclBlock a y r x s c b).2.length = 16 := by
  rw [sclBlock, length_scaleBlock]
  simp

theorem sclBlock_elem_lt (s : State) (c : Ctx) (b i : Nat) : (sclBlock a y r x s c b).2.getD i 0 < 256 := by
  obtain h | h := lt_or_ge i (sclBlock a y r x s c b).2.length
  · rw [List.getD_eq_getElem _ _ h]
    exact scaleBlock_elem_lt _ _ _ _ (List.getElem_mem h)
  · rw [List.getD_eq_default _ _ h]
    decide

theorem sclBlock_code_lt (hy : y = 6 ∨ y = 7) (s : State) (c : Ctx) (b : Nat) : (sclBlock a y r x s c b).1 < 256 := by
  refine scaleBlock_code_lt _ _ _ _ fun n m e hmem => ?_
  obtain ⟨i, -, hi⟩ := List.mem_map.1 hmem
  refine valOf_top ?_ hi
  rcases hy with rfl | rfl <;> decide

theorem lanewise_vscl {w : Spec.VecWord} (h : Spec.vector (.vscl sf d a y r m x) = some w) :
    Lanewise (.vscl sf d a y r m x) w := by
  obtain ⟨⟨hy, hx⟩, h⟩ := Option.ite_none_right_eq_some.1 h
  cases h
  have hwy : fmtWidth y.toNat = Spec.width y.toNat := fmtWidth_eq (by rcases hy with rfl | rfl <;> decide)
  have hbad : (!(y == 6 || y == 7) || !(x == 8 || x == 9)) = false := by
    rcases hy with rfl | rfl <;> rcases hx with rfl | rfl <;> rfl
  have hn : 16 * (1024 / Spec.width y.toNat / 16) = 1024 / Spec.width y.toNat := by rcases hy with rfl | rfl <;> rfl
  refine ⟨fun s c => (!(y == 6 || y == 7) || !(x == 8 || x == 9)) || (r == 1 && s.rngBad c),
    fun s c _ => sclElem a y r x s c, fun s => exec_vscl .., fun s hh => ⟨fun hb => ?_, fun l e _ => ?_⟩⟩
  · dsimp only at hb ⊢
    rw [hbad, Bool.false_or, rngBad_of_sr hh hb]
  · dsimp only
    rw [sclElem, getD_scaled _ (length_sclBlock _ _), hwy, hn]
    have hblock (b : Nat) : sclBlock a y r x (s.noted sf) s.ctx b = scaleBlock (x == 9) s.me.ovf
        (fun i => if r = 1 then .sto (Spec.draw s (16 * b + i)) else Spec.rnd s)
        ((List.range 16).map fun i =>
          valOf y.toNat (Spec.el (Spec.vr s a.toNat) (Spec.width y.toNat) (16 * b + i))) := by
      simp only [sclBlock, State.noted_draw sf hh, State.noted_rnd, State.noted_ovf, State.noted_vreg, velem_eq_el, hwy]
    simp only [← hblock]
    split
    · exact Nat.mod_eq_of_lt (sclBlock_elem_lt ..)
    · split
      · exact Nat.mod_eq_of_lt (sclBlock_code_lt hy ..)
      · rfl

end

/-! ### Bit planes (03 R52; 07 R151) -/

/-- Bit `i` of byte `j` of a register. -/
theorem bitAt_byte (v : Vec) {i j : Nat} (hi : i < 8) :
    bitAt (BitVec.ofNat 8 (velem v 8 j)).toNat i = v.getLsbD (8 * j + i) := by
  rw [velem_eq_el, Spec.el, BitVec.ofNat_toNat, BitVec.setWidth_eq, bitAt_eq_testBit, BitVec.testBit_toNat,
    BitVec.getLsbD_extractLsb', decide_eq_true hi, Bool.true_and]

theorem ite_pow_eq (c : Bool) (n : Nat) : (if c then 2 ^ n else 0) = c.toNat * 2 ^ n := by
  cases c <;> simp

theorem foldl_add_bits (g : Nat → Bool) (p : Nat → Nat) (l : List Nat) :
    l.foldl (fun a i => a + (if g i then 2 ^ p i else 0)) 0 = (l.map fun i => (g i).toNat * 2 ^ p i).sum := by
  rw [List.sum_eq_foldl, List.foldl_map]
  simp only [ite_pow_eq]

/-- Eight bits of a byte, each at its own place, as the sum that the rule writes. -/
theorem foldl_bits {g : Nat → Bool} {h p : Nat → Nat} (hg : ∀ i < 8, (g i).toNat = h i)
    (hp : ((List.range 8).map fun i => 2 ^ p i).sum < 256) :
    (BitVec.ofNat 8 ((List.range 8).foldl (fun a i => a + (if g i then 2 ^ p i else 0)) 0)).toNat =
      ((List.range 8).map fun i => h i * 2 ^ p i).sum := by
  have hterm : (List.range 8).map (fun i => (g i).toNat * 2 ^ p i) = (List.range 8).map fun i => h i * 2 ^ p i :=
    List.map_congr_left fun i hi => by rw [hg i (List.mem_range.1 hi)]
  have hle : ((List.range 8).map fun i => (g i).toNat * 2 ^ p i).sum ≤ ((List.range 8).map fun i => 2 ^ p i).sum :=
    List.sum_le_sum fun i _ => (Nat.mul_le_mul_right _ (Bool.toNat_le _)).trans_eq (Nat.one_mul _)
  rw [foldl_add_bits, toNat_ofNat_of_lt (by omega), hterm]

/-- The 128 bytes of a register. -/
def vecBytes (v : Vec) : List Byte := (List.range 128).map fun e => BitVec.ofNat 8 (velem v 8 e)

/-- Block `b` of sixteen of them. -/
def byteBlock (v : Vec) (b : Nat) : List Byte := ((vecBytes v).drop (16 * b)).take 16

/-- A byte that a conversion by blocks of sixteen gives. -/
theorem getD_blocks {f : List Byte → List Byte} (hf : ∀ l, (f l).length = 16) (v : Vec) {e : Nat} (he : e < 128) :
    ((chunks 16 8 (vecBytes v)).map f).flatten.getD e 0 = (f (byteBlock v (e / 16))).getD (e % 16) 0 := by
  have hlen : (vecBytes v).length = 128 := by simp [vecBytes]
  have hmem : e / 16 < (chunks 16 8 (vecBytes v)).length := by
    have : (chunks 16 8 (vecBytes v)).length = 8 := rfl
    omega
  rw [getD_flatten (n := 16) (by decide) (by simp [hf]), List.getD_eq_getElem _ [] (by simpa using hmem),
    List.getElem_map, ← List.getD_eq_getElem _ [] hmem, getD_chunks (by omega) (by omega), byteBlock]

theorem getD_byteBlock (v : Vec) {b i : Nat} (hb : b < 8) (hi : i < 16) :
    (byteBlock v b).getD i 0 = BitVec.ofNat 8 (velem v 8 (16 * b + i)) := by
  rw [byteBlock, List.getD_eq_getElem?_getD, List.getElem?_take_of_lt hi, List.getElem?_drop, ← List.getD_eq_getElem?_getD,
    vecBytes, getD_map_range _ _ (by omega)]

section
variable {sf : Bool} {d a : BitVec 4} {m : BitVec 5}

theorem lanewise_planes {i : Instr} {f : Nat → List Byte → List Byte} {g : State → Nat → Nat}
    (hexec : ∀ s, exec i s = planeOp sf d a m f s) (hlen : ∀ l, (f 16 l).length = 16)
    (hg : ∀ s, ∀ e < 128, ((f 16 (byteBlock (Spec.vr s a.toNat) (e / 16))).getD (e % 16) 0).toNat = g s e) :
    Lanewise i
      { sf := sf, modable := false, lat := 3, d := d.toNat, m := m, w := 8, val := fun _ st _ e => g st e } := by
  refine lanewise_of
    (f := fun s x _ e => (((chunks 16 8 (vecBytes (s.vreg x a.toNat))).map (f 16)).flatten.getD e 0).toNat)
    (fun s => hexec s) fun s l e he => ?_
  dsimp only at he ⊢
  rw [State.noted_vreg, getD_blocks hlen _ he, ← hg s e he]
  exact Nat.mod_eq_of_lt (BitVec.isLt _)

theorem lanewise_vbpk {w : Spec.VecWord} (h : Spec.vector (.vbpk sf d a m) = some w) : Lanewise (.vbpk sf d a m) w := by
  cases h
  refine lanewise_planes (fun s => exec_vbpk ..) (by simp [toPlanes]) fun s e he => ?_
  have ho : e % 16 < 16 := by omega
  rw [toPlanes, getD_map_range _ _ ho]
  refine foldl_bits (fun i hi => ?_) (by decide)
  have hj : e % 16 % (16 / 8) = e % 2 := by omega
  rw [hj, getD_byteBlock _ (by omega) (by omega), bitAt_byte _ (by omega), Spec.bit]
  congr 2
  omega

theorem lanewise_vbupk {w : Spec.VecWord} (h : Spec.vector (.vbupk sf d a m) = some w) :
    Lanewise (.vbupk sf d a m) w := by
  cases h
  refine lanewise_planes (fun s => exec_vbupk ..) (by simp [unplane]) fun s e he => ?_
  have ho : e % 16 < 16 := by omega
  rw [unplane, getD_map_range _ _ ho]
  refine foldl_bits (fun p hp => ?_) (by decide)
  rw [getD_byteBlock _ (by omega) (by omega), bitAt_byte _ (by omega), Spec.bit]
  congr 2
  omega

end

/-! ### The statement -/

section
variable {i : Instr} {w : Spec.VecWord} {sf : Bool} {d a : BitVec 4} {b m : BitVec 5} {t : BitVec 3}

/-- An arithmetic word of 07 R139 that takes a vector in b5. -/
theorem lanewise_arith_b {ord : Bool} {regs : List Nat} {fi fi' : List Int → Int} {ff : Rnd → List FVal → FVal}
    (h : (if b.toNat < 16 then some (Spec.arith sf d m t regs fi' ff ord) else none) = some w)
    (hexec : ∀ s, exec i s = elemOp sf (16 ≤ b.toNat) ord d regs m t.toNat fi ff s) (hfi : ∀ l, fi l = fi' l) :
    Lanewise i w := by
  obtain ⟨hb, h⟩ := Option.ite_none_right_eq_some.1 h
  cases h
  exact lanewise_arith hexec (decide_eq_false (by omega)) hfi fun _ _ => rfl

/-- A fused word (07 R140), which takes only floating-point codes. -/
theorem lanewise_fused {regs : List Nat} {ff ff' : Rnd → List FVal → FVal}
    (h : (if b.toNat < 16 ∧ 6 ≤ t.toNat then some (Spec.arith sf d m t regs (fun _ => 0) ff') else none) = some w)
    (hexec : ∀ s, exec i s = elemOp sf (16 ≤ b.toNat || t.toNat < 6) false d regs m t.toNat (fun _ => 0) ff s)
    (hff : ∀ r l, ff r l = ff' r l) : Lanewise i w := by
  obtain ⟨⟨hb, ht⟩, h⟩ := Option.ite_none_right_eq_some.1 h
  cases h
  exact lanewise_arith hexec (by simp; omega) (fun _ => rfl) hff

/-- A logic or shift word (07 R141), which takes only integer codes. -/
theorem lanewise_logic {g : Nat → Nat → Nat → Nat} {f : (n : Nat) → BitVec n → BitVec n → BitVec n}
    (h : (if 6 ≤ t.toNat then none else Spec.bits sf d a b m t f) = some w)
    (hexec : ∀ s, exec i s = bitOp sf (6 ≤ t.toNat) d a b m t g s)
    (hg : ∀ n, 0 < n → ∀ p q : BitVec n, g n p.toNat q.toNat = (f n p q).toNat) : Lanewise i w := by
  obtain ⟨ht, h⟩ := Option.ite_none_left_eq_some.1 h
  exact lanewise_bits h hexec (decide_eq_false ht) (hg _ (width_pos (by omega)))

theorem lanewise_of_vector (h : Spec.vector i = some w) : Lanewise i w := by
  cases i with
  | vadd => exact lanewise_arith_b h (fun _ => exec_vadd ..) fun _ => rfl
  | vsub => exact lanewise_arith_b h (fun _ => exec_vsub ..) fun _ => rfl
  | vmul => exact lanewise_arith_b h (fun _ => exec_vmul ..) fun _ => rfl
  | vmin => exact lanewise_arith_b h (fun _ => exec_vmin ..) fun _ => rfl
  | vmax => exact lanewise_arith_b h (fun _ => exec_vmax ..) fun _ => rfl
  | vabs => cases h; exact lanewise_arith (fun _ => exec_vabs ..) rfl (fun _ => absElem_eq _) fun _ _ => rfl
  | vneg => cases h; exact lanewise_arith (fun _ => exec_vneg ..) rfl (fun _ => rfl) fun _ _ => rfl
  | vfma => exact lanewise_fused h (fun _ => exec_vfma ..) fun _ _ => rfl
  | vfms => exact lanewise_fused h (fun _ => exec_vfms ..) fun _ _ => rfl
  | vfnma => exact lanewise_fused h (fun _ => exec_vfnma ..) fun r l => congrArg (FVal.add r · _) (FVal.neg_mul ..)
  | vand => exact lanewise_logic h (fun _ => exec_vand ..) fun n _ p q => by rw [bv_toNat, bv_toNat]
  | vor => exact lanewise_logic h (fun _ => exec_vor ..) fun n _ p q => by rw [bv_toNat, bv_toNat]
  | vxor => exact lanewise_logic h (fun _ => exec_vxor ..) fun n _ p q => by rw [bv_toNat, bv_toNat]
  | vandn => exact lanewise_logic h (fun _ => exec_vandn ..) fun n _ p q => by rw [bv_toNat, bv_toNat]
  | vshl => exact lanewise_logic h (fun _ => exec_vshl ..) fun n _ => toNat_shl_elem
  | vshr => exact lanewise_logic h (fun _ => exec_vshr ..) fun n _ => toNat_shr_elem
  | vsra => exact lanewise_logic h (fun _ => exec_vsra ..) fun n hn p q => toNat_sra_elem p q hn
  | vcmpEq => exact lanewise_cmp (fun _ => exec_vcmpEq ..) h
  | vcmpNe => exact lanewise_cmp (fun _ => exec_vcmpNe ..) h
  | vcmpLt => exact lanewise_cmp (fun _ => exec_vcmpLt ..) h
  | vcmpLe => exact lanewise_cmp (fun _ => exec_vcmpLe ..) h
  | vperm => exact lanewise_vperm h
  | vbcast => cases h; exact lanewise_move (fun _ => exec_vbcast ..) fun _ _ _ => velem_mod ..
  | vslide sf d a b m t =>
    cases h
    refine lanewise_move (fun _ => exec_vslide ..) fun s r e => ?_
    dsimp only
    split
    · exact velem_mod ..
    · exact Nat.zero_mod _
  | vsplat => cases h; exact lanewise_move (fun _ => exec_vsplat ..) fun _ _ _ => rfl
  | vrcp => exact lanewise_trans h fun _ => exec_vrcp ..
  | vrsq => exact lanewise_trans h fun _ => exec_vrsq ..
  | vexp2 => exact lanewise_trans h fun _ => exec_vexp2 ..
  | vlog2 => exact lanewise_trans h fun _ => exec_vlog2 ..
  | vrng => exact lanewise_vrng h
  | vcvt => exact lanewise_vcvt h
  | vscl => exact lanewise_vscl h
  | vbpk => exact lanewise_vbpk h
  | vbupk => exact lanewise_vbupk h
  | _ => cases h

end

/-- Settles O22: every word is issued as its description says, and its elements are the rule's, family by family. -/
theorem vectorResults : Obligations.VectorResults := by
  intro i w md s s' l hw hr hmod hl hm hb hg
  exact exec_of_lanewise (lanewise_of_vector hw) hr hmod hl hm hb hg

end Sys2Proof.Machine
end

section
/-!
O24 (07 R144 to R146): the vector words with a scalar result.

The sum of the bits that `vmsk` sets is the rule's list of bits (`toNat_ofBoolListLE_range`). The levels of the model's
tree keep what a left fold of an exact integer operation gives (`redTree_foldl`), and on values they are the levels that the
rule writes on bits (`tree_eq_redTree`).
-/

namespace Sys2Proof.Machine

/-! ### Scalars -/

theorem scalarBits_eq {t : Nat} (ht : t < 10) (v : Nat) : scalarBits t v = Spec.scalarOf t v := by
  unfold scalarBits Spec.scalarOf
  rw [fmtWidth_eq ht, toWord_sval v (width_pos ht)]
  simp [fmtSigned]

/-- What O24 asks of a word with a scalar result. -/
def ScalarWord (i : Instr) (w : Spec.ScalarVec) : Prop :=
  ∀ (md : Option ModWord) (s s' : State) (l : List Word), Spec.ready s w.sf md → (md ≠ none → w.modable = true) →
    s.legalX w.lat [] [w.dst] → w.m.toNat < 24 → s.gives w.sf w.dst (if w.m = 16 then [] else [w.m.toNat]) s' l →
    exec i s = .next ((s'.put s.ctx w.lat w.dst
      (w.val md s (if w.m = 16 then none else some (l.getD 0 0)))).went s.ctx w.sf .seq)

section
variable {s s' : State} {sf : Bool} {b m : BitVec 5} {l : List Word} {lat : Nat} {v : Word}

/-- A vector word whose body delivers a scalar. -/
theorem issueWord_scalar {bad modable : Bool} {md : Option ModWord} {body : State → Ctx → Res}
    (hr : Spec.ready s sf md) (hmod : md ≠ none → modable = true) (hl : s.legalX lat [] [b.toNat]) (hb : bad = false)
    (hm : m.toNat < 24) (hbody : body (s.noted sf) s.ctx = .ok (s'.put s.ctx lat b.toNat v) .seq) :
    issueWord sf .x modable (vecPre bad m lat [] [b.toNat]) body s =
      .next ((s'.put s.ctx lat b.toNat v).went s.ctx sf .seq) :=
  issueWord_ready hr hmod hl.1 (vecPre_ok hl hb hm) hbody

/-- What a word with a scalar result makes of its mask, where it can be read. -/
theorem scalarOut_gives {f : BitVec 32 → Word} (hl : s.legalX lat [] [b.toNat]) (hlat : 1 < lat)
    (hg : s.gives sf b.toNat (if m = 16 then [] else [m.toNat]) s' l)
    (hv : f (if m = 16 then BitVec.allOnes 32 else (l.getD 0 0).setWidth 32) = v) :
    scalarOut lat b m f (s.noted sf) s.ctx = .ok (s'.put s.ctx lat b.toNat v) .seq := by
  subst hv
  rw [scalarOut, maskSrc, sources_of_gives hg]
  exact deliver_takes (takes_of_late hl hlat)

/-- The mask of the rule is that of the model (02 R27). -/
theorem isOn_eq {w e : Nat} (he : e < 1024 / w) (l : List Word) :
    Spec.isOn (if m = 16 then none else some (l.getD 0 0)) w e =
      active (if m = 16 then BitVec.allOnes 32 else (l.getD 0 0).setWidth 32) w e := by
  have hlane : w * e / 32 < 32 := by
    have hw : 0 < w := Nat.pos_of_ne_zero (by rintro rfl; simp at he)
    have := elem_end_le he
    omega
  rw [active_eq, Spec.isOn]
  split
  · rw [BitVec.getLsbD_allOnes, decide_eq_true hlane]
    rfl
  · rw [BitVec.getLsbD_setWidth, decide_eq_true hlane, Bool.true_and]
    rfl

end

/-! ### `vmsk` (07 R144) -/

/-- The number that bits make, lowest first. -/
theorem toNat_ofBoolListLE_range (g : Nat → Bool) (n : Nat) :
    (BitVec.ofBoolListLE ((List.range n).map g)).toNat = ((List.range n).map fun e => (g e).toNat * 2 ^ e).sum := by
  induction n generalizing g with
  | zero => rfl
  | succ n ih =>
    have hshift : (List.range n).map ((fun e => (g e).toNat * 2 ^ e) ∘ Nat.succ) =
        (List.range n).map fun e => 2 * ((g (e + 1)).toNat * 2 ^ e) :=
      List.map_congr_left fun e _ => by simp only [Function.comp_apply, Nat.succ_eq_add_one, Nat.pow_succ]; ring
    rw [List.range_succ_eq_map, List.map_cons, List.map_cons, List.map_map, List.map_map, List.sum_cons, hshift,
      List.sum_map_mul_left, ← ih fun e => g (e + 1)]
    exact (BitVec.toNat_concat ..).trans (by rw [Nat.pow_zero, Nat.mul_one, Nat.add_comm, Nat.mul_comm]; rfl)

theorem scalarWord_vmsk {sf : Bool} {a : BitVec 4} {b m : BitVec 5} {t : BitVec 3} {w : Spec.ScalarVec}
    (h : Spec.scalarVec (.vmsk sf a b m t) = some w) : ScalarWord (.vmsk sf a b m t) w := by
  intro md s s' l hr hmod hl hm hg
  obtain ⟨ht, h⟩ := Option.ite_none_right_eq_some.1 h
  cases h
  have hbad : (!(t == 0 || t == 1 || t == 3 || t == 4)) = false := by rcases ht with rfl | rfl | rfl | rfl <;> rfl
  refine issueWord_scalar hr hmod hl hbad hm (scalarOut_gives hl (by decide) hg ?_)
  dsimp only
  rw [State.noted_vreg, fmtWidth_code, foldl_add_bits]
  apply BitVec.eq_of_toNat_eq
  rw [BitVec.toNat_ofNat, BitVec.toNat_setWidth, toNat_ofBoolListLE_range]
  congr 2
  refine List.map_congr_left fun e he => ?_
  rw [isOn_eq (List.mem_range.1 he), velem_eq_el]

/-! ### `vext` (07 R145) -/

theorem scalarWord_vext {sf : Bool} {a : BitVec 4} {b m : BitVec 5} {t : BitVec 3} {w : Spec.ScalarVec}
    (h : Spec.scalarVec (.vext sf a b m t) = some w) : ScalarWord (.vext sf a b m t) w := by
  intro md s s' l hr hmod hl hm hg
  cases h
  have hindex : (arg l 0).toNat = ((if m = 16 then none else some (l.getD 0 0)).map (·.toNat)).getD 0 := by
    split
    · next h16 =>
      have hlen := length_of_gives hg
      rw [if_pos h16] at hlen
      rw [List.length_eq_zero_iff.1 hlen]
      rfl
    · rfl
  refine issueWord_scalar hr hmod hl rfl hm ?_
  dsimp only at hl ⊢
  rw [maskSrc, regOp_gives hg (takes_of_late hl (by decide)), State.noted_vreg, fmtWidth_code,
    scalarBits_eq (by omega), velem_eq_el, hindex]

/-! ### Trees (07 R146) -/

section
variable {α : Type} {op : α → α → α}

theorem length_redLevel (l : List α) : (redLevel op l).length = (l.length + 1) / 2 := by
  induction l using redLevel.induct with
  | case1 a b r ih => simp only [redLevel, List.length_cons, ih]; omega
  | case2 l h =>
    match l, h with
    | [], _ => simp [redLevel]
    | [_], _ => simp [redLevel]
    | a :: b :: r, h => exact absurd rfl (h a b r)

theorem length_redTree {n : Nat} {l : List α} (h2 : 2 ≤ l.length) (hn : l.length ≤ 2 ^ (n + 1)) :
    (redTree op n l).length = 2 := by
  induction n generalizing l with
  | zero => exact le_antisymm hn h2
  | succ n ih =>
    rw [redTree]
    split
    · omega
    · exact ih (by rw [length_redLevel]; omega) (by rw [length_redLevel]; rw [Nat.pow_succ] at hn; omega)

theorem redLevel_foldl [Std.Associative op] (acc : α) (l : List α) : (redLevel op l).foldl op acc = l.foldl op acc := by
  induction l using redLevel.induct generalizing acc with
  | case1 a b r ih => rw [redLevel, List.foldl_cons, ih, ← Std.Associative.assoc (op := op)]; rfl
  | case2 l h => rw [redLevel]; exact h

/-- The tree of an exact operation keeps what a left fold gives. -/
theorem redTree_foldl [Std.Associative op] (n : Nat) (v : α) (r : List α) :
    ∃ v' r', redTree op n (v :: r) = v' :: r' ∧ r'.foldl op v' = r.foldl op v := by
  induction n generalizing v r with
  | zero => exact ⟨v, r, rfl, rfl⟩
  | succ n ih =>
    rw [redTree]
    split
    · exact ⟨v, r, rfl, rfl⟩
    · cases r with
      | nil => exact ih v []
      | cons u r =>
        obtain ⟨v', r', htree, hfold⟩ := ih (op v u) (redLevel op r)
        exact ⟨v', r', htree, hfold.trans (redLevel_foldl ..)⟩

end

theorem redTree_int {fi : Int → Int → Int} [Std.Associative fi] {v : Int} {r : List Int} (h1 : 1 ≤ r.length)
    (hr : r.length < 512) : ∃ p q, redTree fi 8 (v :: r) = [p, q] ∧ fi p q = r.foldl fi v := by
  obtain ⟨p, r', htree, hfold⟩ := redTree_foldl (op := fi) 8 v r
  have hlen := length_redTree (op := fi) (n := 8) (l := v :: r) (by simp; omega) (by simp; omega)
  rw [htree] at hlen
  obtain ⟨q, rfl⟩ := List.length_eq_one_iff.1 (Nat.succ.inj hlen)
  exact ⟨p, q, htree, hfold⟩

section
variable {md : Option ModWord} {t : Nat} {r : Rnd} {ovf : Bool} {f : FVal → FVal → FVal}

theorem pairs_eq_redLevel (g : Nat → Nat → Nat) (l : List Nat) : Spec.pairs g l = redLevel g l := by
  induction l using redLevel.induct with
  | case1 a b r ih => rw [Spec.pairs, redLevel, ih]
  | case2 l h => rw [Spec.pairs, redLevel] <;> exact h

theorem redLevel_valOf (l : List Nat) :
    redLevel (fun p q => valOf t (finishF none t r ovf (f p q))) (l.map (valOf t)) =
      (Spec.pairs (fun p q => finishF none t r ovf (f (valOf t p) (valOf t q))) l).map (valOf t) := by
  induction l using Spec.pairs.induct with
  | case1 p q l ih => simp only [List.map_cons, redLevel, Spec.pairs, ih]
  | case2 l h =>
    match l, h with
    | [], _ => rfl
    | [_], _ => rfl
    | a :: b :: l, h => exact absurd rfl (h a b l)

/-- The rule's tree on bits and the model's on values end in the same pair. -/
theorem tree_eq_redTree {n k : Nat} {l : List Nat} (hk : n ≤ k) (h2 : 2 ≤ l.length) (hn : l.length ≤ 2 ^ (n + 1)) :
    ∃ p q, redTree (fun p q => valOf t (finishF none t r ovf (f p q))) k (l.map (valOf t)) = [p, q] ∧
      Spec.tree md t r ovf f n l = finishF md t r ovf (f p q) := by
  induction n generalizing k l with
  | zero =>
    obtain ⟨p, q, rfl⟩ := List.length_eq_two.1 (le_antisymm hn h2)
    exact ⟨_, _, by cases k <;> rfl, rfl⟩
  | succ n ih =>
    obtain ⟨k, rfl⟩ : ∃ j, k = j + 1 := ⟨k - 1, by omega⟩
    match l, h2 with
    | [p, q], _ => exact ⟨_, _, rfl, rfl⟩
    | p :: q :: x :: l, _ =>
      have hlen (g : Nat → Nat → Nat) : (Spec.pairs g (p :: q :: x :: l)).length = (l.length + 4) / 2 := by
        rw [pairs_eq_redLevel, length_redLevel]
        rfl
      obtain ⟨u, v, htree, hval⟩ := ih (k := k)
        (l := Spec.pairs (fun p q => finishF none t r ovf (f (valOf t p) (valOf t q))) (p :: q :: x :: l)) (by omega)
        (by rw [hlen]; omega) (by rw [hlen]; simp only [List.length_cons, Nat.pow_succ] at hn ⊢; omega)
      refine ⟨u, v, ?_, hval⟩
      rw [← htree, ← redLevel_valOf]
      rfl

end

end Sys2Proof.Machine
end

section
/-!
O24: reductions (07 R146), the words that write lanes (07 R143, R145, R152), and the statement.
-/

namespace Sys2Proof.Machine

/-! ### Reductions (07 R146) -/

/-- An element's integer, wrapped to the element's width, is the element. -/
theorem finInt_int {t v : Nat} (hv : v < 2 ^ Spec.width t) : Spec.finInt none t (Spec.int t v) = v := by
  have hint : BitVec.ofInt (Spec.width t) (Spec.int t v) = BitVec.ofNat (Spec.width t) v := by
    unfold Spec.int
    split
    · rw [BitVec.ofInt_toInt]
    · rw [BitVec.ofInt_natCast]
  rw [Spec.finInt, hint, toNat_ofNat_of_lt hv]

/-- What 07 R146 makes of the active elements: the exact integer result, or the tree. -/
def redBits (md : Option ModWord) (r : Rnd) (ovf : Bool) (t : Nat) (fi : Int → Int → Int) (ff : FVal → FVal → FVal)
    (l : List Nat) : Nat :=
  if t < 6 then
    match l.map (Spec.int t) with
    | [] => 0
    | v :: q => Spec.finInt md t (q.foldl fi v)
  else Spec.tree md t r ovf ff 6 l

section
variable {md : Option ModWord} {r : Rnd} {ovf : Bool} {t : Nat} {fi : Int → Int → Int} {ff : FVal → FVal → FVal}

theorem reduce_one (ht : t < 8) {v : Nat} (hv : v < 2 ^ Spec.width t) :
    reduce md r ovf t fi ff [v] = redBits md r ovf t fi ff [v] := by
  have hi : intOf t v = Spec.int t v := intOf_eq (by omega) hv
  by_cases h6 : t < 6
  · cases md with
    | none => simp [reduce, redBits, h6, finInt_int hv]
    | some m => simp [reduce, reduceOne, redBits, fmtInt, h6, hi, finishInt_eq_finInt (some m) (show t < 10 by omega)]
  · cases md with
    | none => simp [reduce, redBits, h6, Spec.tree]
    | some m => simp [reduce, reduceOne, redBits, fmtInt, h6, Spec.tree]

theorem reduce_many [Std.Associative fi] (ht : t < 8) {u v : Nat} {l : List Nat}
    (hl : ∀ x ∈ u :: v :: l, x < 2 ^ Spec.width t) (hlen : l.length ≤ 126) :
    reduce md r ovf t fi ff (u :: v :: l) = redBits md r ovf t fi ff (u :: v :: l) := by
  by_cases h6 : t < 6
  · have hints : (u :: v :: l).map (intOf t) = Spec.int t u :: (v :: l).map (Spec.int t) :=
      List.map_congr_left fun x hx => intOf_eq (by omega) (hl x hx)
    obtain ⟨p, q, htree, hfold⟩ := redTree_int (fi := fi) (v := Spec.int t u) (r := (v :: l).map (Spec.int t))
      (by simp) (by simp; omega)
    simp only [reduce, redBits, fmtInt, decide_eq_true_eq, if_pos h6, hints, htree, hfold,
      finishInt_eq_finInt md (show t < 10 by omega)]
    rfl
  · obtain ⟨p, q, htree, hval⟩ := tree_eq_redTree (md := md) (t := t) (r := r) (ovf := ovf) (f := ff) (n := 6) (k := 8)
      (l := u :: v :: l) (by decide) (by simp) (by simp; omega)
    simp only [reduce, redBits, fmtInt, decide_eq_true_eq, if_neg h6, htree, hval]

theorem reduce_eq [Std.Associative fi] (ht : t < 8) {l : List Nat} (hl : ∀ x ∈ l, x < 2 ^ Spec.width t)
    (hlen : l.length ≤ 128) : reduce md r ovf t fi ff l = redBits md r ovf t fi ff l := by
  match l with
  | [] => simp [reduce, redBits, Spec.tree]
  | [v] => exact reduce_one ht (hl v (by simp))
  | u :: v :: l => exact reduce_many ht hl (by simp only [List.length_cons] at hlen; omega)

end

theorem scalarWord_red {i : Instr} {sf : Bool} {a : BitVec 4} {b m : BitVec 5} {t : BitVec 3} {fi : Int → Int → Int}
    [Std.Associative fi] {ff : Rnd → FVal → FVal → FVal} (hexec : ∀ s, exec i s = redOp sf a b m t fi ff s) :
    ScalarWord i (Spec.red sf a b m t fi ff) := by
  intro md s s' l hr hmod hl hm hg
  have ht : t.toNat < 8 := t.isLt
  rw [hexec]
  refine issueWord_scalar hr (fun _ => rfl) hl rfl hm (scalarOut_gives hl (by decide) hg ?_)
  have hon : (List.range (1024 / Spec.width t.toNat)).filter
      (active (if m = 16 then BitVec.allOnes 32 else (l.getD 0 0).setWidth 32) (Spec.width t.toNat)) =
      (List.range (1024 / Spec.width t.toNat)).filter
        (Spec.isOn (if m = 16 then none else some (l.getD 0 0)) (Spec.width t.toNat)) :=
    List.filter_congr fun e he => (isOn_eq (List.mem_range.1 he) l).symm
  have hn : 1024 / Spec.width t.toNat ≤ 128 := by
    rcases width_cases (show t.toNat < 10 by omega) with h | h | h <;> rw [h] <;> decide
  dsimp only
  simp only [State.noted_vreg, State.noted_pending, State.noted_rnd, State.noted_ovf, fmtWidth_code, velem_eq_el,
    hr.2.1]
  rw [scalarBits_eq (by omega), hon, reduce_eq ht]
  · rfl
  · intro x hx
    obtain ⟨e, -, rfl⟩ := List.mem_map.1 hx
    exact el_lt ..
  · rw [List.length_map]
    exact (List.length_filter_le ..).trans (by simpa using hn)

theorem scalarWord_of_scalarVec {i : Instr} {w : Spec.ScalarVec} (h : Spec.scalarVec i = some w) : ScalarWord i w := by
  cases i with
  | vmsk => exact scalarWord_vmsk h
  | vext => exact scalarWord_vext h
  | vredSum => cases h; exact scalarWord_red fun _ => exec_vredSum ..
  | vredMin => cases h; exact scalarWord_red (fi := min) fun _ => exec_vredMin ..
  | vredMax => cases h; exact scalarWord_red (fi := max) fun _ => exec_vredMax ..
  | _ => cases h

theorem vectorScalarResults : Spec.vectorScalarResults := fun _ _ md s s' l hw =>
  scalarWord_of_scalarVec hw md s s' l

/-! ### Selects, inserts and the dot product (07 R143, R145, R152) -/

section
variable {sf : Bool} {d a : BitVec 4} {b m : BitVec 5} {s s' : State} {l : List Word}

theorem legalX_none (hh : s.cur.half ≠ .a) : s.legalX 1 [] [] := ⟨hh, by simp, by simp, by simp⟩

theorem vsel_gives (hh : s.cur.half ≠ .a) (hm : m.toNat < 24) (hc : s.clear sf) (hb : b.toNat < 16)
    (hg : s.gives sf 0 (if m = 16 then [] else [m.toNat]) s' l) :
    let on : BitVec 32 := if m = 16 then BitVec.allOnes 32 else (l.getD 0 0).setWidth 32
    ∃ v, (∀ k < 1024, v.getLsbD k =
        if Spec.maskBits on k then (Spec.vr s a.toNat).getLsbD k else (Spec.vr s b.toNat).getLsbD k) ∧
      exec (.vsel sf d a b m) s =
        .next ((s'.landVec s.cur.core s.cur.half false 2 d.toNat (BitVec.allOnes 1024) v).went s.ctx sf .seq) := by
  intro on
  refine ⟨(Spec.vr s a.toNat &&& laneMask on) ||| (Spec.vr s b.toNat &&& ~~~laneMask on), fun k hk => ?_, ?_⟩
  · rw [BitVec.getLsbD_or, BitVec.getLsbD_and, BitVec.getLsbD_and, BitVec.getLsbD_not, getLsbD_laneMask on hk,
      decide_eq_true hk, Spec.maskBits]
    cases on.getLsbD (k / 32) <;> simp
  · refine issueWord_ready (ready_of_clear hc) (by simp) hh
      (vecPre_ok (legalX_none hh) (decide_eq_false (by omega)) hm) ?_
    simp only [State.noted_vreg]
    exact withMask_gives (srcs := []) hg

/-- The bits of one element of a register (07 R145). -/
theorem getLsbD_elemMask {w e k : Nat} (hk : k < 1024) :
    (BitVec.ofNat 1024 ((2 ^ w - 1) * 2 ^ (w * e))).getLsbD k = (decide (w * e ≤ k) && decide (k < w * e + w)) := by
  rw [BitVec.getLsbD_ofNat, decide_eq_true hk, Bool.true_and, Nat.testBit_mul_two_pow, Nat.testBit_two_pow_sub_one]
  by_cases h : w * e ≤ k
  · simp only [decide_eq_true h, Bool.true_and, decide_eq_decide]
    omega
  · simp [h]

theorem el_elemValue {w e : Nat} (x : Nat) (he : e < 1024 / w) :
    Spec.el (BitVec.ofNat 1024 (x * 2 ^ (w * e))) w e = x % 2 ^ w := by
  have hend := elem_end_le he
  refine Nat.eq_of_testBit_eq fun i => ?_
  rw [Spec.el, BitVec.testBit_toNat, BitVec.getLsbD_extractLsb', BitVec.getLsbD_ofNat, Nat.testBit_mul_two_pow,
    decide_eq_true (Nat.le_add_right ..), Bool.true_and, Nat.add_sub_cancel_left, Nat.testBit_mod_two_pow]
  by_cases hi : i < w
  · rw [decide_eq_true (show w * e + i < 1024 by omega), Bool.true_and]
  · simp [hi]

theorem vins_gives {t : BitVec 3} (hh : s.cur.half ≠ .a) (hm : m.toNat < 24) (hc : s.clear sf)
    (hsrc : srcOkX s.cur.half s.my.routineBound b.toNat)
    (hg : s.gives sf 0 (b.toNat :: if m = 16 then [] else [m.toNat]) s' l) :
    let w := Spec.width t.toNat
    let e := (if m = 16 then 0 else (l.getD 1 0).toNat) % (1024 / w)
    ∃ mask v, (∀ k < 1024, mask.getLsbD k = (decide (w * e ≤ k) && decide (k < w * e + w))) ∧
      Spec.el v w e = (l.getD 0 0).toNat % 2 ^ w ∧ exec (.vins sf d b m t) s =
        .next ((s'.landVec s.cur.core s.cur.half false 2 d.toNat mask v).went s.ctx sf .seq) := by
  intro w e
  have he : e < 1024 / w := by
    refine Nat.mod_lt _ ?_
    rcases width_cases (show t.toNat < 10 by omega) with h | h | h <;> simp only [w, h] <;> decide
  have hindex : (arg l 1).toNat % (1024 / w) = e := by
    unfold e
    split
    · next h16 =>
      have hlen := length_of_gives hg
      rw [if_pos h16] at hlen
      obtain ⟨v, rfl⟩ := List.length_eq_one_iff.1 hlen
      rfl
    · rfl
  have hlegal : s.legalX 1 [b.toNat] [] := ⟨hh, by simpa using hsrc, by simp, by simp⟩
  refine ⟨_, _, fun k hk => getLsbD_elemMask (w := w) (e := e) hk, (el_elemValue _ he).trans (Nat.mod_mod ..), ?_⟩
  refine issueWord_ready (ready_of_clear hc) (by simp) hh (vecPre_ok hlegal rfl hm) ?_
  dsimp only
  rw [maskSrc, sources_of_gives hg, fmtWidth_code, ← hindex]
  rfl

/-- Lane `g` of the result of `vdot16`: the old lane plus the block sum (07 R152). -/
def dotLane (md : Option ModWord) (s : State) (d a : BitVec 4) (b : BitVec 5) (f : BitVec 4) (g : Nat) : Nat :=
  finishF md 6 .even s.me.ovf ((unpackIeee f32 (Spec.el (Spec.vr s d.toNat) 32 g)).add .even
    (unpackIeee f32 (dotSum f.toNat (Spec.vr s a.toNat) (Spec.vr s b.toNat) g)))

theorem vdot16_gives {f : BitVec 4} {md : Option ModWord} (hh : s.cur.half ≠ .a) (hm : m.toNat < 24)
    (hr : Spec.ready s sf md) (hb : b.toNat < 16) (hf : f = 7 ∨ f = 8 ∨ f = 9)
    (hg : s.gives sf 0 (if m = 16 then [] else [m.toNat]) s' l) :
    let on : BitVec 32 := if m = 16 then BitVec.allOnes 32 else (l.getD 0 0).setWidth 32
    let groups := if f = 7 then 4 else 8
    ∃ mask v, (∀ k < 1024, mask.getLsbD k = (Spec.maskBits on k && decide (k / 32 < groups))) ∧
      (∀ g < groups, on.getLsbD g = true → Spec.el v 32 g = dotLane md s d a b f g) ∧
      exec (.vdot16 sf d a b m f) s =
        .next ((s'.landVec s.cur.core s.cur.half false 6 d.toNat mask v).went s.ctx sf .seq) := by
  intro on groups
  have hgroups : groups ≤ 8 := by unfold groups; split <;> omega
  have hcode : (decide (16 ≤ b.toNat) || !(f == 7 || f == 8 || f == 9)) = false := by
    rw [decide_eq_false (by omega)]
    rcases hf with rfl | rfl | rfl <;> rfl
  have hmask {k : Nat} (hk : k < 32) :
      (on &&& BitVec.ofNat 32 (2 ^ groups - 1)).getLsbD k = (on.getLsbD k && decide (k < groups)) := by
    rw [BitVec.getLsbD_and, BitVec.getLsbD_ofNat, decide_eq_true hk, Bool.true_and, Nat.testBit_two_pow_sub_one]
  refine ⟨laneMask (on &&& BitVec.ofNat 32 (2 ^ groups - 1)),
    elems 32 (1024 / 32) (on &&& BitVec.ofNat 32 (2 ^ groups - 1)) (dotLane md s d a b f), fun k hk => ?_,
    fun g hg hon => ?_, ?_⟩
  · rw [getLsbD_laneMask _ hk, hmask (by omega), Spec.maskBits]
  · have hlane : 32 * g / 32 = g := by omega
    rw [el_elems _ (by omega) (by rw [hlane, hmask (by omega), hon, decide_eq_true hg]; rfl)]
    exact Nat.mod_eq_of_lt (finishF_lt _ (t := 6) (by decide) (by decide) ..)
  · refine issueWord_ready hr (by simp) hh (vecPre_ok (legalX_none hh) hcode hm) ?_
    simp only [State.noted_vreg, State.noted_pending, State.noted_ovf, hr.2.1, velem_eq_el]
    exact withMask_gives (srcs := []) hg

theorem vectorLaneResults : Spec.vectorLaneResults := fun _ _ _ _ _ _ _ _ _ _ hh hm =>
  ⟨fun hc hb hg => vsel_gives hh hm hc hb hg, fun hc hsrc hg => vins_gives hh hm hc hsrc hg,
    fun _ hr hb hf hg => vdot16_gives hh hm hr hb hf hg⟩

end

/-- Settles O24: scalar results by the form of the word, the other words one by one. -/
theorem vectorOtherResults : Obligations.VectorOtherResults := ⟨vectorScalarResults, vectorLaneResults⟩

end Sys2Proof.Machine
end

section
/-!
O25, O27, O28 (08 R156 to R173): the issue of a matrix word and its events, said once.

A matrix word whose parameter word is in order and whose slot and wheel position are its own comes to the state that its
body gives to `wheelThen` (`matrixWord_ok`). What the body reads is what the statements name: fields of the parameter
word (`fld_eq_fieldOf`), operand slots, accumulators and their owner.
-/

namespace Sys2Proof.Machine

/-! ### The parameter word and what the body reads -/

/-- A field of a parameter word, as the statements write it. -/
theorem fld_eq_fieldOf (w : Word) (hi lo : Nat) : fld w.toNat hi lo = Spec.fieldOf w hi lo := wfld_eq_extract w hi lo

theorem mIdx_eq_fieldOf (w : Word) : mIdx w.toNat = Spec.fieldOf w 15 0 := fld_eq_fieldOf w 15 0

theorem bitAt_eq_getLsbD (w : Word) (i : Nat) : bitAt w.toNat i = w.getLsbD i := bitAt_eq_testBit w.toNat i

theorem fieldOf_lt (w : Word) (hi lo : Nat) : Spec.fieldOf w hi lo < 2 ^ (hi + 1 - lo) := BitVec.isLt _

section
variable (s : State) (sf : Bool)

@[simp] theorem noted_mpar (n : BitVec 3) : (s.noted sf).mpar s.ctx n = (Spec.oxOf s n.toNat).toNat := by
  rw [State.mpar, State.noted_ox]
  rfl

@[simp] theorem State.modOctet_octet_self (o : Nat) (f : Octet → Octet) : (s.modOctet o f).octet o = f (s.octet o) := by
  simp [State.modOctet_octet]

@[simp] theorem octet_slot (p : Nat) : (s.octet (coreOctet s.cur.core)).slot p = Spec.opSlot s p := rfl

@[simp] theorem octet_acc (a : Nat) : (s.octet (coreOctet s.cur.core)).acc a = Spec.accOf s a := rfl

@[simp] theorem ctx_octet : s.ctx.octet = coreOctet s.cur.core := rfl

end

section
variable {s : State} {sf : Bool}

/-- The owner check of an accumulator slot (08 R165). -/
theorem accGiven_of_given {a : Nat} (h : Spec.given s a) : (s.noted sf).accGiven s.ctx a = true := by
  obtain ⟨hown, hbound⟩ := h
  obtain ⟨b, hb⟩ := Option.isSome_iff_exists.1 hbound
  have hbind : s.bindOf s.cur.core = b := by rw [State.bindOf, hb]; rfl
  have howner : (Spec.accOf s a).owner = some b := hown.trans hb
  simp [State.accGiven, howner, hbind, hb]

/-! ### The slot and wheel check (02 R38; 13 R231; 08 R156) -/

/-- A word on its slot passes the slot check. -/
theorem slotCause_of_onSlot {kind idx : Nat} (h : Spec.onSlot s kind idx) :
    (s.noted sf).slotCause s.ctx kind idx = none := by
  obtain ⟨hlt, hvalid, hkind, hcyc⟩ := h
  have hd : ((s.mcyc s.cur.core : Int) - (slotCyc ((s.bindAt (s.bindOf s.cur.core)).slot idx) + s.hopOf s.cur.core)) %
      (s.bindAt (s.bindOf s.cur.core)).period = 0 := by
    have hdvd := (Nat.modEq_iff_dvd.1 (show _ ≡ _ [MOD _] from hcyc.symm))
    push_cast at hdvd
    exact Int.emod_eq_zero_of_dvd hdvd
  have hhop : (s.noted sf).hopOf s.cur.core = s.hopOf s.cur.core := by simp [State.hopOf]
  unfold State.slotCause
  simp only [State.noted_bindAt, State.ctx_bind, State.ctx_core, State.ctx_m, hhop]
  rw [if_neg (by simp [hvalid, hlt]), if_neg (by simp [hkind]), if_pos hd]

/-- A matrix word on its slot and its wheel position takes effect. -/
theorem wheelThen_of_onWheel {w : Word} (h : Spec.onWheel s w) (t : State) :
    wheelThen (s.noted sf) s.ctx (Spec.fieldOf w 15 0) t = .ok t .seq := by
  obtain ⟨hslot, hwheel⟩ := h
  have hhop : (s.noted sf).hopOf s.cur.core = s.hopOf s.cur.core := by simp [State.hopOf]
  have hc : (s.noted sf).wheelCause s.ctx (Spec.fieldOf w 15 0) = none := by
    unfold State.wheelCause
    rw [show kindWheel = 0 from rfl, slotCause_of_onSlot hslot]
    simp only [State.noted_bindAt, State.ctx_bind, State.ctx_core, hhop, State.noted_octet]
    exact if_pos hwheel
  rw [wheelThen, hc]

/-- A matrix word with its parameter word in order, on its slot and wheel position, whose body objects to nothing. -/
theorem matrixWord_ok {n : BitVec 3} {bad : State → Ctx → Nat → Bool} {body : State → Ctx → Res} {t : State}
    (hc : s.clear sf) (hh : s.cur.half ≠ .a) (hw : Spec.onWheel s (Spec.oxOf s n.toNat))
    (hbad : bad (s.noted sf) s.ctx (Spec.oxOf s n.toNat).toNat = false)
    (hb : body (s.noted sf) s.ctx = wheelThen (s.noted sf) s.ctx (Spec.fieldOf (Spec.oxOf s n.toNat) 15 0) t) :
    issueWord sf .x false (mPre n bad) body s = .next (t.went s.ctx sf .seq) := by
  refine issueWord_ok hc (classOk_x hh) ?_ (hb.trans (wheelThen_of_onWheel hw t)) (by simp)
  rw [mPre, noted_mpar, hbad]

/-! ### What a matrix word leaves alone -/

@[simp] theorem State.went_mem (t : State) (x : Ctx) (nx : Next) : (t.went x sf nx).mem = t.mem := rfl

@[simp] theorem State.went_octet (t : State) (x : Ctx) (nx : Next) (o : Nat) :
    (t.went x sf nx).octet o = t.octet o := rfl

/-- A word that changes no core moves its own stream on, whatever else it changes. -/
theorem onward_went_of_cores {t : State} (hcur : t.cur = s.cur) (hcores : t.cores = (s.noted sf).cores) :
    Spec.onward s (t.went s.ctx sf .seq) sf := by
  have h := (Aside.refl s.cur.core (s.noted sf)).onward_went
  have hcore (c : Nat) : (t.went s.ctx sf .seq).core c = ((s.noted sf).went s.ctx sf .seq).core c := by
    simp only [State.core, State.went, State.modStream_cores, State.stream, hcores]
  have hcurs : (t.went s.ctx sf .seq).cur = ((s.noted sf).went s.ctx sf .seq).cur := by
    simp [State.went, hcur]
  unfold Spec.onward at h ⊢
  simpa only [State.me, State.my, State.stream, hcore, hcurs] using h

end

/-! ### The agenda -/

@[simp] theorem State.postTie_octet (s : State) (due prio tie : Nat) (ev : Ev) (o : Nat) :
    (s.postTie due prio tie ev).octet o = s.octet o := rfl

@[simp] theorem State.post_octet (s : State) (due prio : Nat) (ev : Ev) (o : Nat) :
    (s.post due prio ev).octet o = s.octet o := rfl

theorem mem_agendaInsert_of_mem {x : AEnt} (e : AEnt) {l : List AEnt} (h : x ∈ l) : x ∈ agendaInsert e l := by
  induction l with
  | nil => cases h
  | cons y r ih =>
    rw [agendaInsert]
    split
    · exact List.mem_cons_of_mem _ h
    · rcases List.mem_cons.1 h with rfl | h
      · exact List.mem_cons_self
      · exact List.mem_cons_of_mem _ (ih h)

/-- A posted event stands on the agenda. -/
theorem mem_post_self (s : State) (due prio : Nat) (ev : Ev) : ⟨due, prio, s.seq, ev⟩ ∈ (s.post due prio ev).agenda :=
  mem_agendaInsert_self ..

/-- What stands on the agenda stays when another event is posted. -/
theorem mem_post_of_mem {s : State} {x : AEnt} (due prio : Nat) (ev : Ev) (h : x ∈ s.agenda) :
    x ∈ (s.post due prio ev).agenda := mem_agendaInsert_of_mem _ h

/-- An event whose cycle has come, on its instruction. -/
theorem exec_event {s : State} {e : AEnt} {rest : List AEnt} {ev : Ev} {i : Instr} (ha : s.agenda = e :: rest)
    (hd : e.due ≤ s.ccyc) (he : e.ev = ev) (hi : ev.instr = i) (hexec : exec i s = .next (s.fire i)) :
    exec i s = .next (ev.run { s with agenda := rest }) := by
  rw [hexec, fire_head ha hd (he ▸ hi), he]

end Sys2Proof.Machine
end

section
/-!
O28 (08 R156 to R161, R168 to R172): the matrix words but `mma`, at issue.
-/

namespace Sys2Proof.Machine

/-! ### Configuration, claims and clearing -/

theorem outFmtOk_of_spec {fmt bl : Nat} (h : (fmt = 6 ∨ fmt = 7) ∧ bl = 0 ∨ (fmt = 8 ∨ fmt = 9) ∧ 1 ≤ bl) :
    outFmtOk fmt bl = true := by
  rcases h with ⟨rfl | rfl, rfl⟩ | ⟨rfl | rfl, h⟩
  · rfl
  · rfl
  · simp [outFmtOk]; omega
  · simp [outFmtOk]; omega

section
variable {s : State} {sf : Bool} {c n : BitVec 3} {p q : BitVec 6}
  (hc : s.clear sf) (hh : s.cur.half ≠ .a) (hw : Spec.onWheel s (Spec.oxOf s n.toNat))
include hc hh hw

theorem mcfgOp_ok {drop : Bool} (hres : Spec.fieldOf (Spec.oxOf s n.toNat) 63 23 = 0)
    (hfmt : outFmtOk (Spec.fieldOf (Spec.oxOf s n.toNat) 19 16) (Spec.fieldOf (Spec.oxOf s n.toNat) 21 20) = true)
    (hg : Spec.given s c.toNat) (hlive : (!drop && (Spec.accOf s c.toNat).live) = false) :
    mcfgOp drop sf c n s = .next (((s.noted sf).post (s.ccyc + 1) 6 (.accCfg (coreOctet s.cur.core) c.toNat
      (Spec.fieldOf (Spec.oxOf s n.toNat) 19 16) (Spec.fieldOf (Spec.oxOf s n.toNat) 21 20)
      ((Spec.oxOf s n.toNat).getLsbD 22) drop)).went s.ctx sf .seq) := by
  refine matrixWord_ok hc hh hw (by simp [fld_eq_fieldOf, hres, hfmt]) ?_
  simp only [noted_mpar, accGiven_of_given hg, State.noted_octet, ctx_octet, octet_acc, hlive, fld_eq_fieldOf,
    mIdx_eq_fieldOf, bitAt_eq_getLsbD]
  rfl

section
variable (hres : Spec.fieldOf (Spec.oxOf s n.toNat) 63 16 = 0)
include hres

theorem mclaim_free (hclaim : (Spec.opSlot s p.toNat).claim = none) : exec (.mclaim sf p n) s =
    .next (((s.noted sf).post (s.ccyc + 1) 0 (.claim (coreOctet s.cur.core) p.toNat (some s.cur.core))).went
      s.ctx sf .seq) := by
  refine matrixWord_ok hc hh hw (by simp [fld_eq_fieldOf, hres]) ?_
  simp [hclaim, mIdx_eq_fieldOf]

theorem mclaim_own (hclaim : (Spec.opSlot s p.toNat).claim = some s.cur.core) :
    exec (.mclaim sf p n) s = .next ((s.noted sf).went s.ctx sf .seq) := by
  refine matrixWord_ok hc hh hw (by simp [fld_eq_fieldOf, hres]) ?_
  simp [hclaim, mIdx_eq_fieldOf]

theorem mfree_own (hclaim : (Spec.opSlot s p.toNat).claim = some s.cur.core) : exec (.mfree sf p n) s =
    .next ((((s.noted sf).post (s.ccyc + 1) 0 (.claim (coreOctet s.cur.core) p.toNat none)).post (s.ccyc + 1) 0
      (.tag (coreOctet s.cur.core) p.toNat 0)).went s.ctx sf .seq) := by
  refine matrixWord_ok hc hh hw (by simp [fld_eq_fieldOf, hres]) ?_
  simp [hclaim, mIdx_eq_fieldOf]

theorem mzero_ok (hg : Spec.given s c.toNat) : exec (.mzero sf c n) s =
    .next (((s.noted sf).post (s.ccyc + 2) 6 (.accZero (coreOctet s.cur.core) c.toNat (some s.cur.core))).went
      s.ctx sf .seq) := by
  refine matrixWord_ok hc hh hw (by simp [fld_eq_fieldOf, hres]) ?_
  simp [accGiven_of_given hg, mIdx_eq_fieldOf]

theorem mchk_ok (hg : Spec.given s c.toNat) (hpoison : (Spec.accOf s c.toNat).poison = false) :
    exec (.mchk sf c n) s = .next ((s.noted sf).went s.ctx sf .seq) := by
  refine matrixWord_ok hc hh hw (by simp [fld_eq_fieldOf, hres]) ?_
  simp [accGiven_of_given hg, hpoison, mIdx_eq_fieldOf]

theorem mtr_ok (hclaim : (Spec.opSlot s q.toNat).claim = some s.cur.core)
    (htag : (Spec.opSlot s p.toNat).tag = 1 ∨ (Spec.opSlot s p.toNat).tag = 8) : exec (.mtr sf p q n) s =
    .next (((((s.noted sf).post (s.ccyc + 1) 10 (.mtrRead (coreOctet s.cur.core) s.seq s.cur.core p.toNat q.toNat)).post
      (s.ccyc + 1) 0 (.tag (coreOctet s.cur.core) q.toNat (Spec.opSlot s p.toNat).tag)).post (s.ccyc + 130) 4
      (.mtrDone (coreOctet s.cur.core) s.seq)).went s.ctx sf .seq) := by
  refine matrixWord_ok hc hh hw (by simp [fld_eq_fieldOf, hres]) ?_
  have htag' : ¬ ((Spec.opSlot s p.toNat).tag ≠ 1 ∧ (Spec.opSlot s p.toNat).tag ≠ 8) := by tauto
  simp only [noted_mpar, State.noted_octet, ctx_octet, octet_slot, mIdx_eq_fieldOf, State.ctx_core, hclaim, ne_eq,
    not_true_eq_false, if_false]
  rw [if_neg htag']
  simp

end

end

end Sys2Proof.Machine
end

section
/-!
O28 (08 R160, R168, R169): `mrd`, `mfill` and `mwb` at issue.
-/

namespace Sys2Proof.Machine

/-! ### Parts of a number in memory -/

theorem ofBytes_drop (l : List Byte) (k : Nat) : ofBytes (l.drop k) = ofBytes l / 256 ^ k := by
  induction k generalizing l with
  | zero => simp
  | succ k ih =>
    cases l with
    | nil => simp [ofBytes]
    | cons b l =>
      have hb := b.isLt
      rw [List.drop_succ_cons, ih, ofBytes, Nat.pow_succ', ← Nat.div_div_eq_div_mul]
      congr 1
      omega

theorem ofBytes_take (l : List Byte) (k : Nat) : ofBytes (l.take k) = ofBytes l % 256 ^ k := by
  induction k generalizing l with
  | zero => simp [ofBytes, Nat.mod_one]
  | succ k ih =>
    cases l with
    | nil => simp [ofBytes]
    | cons b l =>
      have hb := b.isLt
      have hlo : (b.toNat + 256 * ofBytes l) % 256 = b.toNat := by omega
      have hhi : (b.toNat + 256 * ofBytes l) / 256 = ofBytes l := by omega
      rw [List.take_succ_cons, ofBytes, ofBytes, ih, Nat.pow_succ', Nat.mod_mul, hlo, hhi]

@[simp] theorem Memory.length_readN (m : Memory) (key n : Nat) : (m.readN key n).length = n := by simp [Memory.readN]

theorem Memory.readN_part (m : Memory) (key : Nat) {n j k : Nat} (h : j + k ≤ n) :
    ((m.readN key n).drop j).take k = m.readN (key + j) k := by
  refine List.ext_getElem (by simp; omega) fun i hi hi' => ?_
  simp [Memory.readN, Nat.add_assoc]

/-- Lane `l` of 128 bytes read as a vector: the number in its four bytes. -/
theorem lane_readLe (m : Memory) (key : Nat) {l : Nat} (hl : l < 32) :
    Spec.lane (BitVec.ofNat 1024 (m.readLe key 128)) l = BitVec.ofNat 32 (m.readLe (key + 4 * l) 4) := by
  have hpart : m.readLe (key + 4 * l) 4 = m.readLe key 128 / 2 ^ (32 * l) % 2 ^ 32 := by
    rw [Memory.readLe, ← m.readN_part key (show 4 * l + 4 ≤ 128 by omega), ofBytes_take, ofBytes_drop,
      Nat.pow_mul 2 32 l, Nat.pow_mul 256 4 l]
    rfl
  refine BitVec.eq_of_getLsbD_eq fun i hi => ?_
  rw [hpart, Spec.lane, BitVec.getLsbD_extractLsb', BitVec.getLsbD_ofNat, BitVec.getLsbD_ofNat, Nat.testBit_mod_two_pow,
    Nat.testBit_div_two_pow, decide_eq_true (show 32 * l + i < 1024 by omega), Nat.add_comm i]
  simp

/-- A byte of an accumulator slot. -/
theorem accBytes_add (o a x : Nat) : accBytes o a + x = Spec.accAt o a x := by
  simp only [accBytes, Spec.accAt, accKey]
  omega

theorem accAt_add (o a x y : Nat) : Spec.accAt o a x + y = Spec.accAt o a (x + y) := by
  simp only [Spec.accAt, accKey]
  omega

/-! ### Reading an accumulator (08 R168) -/

section
variable (s : State) (sf : Bool)

/-- The state of an `mrd` that reads 128 bytes from `key` for vector register `d`. -/
def State.accRead (key d : Nat) : State :=
  let dev := (s.noted sf).dev
  { s.noted sf with dev := { dev with log := dev.log ++ logMarks s.ccyc (marksIn s.ecc key 128) } }.landVec
    s.cur.core s.cur.half true 6 d (BitVec.allOnes 1024) (BitVec.ofNat 1024 (s.mem.readLe key 128))

theorem accRead_aside (key d : Nat) : Aside s.cur.core (s.noted sf) (s.accRead sf key d) := by
  refine .of_cores ?_ rfl
  rw [Spec.kept, State.accRead, State.noted_dev]
  rfl

theorem accRead_agenda (key d : Nat) : (s.accRead sf key d).agenda = Spec.posted s (s.ccyc + 6) 1 s.seq
    (.vec s.cur.core s.cur.half true d (BitVec.allOnes 1024) (BitVec.ofNat 1024 (s.mem.readLe key 128))) := by
  simp [State.accRead, State.landVec, State.post, State.postTie, Spec.posted]

end

/-! ### Filling an operand slot (08 R160) -/

theorem tagOk_of_tile {ef bl pk : Nat} (h : Spec.tile ef bl pk) : tagOk ef bl pk = true := by
  rcases h with ⟨rfl | rfl, rfl, rfl⟩ | ⟨rfl, rfl⟩ | ⟨rfl, hbl, hlo, hhi⟩
  · rfl
  · rfl
  · rfl
  · simp [tagOk]; omega

theorem slotBytes_eq_tileBytes {bl : Nat} (h : bl < 4) : slotBytes bl = Spec.tileBytes bl := by
  match bl, h with
  | 0, _ | 1, _ | 2, _ | 3, _ => rfl

/-- The state of an `mfill` that copies `len` bytes from `src` into operand slot `p`, tagged `t`. -/
def State.filling (s : State) (sf : Bool) (p len src : Nat) (t : BitVec 16) : State :=
  ((((s.noted sf).post (s.ccyc + 1) 0 (.tag (coreOctet s.cur.core) p t)).modOctet (coreOctet s.cur.core) fun o =>
    { o with fills := o.fills ++ [⟨s.seq + 1, s.cur.core, p, len - 16384, [], []⟩] }).post (s.ccyc + 1) 10
      (.fillRead (coreOctet s.cur.core) (s.seq + 1) s.cur.core src (len / 256))).post (s.ccyc + len / 256 + 2) 4
        (.fillDone (coreOctet s.cur.core) (s.seq + 1))

/-! ### The words -/

section
variable {s : State} {sf : Bool} {c n : BitVec 3} {p q : BitVec 6}
  (hc : s.clear sf) (hh : s.cur.half ≠ .a) (hw : Spec.onWheel s (Spec.oxOf s n.toNat))
include hc hh hw


theorem mrd_ok (hres : Spec.fieldOf (Spec.oxOf s n.toNat) 63 29 = 0) (hg : Spec.given s c.toNat)
    (hpoison : (Spec.accOf s c.toNat).poison = false) {key : Nat}
    (hkey : key = Spec.accAt (coreOctet s.cur.core) c.toNat
      (512 * Spec.fieldOf (Spec.oxOf s n.toNat) 26 20 + 128 * Spec.fieldOf (Spec.oxOf s n.toNat) 28 27))
    (hecc : poisoned s.ecc key 128 = false) :
    exec (.mrd sf c n) s =
      .next ((s.accRead sf key (Spec.fieldOf (Spec.oxOf s n.toNat) 19 16)).went s.ctx sf .seq) := by
  refine matrixWord_ok hc hh hw (by simp [fld_eq_fieldOf, hres]) ?_
  simp only [noted_mpar, accGiven_of_given hg, State.noted_octet, ctx_octet, octet_acc, fld_eq_fieldOf, mIdx_eq_fieldOf,
    accBytes_add, accAt_add, ← hkey, State.noted_ecc, hecc, hpoison, State.noted_mem,
    State.noted_ccyc, State.ctx_core, State.ctx_half]
  rfl

theorem mfill_ok (h63 : Spec.fieldOf (Spec.oxOf s n.toNat) 63 50 = 0)
    (h31 : Spec.fieldOf (Spec.oxOf s n.toNat) 31 26 = 0)
    (htile : Spec.tile (Spec.fieldOf (Spec.oxOf s n.toNat) 19 16) (Spec.fieldOf (Spec.oxOf s n.toNat) 21 20)
      (Spec.fieldOf (Spec.oxOf s n.toNat) 25 22))
    (hsoff : Spec.fieldOf (Spec.oxOf s n.toNat) 49 32 % 64 = 0)
    (hclaim : (Spec.opSlot s p.toNat).claim = some s.cur.core) {len src : Nat}
    (hlen : len = Spec.tileBytes (Spec.fieldOf (Spec.oxOf s n.toNat) 21 20))
    (hsrc : src = sPtr s.cur.core 0 (Spec.fieldOf (Spec.oxOf s n.toNat) 49 32))
    (hend : Spec.fieldOf (Spec.oxOf s n.toNat) 49 32 + len ≤ 0x40000)
    (halt : altHit (s.pubs (s.bindOf s.cur.core)) src len = false) :
    exec (.mfill sf p n) s =
      .next ((s.filling sf p.toNat len src ((Spec.oxOf s n.toNat).extractLsb' 16 16)).went s.ctx sf .seq) := by
  refine matrixWord_ok hc hh hw (by simp [fld_eq_fieldOf, h63, h31, hsoff, tagOk_of_tile htile]) ?_
  have hbl : Spec.fieldOf (Spec.oxOf s n.toNat) 21 20 < 4 := fieldOf_lt ..
  have htag : BitVec.ofNat 16 (Spec.fieldOf (Spec.oxOf s n.toNat) 31 16) = (Spec.oxOf s n.toNat).extractLsb' 16 16 :=
    BitVec.ofNat_toNat ..
  simp only [noted_mpar, fld_eq_fieldOf, mIdx_eq_fieldOf, slotBytes_eq_tileBytes hbl, ← hlen, State.ctx_core, ← hsrc,
    State.noted_octet, ctx_octet, octet_slot, hclaim, State.noted_pubs, State.ctx_bind, halt, State.ctx_now]
  rw [if_neg (by simp), if_neg (by simp; omega), htag]
  simp [State.filling]

theorem mwb_ok (h63 : Spec.fieldOf (Spec.oxOf s n.toNat) 63 49 = 0)
    (hdst : Spec.fieldOf (Spec.oxOf s n.toNat) 47 16 % 32 = 0)
    (hsr : (Spec.accOf s c.toNat).sr = true → (Spec.accOf s c.toNat).fmt ≠ 6 →
      (vget 0 s.my.regs.oxX 7).extractLsb' 48 16 = 0)
    (hg : Spec.given s c.toNat)
    (hreach : s.mwbReach s.ctx (Spec.fieldOf (Spec.oxOf s n.toNat) 47 16) (Spec.accOf s c.toNat).outBytes = true) :
    exec (.mwb sf c n) s = .next (((s.noted sf).post (s.ccyc + 1) 10 (.mwbSnap (coreOctet s.cur.core) s.seq s.cur.core
      s.cur.half c.toNat (2 * 2 ^ 60 + Spec.fieldOf (Spec.oxOf s n.toNat) 47 16) ((Spec.oxOf s n.toNat).getLsbD 48)
      s.my.ctl.gseed s.my.ctl.gstrm ((vget 0 s.my.regs.oxX 7).extractLsb' 0 48).toNat)).went s.ctx sf .seq) := by
  have hox : s.ox s.ctx 7 = vget 0 s.my.regs.oxX 7 := State.ox_x hh 7
  have hreach' : (s.noted sf).mwbReach s.ctx (Spec.fieldOf (Spec.oxOf s n.toNat) 47 16)
      (Spec.accOf s c.toNat).outBytes = true := by
    rw [← hreach]
    simp [State.mwbReach, State.colPart]
  refine matrixWord_ok hc hh hw ?_ ?_
  · have h7 : (Spec.accOf s c.toNat).sr = true → (Spec.accOf s c.toNat).fmt ≠ 6 →
        wfld (vget 0 s.my.regs.oxX 7) 63 48 = 0 := fun h h' => by rw [wfld_eq_extract, hsr h h']; rfl
    simp only [fld_eq_fieldOf, h63, hdst, State.noted_octet, ctx_octet, octet_acc, State.noted_ox, hox]
    simpa using h7
  · simp only [noted_mpar, fld_eq_fieldOf, mIdx_eq_fieldOf, State.noted_octet, ctx_octet, octet_acc,
      accGiven_of_given hg, hreach', State.noted_ox, hox, wfld_eq_extract, bitAt_eq_getLsbD,
      State.ctx_core, State.ctx_now, State.ctx_half, State.noted_ctl, State.noted_seq]
    rfl

end

end Sys2Proof.Machine
end

section
/-!
O28: the issue of the matrix words assembled, and what their claims, tags, configurations and clearings leave in the
landing cycle (08 R158, R159, R164, R169 to R171).
-/

namespace Sys2Proof.Machine

/-! ### At issue -/

section
variable (s : State) (sf : Bool) (p len src : Nat) (t : BitVec 16)

theorem filling_agenda_old {x : AEnt} (h : x ∈ s.agenda) : x ∈ (s.filling sf p len src t).agenda :=
  mem_post_of_mem _ _ _ (mem_post_of_mem _ _ _ (mem_post_of_mem _ _ _ (by simpa using h)))

theorem filling_tag : ⟨s.ccyc + 1, 0, s.seq, .tag (coreOctet s.cur.core) p t⟩ ∈ (s.filling sf p len src t).agenda := by
  refine mem_post_of_mem _ _ _ (mem_post_of_mem _ _ _ ?_)
  simpa using mem_post_self (s.noted sf) (s.ccyc + 1) 0 (.tag (coreOctet s.cur.core) p t)

theorem filling_read : ∃ k,
    ⟨s.ccyc + 1, 10, k, .fillRead (coreOctet s.cur.core) (s.seq + 1) s.cur.core src (len / 256)⟩ ∈
      (s.filling sf p len src t).agenda := ⟨_, mem_post_of_mem _ _ _ (mem_post_self ..)⟩

theorem filling_done : ∃ k, ⟨s.ccyc + len / 256 + 2, 4, k, .fillDone (coreOctet s.cur.core) (s.seq + 1)⟩ ∈
    (s.filling sf p len src t).agenda := ⟨_, mem_post_self ..⟩

theorem filling_octet : (s.filling sf p len src t).octet (coreOctet s.cur.core) = { s.octet (coreOctet s.cur.core) with
    fills := (s.octet (coreOctet s.cur.core)).fills ++ [⟨s.seq + 1, s.cur.core, p, len - 16384, [], []⟩] } := by
  simp [State.filling]

theorem filling_mem : (s.filling sf p len src t).mem = s.mem := by simp [State.filling]

theorem filling_cores : (s.filling sf p len src t).cores = (s.noted sf).cores := by
  simp [State.filling]

theorem filling_cur : (s.filling sf p len src t).cur = s.cur := by simp [State.filling]

end

theorem matrixWordResults : Spec.matrixWordResults := by
  intro sf c n p q s hc hh w f o a u claim hw
  refine ⟨fun hres hfmt hg => ⟨fun hlive => ?_, ?_⟩,
    fun hres => ⟨mclaim_free hc hh hw hres, fun hcl => ⟨mclaim_own hc hh hw hres hcl, mfree_own hc hh hw hres hcl⟩,
      fun hg => ⟨mzero_ok hc hh hw hres hg, mchk_ok hc hh hw hres hg⟩, mtr_ok hc hh hw hres⟩,
    fun hres hg hpoison hecc => ?_, fun h63 h31 htile hsoff hcl hend halt => ?_, mwb_ok hc hh hw⟩
  · exact mcfgOp_ok hc hh hw (drop := false) hres (outFmtOk_of_spec hfmt) hg (by simpa using hlive)
  · exact mcfgOp_ok hc hh hw (drop := true) hres (outFmtOk_of_spec hfmt) hg rfl
  · have ha := accRead_aside s sf (Spec.accAt o a (512 * f 26 20 + 128 * f 28 27)) (f 19 16)
    refine ⟨_, _, mrd_ok hc hh hw hres hg hpoison rfl hecc, ha.kept_went, ha.onward_went, accRead_agenda ..,
      fun l hl => ?_⟩
    have hoff : 512 * f 26 20 + 128 * f 28 27 + 4 * l = 4 * (128 * f 26 20 + 32 * f 28 27 + l) := by omega
    rw [lane_readLe _ _ hl, accAt_add, hoff]
  · refine ⟨_, mfill_ok hc hh hw h63 h31 htile hsoff hcl rfl rfl hend halt, ?_⟩
    rw [State.went_mem, State.went_agenda, State.went_octet]
    exact ⟨filling_mem .., onward_went_of_cores (filling_cur ..) (filling_cores ..),
      fun e he => filling_agenda_old _ _ _ _ _ _ he, s.seq, s.seq + 1, filling_tag .., filling_read .., filling_done ..,
      filling_octet ..⟩

/-! ### In the landing cycle -/

section
variable {s : State} {e : AEnt} {rest : List AEnt} {o : Nat}

theorem octet_modSlot (k : Octet) (p q : Nat) (f : OpSlot → OpSlot) :
    (k.modSlot p f).slot q = if q = p then f (k.slot p) else k.slot q := tget_tset ..

theorem slotLandings : Spec.slotLandings := by
  intro s e rest o p ha hd lands
  have hlands {ev : Ev} {f : OpSlot → OpSlot} (he : e.ev = ev) (hi : ev.instr = .resultLanding)
      (hrun : ev.run { s with agenda := rest } = ({ s with agenda := rest } : State).modOctet o (·.modSlot p f)) :
      lands f := by
    have hoct : (({ s with agenda := rest } : State).modOctet o (·.modSlot p f)).octet o = (s.octet o).modSlot p f :=
      (State.modOctet_octet ..).trans (if_pos rfl)
    refine ⟨_, (exec_event ha hd he hi rfl).trans (congrArg _ hrun), rfl, fun o' ho => ?_, ?_, ?_, fun q hq => ?_⟩
    · exact (State.modOctet_octet ..).trans (if_neg ho)
    · rw [hoct]; rfl
    · rw [hoct]; exact (octet_modSlot ..).trans (if_pos rfl)
    · rw [hoct]; exact (octet_modSlot ..).trans (if_neg hq)
  exact ⟨fun w he => hlands he rfl rfl, fun g he => hlands he rfl rfl⟩

/-! ### Accumulators -/

theorem tset_tset_self {α : Type} (t : Tab α) (k : Nat) (x y : α) : tset (tset t k x) k y = tset t k y := by
  induction t with
  | nil => simp [tset]
  | cons p r ih =>
    obtain ⟨i, z⟩ := p
    rw [tset, tset]
    split
    · simp [tset]
    · split
      · simp [tset]
      · simp [tset, *]

theorem modOctet_modOctet (s : State) (o : Nat) (f g : Octet → Octet) :
    (s.modOctet o f).modOctet o g = s.modOctet o (g ∘ f) := by
  simp [State.modOctet, State.octet, tset_tset_self]

theorem octet_modAcc_self {a : Nat} (k : Octet) (f : Acc → Acc) (ha : a < 8) :
    vget Acc.init (k.modAcc a f).accs a = f (vget Acc.init k.accs a) := vget_vput_self _ _ _ _ ha

theorem octet_modAcc_ne {a b : Nat} (k : Octet) (f : Acc → Acc) (hb : b ≠ a) :
    vget Acc.init (k.modAcc a f).accs b = vget Acc.init k.accs b := vget_vput_ne _ _ _ hb

theorem modAcc_modAcc {a : Nat} (f g : Acc → Acc) (ha : a < 8) :
    (fun k : Octet => k.modAcc a g) ∘ (fun k : Octet => k.modAcc a f) = fun k => k.modAcc a (g ∘ f) := by
  funext k
  simp only [Function.comp_apply, Octet.modAcc, Octet.acc, vget_vput_self _ _ _ _ ha]
  simp [vput]

theorem State.onlyMem_refl (s : State) : s.onlyMem s := rfl

/-- An accumulator slot of the octet changes, after memory's bytes: what the statement says of such a landing. -/
theorem modAcc_lands {u : State} {a : Nat} (f : Acc → Acc) (ha : a < 8)
    (hu : ({ s with agenda := rest } : State).onlyMem u) :
    let t := u.modOctet o (·.modAcc a f)
    t = { s with agenda := rest, octets := t.octets, mem := t.mem, ecc := t.ecc,
                 dev := { s.dev with log := t.dev.log } } ∧
      (∀ o', o' ≠ o → t.octet o' = s.octet o') ∧ t.octet o = { s.octet o with accs := (t.octet o).accs } ∧
      vget Acc.init (t.octet o).accs a = f (vget Acc.init (s.octet o).accs a) ∧
      ∀ b, b ≠ a → vget Acc.init (t.octet o).accs b = vget Acc.init (s.octet o).accs b := by
  have hoctet (o' : Nat) : u.octet o' = s.octet o' := by rw [hu]; rfl
  refine ⟨by rw [hu]; rfl, fun o' ho => ?_, ?_, ?_, fun b hb => ?_⟩
  · rw [State.modOctet_octet, if_neg ho, hoctet]
  · rw [State.modOctet_octet_self, hoctet]; rfl
  · rw [State.modOctet_octet_self, hoctet, octet_modAcc_self _ _ ha]
  · rw [State.modOctet_octet_self, hoctet, octet_modAcc_ne _ _ hb]

/-- The bytes of a slot written with zeros (08 R170). -/
theorem zeroed_read (u : State) (o a k : Nat) : (u.write (accBytes o a) (List.replicate 0x10000 0)).mem.read k =
    if Spec.accAt o a 0 ≤ k ∧ k < Spec.accAt o a 0x10000 then 0 else u.mem.read k := by
  rw [State.write_read, List.length_replicate, accBytes_add, ← accBytes_add o a 0, Nat.add_zero]
  split
  · next h => rw [List.getD_replicate _ (by rw [← accBytes_add] at h; omega)]
  · rfl

/-- A configuration that drops the contents (08 R171): a clearing and a change of the slot's state in one. -/
theorem State.accConfigure_drop (u : State) (o : Nat) {a : Nat} (fmt bl : Nat) (sr : Bool) (ha : a < 8) :
    u.accConfigure o a fmt bl sr true = (u.write (accBytes o a) (List.replicate 0x10000 0)).modOctet o
      (·.modAcc a fun q => { q with fmt := fmt, bl := bl, sr := sr, live := false, poison := false }) := by
  rw [State.accConfigure, if_pos rfl, State.zeroAcc, modOctet_modOctet, modAcc_modAcc _ _ ha]
  rfl

theorem accumulatorLandings : Spec.accumulatorLandings := by
  intro s e rest o a ha hd ha8 lands
  have hkeep {ev : Ev} {f : Acc → Acc} (he : e.ev = ev) (hi : ev.instr = .resultLanding)
      (hrun : ev.run { s with agenda := rest } = ({ s with agenda := rest } : State).modOctet o (·.modAcc a f)) :
      lands false f := by
    obtain ⟨h1, h2, h3, h4, h5⟩ := modAcc_lands (s := s) (rest := rest) (o := o) f ha8 (State.onlyMem_refl _)
    exact ⟨_, (exec_event ha hd he hi rfl).trans (congrArg _ hrun), h1, h2, h3, h4, h5, fun k => by simp⟩
  have hclear {ev : Ev} {f : Acc → Acc} (he : e.ev = ev) (hi : ev.instr = .resultLanding)
      (hrun : ev.run { s with agenda := rest } =
        (({ s with agenda := rest } : State).write (accBytes o a) (List.replicate 0x10000 0)).modOctet o
          (·.modAcc a f)) :
      lands true f := by
    obtain ⟨h1, h2, h3, h4, h5⟩ := modAcc_lands (s := s) (rest := rest) (o := o) f ha8 (State.write_onlyMem _ _ _)
    refine ⟨_, (exec_event ha hd he hi rfl).trans (congrArg _ hrun), h1, h2, h3, h4, h5, fun k => ?_⟩
    rw [State.modOctet_mem, zeroed_read]
    simp
  exact ⟨fun fmt bl sr he => hkeep he rfl rfl,
    fun fmt bl sr he => hclear (f := fun q => { q with fmt := fmt, bl := bl, sr := sr, live := false, poison := false })
      he rfl (State.accConfigure_drop _ _ _ _ _ ha8),
    fun c he => hclear he rfl rfl⟩

end

/-- Settles O28: each word comes to its body, and a landing changes the slot that its event names. -/
theorem matrixWords : Obligations.MatrixWords := ⟨matrixWordResults, slotLandings, accumulatorLandings⟩

end Sys2Proof.Machine
end

section
/-!
O25 (08 R162 to R166): `mma` and `mmaz` at issue.

The word's checks pass (`operandOk_of_operand`), and it comes to the state in which its command stands in the sequencer
(`State.sequenced`): what that state holds is said once for any command.
-/

namespace Sys2Proof.Machine

/-! ### Events posted one after another -/

section
variable (due : Nat → Nat) (prio : Nat) (ev : Nat → Ev) (l : List Nat)

theorem foldl_post_frame (s : State) : let t := l.foldl (fun u j => u.post (due j) prio (ev j)) s
    t = { s with agenda := t.agenda, seq := t.seq } := by
  induction l generalizing s with
  | nil => rfl
  | cons j l ih => exact ih (s.post (due j) prio (ev j))

theorem mem_foldl_post_of_mem {s : State} {x : AEnt} (h : x ∈ s.agenda) :
    x ∈ (l.foldl (fun u j => u.post (due j) prio (ev j)) s).agenda :=
  foldl_keeps (fun u : State => x ∈ u.agenda) _ (fun _ _ hu => mem_post_of_mem _ _ _ hu) _ _ h

theorem mem_foldl_post {s : State} {j : Nat} (h : j ∈ l) :
    ∃ k, ⟨due j, prio, k, ev j⟩ ∈ (l.foldl (fun u j => u.post (due j) prio (ev j)) s).agenda := by
  induction l generalizing s with
  | nil => cases h
  | cons i l ih =>
    rcases List.mem_cons.1 h with rfl | h
    · exact ⟨s.seq, mem_foldl_post_of_mem due prio ev l (mem_post_self ..)⟩
    · exact ih h

end

/-! ### A command enters the sequencer -/

/-- The octet with command `m` in its sequencer and LIVE set. -/
def Octet.enter (k : Octet) (m : MCmd) : Octet :=
  { k.modAcc m.acc (fun q => { q with live := true }) with cmds := k.cmds ++ [m] }

/-- The state with command `m` in the sequencer of octet `o`, and its block steps, its read and its write on the
agenda. -/
def State.sequenced (u : State) (o : Nat) (m : MCmd) : State :=
  let v := (List.range m.kb).foldl (fun v j => v.post (m.issue + 2 + j * m.stepLen) 10 (.blockStep o m.id j))
    (u.modOctet o (·.enter m))
  (v.post (m.issue + m.time + 23 + m.slack) 10 (.mmaRead o m.id)).post (m.issue + m.time + 24 + m.slack) 6
    (.mmaWrite o m.id)

section
variable (u : State) (o : Nat) (m : MCmd)

theorem sequenced_frame : let t := u.sequenced o m
    t = { u with octets := t.octets, agenda := t.agenda, seq := t.seq } := by
  unfold State.sequenced
  dsimp only
  rw [foldl_post_frame]
  rfl

theorem sequenced_octet : (u.sequenced o m).octet o = (u.octet o).enter m := by
  refine Eq.trans ?_ (u.modOctet_octet_self o (·.enter m))
  unfold State.sequenced State.octet
  dsimp only
  rw [State.post_octets, State.post_octets, foldl_post_frame]

theorem enter_live (k : Octet) (ha : m.acc < 8) : (vget Acc.init (k.enter m).accs m.acc).live = true :=
  congrArg Acc.live (octet_modAcc_self k (fun q => { q with live := true }) ha)

theorem sequenced_old {x : AEnt} (h : x ∈ u.agenda) : x ∈ (u.sequenced o m).agenda :=
  mem_post_of_mem _ _ _ (mem_post_of_mem _ _ _ (mem_foldl_post_of_mem _ _ _ _ h))

theorem sequenced_step {j : Nat} (h : j < m.kb) : ∃ k, ⟨m.issue + 2 + j * m.stepLen, 10, k, .blockStep o m.id j⟩ ∈
    (u.sequenced o m).agenda := by
  obtain ⟨k, hk⟩ := mem_foldl_post (fun j => m.issue + 2 + j * m.stepLen) 10 (.blockStep o m.id) (List.range m.kb)
    (s := u.modOctet o (·.enter m))
    (List.mem_range.2 h)
  exact ⟨k, mem_post_of_mem _ _ _ (mem_post_of_mem _ _ _ hk)⟩

theorem sequenced_read : ∃ k, ⟨m.issue + m.time + 23 + m.slack, 10, k, .mmaRead o m.id⟩ ∈ (u.sequenced o m).agenda :=
  ⟨_, mem_post_of_mem _ _ _ (mem_post_self ..)⟩

theorem sequenced_write : ∃ k, ⟨m.issue + m.time + 24 + m.slack, 6, k, .mmaWrite o m.id⟩ ∈ (u.sequenced o m).agenda :=
  ⟨_, mem_post_self ..⟩

end

/-! ### The word -/

theorem fld_tag (t : BitVec 16) (hi lo : Nat) : fld t.toNat hi lo = (t.extractLsb' lo (hi + 1 - lo)).toNat := by
  rw [fld, BitVec.extractLsb'_toNat, Nat.shiftRight_eq_div_pow]

theorem tagEf_eq (t : BitVec 16) : tagEf t = (t.extractLsb' 0 4).toNat := fld_tag t 3 0

theorem stepCycles_eq (ta tb : BitVec 16) : stepCycles ta tb = Spec.stepCyclesOf ta tb := by
  unfold stepCycles Spec.stepCyclesOf tagEf tagPk
  simp only [fld_tag]
  split
  · next h => rw [if_pos h]
  · next h => rw [h]; rfl
  · next h8 h7 => rw [if_neg h8, if_neg h7]

theorem arrayTime_eq (h : BitVec 2) (kb l : Nat) (ta tb : BitVec 16) (hl : l = Spec.stepCyclesOf ta tb) :
    arrayTime h.toNat kb l = Spec.arrayCycles h.toNat kb ta tb := by
  subst hl
  unfold arrayTime Spec.arrayCycles clog2
  split
  · next h0 => rw [if_pos h0]
  · next h1 => rw [if_neg (by omega), if_pos h1]
  · next h0 h1 => rw [if_neg h0, if_neg h1]

theorem operandOk_of_operand {s : State} {p kb ef : Nat} (h : Spec.operand s p kb ef) (hef : ef = 7 ∨ ef = 8 ∨ ef = 9) :
    (s.octet (coreOctet s.cur.core)).operandOk p (16 * kb) ef = true := by
  obtain ⟨htag, hnext⟩ := h
  have hfmt : tagEf (Spec.opSlot s p).tag = ef := (tagEf_eq _).trans htag
  have hok : (ef == 7 || ef == 8 || ef == 9) = true := by rcases hef with rfl | rfl | rfl <;> rfl
  unfold Octet.operandOk
  simp only [octet_slot, hfmt, hok]
  by_cases hlong : ef = 7 ∧ 4 < kb
  · obtain ⟨hp, hsame⟩ := hnext hlong.1 hlong.2
    simp [hp, hsame]
  · simp; omega

/-- The command that an `mma` or `mmaz` puts into the sequencer (08 R162 to R167). -/
def State.mmaCmd (s : State) (zero : Bool) (a p q : Nat) (h : BitVec 2) (w : Word) : MCmd :=
  let ta := (Spec.opSlot s p).tag
  let tb := (Spec.opSlot s q).tag
  let kb := Spec.fieldOf w 18 16 + 1
  let t := arrayTime h.toNat kb (stepCycles ta tb)
  let l := if h = 0 then 16 * stepCycles ta tb else stepCycles ta tb
  let busy (lo : Nat) : Bool := (Spec.oct s).cmds.any (·.occupies lo (lo + l - 1))
  { id := s.seq, core := s.cur.core, bind := s.bindOf s.cur.core, issue := s.ccyc, zero := zero, acc := a, opa := p,
    opb := q, shape := h.toNat, kb := kb, slack := Spec.fieldOf w 31 24, time := t, stepLen := l,
    slotIdx := Spec.fieldOf w 15 0, tagA := ta, tagB := tb, got := [], reruns := 0,
    clash := (List.range kb).filter fun j => busy (s.ccyc + 2 + j * l),
    rerunClash := busy (s.ccyc + t + 2), bad := false, accIn := [], accBad := false }

section
variable {s : State} {sf zero : Bool} {c n : BitVec 3} {p q : BitVec 6} {h : BitVec 2}

theorem mmaOp_ok (hc : s.clear sf) (hh : s.cur.half ≠ .a) (hw : Spec.onWheel s (Spec.oxOf s n.toNat))
    (h63 : Spec.fieldOf (Spec.oxOf s n.toNat) 63 32 = 0) (h23 : Spec.fieldOf (Spec.oxOf s n.toNat) 23 19 = 0)
    (h3 : h ≠ 3) (hg : Spec.given s c.toNat) {ef : Nat} (hef : ef = 7 ∨ ef = 8 ∨ ef = 9)
    (htag : tagEf (Spec.opSlot s p.toNat).tag = ef)
    (hp : Spec.operand s p.toNat (Spec.fieldOf (Spec.oxOf s n.toNat) 18 16 + 1) ef)
    (hq : Spec.operand s q.toNat (Spec.fieldOf (Spec.oxOf s n.toNat) 18 16 + 1) ef) :
    mmaOp zero sf c p q h n s = .next (((s.noted sf).sequenced (coreOctet s.cur.core)
      (s.mmaCmd zero c.toNat p.toNat q.toNat h (Spec.oxOf s n.toNat))).went s.ctx sf .seq) := by
  refine matrixWord_ok hc hh hw (by simpa [fld_eq_fieldOf, h63, h23] using h3) ?_
  simp only [noted_mpar, fld_eq_fieldOf, mIdx_eq_fieldOf, accGiven_of_given hg, State.noted_octet, ctx_octet,
    octet_slot, htag, operandOk_of_operand hp hef, operandOk_of_operand hq hef,
    State.noted_seq, State.ctx_core, State.ctx_bind, State.ctx_now]
  rfl

end

/-- Settles O25: the checks pass, and the command stands in the sequencer with its events on the agenda. -/
theorem matrixCommands : Obligations.MatrixCommands := by
  intro sf zero c n p q h s hc hh w f o kb v ta tb time step ef hw h63 h23 h3 hg hef hp hq
  have htag : tagEf ta = ef := tagEf_eq ta
  have hexec : exec (if zero then .mmaz sf c p q h n else .mma sf c p q h n) s = mmaOp zero sf c p q h n s := by
    cases zero <;> rfl
  have hstep : (s.mmaCmd zero c.toNat p.toNat q.toNat h w).stepLen = step := by
    simp only [State.mmaCmd, stepCycles_eq]
    rfl
  have htime : (s.mmaCmd zero c.toNat p.toNat q.toNat h w).time = time := arrayTime_eq _ _ _ ta tb (stepCycles_eq ..)
  refine ⟨_, s.mmaCmd zero c.toNat p.toNat q.toNat h w, hexec.trans (mmaOp_ok hc hh hw h63 h23 h3 hg hef htag hp hq),
    ?_⟩
  rw [State.went_mem, State.went_agenda, State.went_octet, sequenced_octet, State.noted_octet]
  refine ⟨?_, onward_went_of_cores ?_ ?_, fun e he => sequenced_old _ _ _ (by simpa using he), rfl, ?_, ?_, ?_, ?_, ?_⟩
  · rw [sequenced_frame]; exact s.noted_mem sf
  · rw [sequenced_frame]; exact s.noted_cur sf
  · rw [sequenced_frame]
  · exact enter_live (s.mmaCmd zero c.toNat p.toNat q.toNat h w) _ c.isLt
  · exact ⟨rfl, rfl, rfl, rfl, rfl, rfl, rfl, rfl, rfl, rfl, htime, hstep, rfl⟩
  · intro j hj
    rw [← hstep]
    exact sequenced_step _ _ (s.mmaCmd zero c.toNat p.toNat q.toNat h w) hj
  · rw [← htime]
    exact sequenced_read _ _ (s.mmaCmd zero c.toNat p.toNat q.toNat h w)
  · rw [← htime]
    exact sequenced_write _ _ (s.mmaCmd zero c.toNat p.toNat q.toNat h w)

end Sys2Proof.Machine
end

section
/-!
O27 (08 R160 to R164): lists and blocks of memory as the matrix unit's events take them.

What an event reads or puts out is a list cut into rows, turned into columns or put one after another. Each is brought
to one form, a function of its places (`List.range`), so that an element is read off.
-/

namespace Sys2Proof.Machine

/-! ### Blocks of memory in the canonical form -/

theorem tget_dropWhile {α : Type} (d : α) (t : Tab α) (p : Nat × α → Bool) {k : Nat} (h : ∀ x, p (k, x) = false) :
    tget d (t.dropWhile p) k = tget d t k := by
  induction t with
  | nil => rfl
  | cons q r ih =>
    obtain ⟨i, y⟩ := q
    rw [List.dropWhile_cons]
    split
    · next hp =>
      have hi : i ≠ k := fun e => by rw [e, h] at hp; cases hp
      rw [ih, tget, if_neg hi]
    · rfl

theorem risingFrom_dropWhile {lo : Nat} {m : Memory} (h : risingFrom lo m = true) (key : Nat) :
    risingFrom key (m.dropWhile fun c => c.1 < key) = true := by
  induction m generalizing lo with
  | nil => rfl
  | cons c r ih =>
    obtain ⟨k, b⟩ := c
    simp only [risingFrom, Bool.and_eq_true, decide_eq_true_eq] at h
    rw [List.dropWhile_cons]
    split
    · exact ih h.2
    · next hk =>
      simp only [risingFrom, Bool.and_eq_true, decide_eq_true_eq]
      exact ⟨⟨by simpa using hk, h.1.2⟩, h.2⟩

theorem tget_of_rising {lo k : Nat} {m : Memory} (h : risingFrom lo m = true) (hk : k < lo) : tget 0 m k = 0 := by
  have hnone : ∀ c ∈ m, c.1 ≠ k := fun c hc => by have := risingFrom_mem h hc; omega
  simpa [tget] using tget_append (0 : Byte) m [] k hnone

theorem denseFrom_eq {n k : Nat} {m : Memory} (h : risingFrom k m = true) :
    denseFrom n k m = (List.range n).map fun i => tget 0 m (k + i) := by
  induction n generalizing k m with
  | zero => rfl
  | succ n ih =>
    have hsucc : (List.range (n + 1)).map (fun i => tget 0 m (k + i)) =
        tget 0 m k :: (List.range n).map fun i => tget 0 m (k + 1 + i) := by
      rw [List.range_succ_eq_map, List.map_cons, List.map_map]
      simp [Function.comp_def, Nat.add_right_comm, Nat.add_assoc]
    rw [hsucc]
    match m with
    | [] => rw [denseFrom, ih (m := []) rfl]; rfl
    | (i, b) :: r =>
      simp only [risingFrom, Bool.and_eq_true, decide_eq_true_eq] at h
      obtain ⟨⟨hi, hb⟩, hr⟩ := h
      rw [denseFrom]
      split
      · next hik =>
        subst hik
        rw [ih hr, tget, if_pos rfl]
        congr 1
        refine List.map_congr_left fun j _ => ?_
        rw [tget, if_neg (by omega)]
      · next hik =>
        have hrise : risingFrom (k + 1) ((i, b) :: r) = true := by
          simp only [risingFrom, Bool.and_eq_true, decide_eq_true_eq]
          exact ⟨⟨by omega, hb⟩, hr⟩
        rw [ih hrise, tget_of_rising hrise (by omega)]

/-- A block of memory in the canonical form is the bytes at its places. -/
theorem Memory.block_eq_readN {m : Memory} (h : m.wf = true) (key n : Nat) : m.block key n = m.readN key n := by
  rw [Memory.block, denseFrom_eq (risingFrom_dropWhile h key), Memory.readN]
  exact List.map_congr_left fun i _ => tget_dropWhile _ _ _ (by simp)

theorem Memory.readN_getD (m : Memory) (key : Nat) {n i : Nat} (h : i < n) :
    (m.readN key n).getD i 0 = m.read (key + i) := getD_map_range _ _ h

/-! ### Rows and columns -/

theorem take_drop_eq_map {α : Type} (d : α) {l : List α} {a n : Nat} (h : a + n ≤ l.length) :
    (l.drop a).take n = (List.range n).map fun j => l.getD (a + j) d := by
  refine List.ext_getElem (by simp; omega) fun i hi hi' => ?_
  have hlt : i < n := by simpa using hi'
  simp [List.getElem?_eq_getElem (show a + i < l.length by omega)]

/-- A list of `k` pieces of `n`, cut. -/
theorem chunks_eq_map {α : Type} (d : α) {n k : Nat} (hn : 0 < n) {l : List α} (h : l.length = n * k) :
    chunks n k l = (List.range k).map fun i => (List.range n).map fun j => l.getD (n * i + j) d := by
  induction k generalizing l with
  | zero => rfl
  | succ k ih =>
    rw [Nat.mul_succ] at h
    have hcons : chunks n (k + 1) l = l.take n :: chunks n k (l.drop n) := by
      cases l with
      | nil => simp at h; omega
      | cons x l => rfl
    have hhead : l.take n = (List.range n).map fun j => l.getD (n * 0 + j) d := by
      simpa using take_drop_eq_map d (l := l) (a := 0) (n := n) (by omega)
    rw [hcons, ih (by rw [List.length_drop]; omega), List.range_succ_eq_map, List.map_cons, List.map_map, ← hhead]
    congr 1
    refine List.map_congr_left fun i _ => List.map_congr_left fun j _ => ?_
    simp only [List.getD_eq_getElem?_getD, List.getElem?_drop, Nat.mul_succ]
    congr 2
    omega

/-- Rows of `n` places turned into columns. -/
theorem columns_eq_map {α : Type} (d : α) {n : Nat} {rows : List (List α)} (h : ∀ r ∈ rows, r.length = n) :
    columns n rows = (List.range n).map fun k => rows.map fun r => r.getD k d := by
  induction n generalizing rows with
  | zero => rfl
  | succ n ih =>
    have hhead : rows.filterMap (·.head?) = rows.map fun r => r.getD 0 d := by
      rw [← List.filterMap_eq_map]
      refine List.filterMap_congr fun r hr => ?_
      obtain ⟨x, q, rfl⟩ := List.exists_cons_of_length_eq_add_one (h r hr)
      rfl
    have htail : ∀ r ∈ rows.map List.tail, r.length = n := by
      intro r hr
      obtain ⟨q, hq, rfl⟩ := List.mem_map.1 hr
      simp [h q hq]
    rw [columns, ih htail, hhead, List.range_succ_eq_map, List.map_cons, List.map_map]
    congr 1
    refine List.map_congr_left fun k _ => ?_
    rw [List.map_map]
    refine List.map_congr_left fun r hr => ?_
    obtain ⟨x, q, rfl⟩ := List.exists_cons_of_length_eq_add_one (h r hr)
    rfl

/-- Rows of `n` put one after another: place `n * i + j` is place `j` of row `i`. -/
theorem getD_flatten_rows {α : Type} (d : α) {n k i j : Nat} (f : Nat → Nat → α) (hi : i < k) (hj : j < n) :
    ((List.range k).map fun i => (List.range n).map fun j => f i j).flatten.getD (n * i + j) d = f i j := by
  have hrows : ∀ l ∈ (List.range k).map (fun i => (List.range n).map fun j => f i j), l.length = n := by
    intro l hl
    obtain ⟨i, -, rfl⟩ := List.mem_map.1 hl
    simp
  rw [getD_flatten (by omega) hrows, Nat.mul_add_div (by omega), Nat.div_eq_of_lt hj, Nat.mul_add_mod,
    Nat.mod_eq_of_lt hj, Nat.add_zero, getD_map_range _ _ hi, getD_map_range _ _ hj]

theorem length_flatten_rows {α : Type} (n k : Nat) (f : Nat → Nat → α) :
    ((List.range k).map fun i => (List.range n).map fun j => f i j).flatten.length = n * k := by
  rw [List.length_flatten, List.map_map]
  simp [Function.comp_def, Nat.mul_comm]

/-! ### Numbers put one after another -/

theorem length_flatten_leBytes {α : Type} (n : Nat) (f : α → Nat) (l : List α) :
    (l.map fun v => leBytes n (f v)).flatten.length = n * l.length := by
  induction l with
  | nil => rfl
  | cons v l ih => rw [List.map_cons, List.flatten_cons, List.length_append, ih, length_leBytes, List.length_cons]; ring

theorem getD_flatten_leBytes {α : Type} {n e i : Nat} (f : α → Nat) (d : α) {l : List α} (he : e < l.length)
    (hi : i < n) :
    (l.map fun v => leBytes n (f v)).flatten.getD (n * e + i) 0 = (leBytes n (f (l.getD e d))).getD i 0 := by
  have hlen : ∀ q ∈ l.map (fun v => leBytes n (f v)), q.length = n := by
    intro q hq
    obtain ⟨v, -, rfl⟩ := List.mem_map.1 hq
    exact length_leBytes ..
  rw [getD_flatten (by omega) hlen, Nat.mul_add_div (by omega), Nat.div_eq_of_lt hi, Nat.mul_add_mod,
    Nat.mod_eq_of_lt hi, Nat.add_zero, List.getD_eq_getElem _ [] (by simpa using he),
    List.getElem_map, List.getD_eq_getElem _ _ he]

theorem tget_eq_tfind {α : Type} (d : α) (t : Tab α) (k : Nat) : tget d t k = (tfind t k).getD d := by
  induction t with
  | nil => rfl
  | cons p r ih =>
    obtain ⟨i, x⟩ := p
    rw [tget, tfind]
    split
    · rfl
    · exact ih

end Sys2Proof.Machine
end

section
/-!
O27 (08 R162, R164, R166, R167): block steps, and the read and the write of a command.
-/

namespace Sys2Proof.Machine

section
variable {s : State} {o id : Nat} {m : MCmd}

/-! ### Commands of the sequencer -/

theorem find?_map_id (l : List MCmd) (f : MCmd → MCmd) (hf : ∀ m, (f m).id = m.id) :
    (l.map fun m => if m.id = id then f m else m).find? (·.id == id) = (l.find? (·.id == id)).map f := by
  induction l with
  | nil => rfl
  | cons m l ih =>
    by_cases h : m.id = id
    · simp [h, hf]
    · simp [h, ih]

/-- The command that the sequencer holds under its number, after it changed. -/
theorem modCmd_find {u : State} (f : MCmd → MCmd) (hf : ∀ m, (f m).id = m.id)
    (h : (u.octet o).cmds.find? (·.id == id) = some m) :
    ((u.modCmd o id f).octet o).cmds.find? (·.id == id) = some (f m) := by
  rw [State.modCmd, State.modOctet_octet_self, find?_map_id _ _ hf, h]
  rfl

/-! ### Block steps (08 R166, R167) -/

/-- The sequencer after a step of command `id` read its columns `g`. -/
def State.captured (s : State) (o id j : Nat) (g : Captured) : State :=
  (s.modOctet o fun k => { k with arrayErr := false }).modCmd o id fun m => { m with got := tset m.got j g }

theorem captured_find (h : (s.octet o).cmds.find? (·.id == id) = some m) (j : Nat) (g : Captured) :
    ((s.captured o id j g).octet o).cmds.find? (·.id == id) = some { m with got := tset m.got j g } :=
  modCmd_find _ (fun _ => rfl) (by rw [State.modOctet_octet_self]; exact h)

theorem noteBad_eq (u : State) (l : List (LogPlace × Nat)) :
    ∃ log, u.noteBad l = { u with dev := { u.dev with log := log } } := by
  induction l generalizing u with
  | nil => exact ⟨u.dev.log, rfl⟩
  | cons p l ih => exact ih (u.noteErr p.1 false p.2)

/-- Errors that an event logs change the log alone. -/
theorem logged_eq (u : State) (l : List (LogPlace × Nat)) (c : Bool) (p : LogPlace) (ok : Bool) (key : Nat) : ∃ log,
    (if c = true then (u.noteBad l).noteErr p ok key else u.noteBad l) =
      { u with dev := { u.dev with log := log } } := by
  obtain ⟨log, h⟩ := noteBad_eq u l
  rw [h]
  split
  · exact ⟨_, rfl⟩
  · exact ⟨log, rfl⟩

/-- What a first run of a block step sees as a mismatch: an error of the array, a word of bad parity, array cycles
already taken. -/
def Octet.mismatch (k : Octet) (m : MCmd) (j : Nat) : Bool :=
  k.arrayErr || !(k.stepBad m.opa m.tagA j).isEmpty || !(k.stepBad m.opb m.tagB j).isEmpty || m.clash.contains j

theorem blockStep_good {j : Nat} (hm : (s.octet o).cmds.find? (·.id == id) = some m) (hj : tfind m.got j = none)
    (hbad : (s.octet o).mismatch m j = false) : s.blockStep o id j =
      s.captured o id j ⟨s.stepRows o m.opa m.tagA j, s.stepRows o m.opb m.tagB j⟩ := by
  simp only [Octet.mismatch, Bool.or_eq_false_iff, Bool.not_eq_false', List.isEmpty_iff] at hbad
  obtain ⟨⟨⟨herr, hA⟩, hB⟩, hclash⟩ := hbad
  unfold State.blockStep
  simp only [hm, hj, herr, hA, hB, hclash]
  rfl

theorem blockStep_bad {j : Nat} (hm : (s.octet o).cmds.find? (·.id == id) = some m) (hj : tfind m.got j = none)
    (hbad : (s.octet o).mismatch m j = true) : ∃ log,
      let u := s.captured o id j ⟨s.stepRows o m.opa m.tagA j, s.stepRows o m.opb m.tagB j⟩
      let u := { u with dev := { u.dev with log := log } }
      s.blockStep o id j =
        if m.reruns = 0 ∧ m.stepLen ≤ m.slack then
          (u.modCmd o id fun m => { m with reruns := 1 }).post (m.issue + m.time + 2) 10 (.blockStep o id j)
        else u.modCmd o id fun m => { m with bad := true } := by
  have hwords (A B : List (Nat × Nat)) : (A ++ B).dedup.isEmpty = (A.isEmpty && B.isEmpty) := by
    rw [Bool.eq_iff_iff, List.isEmpty_iff, List.dedup_eq_nil]
    simp
  have hbad' : ((s.octet o).arrayErr || m.clash.contains j ||
      !((s.octet o).stepBad m.opa m.tagA j ++ (s.octet o).stepBad m.opb m.tagB j).dedup.isEmpty) = true := by
    rw [← hbad, Octet.mismatch, hwords, Bool.not_and, Bool.or_assoc, Bool.or_comm (m.clash.contains j)]
    simp only [Bool.or_assoc]
  unfold State.blockStep
  simp only [hm, hj, Option.isSome_none, Bool.false_eq_true, if_false, hbad', Bool.not_true]
  obtain ⟨log, hlog⟩ := logged_eq (s.captured o id j ⟨s.stepRows o m.opa m.tagA j, s.stepRows o m.opb m.tagB j⟩)
    (((s.octet o).stepBad m.opa m.tagA j ++ (s.octet o).stepBad m.opb m.tagB j).dedup.map fun w =>
      (.slot, slotKey o w.1 (8 * w.2))) ((s.octet o).arrayErr || m.clash.contains j) .array
    (m.reruns == 0 && decide (m.stepLen ≤ m.slack)) o
  unfold State.captured at hlog
  rw [hlog]
  exact ⟨log, rfl⟩

end

end Sys2Proof.Machine
end

section
/-!
O27: the sequencer's events assembled (08 R162, R164, R166, R167).
-/

namespace Sys2Proof.Machine

section
variable {s : State} {o id : Nat} {m : MCmd}

theorem blockStep_results {j : Nat} (hm : (s.octet o).cmds.find? (·.id == id) = some m) (hj : tfind m.got j = none) :
    let bad := (s.octet o).mismatch m j
    ∃ n, (s.blockStep o id j).mem = s.mem ∧ ((s.blockStep o id j).octet o).cmds.find? (·.id == id) = some n ∧
      tfind n.got j = some ⟨s.stepRows o m.opa m.tagA j, s.stepRows o m.opb m.tagB j⟩ ∧ n.time = m.time ∧
      (bad = false → n.bad = m.bad ∧ n.reruns = m.reruns ∧ (s.blockStep o id j).agenda = s.agenda) ∧
      (bad = true → m.reruns = 0 → m.stepLen ≤ m.slack → n.bad = m.bad ∧ n.reruns = 1 ∧
        ∃ k, ⟨m.issue + m.time + 2, 10, k, .blockStep o id j⟩ ∈ (s.blockStep o id j).agenda) ∧
      (bad = true → ¬ (m.reruns = 0 ∧ m.stepLen ≤ m.slack) →
        n.bad = true ∧ (s.blockStep o id j).agenda = s.agenda) := by
  intro bad
  have hgot (g : Captured) : tfind (tset m.got j g) j = some g := by simp [tfind_tset]
  have hcap := captured_find hm j ⟨s.stepRows o m.opa m.tagA j, s.stepRows o m.opb m.tagB j⟩
  cases hbad : bad with
  | false =>
    rw [blockStep_good hm hj hbad]
    exact ⟨_, rfl, hcap, hgot _, rfl, fun _ => ⟨rfl, rfl, rfl⟩, nofun, nofun⟩
  | true =>
    obtain ⟨log, hstep⟩ := blockStep_bad hm hj hbad
    rw [hstep]
    by_cases hroom : m.reruns = 0 ∧ m.stepLen ≤ m.slack
    · rw [if_pos hroom]
      exact ⟨_, rfl, modCmd_find _ (fun _ => rfl) hcap, hgot _, rfl, nofun,
        fun _ _ _ => ⟨rfl, rfl, _, mem_post_self ..⟩, fun _ h => absurd hroom h⟩
    · rw [if_neg hroom]
      exact ⟨_, rfl, modCmd_find _ (fun _ => rfl) hcap, hgot _, rfl, nofun, fun _ h h' => absurd ⟨h, h'⟩ hroom,
        fun _ _ => ⟨rfl, rfl⟩⟩

/-! ### Reading the accumulator (08 R162, R164) -/

/-- The values of an accumulator slot are the numbers in its bytes. -/
theorem accVals_getD (hmem : s.memOk) (a : Nat) {k : Nat} (hk : k < 16384) :
    (s.accVals o a).getD k 0 = BitVec.ofNat 32 (s.mem.readLe (Spec.accAt o a (4 * k)) 4) := by
  rw [State.accVals, Memory.block_eq_readN hmem]
  have hmap := List.getD_map (n := k) (chunks 4 16384 (s.mem.readN (accBytes o a) 0x10000)) []
    fun b => BitVec.ofNat 32 (ofBytes b)
  refine hmap.trans ?_
  rw [getD_chunks hk (by rw [Memory.length_readN]; omega), Memory.readN_part _ _ (by omega), accBytes_add,
    Memory.readLe]

/-- The state after the read of an accumulator slot is logged. -/
def State.accLogged (u : State) (o a : Nat) : State :=
  { u with dev := { u.dev with log := u.dev.log ++ logMarks u.ccyc (marksIn u.ecc (accBytes o a) 0x10000) } }

/-- A read of an accumulator slot logs its errors, and the pattern in its words sets POISON (14 R252). -/
theorem readAcc_eq (u : State) (o a : Nat) : u.readAcc o a =
    if poisoned u.ecc (Spec.accAt o a 0) 0x10000 then
      (u.accLogged o a).modOctet o (·.modAcc a fun q => { q with poison := true })
    else u.accLogged o a := by
  have hkey : Spec.accAt o a 0 = accBytes o a := by rw [← accBytes_add, Nat.add_zero]
  unfold State.readAcc State.accLogged
  rw [hkey]

theorem readAcc_frame (u : State) (o a : Nat) : let t := u.readAcc o a
    t = { u with octets := t.octets, dev := { u.dev with log := t.dev.log } } := by
  rw [readAcc_eq]
  split <;> rfl

theorem readAcc_cmds (u : State) (o a : Nat) : ((u.readAcc o a).octet o).cmds = (u.octet o).cmds := by
  rw [readAcc_eq]
  split
  · rw [State.modOctet_octet_self]; rfl
  · rfl

theorem readAcc_poison (u : State) (o a : Nat) : (((u.readAcc o a).octet o).acc a).poison =
    ((vget Acc.init (u.octet o).accs a).poison || (a < 8 && poisoned u.ecc (Spec.accAt o a 0) 0x10000)) := by
  rw [readAcc_eq]
  split
  · next hp =>
    rw [State.modOctet_octet_self, hp, Bool.and_true]
    by_cases ha : a < 8
    · rw [decide_eq_true ha, Bool.or_true]
      exact congrArg Acc.poison (octet_modAcc_self _ (fun q => { q with poison := true }) ha)
    · have hsame (k : Octet) (f : Acc → Acc) : k.modAcc a f = k := by
        rw [Octet.modAcc, vput, Vector.setIfInBounds_eq_of_size_le (by omega)]
      rw [decide_eq_false ha, Bool.or_false, hsame]
      rfl
  · next hp =>
    rw [Bool.eq_false_iff.2 hp, Bool.and_false, Bool.or_false]
    rfl

theorem mmaRead_results (hm : (s.octet o).cmds.find? (·.id == id) = some m) :
    ∃ n, (s.mmaRead o id).mem = s.mem ∧ (s.mmaRead o id).agenda = s.agenda ∧
      ((s.mmaRead o id).octet o).cmds.find? (·.id == id) = some n ∧
      (m.zero = true → n.accIn = List.replicate 16384 0 ∧ n.accBad = m.accBad) ∧
      (m.zero = false → (s.memOk → ∀ k < 16384,
          n.accIn.getD k 0 = BitVec.ofNat 32 (s.mem.readLe (Spec.accAt o m.acc (4 * k)) 4)) ∧
        n.accBad = ((vget Acc.init (s.octet o).accs m.acc).poison ||
          (m.acc < 8 && poisoned s.ecc (Spec.accAt o m.acc 0) 0x10000))) := by
  unfold State.mmaRead
  simp only [hm]
  cases hz : m.zero with
  | true => exact ⟨_, rfl, rfl, modCmd_find _ (fun _ => rfl) hm, fun _ => ⟨rfl, rfl⟩, nofun⟩
  | false =>
    have hmem : (s.readAcc o m.acc).mem = s.mem := by rw [readAcc_frame]
    have hagenda : (s.readAcc o m.acc).agenda = s.agenda := by rw [readAcc_frame]
    have hvals : (s.readAcc o m.acc).accVals o m.acc = s.accVals o m.acc := by rw [State.accVals, hmem]; rfl
    rw [if_neg (by simp)]
    refine ⟨_, hmem, hagenda, modCmd_find _ (fun _ => rfl) ((readAcc_cmds s o m.acc).symm ▸ hm), nofun, fun _ =>
      ⟨fun hok k hk => ?_, readAcc_poison ..⟩⟩
    rw [← accVals_getD hok _ hk, ← hvals]

/-! ### Writing the accumulator (08 R162, R164, R167) -/

/-- The new value of output `(i, j)` of a command (08 R162): the fold of its blocks of sixteen products onto the value
read. -/
def MCmd.output (m : MCmd) (i j : Nat) : BitVec 32 :=
  BitVec.ofNat 32 (foldShape m.shape (adderW (tagEf m.tagA)) (m.accIn.getD (128 * i + j) 0).toNat
    ((List.range m.kb).map fun k =>
      (((tget ⟨[], []⟩ m.got k).a.getD i []).zip ((tget ⟨[], []⟩ m.got k).b.getD j [])).map fun x => x.1.mul x.2))

theorem results_eq (hacc : m.accIn.length = 16384) : m.results =
    ((List.range 128).map fun i => (List.range 128).map fun j => m.output i j).flatten := by
  unfold MCmd.results
  simp only [chunks_eq_map (0 : BitVec 32) (show 0 < 128 by decide) (show m.accIn.length = 128 * 128 from hacc),
    operandRow, List.zip_map', List.map_map, Function.comp_def]
  rfl

/-- The bytes of a command's results. -/
def MCmd.bytes (m : MCmd) : List Byte := (m.results.map fun v => leBytes 4 v.toNat).flatten

theorem length_results (hacc : m.accIn.length = 16384) : m.results.length = 16384 := by
  rw [results_eq hacc, length_flatten_rows]

theorem length_bytes (hacc : m.accIn.length = 16384) : m.bytes.length = 0x10000 := by
  rw [MCmd.bytes, length_flatten_leBytes, length_results hacc]

theorem bytes_getD (hacc : m.accIn.length = 16384) {i j b : Nat} (hi : i < 128) (hj : j < 128) (hb : b < 4) :
    m.bytes.getD (4 * (128 * i + j) + b) 0 = (leBytes 4 (m.output i j).toNat).getD b 0 := by
  rw [MCmd.bytes, getD_flatten_leBytes _ (0 : BitVec 32) (by rw [length_results hacc]; omega) hb, results_eq hacc,
    getD_flatten_rows _ _ hi hj]

/-- What the write leaves of an octet: the slot's state bits, and the sequencer without the command. -/
def Octet.finish (k : Octet) (m : MCmd) (id : Nat) : Octet :=
  { k.modAcc m.acc (fun q => { q with live := true, poison := (m.bad || m.accBad) || (q.poison && !m.zero) }) with
    cmds := k.cmds.filter (·.id != id) }

/-- The state after a command's write, before its trap. -/
def State.written (s : State) (o id : Nat) (m : MCmd) : State :=
  (s.write (accBytes o m.acc) m.bytes).modOctet o (·.finish m id)

theorem mmaWrite_cases (hm : (s.octet o).cmds.find? (·.id == id) = some m) : s.mmaWrite o id =
    if m.bad then (s.written o id m).pendTrap m.core .x 0x11 0 (matrixVal m.acc 0 m.slotIdx) else s.written o id m := by
  unfold State.mmaWrite
  simp only [hm]
  rfl

theorem written_eq (s : State) (o id : Nat) (m : MCmd) : ∃ ecc log, s.written o id m =
    { s with mem := s.mem.write (accBytes o m.acc) m.bytes, ecc := ecc, dev := { s.dev with log := log },
             octets := tset s.octets o ((s.octet o).finish m id) } := by
  obtain ⟨ecc, log, h⟩ := s.write_eq (accBytes o m.acc) m.bytes
  exact ⟨ecc, log, by rw [State.written, h]; rfl⟩

theorem mmaWrite_mem (hm : (s.octet o).cmds.find? (·.id == id) = some m) :
    (s.mmaWrite o id).mem = s.mem.write (accBytes o m.acc) m.bytes := by
  obtain ⟨ecc, log, h⟩ := written_eq s o id m
  rw [mmaWrite_cases hm, h]
  split <;> rfl

theorem mmaWrite_agenda (hm : (s.octet o).cmds.find? (·.id == id) = some m) : (s.mmaWrite o id).agenda = s.agenda := by
  obtain ⟨ecc, log, h⟩ := written_eq s o id m
  rw [mmaWrite_cases hm, h]
  split <;> rfl

theorem mmaWrite_octet (hm : (s.octet o).cmds.find? (·.id == id) = some m) :
    (s.mmaWrite o id).octet o = (s.octet o).finish m id := by
  obtain ⟨ecc, log, h⟩ := written_eq s o id m
  rw [mmaWrite_cases hm, h]
  split <;> exact tget_tset_self ..

theorem matrixVal_eq (a i : Nat) : matrixVal a 0 i = BitVec.ofNat 64 (i * 2 ^ 16 + a * 2 ^ 8) := by
  simp [matrixVal, pack]

theorem mmaWrite_good (hm : (s.octet o).cmds.find? (·.id == id) = some m) (hbad : m.bad = false) :
    (s.mmaWrite o id).cores = s.cores := by
  obtain ⟨ecc, log, h⟩ := written_eq s o id m
  rw [mmaWrite_cases hm, hbad, h]
  rfl

/-- A mismatch that poisoned the result is a data-error trap of the issuing X-stream (08 R167). -/
theorem mmaWrite_bad (hm : (s.octet o).cmds.find? (·.id == id) = some m) (hbad : m.bad = true)
    (hended : (s.stream m.core .x).run ≠ .ended) (habsent : (s.stream m.core .x).run ≠ .absent) :
    (s.mmaWrite o id).stream m.core .x = { s.stream m.core .x with pend := (s.stream m.core .x).pend ++
      [⟨0x11, 0, BitVec.ofNat 64 (m.slotIdx * 2 ^ 16 + m.acc * 2 ^ 8), s.ccyc⟩] } := by
  obtain ⟨ecc, log, h⟩ := written_eq s o id m
  rw [mmaWrite_cases hm, if_pos hbad, h, State.pendTrap, State.modStream_stream_self, matrixVal_eq]
  exact if_neg (not_or.2 ⟨hended, habsent⟩)

theorem output_eq_spec (m : MCmd) (i j : Nat) : m.output i j =
    let rows (j : Nat) : Captured := (tfind m.got j).getD ⟨[], []⟩
    BitVec.ofNat 32 (foldShape m.shape (adderW (m.tagA.extractLsb' 0 4).toNat) (m.accIn.getD (128 * i + j) 0).toNat
      ((List.range m.kb).map fun k =>
        (((rows k).a.getD i []).zip ((rows k).b.getD j [])).map fun x => x.1.mul x.2)) := by
  rw [MCmd.output, tagEf_eq]
  simp only [tget_eq_tfind]

theorem mmaWrite_value (hm : (s.octet o).cmds.find? (·.id == id) = some m) (hacc : m.accIn.length = 16384) {i j : Nat}
    (hi : i < 128) (hj : j < 128) :
    (s.mmaWrite o id).mem.readLe (Spec.accAt o m.acc (4 * (128 * i + j))) 4 = (m.output i j).toNat := by
  have hread : ∀ b < 4, (s.mmaWrite o id).mem.read (Spec.accAt o m.acc (4 * (128 * i + j)) + b) =
      (leBytes 4 (m.output i j).toNat).getD b 0 := by
    intro b hb
    have hlt : 4 * (128 * i + j) + b < 0x10000 := by omega
    rw [accAt_add, ← accBytes_add, mmaWrite_mem hm, Memory.read_write, length_bytes hacc, if_pos (by omega),
      Nat.add_sub_cancel_left, bytes_getD hacc hi hj hb]
  have hlt : (m.output i j).toNat < 256 ^ 4 := (m.output i j).isLt.trans_eq (by norm_num)
  rw [Memory.readLe_eq hread, Nat.mod_eq_of_lt hlt]

theorem mmaWrite_outside (hm : (s.octet o).cmds.find? (·.id == id) = some m) (hacc : m.accIn.length = 16384) {k : Nat}
    (hk : k < Spec.accAt o m.acc 0 ∨ Spec.accAt o m.acc 0x10000 ≤ k) : (s.mmaWrite o id).mem.read k = s.mem.read k := by
  have hout : ¬ (accBytes o m.acc ≤ k ∧ k < accBytes o m.acc + m.bytes.length) := by
    rw [length_bytes hacc]
    simp only [← accBytes_add] at hk
    omega
  rw [mmaWrite_mem hm, Memory.read_write, if_neg hout]

end

/-! ### The statement -/

theorem matrixSteps : Spec.matrixSteps := by
  intro s e rest o id m ha hd hm
  refine ⟨fun j he hj => ?_, fun he => ?_, fun he hacc ha8 _ => ?_⟩
  · obtain ⟨n, h⟩ := blockStep_results (s := { s with agenda := rest }) hm hj
    exact ⟨_, n, exec_event ha hd he rfl rfl, h⟩
  · obtain ⟨n, h⟩ := mmaRead_results (s := { s with agenda := rest }) hm
    exact ⟨_, n, exec_event ha hd he rfl rfl, h⟩
  · have hm' : (({ s with agenda := rest } : State).octet o).cmds.find? (·.id == id) = some m := hm
    have hoctet := mmaWrite_octet hm'
    have hslot := octet_modAcc_self (s.octet o) (a := m.acc)
      (fun q => { q with live := true, poison := (m.bad || m.accBad) || (q.poison && !m.zero) }) ha8
    refine ⟨({ s with agenda := rest } : State).mmaWrite o id, exec_event ha hd he rfl rfl, mmaWrite_agenda hm',
      fun i hi j hj => ?_, fun k hk => mmaWrite_outside hm' hacc hk, ?_, ?_, mmaWrite_good hm',
      fun hbad hended habsent => mmaWrite_bad hm' hbad hended habsent⟩
    · rw [mmaWrite_value hm' hacc hi hj, output_eq_spec]
    · rw [hoctet]; exact congrArg Acc.live hslot
    · rw [hoctet]; exact congrArg Acc.poison hslot

end Sys2Proof.Machine
end

section
/-!
O27 (08 R160, R161, R169): fills, transposes and write-backs.
-/

namespace Sys2Proof.Machine

section
variable {s : State} {o id : Nat}

/-! ### Fills (08 R160) -/

/-- What an engine reads does not depend on the agenda. -/
theorem engineRead_agenda (s : State) (l : List AEnt) (b p n : Nat) :
    ({ s with agenda := l } : State).engineRead b p n = s.engineRead b p n := rfl

theorem fillRead_results {f : Fill} (hf : (s.octet o).fills = [f]) (hid : f.id = id) (c src left : Nat) :
    ∃ g, (s.fillRead o id c src left).mem = s.mem ∧ ((s.fillRead o id c src left).octet o).fills = [g] ∧
      g.bytes = f.bytes ++ (s.engineRead (s.bindOf c) src 256).1 ∧ g.slot = f.slot ∧
      (left ≤ 1 → (s.fillRead o id c src left).agenda = s.agenda) ∧
      (1 < left → ∃ k, ⟨s.ccyc + 1, 10, k, .fillRead o id c (src + 256) (left - 1)⟩ ∈
        (s.fillRead o id c src left).agenda) := by
  let r := s.engineRead (s.bindOf c) src 256
  let g : Fill := { f with bytes := f.bytes ++ r.1, badAt := f.badAt ++ r.2.map fun b => (f.bytes.length + b) / 8 }
  let u := (s.noteRead (s.engineKeys (s.bindOf c) src 256)).modOctet o fun k =>
    { k with fills := k.fills.map fun f =>
        if f.id = id then
          { f with bytes := f.bytes ++ r.1, badAt := f.badAt ++ r.2.map fun b => (f.bytes.length + b) / 8 }
        else f }
  have hfills : (u.octet o).fills = [g] := by
    have hf' : ((s.noteRead (s.engineKeys (s.bindOf c) src 256)).octet o).fills = [f] := hf
    simp only [u, State.modOctet_octet_self, hf', List.map_cons, List.map_nil, if_pos hid]
    rfl
  have hcase : s.fillRead o id c src left =
      if left ≤ 1 then u else u.post (s.ccyc + 1) 10 (.fillRead o id c (src + 256) (left - 1)) := rfl
  rw [hcase]
  by_cases hleft : left ≤ 1
  · rw [if_pos hleft]
    exact ⟨g, rfl, hfills, rfl, rfl, fun _ => rfl, fun h => absurd hleft (by omega)⟩
  · rw [if_neg hleft]
    exact ⟨g, rfl, hfills, rfl, rfl, fun h => absurd h hleft, fun _ => ⟨_, mem_post_self ..⟩⟩

/-- What is put into an operand slot in place. -/
theorem writeSlot_frame (u : State) (o p : Nat) (bs : List Byte) (bad : List Nat) :
    let t := u.writeSlot o p bs bad
    t = { u with octets := t.octets, mem := u.mem.write (slotKey o p 0) bs, ecc := t.ecc,
                 dev := { u.dev with log := t.dev.log } } := by
  obtain ⟨ecc, log, h⟩ := u.write_eq (slotKey o p 0) bs
  unfold State.writeSlot
  rw [h]
  rfl

theorem slotKey_add (o p j : Nat) : slotKey o p 0 + j = slotKey o p j := by
  rw [slotKey, slotKey, Nat.add_zero]

/-- The bytes of a slot after a write from its first byte on. -/
theorem slot_read (m : Memory) (o p : Nat) (bs : List Byte) {j : Nat} (hj : j < bs.length) :
    (m.write (slotKey o p 0) bs).read (slotKey o p j) = bs.getD j 0 := by
  rw [← slotKey_add o p j, Memory.read_write, if_pos (by omega), Nat.add_sub_cancel_left]

theorem slot_read_out (m : Memory) (o p : Nat) (bs : List Byte) {k n : Nat} (hn : bs.length ≤ n)
    (hk : k < slotKey o p 0 ∨ slotKey o p n ≤ k) : (m.write (slotKey o p 0) bs).read k = m.read k := by
  rw [← slotKey_add o p n] at hk
  rw [Memory.read_write, if_neg (by omega)]

theorem fillDone_frame {f : Fill} (hf : (s.octet o).fills.find? (·.id == id) = some f) : let t := s.fillDone o id
    t = { s with octets := t.octets, mem := s.mem.write (slotKey o f.slot 0) (f.bytes.take (16384 + f.scaleLen)),
                 ecc := t.ecc, dev := { s.dev with log := t.dev.log } } := by
  unfold State.fillDone
  simp only [hf]
  rw [writeSlot_frame]
  rfl

theorem fillDone_results {f : Fill} (hf : (s.octet o).fills.find? (·.id == id) = some f) :
    (s.fillDone o id).agenda = s.agenda ∧
      (∀ j < min f.bytes.length (16384 + f.scaleLen),
        (s.fillDone o id).mem.read (slotKey o f.slot j) = f.bytes.getD j 0) ∧
      (∀ k, (k < slotKey o f.slot 0 ∨ slotKey o f.slot f.bytes.length ≤ k) →
        (s.fillDone o id).mem.read k = s.mem.read k) ∧
      (s.fillDone o id).cores = s.cores := by
  rw [fillDone_frame hf]
  refine ⟨rfl, fun j hj => ?_, fun k hk => slot_read_out _ _ _ _ (List.length_take_le' ..) hk, rfl⟩
  have htake : (f.bytes.take (16384 + f.scaleLen)).getD j 0 = f.bytes.getD j 0 := by
    rw [List.getD_eq_getElem?_getD, List.getElem?_take_of_lt (by omega), List.getD_eq_getElem?_getD]
  rw [← htake]
  exact slot_read _ _ _ _ (by rw [List.length_take]; omega)

/-! ### Transposes (08 R161) -/

/-- Element `i` of column `k` of a source slot, as its transpose puts it out. -/
theorem mtrRead_results (c src dst : Nat) (hpaths : (s.octet o).paths = []) :
    ∃ x, (s.mtrRead o id c src dst).mem = s.mem ∧ (s.mtrRead o id c src dst).agenda = s.agenda ∧
      ((s.mtrRead o id c src dst).octet o).paths = [x] ∧ x.id = id ∧ x.core = c ∧ x.dst = dst ∧
      (s.memOk → ∀ i < 128, ∀ k < 128, x.bytes.getD (128 * k + i) 0 = s.mem.read (slotKey o src (128 * i + k))) := by
  have hp : ((s.mtrRead o id c src dst).octet o).paths = ((s.octet o).paths.map _) ++ [_] :=
    congrArg Octet.paths (s.modOctet_octet_self o _)
  rw [hpaths, List.map_nil, List.nil_append] at hp
  refine ⟨_, rfl, rfl, hp, rfl, rfl, rfl, fun hok i hi k hk => ?_⟩
  dsimp only
  rw [Memory.block_eq_readN hok, chunks_eq_map 0 (show 0 < 128 by decide) (Memory.length_readN ..),
    columns_eq_map 0 (n := 128) (by simp), ← slotKey_add o src (128 * i + k)]
  simp only [List.map_map, Function.comp_def]
  rw [getD_flatten_rows _ _ hk hi, getD_map_range _ _ hk, Memory.readN_getD _ _ (by omega)]

theorem mtrDone_frame {x : Transpose} (hx : (s.octet o).paths.find? (·.id == id) = some x) : let t := s.mtrDone o id
    t = { s with octets := t.octets, mem := s.mem.write (slotKey o x.dst 0) x.bytes, ecc := t.ecc,
                 dev := { s.dev with log := t.dev.log } } := by
  unfold State.mtrDone
  simp only [hx]
  rw [writeSlot_frame]
  rfl

theorem mtrDone_results {x : Transpose} (hx : (s.octet o).paths.find? (·.id == id) = some x) :
    (s.mtrDone o id).agenda = s.agenda ∧
      (∀ j < x.bytes.length, (s.mtrDone o id).mem.read (slotKey o x.dst j) = x.bytes.getD j 0) ∧
      (∀ k, (k < slotKey o x.dst 0 ∨ slotKey o x.dst x.bytes.length ≤ k) → (s.mtrDone o id).mem.read k = s.mem.read k) ∧
      (s.mtrDone o id).cores = s.cores := by
  rw [mtrDone_frame hx]
  exact ⟨rfl, fun j hj => slot_read _ _ _ _ hj, fun k hk => slot_read_out _ _ _ _ le_rfl hk, rfl⟩

/-! ### Write-backs (08 R169) -/

theorem leBytes_ofBytes (l : List Byte) : leBytes l.length (ofBytes l) = l := by
  induction l with
  | nil => rfl
  | cons b l ih =>
    have hb := b.isLt
    have hhead : BitVec.ofNat 8 (b.toNat + 256 * ofBytes l) = b := by
      apply BitVec.eq_of_toNat_eq
      rw [BitVec.toNat_ofNat]
      omega
    rw [List.length_cons, leBytes, ofBytes, hhead, show (b.toNat + 256 * ofBytes l) / 256 = ofBytes l by omega, ih]

theorem leBytes_readLe (m : Memory) (key : Nat) {n b : Nat} (hb : b < n) :
    (leBytes n (m.readLe key n)).getD b 0 = m.read (key + b) := by
  have h := leBytes_ofBytes (m.readN key n)
  rw [Memory.length_readN] at h
  rw [Memory.readLe, h, Memory.readN_getD _ _ hb]

/-- The bytes of an FP32 slot go out as they are. -/
theorem fp32_bytes (hok : s.memOk) (a : Nat) {j : Nat} (hj : j < 65536) :
    ((s.accVals o a).map fun v => leBytes 4 v.toNat).flatten.getD j 0 = s.mem.read (Spec.accAt o a j) := by
  have hlen : (s.accVals o a).length = 16384 := by
    rw [State.accVals, List.length_map, Memory.block_eq_readN hok,
      chunks_eq_map 0 (show 0 < 4 by decide) (k := 16384) (Memory.length_readN ..), List.length_map, List.length_range]
  obtain ⟨e, b, hb, rfl⟩ : ∃ e b, b < 4 ∧ j = 4 * e + b := ⟨j / 4, j % 4, by omega, by omega⟩
  have hlt : s.mem.readLe (Spec.accAt o a (4 * e)) 4 < 2 ^ 32 := (s.mem.readLe_lt ..).trans_eq (by norm_num)
  rw [getD_flatten_leBytes _ (0 : BitVec 32) (by omega) hb, accVals_getD hok _ (by omega), toNat_ofNat_of_lt hlt,
    leBytes_readLe _ _ hb, accAt_add]

theorem mwbBytes_fp32 {k : Acc} (h : k.fmt = 6) (seed : Word) (strm : BitVec 16) (bx : Nat) (vals : List (BitVec 32)) :
    mwbBytes k seed strm bx vals = (vals.map fun v => leBytes 4 v.toNat).flatten := by
  simp only [mwbBytes, h]

/-- The state after a snapshot `b` of slot `a` that is not poisoned, before its output is on the agenda. -/
def State.snapped (s : State) (o a : Nat) (rel : Bool) (b : WriteBack) : State :=
  let u := (s.accLogged o a).modOctet o fun k => { k with backs := k.backs ++ [b] }
  if rel then u.post (s.ccyc + 1) 6 (.accZero o a none) else u

theorem snapped_mem (a : Nat) (rel : Bool) (b : WriteBack) : (s.snapped o a rel b).mem = s.mem := by
  cases rel <;> rfl

theorem snapped_ccyc (a : Nat) (rel : Bool) (b : WriteBack) : (s.snapped o a rel b).ccyc = s.ccyc := by
  cases rel <;> rfl

theorem snapped_backs (a : Nat) (rel : Bool) (b : WriteBack) :
    ((s.snapped o a rel b).octet o).backs = (s.octet o).backs ++ [b] := by
  have h : ((s.accLogged o a).modOctet o fun k => { k with backs := k.backs ++ [b] }).octet o =
      { s.octet o with backs := (s.octet o).backs ++ [b] } := State.modOctet_octet_self ..
  cases rel <;> exact congrArg Octet.backs h

/-- The snapshot of a slot (08 R169). -/
def State.snapshot (s : State) (o id c : Nat) (h : Half) (a : Nat) (seed : Word) (strm : BitVec 16) (bx : Nat) :
    WriteBack :=
  { id := id, core := c, half := h, bytes := mwbBytes (vget Acc.init (s.octet o).accs a) seed strm bx (s.accVals o a),
    poisonWords := [] }

theorem mwbSnap_clean (c : Nat) (h : Half) {a : Nat} (key : Nat) (rel : Bool) (seed : Word) (strm : BitVec 16)
    (bx : Nat)
    (hpoison : (vget Acc.init (s.octet o).accs a).poison = false)
    (hecc : poisoned s.ecc (Spec.accAt o a 0) 0x10000 = false) : s.mwbSnap o id c h a key rel seed strm bx =
      (s.snapped o a rel (s.snapshot o id c h a seed strm bx)).postTie (s.ccyc + 23) 4 (engineTie (s.ccyc - 1) c)
        (.mwbLand o id key 0) := by
  have hread : s.readAcc o a = s.accLogged o a := by rw [readAcc_eq, hecc]; rfl
  have hclean : (((s.accLogged o a).octet o).acc a).poison = false := hpoison
  unfold State.mwbSnap
  simp only [hread, hclean, Bool.false_eq_true, if_false]
  cases rel <;> rfl

theorem mwbSnap_results (c : Nat) (h : Half) (a key : Nat) (rel : Bool) (seed : Word) (strm : BitVec 16) (bx : Nat)
    (hpoison : (vget Acc.init (s.octet o).accs a).poison = false)
    (hecc : poisoned s.ecc (Spec.accAt o a 0) 0x10000 = false) :
    ∃ b, (s.mwbSnap o id c h a key rel seed strm bx).mem = s.mem ∧
      ((s.mwbSnap o id c h a key rel seed strm bx).octet o).backs = (s.octet o).backs ++ [b] ∧ b.id = id ∧
      b.poisonWords = [] ∧ ((vget Acc.init (s.octet o).accs a).fmt = 6 → s.memOk → ∀ j < 65536,
        b.bytes.getD j 0 = s.mem.read (Spec.accAt o a j)) ∧
      (∃ k, ⟨s.ccyc + 23, 4, k, .mwbLand o id key 0⟩ ∈ (s.mwbSnap o id c h a key rel seed strm bx).agenda) ∧
      (rel = true → ∃ k, ⟨s.ccyc + 1, 6, k, .accZero o a none⟩ ∈
        (s.mwbSnap o id c h a key rel seed strm bx).agenda) := by
  rw [mwbSnap_clean c h key rel seed strm bx hpoison hecc]
  refine ⟨s.snapshot o id c h a seed strm bx, snapped_mem .., snapped_backs .., rfl, rfl, fun hfmt hok j hj => ?_,
    ⟨_, mem_agendaInsert_self ..⟩, fun hrel => ⟨s.seq, mem_agendaInsert_of_mem _ ?_⟩⟩
  · rw [State.snapshot, mwbBytes_fp32 hfmt, fp32_bytes hok a hj]
  · rw [State.snapped, hrel]
    exact mem_agendaInsert_self ..

/-! ### The output of a write-back -/

/-- Nothing but memory, its checks, the cores' window registers and the log changes. -/
def State.byEngine (s t : State) : Prop := t = { s with mem := t.mem, ecc := t.ecc, cores := t.cores, dev := t.dev }

theorem State.byEngine_trans {s t u : State} (h : s.byEngine t) (h' : t.byEngine u) : s.byEngine u := by
  unfold State.byEngine at *
  rw [h'] at *
  rw [h]

theorem byEngine_write64 (s : State) (key : Nat) (w : Word) (bad : Bool) :
    s.byEngine (if bad then (s.write64 key w).markPoison key else s.write64 key w) := by
  obtain ⟨ecc, log, h⟩ := s.write_eq key (leBytes 8 w.toNat)
  rw [State.write64, h]
  split <;> rfl

theorem byEngine_putWord (s : State) (p : Nat) (w : Word) (bad : Bool) : s.byEngine (s.putWord p w bad) := by
  unfold State.putWord State.setImageWord
  split
  · dsimp only
    split
    · rfl
    · exact byEngine_write64 ..
  · exact byEngine_write64 ..

theorem byEngine_engineWrite (s : State) (b p : Nat) (bs : List Byte) (poison : List Nat) :
    s.byEngine (s.engineWrite b p bs poison) :=
  foldl_keeps s.byEngine _ (fun _ _ h => State.byEngine_trans h (byEngine_putWord ..)) _ _ rfl

theorem mwbLand_last {b : WriteBack} (key beat : Nat) (hb : (s.octet o).backs.find? (·.id == id) = some b)
    (hlen : b.bytes.length ≤ 256) : s.mwbLand o id key beat =
      (s.engineWrite (s.bindOf b.core) (key + 256 * beat) (b.bytes.take 256) b.poisonWords).modOctet o fun k =>
        { k with backs := k.backs.filter (·.id != id) } := by
  have hrest : (b.bytes.drop 256).isEmpty = true := by simpa using hlen
  unfold State.mwbLand
  simp only [hb, hrest, if_true]

theorem mwbLand_more {b : WriteBack} (key beat : Nat) (hb : (s.octet o).backs.find? (·.id == id) = some b)
    (hlen : 256 < b.bytes.length) : s.mwbLand o id key beat =
      ((s.engineWrite (s.bindOf b.core) (key + 256 * beat) (b.bytes.take 256) b.poisonWords).modOctet o fun k =>
        { k with backs := k.backs.map fun q => if q.id = id then { q with bytes := b.bytes.drop 256 } else q }).postTie
          (s.ccyc + 1) 4 (engineTie (s.ccyc - 24 - beat) b.core) (.mwbLand o id key (beat + 1)) := by
  have hrest : (b.bytes.drop 256).isEmpty = false := by simpa using hlen
  have hccyc : (s.engineWrite (s.bindOf b.core) (key + 256 * beat) (b.bytes.take 256) b.poisonWords).ccyc = s.ccyc := by
    rw [byEngine_engineWrite]
  unfold State.mwbLand
  simp only [hb, hrest, Bool.false_eq_true, if_false, State.modOctet_ccyc, hccyc]

theorem mwbLand_results {b : WriteBack} (key beat : Nat) (hb : (s.octet o).backs = [b]) (hid : b.id = id) :
    (s.mwbLand o id key beat).mem =
        (s.engineWrite (s.bindOf b.core) (key + 256 * beat) (b.bytes.take 256) b.poisonWords).mem ∧
      (b.bytes.length ≤ 256 → ((s.mwbLand o id key beat).octet o).backs = [] ∧
        (s.mwbLand o id key beat).agenda = s.agenda) ∧
      (256 < b.bytes.length → ((s.mwbLand o id key beat).octet o).backs = [{ b with bytes := b.bytes.drop 256 }] ∧
        ∃ k, ⟨s.ccyc + 1, 4, k, .mwbLand o id key (beat + 1)⟩ ∈ (s.mwbLand o id key beat).agenda) := by
  have hfind : (s.octet o).backs.find? (·.id == id) = some b := by simp [hb, hid]
  have hengine := byEngine_engineWrite s (s.bindOf b.core) (key + 256 * beat) (b.bytes.take 256) b.poisonWords
  have hbacks : ((s.engineWrite (s.bindOf b.core) (key + 256 * beat) (b.bytes.take 256) b.poisonWords).octet o).backs =
      [b] := by
    rw [hengine]
    exact hb
  obtain hlen | hlen := le_or_gt b.bytes.length 256
  · rw [mwbLand_last key beat hfind hlen]
    refine ⟨State.modOctet_mem .., fun _ => ⟨?_, ?_⟩, fun h => absurd hlen (by omega)⟩
    · rw [State.modOctet_octet_self]
      simp [hbacks, hid]
    · rw [State.modOctet_agenda, hengine]
  · rw [mwbLand_more key beat hfind hlen]
    refine ⟨?_, fun h => absurd hlen (by omega), fun _ => ⟨?_, _, mem_agendaInsert_self ..⟩⟩
    · rw [State.postTie_mem, State.modOctet_mem]
    · rw [State.postTie_octet, State.modOctet_octet_self]
      simp [hbacks, hid]

end

/-! ### The statement -/

theorem matrixTransfers : Spec.matrixTransfers := by
  intro s e rest o id ha hd
  refine ⟨fun c src left f he hf hid => ?_, fun f he hf => ?_, fun c src dst he hp => ?_, fun x he hx => ?_,
    fun c h a key rel seed strm bx he hpoison hecc => ?_, fun key beat b he hb hid => ?_⟩
  · obtain ⟨g, h⟩ := fillRead_results (s := { s with agenda := rest }) hf hid c src left
    rw [engineRead_agenda] at h
    exact ⟨_, g, exec_event ha hd he rfl rfl, h⟩
  · exact ⟨_, exec_event ha hd he rfl rfl,
      fillDone_results (s := { s with agenda := rest }) hf⟩
  · obtain ⟨x, h⟩ := mtrRead_results (s := { s with agenda := rest }) (id := id) c src dst hp
    exact ⟨_, x, exec_event ha hd he rfl rfl, h⟩
  · exact ⟨_, exec_event ha hd he rfl rfl,
      mtrDone_results (s := { s with agenda := rest }) hx⟩
  · obtain ⟨b, h⟩ := mwbSnap_results (s := { s with agenda := rest }) (id := id) c h a key rel seed strm bx hpoison hecc
    exact ⟨_, b, exec_event ha hd he rfl rfl, h⟩
  · exact ⟨_, exec_event ha hd he rfl rfl,
      mwbLand_results (s := { s with agenda := rest }) key beat hb hid⟩

/-- Settles O27: the sequencer's events, and the transfers under way, event by event. -/
theorem matrixUnitEvents : Obligations.MatrixUnitEvents := ⟨matrixSteps, matrixTransfers⟩

end Sys2Proof.Machine
end
